-- ==== Sys2Proof/Word.lean ====
section
/-! DEFINITION. The byte type, sparse tables of plain data, and the identities of those who access the block. -/

namespace Sys2Proof

/-- One byte. -/
abbrev Byte := BitVec 8

/-- A sparse table: pairs of an index and a value, indices strictly rising. An unlisted index holds the default that the reader of the table names. -/
abbrev Tab (α : Type) := List (Nat × α)

/-- Who makes a register access or owns a mailbox or key slot (13 R396, Table 13.22). -/
inductive Who where
  /-- Host software, through BAR0. -/
  | host
  /-- The BMC, through I3C. -/
  | bmc
  /-- Suilanil firmware. -/
  | fw
  deriving DecidableEq, Repr

end Sys2Proof
end

