-- ==== Sys2Proof/Syntax.lean ====
section
/-! DEFINITION. The commands of the block: one constructor per row of spec/opcode_table.json, with the row's operands. Operands are what comes from outside the device: a port, the bytes of a frame, a measured quantity, the mailbox whose command firmware executes. -/

namespace Sys2Proof

/-- The memories with spare rows (17 R507). -/
inductive MemKind where
  | table | meter | counter | buffer | link
  deriving DecidableEq, Repr

/-- A failing row: memory, cluster or section, bank, row, and the uncorrectable 16-byte words of the row (17 R507, R508). -/
structure FailRow where
  mem : MemKind
  unit : Nat
  bank : Nat
  row : Nat
  bad : List Nat
  deriving DecidableEq, Repr

/-- What the table banks do to one run of a pipeline: stall cycles of each stage's key, and the stages whose refresh found the stamp queue full (06 R149, R162; 11 Table 11.7). -/
structure BankIn where
  stalls : List Nat := []
  full : List Nat := []
  deriving DecidableEq, Repr

/-- What a trick takes from outside the device. -/
structure TrickIn where
  /-- How far the 1 GHz time clock runs in one core cycle, in units of 2^-40 ns. -/
  rate : Nat
  /-- Per-trick jobs, in the row order of Table 2.2, that a hardware fault kept from finishing before this boundary (02 R52). -/
  late : List Nat
  /-- Sampled input voltage, mV (16 R472). -/
  vin : Nat
  /-- Sampled input current, mA (16 R472). -/
  iin : Nat
  /-- Sampled rails in the order of Table 16.1: mV and mW (16 R472). -/
  rails : List (Nat × Nat)
  /-- The temperature sensors, 1/16 degree C (16 R485). -/
  temps : List Int
  /-- FEC corrections since the last boundary: lane, codewords, symbols (04 R102, R109). -/
  fec : List (Nat × Nat × Nat)
  /-- Rows whose reads were corrected since the last boundary, with the cycles that corrected one (06 R177; 08 R248; 17 R507). -/
  corrected : List (FailRow × Nat) := []
  /-- Cycles in which a table bank stalled its cluster since the last boundary: cluster, bank, cycles (06 R149). -/
  stalled : List (Nat × Nat × Nat) := []
  /-- SKIP blocks that the rate matcher of a stack link deleted and repeated since the last boundary: port, deleted, repeated (12 R368). -/
  skips : List (Nat × Nat × Nat) := []
  /-- Core cycles of the trick that ends in which the level of a watch counter passed its test: counter, cycles (11 R350). -/
  passed : List (Nat × Nat) := []
  deriving DecidableEq, Repr

/-- What the receiver's LMS loops hold at the end of a window (03 R70). -/
structure Adapt where
  ffe : List Int
  dfe : Int
  levels : List Int
  deriving DecidableEq, Repr

/-- What a pulse-echo measurement found (03 R79, R80). -/
structure EchoIn where
  /-- Round trip in ps from the reference plane. -/
  roundTrip : Nat
  /-- The strongest reflection is positive. -/
  positive : Bool
  /-- A reflection beyond the connector exceeded the threshold. -/
  found : Bool
  /-- A partner signal was present. -/
  disturbed : Bool
  deriving DecidableEq, Repr

/-- What the partner's pages offered for this width (04 R104, R105). -/
structure PartnerIn where
  basePage : BitVec 48
  /-- The IEEE PHY at 100G per lane is common to both ends. -/
  ieee100 : Bool
  /-- The IEEE PHY at 200G per lane is offered by the partner. -/
  ieee200 : Bool
  /-- The partner's ability payload of Table 4.5, when it sent the page. -/
  ability : Option (BitVec 32)
  deriving DecidableEq, Repr

/-- Why an UP port leaves UP (04 Table 4.7, R558). -/
inductive DownEvent where
  | signalLost | lockLost | alignLost | refLost | localFault | remoteFault
  deriving DecidableEq, Repr

/-- A coefficient request of IEEE 802.3 link training (04 R103). -/
inductive CoeffReq where
  | increment | decrement | initialise | preset
  deriving DecidableEq, Repr

/-- The triggers of the emergency shed (16 R492, R470, Table 16.5). -/
inductive ShedTrigger where
  | vinLow | pwrFail | inputLimit | thermal
  deriving DecidableEq, Repr

/-- A unit that moves between rungs: a domain of Table 16.3 or one lane (16 R475, 03 R82). -/
inductive RungUnit where
  | domain (n : Nat)
  | lane (n : Nat)
  deriving DecidableEq, Repr

/-- The AUTHENTICATION TLV of a PTP message (10 R314). -/
structure PtpTlv where
  spp : Nat
  keyId : Nat
  icv : List Byte
  /-- The TLV indicates delayed processing. -/
  delayed : Bool
  deriving DecidableEq, Repr

/-- A PTP message as firmware reads it (10 R292, R313, R314). -/
structure PtpIn where
  domain : Nat
  port : Nat
  /-- messageType: 0 Sync, 1 Delay_Req, 2 Pdelay_Req, 3 Pdelay_Resp, 8 Follow_Up, 9 Delay_Resp, 10 Pdelay_Resp_Follow_Up, 11 Announce. -/
  msgType : Nat
  clockId : Nat
  portNum : Nat
  /-- sequenceId. -/
  seq : Nat := 0
  /-- twoStepFlag. -/
  twoStep : Bool := false
  /-- correctionField, 2^-16 ns. -/
  corr : Int := 0
  /-- The timestamp that the body carries, 2^-16 ns since the epoch. -/
  body : Nat := 0
  /-- The message answers a request of this device: requestingPortIdentity. -/
  mine : Bool := false
  /-- Of an Announce: grandmasterPriority1, clockQuality, grandmasterPriority2, grandmasterIdentity and stepsRemoved as one number, in the order in which BMCA compares them. -/
  quality : Nat := 0
  /-- When it crossed the land, 1/16 ns after the last boundary, and the lane that carried its delimiter's block (10 R287). -/
  ph : Nat := 0
  ln : Nat := 0
  tlv : Option PtpTlv
  /-- The bytes the ICV covers, correctionField taken as zero. -/
  covered : List Byte
  /-- GMAC IV of the message. -/
  iv : BitVec 96
  deriving DecidableEq, Repr

/-- One I3C private transfer to the target (13 R396, 19 R550). -/
structure I3cIn where
  /-- The 2-byte offset, when the transfer carries one. -/
  offset : Option Nat
  /-- Bytes written after the offset. -/
  wr : List Byte
  /-- Bytes read. -/
  rd : Nat
  /-- Time since the last trick boundary, 1/16 ns. -/
  ph : Nat
  deriving DecidableEq, Repr

/-- When a frame's delimiter crossed the land, 1/16 ns after the last boundary, and the lane of the port that carried its block (10 R287). -/
structure Crossing where
  ph : Nat
  ln : Nat
  deriving DecidableEq, Repr

/-- A CONTROL frame as it arrived: header and body, and its delimiter's crossing. -/
structure ControlFrame where
  bytes : List Byte
  at_ : Crossing
  deriving DecidableEq, Repr

/-- What the host link trains with: CXL or PCIe, and the Resizable BAR size that the system gives BAR2, 2^bar GiB (14 R423, R426). -/
structure LinkTrain where
  cxl : Bool
  bar : Nat
  deriving DecidableEq, Repr

/-- Symbols y that a lane received; the bits of the second of them stand at bit at_ of all that it received (04 R99, R100). -/
structure CommaIn where
  at_ : Nat
  ys : List (BitVec 2)
  deriving DecidableEq, Repr

/-- The commands. One constructor per row of the table of operations and events. -/
inductive Instr where
  | trickBoundary (i : TrickIn)
  | sprintClockChange
  | frameReceive (port len : Nat) (data : List Byte) (last fcsOk : Bool) (at_ : Crossing)
  | pfcReceive (port : Nat) (vec : BitVec 16) (times : List Nat)
  | pauseReceive (port time : Nat)
  | pauseTimerExpiry (port pri : Nat)
  | slotIssue (port : Nat) (banks : BankIn)
  | pfcRefresh (port pri : Nat)
  | replication (group : Nat)
  | frameLastByte (port : Nat) (rest : List Byte) (fcsOk : Bool)
  /-- The crossing is that of the delimiter of the frame selected, as it leaves (10 R295). -/
  | schedulerSelect (port : Nat) (at_ : Crossing) (banks : BankIn)
  | transmitEnd (port : Nat)
  | chainFree (req addr : Nat)
  | queueHoldExpiry (port : Nat)
  | freeListRebuildEnd (sec : Nat)
  | learnExecute (tc : Nat)
  | tableEngineOp (tc : Nat)
  | agerVisit (tc : Nat)
  | ageDeleteExecute (tc : Nat)
  | notificationForward (tc : Nat)
  | rowRepair (f : FailRow)
  | eyeWindowEnd (lane : Nat) (hist : List Nat) (a : Adapt)
  | laneCdrLock (lane : Nat) (offset : Int)
  | laneSignalLoss (lane : Nat) (signal : Bool)
  | echoMeasureEnd (lane : Nat) (e : EchoIn)
  | negotiationResolved (port : Nat) (p : PartnerIn)
  | trainingComplete (port : Nat)
  | trainingTimeout (port : Nat)
  | portAligned (port skew : Nat)
  | alignTimeout (port : Nat) (localFault remoteFault : Bool) (skew : Nat)
  | linkDown (port : Nat) (e : DownEvent)
  | portPark (port : Nat)
  | portProbe (port : Nat)
  | parkedSignal (port : Nat)
  | fecUncorrectable (lane : Nat)
  | stormEnter (port pri : Nat)
  | stormExit (port pri : Nat)
  | lldpTx (port : Nat)
  | lldpduReceive (port : Nat) (pdu : List Byte)
  | lldpTtlExpiry (port : Nat)
  | esmcTx (port : Nat) (event : Bool)
  | synceOutResume (out : Nat)
  | refclkLoss (ref : Nat)
  | refclkReturn (ref : Nat)
  | timeDomainSrcLost (dom : Nat)
  | ppsEdge (ph : Nat) (narrow : Bool)
  | tpioCapture (pin : Nat) (rising : Bool) (ph : Nat) (narrow : Bool)
  | tpioOneShotFire (pin ph : Nat)
  | tpioPeriodicEdge (pin ph : Nat)
  | ptpMessageReceive (m : PtpIn)
  | heartbeatReceive (port : Nat) (frame : List Byte) (at_ : Crossing)
  | stackLinkMiss (port : Nat)
  | stackMemberExpiry (level path : Nat)
  | controlFrameReceive (port : Nat) (frame : ControlFrame)
  | controlResend (seq : Nat)
  | issueRateChange (rate : Nat)
  | limiterEngage (iin : Nat)
  | limiterRelease
  | inputLimitShed
  | emergencyShed (t : ShedTrigger)
  | emergencyShedEnd
  | thermalTrip (tj : Int)
  | vinLoss (vin : Nat)
  | rungExitComplete (u : RungUnit)
  | octetRampBatch
  | flashStore (erase : Bool)
  | trendPeriodClose (counts : List Nat)
  | irqModTimeout (v : Nat)
  | msixUnmask (v : Nat)
  | conversionStart (vin : Nat)
  | bootRomStart
  | fwStartTimeout
  | readyRise (failing : List FailRow)
  /-- The link trains, or the system sizes BAR2 again. -/
  | hostLinkTrain (link : LinkTrain)
  | perstAssert (us : Nat)
  | perstDeassert
  | fwWatchdogExpiry
  | hostPowerState (d0 : Bool)
  /-- A host access at an offset of the HDM range or of BAR2, of the bytes written or of rd bytes read; bad says that the line is uncorrectable (17 R509). -/
  | hostDevmemAccess (addr : Nat) (wr : List Byte) (rd : Nat) (bad : Bool)
  | mbMessageWrite (who : Who) (mb off : Nat) (data : List Byte)
  | mbDoorbell (who : Who) (mb : Nat)
  | mbAbort (who : Who) (mb : Nat)
  | commandComplete (mb : Nat)
  | laneClassSet (mb : Nat)
  | laneStatusGet (mb : Nat)
  | laneEchoMeasure (mb : Nat)
  | laneAdaptCtl (mb : Nat)
  | portConfig (mb : Nat)
  | portStatusGet (mb : Nat)
  | portPartnerGet (mb : Nat)
  | portGuardSet (mb : Nat)
  | synceSet (mb : Nat)
  | parserPortSet (mb : Nat)
  | parserGroupSet (mb : Nat)
  | tableCreate (mb : Nat)
  | tableLadderSet (mb : Nat)
  | tableOp (mb : Nat)
  | tableStatusGet (mb : Nat)
  | meterSet (mb : Nat)
  | meterGet (mb : Nat)
  | excSet (mb : Nat)
  | queueSet (mb : Nat)
  | portBufSet (mb : Nat)
  | bufGlobalSet (mb : Nat)
  | bufSectionSet (mb : Nat)
  | mcastSet (mb : Nat)
  | bufStatusGet (mb : Nat)
  | queueStatusGet (mb : Nat)
  | portBufStatusGet (mb : Nat)
  | schedPortSet (mb : Nat)
  | schedQueueSet (mb : Nat)
  | shaperSet (mb : Nat)
  | shaperGet (mb : Nat)
  | schedStatusGet (mb : Nat)
  | timeSet (mb : Nat)
  | timePortSet (mb : Nat)
  | timeDomainSet (mb : Nat)
  | timeGlobalSet (mb : Nat)
  | timeSelect (mb : Nat)
  | timeStatusGet (mb : Nat)
  | timeMasterListSet (mb : Nat)
  | timeAuthSet (mb : Nat)
  | telemMemSet (mb : Nat)
  | flowGlobalSet (mb : Nat)
  | flowProfileSet (mb : Nat)
  | dumpSet (mb : Nat)
  | watchSet (mb : Nat)
  | sampleSet (mb : Nat)
  | ioamSet (mb : Nat)
  | stackConfig (mb : Nat)
  | stackLinkSet (mb : Nat)
  | stackRouteSet (mb : Nat)
  | stackMemberSet (mb : Nat)
  | stackStatusGet (mb : Nat)
  | stackLinkStatusGet (mb : Nat)
  | stackEpisodesGet (mb : Nat)
  | deviceInfoGet (mb : Nat)
  | unitStatusGet (mb : Nat)
  | unitCountersGet (mb : Nat)
  | unitRungSet (mb : Nat)
  | unitFaultGet (mb : Nat)
  | imageWrite (mb : Nat)
  | imageStatusGet (mb : Nat)
  | fwPatchApply (mb : Nat)
  | ucStage (mb : Nat)
  | ucStagingEnd
  | ucCommit (mb : Nat)
  | ucRollback (mb : Nat)
  | pwrCapSet (mb : Nat)
  | pwrShedSet (mb : Nat)
  | pwrDomainSet (mb : Nat)
  | pwrStatusGet (mb : Nat)
  | pwrAgeLogGet (mb : Nat)
  | fltSourceSet (mb : Nat)
  | fltStatusGet (mb : Nat)
  | fltClear (mb : Nat)
  | fltTestChallengeGet (mb : Nat)
  | fltTestUnlock (mb : Nat)
  | fltTestLock (mb : Nat)
  | testFaultInject (mb : Nat)
  | boardTableWrite (mb : Nat)
  | boardTableGet (mb : Nat)
  | registerWrite (who : Who) (addr width : Nat) (value : BitVec 64)
  | rcRegisterRead (who : Who) (addr width : Nat)
  | trickCounterLatchRead (who : Who) (addr width : Nat)
  | fixedFreqSet (who : Who) (on : Bool)
  | timeNowRead (who : Who) (addr width ph : Nat)
  | tsqEntryLatch (who : Who) (width : Nat)
  | tsqEntryPop (who : Who) (width : Nat)
  | timeSampleWrite (who : Who) (dom width : Nat) (value : BitVec 64)
  | tpioModeWrite (who : Who) (pin : Nat) (value : BitVec 32)
  | tpioCapLatch (who : Who) (pin : Nat)
  | tpioCapPop (who : Who) (pin : Nat)
  | pwrEnergyRead (who : Who) (addr width : Nat)
  | tableWindowWrite (who : Who) (addr width : Nat) (value : BitVec 64)
  | tblWinCtlWrite (who : Who) (win : Nat) (value : BitVec 32)
  | fltStickyClear (who : Who) (k : Nat) (value : BitVec 64)
  | fltSevereClear (who : Who) (k : Nat) (value : BitVec 64)
  | ciphTake (who : Who)
  | ciphRelease (who : Who)
  | ciphLeaseExpiry
  | ciphGo (who : Who) (value : BitVec 32)
  | ciphDone
  | ciphKeyLoad (who : Who) (slot : Nat)
  | ciphKeyClear (who : Who) (slot : Nat)
  | ringEnable (ring : Nat) (value : BitVec 32)
  | ringDisable (ring : Nat) (value : BitVec 32)
  /-- Host software has stored bytes; err is a host address whose line reads with an error (14 Table 14.5). -/
  | sqDoorbell (ring : Nat) (host : List (Nat × Byte)) (err : Option Nat)
  | sqStakeWaitEnd (ring : Nat)
  | ringHostIdxWrite (ring : Nat) (value : Nat)
  | cqHoldDrain (ring : Nat)
  | rxHoldDrain (ring : Nat)
  | dmaStart (ch : Nat) (host : List (Nat × Byte))
  | dmaAbort (ch : Nat)
  | dmaDoorbell (ch : Nat) (host : List (Nat × Byte))
  /-- In the rows of the channel's instructions err tells what completes with an error (15 R459): 0 the fetch, 2k + 1 the k-th 64-byte line of the source, 2k + 2 that of the destination. -/
  | dmaEnd (ch : Nat) (err : Option Nat)
  | dmaMove (ch : Nat) (err : Option Nat)
  | dmaMoveCrc (ch : Nat) (err : Option Nat)
  | dmaFill (ch : Nat) (err : Option Nat)
  | dmaCompare (ch : Nat) (err : Option Nat)
  | dmaLoop (ch : Nat) (err : Option Nat)
  | dmaWait (ch : Nat) (err : Option Nat)
  | dmaWaitEnd (ch : Nat)
  | dmaSignal (ch : Nat) (err : Option Nat)
  | dmaJump (ch : Nat) (err : Option Nat)
  | dmaStallEnd (ch : Nat)
  | i3cPrivateTransfer (t : I3cIn)
  | i3cCcc (code : Nat) (arg : List Byte)
  | jtagBypass
  | jtagIdcode
  | jtagSamplePreload (pins : BitVec 32) (load : BitVec 32)
  | jtagExtest
  | jtagClamp
  | jtagHighz
  | commaReceive (lane : Nat) (rx : CommaIn)
  | trainingCoeffRequest (lane : Nat) (r : CoeffReq)
  | ptpMessageTx (dom port msgType : Nat) (msg : List Byte)
  | switchoverSlewEnd
  | rungEntryComplete (u : RungUnit)
  | flashStoreEnd (ok : Bool)
  | fwRunningSet
  | timePllLock
  /-- The lowest sensor, 1/16 degree C. -/
  | startTemperatureReached (tmin : Int)
  | registerReadError (who : Who) (addr width : Nat)
  deriving DecidableEq, Repr

end Sys2Proof
end

