-- ==== Sys2Proof/Machine/State.lean ====
section
/-! DEFINITION. The whole state of the block as plain data: every register, queue, counter, table, memory and pin that the spec names, the commands that are waiting, and the state right after reset. Field defaults are the reset values. -/

namespace Sys2Proof.Machine

/-- Bytes by address: addresses strictly rising, no listed byte zero. An unlisted byte reads zero. -/
abbrev Mem := List Host.Cell

/-- Why a command ends the run. No command of this block does: the spec gives an effect to each. -/
inductive Fault where
  /-- Raised by no meaning; a closed reason type must have a constructor. Safe: nothing stops with it. -/
  | none
  deriving DecidableEq, Repr

/-- Why a command is refused. -/
inductive Refusal where
  /-- Raised by an arm of exec whose meaning is not written. Safe: the run stops. -/
  | notModelled (mnemonic : String)
  deriving DecidableEq, Repr

/-- Fused identity (00 R7; 13 Table 13.13; 14 Table 14.3). -/
structure Ident where
  /-- The device is an N2048-H (00 R1). -/
  half : Bool := false
  stepping : Nat := 1
  metal : Nat := 0
  deriving DecidableEq, Repr

/-- States of the trick generator (02 Table 2.1). -/
inductive GenState where
  | free | locked | slewing
  deriving DecidableEq, Repr

/-- Trick generator (02). -/
structure Trick where
  index : BitVec 64 := 0
  count : BitVec 64 := 0
  gen : GenState := .free
  /-- The current trick runs at 1.875 GHz. -/
  sprint : Bool := false
  fixedActive : Bool := false
  overrun : Bool := false
  clamped : Bool := false
  stepBack : Bool := false
  stepped : Bool := false
  irqStep : Bool := false
  irqRubber : Bool := false
  irqHand : Bool := false
  fixedFreq : Bool := false
  /-- e of the last boundary, 1/16 ns. -/
  phase : Int := 0
  lenMax : Nat := 0
  lenLast : Nat := 0
  overrunCnt : BitVec 32 := 0
  /-- High half of TRICK_INDEX latched for host and BMC (02 R57). -/
  latIndex : Tab (BitVec 32) := []
  latCount : Tab (BitVec 32) := []
  /-- Device time was stepped since the last boundary (02 R49). -/
  stepNow : Bool := false
  /-- Core cycles by which the per-trick jobs that overran run on into the current trick, by job (02 R52). -/
  carry : Tab Nat := []
  /-- Trick counts at which the last stepped, slewing and time-invalid tricks opened, plus one (11 R328). -/
  lastStepped : Nat := 0
  lastSlewing : Nat := 0
  lastInvalid : Nat := 0
  deriving DecidableEq, Repr

/-- Clock change wanted by the power manager (16 R483, 02 R54). -/
inductive ClockPlan where
  | none
  /-- Rails are up; the clock changes at the boundary with this trick count. -/
  | enter (at_ : Nat)
  /-- Sprint left; rails 0 to 2 fall at the boundary with this trick count. -/
  | rails (at_ : Nat)
  deriving DecidableEq, Repr

/-- Initial adaptation in progress (03 R73): windows done, best eye figure and its CTLE code. -/
structure InitAdapt where
  done : Nat := 0
  best : Nat := 0
  code : Nat := 0
  deriving DecidableEq, Repr

/-- A CTLE trial (03 R74): code before it, eye figure before it. -/
structure Trial where
  prev : Nat
  before : Nat
  deriving DecidableEq, Repr

/-- The stored copy of a lane's adaptation (03 R84). -/
structure Stored where
  ctle : Nat
  adapt : Adapt
  deriving DecidableEq, Repr

/-- A pulse-echo measurement in progress (03 R78): averaging exponent, mailbox of the command. While it stands the lane's own request is Run. -/
structure Echo where
  avg : Nat
  mb : Nat
  deriving DecidableEq, Repr

/-- Comma lock of an N-400 lane (04 R99 to R101). -/
structure Comma where
  locked : Bool := false
  hits : Nat := 0
  misses : Nat := 0
  /-- Where the last comma stood, or was expected, in bits received, and its PHASE. -/
  bit : Nat := 0
  step : Nat := 0
  /-- Where codewords begin, in bits received modulo the 5,440 of a codeword (04 R99). -/
  cw : Nat := 0
  phase : Nat := 0
  period : Nat := 0
  /-- LANE: the position of the sender's lane in its port. -/
  place : Nat := 0
  width : Nat := 0
  rxOk : Bool := false
  degrade : Bool := false
  deriving DecidableEq, Repr

/-- One trend record (03 Table 3.9). -/
structure TrendRec where
  efMin : Nat
  efMean : Nat
  ctle : Nat
  flags : Nat
  ffeMain : Int
  rubber : Nat
  deriving DecidableEq, Repr

/-- Answers to a partner's coefficient request (04 R103). -/
inductive CoeffAns where
  | maximum | minimum | updated
  deriving DecidableEq, Repr

/-- The device's own requests to the partner in link training (04 R103): how many, the tap and direction of the last, the eye figure before it, and whether the receiver reports ready. -/
structure CoeffAsk where
  count : Nat := 0
  tap : Nat := 0
  up : Bool := true
  before : Nat := 0
  ready : Bool := false
  deriving DecidableEq, Repr

/-- One serial lane (03). -/
structure Lane where
  cls : Nat := 0
  vf : Nat := 720
  useAlt : Bool := false
  /-- Index of the FIR set in force (03 R67); none is 0xFF. -/
  fir : Option Nat := none
  taps : List Int := []
  swing : Nat := 0
  rung : Nat := 5
  req : Nat := 5
  /-- The lane is on its way to `rung` and has not completed entry or exit. -/
  moving : Bool := false
  signal : Bool := false
  cdr : Bool := false
  /-- Electrically ready since the port's entry to ALIGNING (04 R558). -/
  ready : Bool := false
  ctle : Nat := 0
  adapt : Adapt := ⟨[], 0, []⟩
  efLast : Nat := 0
  windows : Nat := 0
  /-- Eye figure of the last completed window, which had a signal (03 R84). -/
  lastWin : Option Nat := none
  frozen : Bool := false
  freezeNext : Bool := false
  restored : Bool := false
  fullReadapt : Bool := false
  init : Option InitAdapt := none
  trial : Option Trial := none
  trialUp : Bool := true
  trialSpan : Nat := 1
  sinceTrial : Nat := 0
  /-- Windows still to run with the stored copy (03 Table 3.8). -/
  restoreLeft : Nat := 0
  /-- The signal or CDR lock was absent at Run since the last lock (03 R73). -/
  wasLost : Bool := true
  stored : Option Stored := none
  /-- Partner frequency offset, 0.1 ppm. -/
  freqOffset : Int := 0
  perMin : Nat := 255
  perSum : Nat := 0
  perN : Nat := 0
  perFull : Bool := false
  trendMin : Nat := 0
  trendMean : Nat := 0
  lowPeriods : Nat := 0
  marginRaised : Bool := false
  trend : List TrendRec := []
  lastChange : Nat := 0
  echo : Option Echo := none
  /-- A move to the alternate set ordered by ageing and not yet in effect (03 R88). -/
  ageMove : Bool := false
  comma : Comma := {}
  symHand : Nat := 0
  fecOver : Bool := false
  coeffAns : Option CoeffAns := none
  ask : CoeffAsk := {}
  /-- Mode in which the lane's circuits last ran; 0 before its first port (03 R73). -/
  mode : Nat := 0
  deriving DecidableEq, Repr

/-- Port link states (04 Table 4.7). -/
inductive LinkState where
  | negotiating | training | aligning | up | dampened | parked
  deriving DecidableEq, Repr

/-- Guard parameters (04 Table 4.13). -/
structure Guard where
  parkDelay : Nat := 1024
  probe : Nat := 64
  parkRung : Nat := 4
  decayShift : Nat := 10
  suppress : Nat := 3000
  reuse : Nat := 750
  storm : Nat := 102400
  fecLimit : Nat := 4096
  deriving DecidableEq, Repr

/-- LLDP neighbour (04 Table 4.12). -/
structure Neighbour where
  chassisSub : Nat
  portSub : Nat
  ttl : Nat
  chassis : List Byte
  portId : List Byte
  /-- Trick count at which it was received. -/
  at_ : Nat
  deriving DecidableEq, Repr

/-- Accounts a frame may be charged to (08 R228). -/
inductive Account where
  | ante | pot | kitty
  deriving DecidableEq, Repr

/-- Time request of a sent frame (10 Table 10.5). -/
inductive TimeReq where
  | none | twoStep | origin | turnaround
  deriving DecidableEq, Repr

/-- Descriptor (08 Table 8.3) with the values of 11 R326 and, for a sent frame, its ring entry's time request. -/
structure Desc where
  head : Nat
  len : Nat
  /-- Cells charged. -/
  n : Nat
  inPort : Nat
  /-- Ingress priority (08 R226). -/
  pri : Nat
  tc : Nat
  colour : Nat
  src : Account
  ce : Bool
  ptp : Bool
  cut : Bool
  bad : Bool
  prov : Bool
  mta : Nat
  admitDepth : Nat
  mcast : Bool
  /-- From requester 32 to 35: no ingress port's accounts move (08 R226). -/
  foreign : Bool := false
  /-- Time request, TAG, PTP_OFF and T2 of a frame from a ring or firmware; the flag says firmware's. -/
  req : TimeReq := .none
  tag : Nat := 0
  ptpOff : Nat := 0
  t2 : Nat := 0
  fromFw : Bool := false
  deriving DecidableEq, Repr

/-- A random early drop profile (08 R240). -/
structure RedProfile where
  min : Nat := 0
  max : Nat := 0
  maxp : Nat := 0
  deriving DecidableEq, Repr

/-- A shaper (09 R266). RATE and CREDIT carry 16 fraction bits. -/
structure Shaper where
  enable : Bool := false
  rate : Nat := 0
  burst : Nat := 16384
  credit : Int := 0
  deriving DecidableEq, Repr

/-- One queue of a port: buffer settings and accounts (08), scheduling settings (09), its descriptors. -/
structure Queue where
  ante : Nat := 0
  hard : Nat := 131072
  alpha : Nat := 8
  ecn : Nat := 0
  priv : Bool := false
  red : List RedProfile := [{}, {}, {}]
  a : Nat := 0
  p : Nat := 0
  k : Nat := 0
  peak : Nat := 0
  descs : List Desc := []
  group : Nat := 0
  weight : Nat := 1
  rxPri : Nat := 255
  deficit : Int := 0
  shaper : Shaper := {}
  /-- A CUT and PROV selection awaits its charge (09 R263). -/
  owed : Bool := false
  deriving DecidableEq, Repr

/-- A scheduling group G0 to G7 (09 Table 9.4). -/
structure SGroup where
  ets : Bool := false
  dwrr : Bool := true
  bw : Nat := 0
  deficit : Int := 0
  shaper : Shaper := {}
  /-- Rotation position of the group's queues (09 R269). -/
  rot : Nat := 0
  deriving DecidableEq, Repr

/-- A MAC control frame waiting at rank 1 (09 R258, R272 to R274): Annex 31B or PFC, priorities, and the time fields. -/
structure MacCtl where
  annex31 : Bool
  vec : BitVec 8
  quanta : List Nat
  deriving DecidableEq, Repr

/-- One stage entry of a sample (11 Table 11.7). -/
structure StageEnt where
  keyed : Bool := false
  hit : Bool := false
  acted : Bool := false
  kind : Nat := 0
  addr : Nat := 0
  slot : Nat := 0
  bucket : Nat := 0
  table : Nat := 0
  stall : Nat := 0
  deriving DecidableEq, Repr

/-- A frame selected and not yet finished transmitting (09 R261). -/
structure Sent where
  queue : Nat
  desc : Desc
  /-- Counted length, 09 R262. -/
  counted : Nat
  /-- The bytes handed to the MAC, with FCS. -/
  wire : List Byte
  /-- Not sent: dropped in egress (09 R265), with the OUTCOME of its sample. -/
  dropped : Bool
  outcome : Nat := 4
  /-- Egress timestamp, 1/16 ns. -/
  ts : Nat
  /-- Egress stage entries for a sample (11 R344). -/
  stages : List StageEnt := []
  deriving DecidableEq, Repr

/-- A frame in ingress staging (01 R24, R32). -/
structure Staged where
  data : List Byte
  len : Nat
  /-- The last byte has arrived. -/
  whole : Bool
  /-- Ingress timestamp, 1/16 ns. -/
  ts : Nat
  /-- Stack header of a frame from a stack link (05 R118). -/
  hdr : Option (List Byte) := none
  deriving DecidableEq, Repr

/-- An exception copy that waits for the last byte of its frame: class, ring, the pipeline's egress port, DISP. -/
structure ExcCopy where
  cls : Nat
  ring : Nat
  outPort : Option Nat
  disp : Nat
  deriving DecidableEq, Repr

/-- A frame issued a slot before its last byte (08 R230). -/
structure Arriving where
  head : Nat
  mta : Nat
  got : Nat
  len : Nat
  copies : List ExcCopy := []
  deriving DecidableEq, Repr

/-- Stack link states (12 Table 12.2). -/
inductive SLink where
  | down | discovering | live | held
  deriving DecidableEq, Repr

/-- A BEST entry (12 Table 12.5). -/
structure Best where
  prio : Nat := 0
  hops : Nat := 0
  levels : Nat := 0
  serial : Nat := 0
  path : Nat := 0
  deriving DecidableEq, Repr

/-- Stack state of a port (12 R366 to R388). -/
structure StackLink where
  enable : Bool := false
  linkSet : Nat := 0
  st : SLink := .down
  cause : Nat := 0
  level : Nat := 0
  peerPace : Nat := 0
  peerPath : Nat := 0
  peerLevels : Nat := 0
  peerSerial : Nat := 0
  peerLocked : Bool := false
  /-- Trick count of the last valid heartbeat, consecutive tricks with one. -/
  lastHb : Nat := 0
  good : Nat := 0
  heard : Bool := false
  rxIndex : Nat := 0
  rxTs : Nat := 0
  best : List Best := []
  dist : Nat := 0
  /-- The last heartbeats sent: low 32 bits of the index, egress timestamp in 1/16 ns. -/
  sentHb : List (Nat × Nat) := []
  sumD : Int := 0
  sumTheta : Int := 0
  nPairs : Nat := 0
  /-- Hand average of d, 2^-16 ns. -/
  delay : Int := 0
  fs : Shaper := { burst := 16384 }
  deriving DecidableEq, Repr

/-- What firmware's peer delay mechanism keeps on a port (10 R292, R322; log entry 92). -/
structure PeerDelay where
  /-- Firmware has sent a Pdelay_Req on the port: the port's MEAN_LINK_DELAY is firmware's own measurement (10 R322). -/
  runs : Bool := false
  /-- A two-step Pdelay_Resp that waits for its Follow_Up: sequenceId, turnaround start at the partner, own receive time, own send time, correctionField, 2^-16 ns. -/
  resp : Option (Nat × Int × Int × Int × Int) := none
  /-- Ingress timestamp of the last Pdelay_Req received, 1/16 ns: T2 of a one-step Pdelay_Resp (10 R298). -/
  reqTs : Nat := 0
  deriving DecidableEq, Repr

/-- One lane of an N-400 transmitter (04 Table 4.3): the message bits of the codeword in hand, y of the last symbol, and the symbols y of the last codeword sent. -/
structure LaneTx where
  msg : List Bool := []
  y : BitVec 2 := 0
  out : List (BitVec 2) := []
  deriving DecidableEq, Repr

/-- The PCS transmitter of a port (04 R96, R98). -/
structure PcsTx where
  /-- The last 58 scrambled bits. -/
  scr : BitVec 58 := 0
  /-- 66-bit blocks that wait for a group of four. -/
  blocks : List (BitVec 66) := []
  /-- Block slot that every lane fills next, and the lane whose turn it is. -/
  slot : Nat := 0
  turn : Nat := 0
  lanes : List LaneTx := []
  /-- Blocks of idle or fault filling so far asked of the free values. -/
  fills : Nat := 0
  /-- 66-bit blocks of the port stream so far, and on a stack link the run of 16,384 that has its SKIP next (12 R368). -/
  count : Nat := 0
  skip : Nat := 0
  deriving DecidableEq, Repr

/-- One configured port (04, 05, 08, 09, 10, 11, 12). -/
structure Port where
  width : Nat := 1
  mode : Nat := 1
  neg : Nat := 0
  pauseRx : Bool := false
  pauseTx : Bool := false
  lldp : Bool := false
  esmc : Bool := false
  maxFrame : Nat := 9216
  link : LinkState := .negotiating
  resolved : Nat := 0
  /-- The mode last resolved, kept through NEGOTIATING (10 R290). -/
  lastMode : Nat := 0
  downCause : Nat := 0
  lastChange : Nat := 0
  guard : Guard := {}
  penalty : Nat := 0
  skew : Nat := 0
  remoteDegrade : Bool := false
  partnerN400 : Bool := false
  basePage : BitVec 48 := 0
  ability : BitVec 32 := 0
  neighbour : Option Neighbour := none
  ql : Nat := 0
  /-- Tricks without a signal in NEGOTIATING, and tricks since parking (04 Table 4.7). -/
  quiet : Nat := 0
  probe : Nat := 0
  /-- Aligned by 04 R101. -/
  aligned : Bool := false
  /-- Trick count at which the 4 ms of 04 R558 began. -/
  alignFrom : Option Nat := none
  /-- A codeword of the frame that is arriving could not be corrected (04 R102). -/
  rxBad : Bool := false
  /-- After a probe: trick count at which its rubber of pages ends (04 Table 4.7). -/
  probeEnd : Option Nat := none
  /-- Trick counts of the last LLDPDU and ESMC PDU sent since the port entered UP (04 R106, R113). -/
  lldpAt : Option Nat := none
  esmcAt : Option Nat := none
  pcs : PcsTx := {}
  timeouts : Nat := 0
  entry : Nat := 0
  storm : BitVec 8 := 0
  storm31 : Bool := false
  /-- Index 0 to 7 the priorities, 8 Annex 31B: remaining quanta of the pause timer (09 R276). -/
  timers : List Nat := [0, 0, 0, 0, 0, 0, 0, 0, 0]
  /-- Tricks paused continuously (04 R110). -/
  pausedRun : List Nat := [0, 0, 0, 0, 0, 0, 0, 0, 0]
  /-- Tricks without pause in storm state (04 R110). -/
  stormQuiet : List Nat := [0, 0, 0, 0, 0, 0, 0, 0, 0]
  lossless : BitVec 8 := 0
  cutThrough : Bool := false
  holdSet : Nat := 256
  headroom : List Nat := [0, 0, 0, 0, 0, 0, 0, 0]
  xoff : List Nat := [0, 0, 0, 0, 0, 0, 0, 0]
  xon : List Nat := [0, 0, 0, 0, 0, 0, 0, 0]
  u : List Nat := [0, 0, 0, 0, 0, 0, 0, 0]
  k : List Nat := [0, 0, 0, 0, 0, 0, 0, 0]
  pauseReq : BitVec 8 := 0
  /-- The hold starts at the next boundary (08 R243). -/
  holdArm : Bool := false
  hold : Option Nat := none
  /-- Flushed since it left UP: admission refuses (08 R244). -/
  flushed : Bool := false
  queues : Tab Queue := []
  trump : Bool := false
  pfcTx : BitVec 8 := 0
  pfcRx : BitVec 8 := 0
  overhead : Int := 20
  srcMac : List Byte := [0, 0, 0, 0, 0, 0]
  pfcQuanta : Nat := 65535
  pauseQuanta : Nat := 65535
  sgroups : Tab SGroup := []
  shaper : Shaper := {}
  rotGroup : Nat := 0
  macCtl : List MacCtl := []
  /-- Pauses being advertised: bits 0 to 7 PFC, bit 8 Annex 31B (09 R272). -/
  advert : BitVec 9 := 0
  inflight : List Sent := []
  tcEn : Bool := false
  p2p : Bool := false
  txStep : Bool := false
  persist : Bool := false
  calValid : Bool := false
  rxAdj : Int := 0
  txAdj : Int := 0
  asym : Int := 0
  meanLinkDelay : Nat := 0
  pdelay : PeerDelay := {}
  mirrorN : Nat := 0
  mirrorCnt : Nat := 0
  ioamEn : Bool := false
  stk : StackLink := {}
  staged : List Staged := []
  arriving : Option Arriving := none
  /-- The first bytes of a frame that is judged only when its last byte has come, with its timestamp: stack frames but accepted DATA, MAC control frames (12 R370, R371; 09 R276). -/
  early : Option (List Byte × Nat) := none
  /-- The last frame handed to the MAC whole, as the partner sees it. -/
  lastTx : List Byte := []
  deriving DecidableEq, Repr

/-- An edit recorded by a stage (07 R198). -/
inductive Edit where
  | replace (at_ : Nat) (bytes : List Byte)
  | push (at_ : Nat) (bytes : List Byte)
  | pop (at_ to_ : Nat)
  | csum (at_ : Nat)
  deriving DecidableEq, Repr

/-- An open ladder search (07 Table 7.2). -/
structure Ladder where
  active : Bool := false
  table : Nat := 0
  hi : Nat := 0
  lo : Nat := 0
  deriving DecidableEq, Repr

/-- The packet header vector (05 Table 5.6, 07 Table 7.2). Words C00-C63 and X00-X15 by index. -/
structure Phv where
  w : Tab Nat := []
  valid : BitVec 64 := 0
  offs : Tab Nat := []
  pres : BitVec 64 := 0
  inPort : Nat := 0
  outPort : Nat := 0
  len : Nat := 0
  trick : Nat := 0
  disp : BitVec 32 := 0
  profile : Nat := 0
  ladder : Ladder := {}
  best : Nat := 0
  deriving DecidableEq, Repr

/-- A flow key as formed at the end of ingress (11 R331): profile, the 40 key bytes, KEY_BYTES. -/
structure FlowKey where
  profile : Nat := 0
  bytes : List Byte := []
  n : Nat := 0
  deriving DecidableEq, Repr

/-- A metadata record (08 R225): what reaches egress, the ingress edits, and the values of 11 R326. -/
structure Meta where
  phv : Phv
  /-- The flow key of the header vector as the ingress pipeline left it (11 R331, R359). -/
  key : FlowKey := {}
  /-- Number of the stage program with which the packet was issued (02 R53; 05 R120). -/
  gen : Nat := 0
  edits : List Edit
  /-- Edits are void (07 R199). -/
  noEdits : Bool := false
  /-- Ingress timestamp, 1/16 ns. -/
  inTs : Nat
  trick : BitVec 64
  count : Nat
  group : Nat
  copies : Nat
  /-- Stack header carried for egress (12 R380). -/
  stackHdr : Option (List Byte) := none
  mcastGroup : Option Nat := none
  tracked : Bool := false
  sample : List StageEnt := []
  deriving DecidableEq, Repr

/-- A chain of cells (08 R218, R222): cells from head to last, closing owner, copies not yet released. -/
structure Chain where
  cells : List Nat
  owner : Nat
  refcnt : Nat
  /-- Requester that writes the chain, and the cells that its stake still counts (08 R218, R221). -/
  writer : Nat := 0
  staked : Nat := 0
  len : Nat
  mta : Option Nat
  deriving DecidableEq, Repr

/-- A buffer section (08 R219, R220, R246 to R250). The indices of the list and of the cache stand as runs of start and count, in their order. -/
structure Section where
  list : List (Nat × Nat) := []
  cache : List (Nat × Nat) := []
  backlog : List Nat := []
  /-- Cells whose requesters wait while the backlog is full. -/
  waiting : List Nat := []
  /-- Word 0 of listed cells that something other than the pool manager has written: cell, first 4 bytes (08 R250). -/
  links : Tab Nat := []
  drain : Bool := false
  rebuilding : Bool := false
  listRebuild : Bool := false
  retired : List Nat := []
  retireMark : List Nat := []
  deriving DecidableEq, Repr

/-- A requester of the pool manager (08 Table 8.2). -/
structure Requester where
  stake : Nat := 512
  charged : Nat := 0
  /-- Section that gave the previous cell (08 R218). -/
  last : Nat := 7
  deriving DecidableEq, Repr

/-- The shared buffer (08). -/
structure Buffer where
  mem : Mem := []
  sections : Tab Section := []
  requesters : Tab Requester := [(32, { stake := 2048 }), (33, { stake := 8192 }), (34, { stake := 4096 }), (35, { stake := 4096 })]
  chains : Tab Chain := []
  metas : Tab Meta := []
  kitty : Nat := 0
  /-- P and K of Table 8.4. -/
  potUsed : Nat := 0
  kittyUsed : Nat := 0
  ecnHdr4 : Nat := 0
  ecnHdr6 : Nat := 0
  mcastLog2 : Nat := 0
  mcastBase : Nat := 0
  deriving DecidableEq, Repr

/-- One replication job (01 R27): the frame that holds the replication engine of its group. -/
structure ReplJob where
  head : Nat
  mta : Nat
  group : Nat
  len : Nat
  n : Nat
  prov : Bool
  /-- The frame failed its check while the job waited (08 R242). -/
  bad : Bool := false
  inPort : Nat
  pri : Nat
  lossless : Bool
  /-- REFUSED, EXC and the rest of the flow update wait for the copies (11 R333). -/
  exc : Bool
  deriving DecidableEq, Repr

/-- A flow-cache record with its key entry (11 Table 11.3, R332). -/
structure FlowRec where
  profile : Nat := 0
  key : List Byte := []
  keyBytes : Nat := 0
  refused : Bool := false
  exc : Bool := false
  maxq : Nat := 0
  packets : Nat := 0
  bytes : Nat := 0
  firstTs : Nat := 0
  lastTs : Nat := 0
  firstCount : Nat := 0
  lastCount : Nat := 0
  drops : Nat := 0
  marked : Nat := 0
  deriving DecidableEq, Repr

/-- One flow-cache slice (11 R332 to R338). -/
structure Slice where
  recs : Tab FlowRec := []
  evq : List (FlowRec × Nat) := []
  overRec : FlowRec := { profile := 255 }
  deriving DecidableEq, Repr

/-- A frame that waits at station 6 while an earlier multicast frame of its port group holds the replication engine (01 R30): port, head cell, cells, last byte in, stack header, metadata, edits void, failed its check. -/
structure Station6 where
  port : Nat
  head : Nat
  n : Nat
  whole : Bool
  hdr : Option (List Byte)
  info : Meta
  broken : Bool
  bad : Bool := false
  deriving DecidableEq, Repr

/-- A weighted arbiter of a port group (01 R32; 09 R260): the finish mark of each port's last turn and the mark of the turn in progress, in 64ths of a turn at weight 100. -/
structure Arb where
  fin : Tab Nat := []
  mark : Nat := 0
  deriving DecidableEq, Repr

/-- One port group (05 R140, 08 R240, 11). -/
structure Group where
  limitForward : Bool := false
  lfsr : BitVec 16 := 0xACE1
  repl : List ReplJob := []
  at6 : List Station6 := []
  /-- The ingress arbiter and the scheduler's rotation. -/
  arb : Arb := {}
  sel : Arb := {}
  slice : Slice := {}
  preciseN : Nat := 0
  preciseCnt : Nat := 0
  trackers : Nat := 0
  deriving DecidableEq, Repr

/-- A table descriptor (06 Table 6.10) with its ladder (06 Table 6.11). -/
structure TableDesc where
  ladder : Bool := false
  wide : Bool := false
  log2 : Nat := 10
  base : Nat := 0
  keyBits : Nat := 1
  ageMode : Nat := 0
  ageShift : Nat := 0
  ageLimit : Nat := 0
  learn : Bool := false
  learnUpdate : Bool := false
  seed1 : BitVec 32 := 0
  seed2 : BitVec 32 := 0
  addrBits : Nat := 0
  dflt : BitVec 32 := 0
  rl : List Nat := []
  deriving DecidableEq, Repr

/-- Why a keyed operation stands on a command queue: a command of a mailbox, its undo (06 R181), the replication of a record of a cluster (06 R169), or firmware's own repair of a conflict and the insertion of the entry that lost its slot. -/
inductive OpWhy where
  | command (mb : Nat)
  | undo (mb : Nat)
  | replicate (src : Nat)
  | repair
  | reinsert
  deriving DecidableEq, Repr

/-- An operation on a table engine's command queue (06 Table 6.4, R152). -/
inductive EngineOp where
  /-- Keyed operation: table, operation code of Table 6.12, FORCE, slot, bucket, entry image. -/
  | keyed (why : OpWhy) (table op : Nat) (force : Bool) (slot bucket : Nat) (entry : BitVec 256)
  /-- Bucket write, with the DMA channel that waits for its response. -/
  | bucket (b : Nat) (v : BitVec 512) (ch : Option Nat)
  deriving DecidableEq, Repr

/-- A learn request (06 R165). -/
structure LearnReq where
  table : Nat
  key : Nat
  data : Nat
  deriving DecidableEq, Repr

/-- A deletion on the age queue (06 R164): where the entry stood and its stamp. -/
structure AgeDel where
  bucket : Nat
  slot : Nat
  table : Nat
  entry : BitVec 256
  deriving DecidableEq, Repr

/-- A notification record (06 Table 6.6). -/
structure Notif where
  typ : Nat
  cluster : Nat
  table : Nat
  slot : Nat
  bucket : Nat
  trick : BitVec 64
  entry : BitVec 256
  /-- Firmware has replicated it (06 R169), or it needs none. -/
  done : Bool := false
  deriving DecidableEq, Repr

/-- A meter record (07 Table 7.7). CIR, PIR, TC, TP carry 16 fraction bits. -/
structure Meter where
  cir : Nat := 0
  pir : Nat := 0
  cbs : Nat := 0
  pbs : Nat := 0
  tc : Nat := 0
  tp : Nat := 0
  last : Nat := 0
  rfc4115 : Bool := false
  aware : Bool := false
  enable : Bool := false
  dropRed : Bool := false
  lenAdj : Int := 0
  deriving DecidableEq, Repr

/-- Target of an exception class in a cluster (07 R209, R215). -/
structure ExcCfg where
  toFw : Bool := false
  ring : Nat := 0
  enable : Bool := true
  /-- Rate and burst as last set by EXC_SET, from which the exception meter is written again (07 R209). -/
  rate : Nat := 0x000CCCCD
  burst : Nat := 65536
  deriving DecidableEq, Repr

/-- One table cluster (06, 07). -/
structure Cluster where
  buckets : Tab (BitVec 512) := []
  cmdQ : List EngineOp := []
  /-- Operations whose sources wait because the command queue is full, in arrival order (06 Table 6.4). -/
  cmdWait : List EngineOp := []
  learnQ : List LearnReq := []
  ageQ : List AgeDel := []
  rr : Nat := 0
  ager : Nat := 0
  /-- Unit of the ager's bucket at which its scan has paused (06 R163). -/
  agerAt : Nat := 0
  notif : List Notif := []
  /-- Retired buckets whose RETIRED notification waits for room (06 R167, R178). -/
  retWait : List Nat := []
  /-- Entries of this cluster that lost their slot and that firmware inserts again device-wide: table and image (06 R169). -/
  reinsert : List (Nat × BitVec 256) := []
  learnHold : List Nat := []
  meters : Tab Meter := []
  /-- LAST of a meter that nothing has written, by the trick of 64 in which the refresh sweep visits it. -/
  swept : List Nat := List.replicate 64 0
  counters : Tab (BitVec 64 × BitVec 64) := []
  exc : Tab ExcCfg := []
  /-- Table write slots used in this trick beyond those of the tricks before (02 R51). -/
  slotsUsed : Nat := 0
  /-- The cluster left rung 5 and its exception meters are still to be written by firmware (07 R209). -/
  excDue : Bool := false
  retired : List Nat := []
  deriving DecidableEq, Repr

/-- A table window (06 R176, Table 6.8). -/
structure Window where
  page : Nat := 0
  stable : Bool := false
  discard : Bool := false
  buf : Option (Nat × BitVec 512) := none
  deriving DecidableEq, Repr

/-- Standby bank states (05 Table 5.4). -/
inductive Standby where
  | empty | staging | valid | committed | previous
  deriving DecidableEq, Repr

/-- A control-store bank: version and the image body of 13 R416. -/
structure Bank where
  version : BitVec 32 := 0
  loaded : Bool := false
  body : Mem := []
  deriving DecidableEq, Repr

/-- The control store (05 R119, R120). -/
structure CtlStore where
  active : Bank := {}
  /-- Number of the active program, and the bodies of earlier ones that packets in the device still run (02 R53). -/
  gen : Nat := 0
  past : Tab Mem := []
  standby : Bank := {}
  activeNo : Nat := 0
  st : Standby := .empty
  /-- Mailbox whose UC_STAGE is staging, with the image's length. -/
  stageMb : Nat := 0
  stageLen : Nat := 0
  rollback : Bool := false
  deriving DecidableEq, Repr

/-- What firmware's PTP instance of a domain keeps (10 R292, Table 10.4; the mechanisms of IEEE 1588-2019, log entry 92). Times are 2^-16 ns. -/
structure PtpClock where
  /-- The master that BMCA has chosen: its data set, clockIdentity, portNumber, and the port it is heard on. -/
  master : Option (Nat × Nat × Nat × Nat) := none
  /-- A two-step Sync that waits for its Follow_Up: sequenceId, arrival in the domain's counter, correctionField. -/
  sync : Option (Nat × Int × Int) := none
  /-- Arrival minus departure of the last Sync. -/
  toSlave : Option Int := none
  /-- Mean path delay of the delay request-response mechanism. -/
  pathDelay : Int := 0
  /-- Ingress timestamp of the last Delay_Req received, 1/16 ns: the receiveTimestamp of the Delay_Resp. -/
  reqTs : Nat := 0
  deriving DecidableEq, Repr

/-- Servo settings and state of one domain (10 R303 to R307, R323). -/
structure Domain where
  /-- Counter, 2^-40 ns. -/
  ctr : Int := 0
  /-- f and acc, 2^-16 ppb. -/
  f : Int := 0
  acc : Int := 0
  locked : Bool := false
  srcLost : Bool := false
  everLocked : Bool := false
  good : Nat := 0
  since : Nat := 0
  lastE : Int := 0
  dofs : Int := 0
  queue : List Int := []
  source : Nat := 0
  pin : Nat := 0
  stepAllow : Bool := false
  ptpDomain : Nat := 0
  kp : Nat := 262144
  ki : Nat := 32768
  freqLimit : Nat := 200000
  stepThresh : Nat := 1000
  lockThresh : Nat := 50
  lossTimeout : Nat := 500000
  pinDelay : Int := 0
  /-- Master list: clockIdentity, portNumber, ingress port. -/
  masters : List (Nat × Nat × Nat) := []
  rxRequired : Bool := false
  tx : Bool := false
  spp : Nat := 0
  gmac : Bool := false
  keyId0 : Nat := 0
  keyId1 : Nat := 0
  slot0 : Nat := 0
  slot1 : Nat := 0
  txKey : Nat := 0
  ptp : PtpClock := {}
  /-- TIME_MASTER_LIST_SET and TIME_AUTH_SET seen since the restart (18 R536). -/
  listSeen : Bool := false
  authSeen : Bool := false
  deriving DecidableEq, Repr

/-- A timestamp queue entry (10 Tables 10.6, 10.7). -/
structure TsqEntry where
  /-- 1/16 ns since the epoch. -/
  ts : Nat
  gap : Bool
  notSent : Bool
  timeValid : Bool
  port : Nat
  tag : Nat
  deriving DecidableEq, Repr

/-- A capture (10 Table 10.17): T in ns, SUB, edge, GAP. -/
structure Capture where
  t : Nat
  sub : Nat
  rising : Bool
  gap : Bool
  deriving DecidableEq, Repr

/-- One timing pin block; block 8 is PPS_IN (10 R316 to R319). -/
structure Pin where
  armed : Bool := false
  missed : Bool := false
  sub : Nat := 0
  edge : Nat := 1
  polarity : Bool := false
  mode : Nat := 0
  /-- A MODE write waits for the boundary. -/
  modeNext : Option Nat := none
  start : BitVec 64 := 0
  period : BitVec 64 := 0
  width : BitVec 32 := 100
  /-- Timing sampled when MODE took effect: START and SUB in 1/16 ns, PERIOD in 2^-16 ns, WIDTH in ns. -/
  sStart : Nat := 0
  sPeriod : Nat := 0
  sWidth : Nat := 0
  /-- Next edge due, 2^-16 ns. -/
  due : Nat := 0
  fifo : List Capture := []
  gapNext : Bool := false
  latch : Tab (Option Capture) := []
  /-- Active edges driven. -/
  pulses : Nat := 0
  /-- The pulse being driven: its start and end in 2^-16 ns of time clock after the last boundary (10 R318, R319). Equal: none is driven. -/
  onAt : Nat := 0
  offAt : Nat := 0
  deriving DecidableEq, Repr

/-- The time unit (10). -/
structure TimeUnit where
  running : Bool := false
  valid : Bool := false
  cur : Nat := 0
  /-- Part of a time-clock cycle that has passed at the last boundary, 2^-40 ns. -/
  frac : Nat := 0
  doms : Tab Domain := []
  /-- D of R308, 2^-40 ns. -/
  d : Int := 0
  split : Bool := false
  freqClamp : Bool := false
  splitSeen : Bool := false
  stepped : Bool := false
  holdover : Bool := false
  irqSwitch : Bool := false
  irqHoldover : Bool := false
  irqSplit : Bool := false
  irqTpio : Bool := false
  irqTsq : Bool := false
  latLo : Tab (BitVec 64) := []
  latHi : Tab (BitVec 64) := []
  ptpHdr : Nat := 0
  ip4Hdr : Nat := 0
  ip6Hdr : Nat := 0
  switchAuto : Bool := true
  stepFollow : Bool := false
  splitThresh : Nat := 100
  slewRate : Nat := 10000
  tsq : List TsqEntry := []
  fwTsq : List TsqEntry := []
  tsqGap : Bool := false
  fwTsqGap : Bool := false
  tsqLatch : Tab (Option TsqEntry) := []
  tsqDrop : BitVec 32 := 0
  pins : Tab Pin := []
  /-- Calibration in flash keyed by first lane times 16 plus width (10 R291). -/
  cal : Tab (Int × Int × Int × Bool) := []
  /-- Last PTP message firmware sent: port and bytes. -/
  lastPtpTx : Option (Nat × List Byte) := none
  /-- Messages that passed the checks of 10 R313 and R314, by domain. -/
  accepted : Tab Nat := []
  /-- PTP messages that wait for the MAC engine, oldest first, with the trick count of their arrival and their ingress timestamp in 1/16 ns (10 R314). -/
  ptpWait : List (PtpIn × Nat × Nat) := []
  deriving DecidableEq, Repr

/-- A watch counter (11 R350). -/
structure Watch where
  code : Nat := 0
  unit : Nat := 0
  param : Nat := 0
  mode : Nat := 0
  thresh : Nat := 0
  value : BitVec 64 := 0
  deriving DecidableEq, Repr

/-- A dump set item (11 Table 11.14). -/
structure DumpItem where
  kind : Nat := 0
  sel : Nat := 0
  code : Nat := 0
  first : Nat := 0
  run : Nat := 0
  deriving DecidableEq, Repr

/-- A dump being written (11 R352): data still to write, bytes written, header, slot number. -/
structure Dump where
  data : List Byte
  done : Nat
  header : List Byte
  slot : Nat
  deriving DecidableEq, Repr

/-- An IOAM namespace (11 Table 11.16). -/
structure Ioam where
  id : Nat := 0
  valid : Bool := false
  short : Nat := 0
  wide : Nat := 0
  deriving DecidableEq, Repr

/-- A telemetry ring (11 R330). -/
structure TRing where
  prod : Nat := 0
  cons : Nat := 0
  seq : Nat := 0
  deriving DecidableEq, Repr

/-- Telemetry (11). -/
structure Telem where
  flowEn : Bool := false
  dumpEn : Bool := false
  sampleEn : Bool := false
  captureEn : Bool := false
  captureWrap : Bool := false
  sampleLog2 : Nat := 0
  captureLog2 : Nat := 0
  dumpSlots : Nat := 0
  flowBase : Nat := 0
  dumpBase : Nat := 0
  sampleBase : Nat := 0
  captureBase : Nat := 0
  flow : TRing := {}
  sample : TRing := {}
  capture : TRing := {}
  /-- Write FIFO shared by the capture and sample writers (11 R347): capture or not, record, and the chain of the mirror cell that a capture record frees when it has been written (11 R346). -/
  fifo : List (Bool × List Byte × Option Nat) := []
  seed : BitVec 32 := 0xFFFFFFFF
  idle : Nat := 1048576
  active : Nat := 4194304
  profiles : Tab (List Nat) := []
  watch : Tab Watch := []
  staged : Tab DumpItem := []
  items : List DumpItem := []
  /-- Dump sets committed and not yet in force, with the hand at which each takes effect (11 R353). -/
  next : List (List DumpItem × Nat) := []
  commits : Nat := 0
  dump : Option Dump := none
  dumpNo : Nat := 0
  skipBefore : Bool := false
  setChanged : Bool := false
  /-- Core cycles since the last hand boundary. -/
  cycles : Nat := 0
  prevHand : Nat := 0
  ioamHdr : Nat := 0
  ioam4 : Nat := 0
  ioam6 : Nat := 0
  nodeId : Nat := 0
  ioam : List Ioam := [{}, {}, {}, {}]
  deriving DecidableEq, Repr

/-- A member of a group this chip leads (12 R376): group level, path, depth, serial, rubbers since its JOIN, flagged TOO_DEEP. -/
structure Member where
  level : Nat
  path : Nat
  depth : Nat
  serial : Nat
  /-- Trick count of its last JOIN. -/
  since : Nat
  tooDeep : Bool
  deriving DecidableEq, Repr

/-- An episode (12 R390). -/
structure Episode where
  path : Nat
  levels : Nat
  minPace : Nat
  start : Nat
  fin : Nat
  deriving DecidableEq, Repr

/-- A CONTROL REQUEST without its RESPONSE (12 R383, R377): mailbox (none: a dealer's control round), SEQ, destination, tries, trick count of the last sending, targets still to ask, answers so far. -/
structure Outstanding where
  mb : Option Nat
  seq : Nat
  dst : Nat
  levels : Nat
  tries : Nat
  sent : Nat
  payload : List Byte
  rest : List (Nat × Nat)
  answers : List (List Byte)
  /-- The command names a group that this chip leads. -/
  agg : Bool := false
  deriving DecidableEq, Repr

/-- A CONTROL frame waiting to be sent on a stack link: port and bytes. -/
structure CtlTx where
  port : Nat
  bytes : List Byte
  deriving DecidableEq, Repr

/-- The stack engine (12). -/
structure Stack where
  levels : Nat := 0
  prio : Nat := 0
  timeOn : Bool := false
  dom : Nat := 0
  missLimit : Nat := 4
  hopNs : Nat := 600
  own : Nat := 0
  routes : Tab Nat := []
  members : Tab (Nat × Nat) := []
  best : List Best := []
  upstream : Option Nat := none
  dist : Nat := 0
  tooDeep : Bool := false
  dupPath : Bool := false
  joined : List Member := []
  episodes : List Episode := []
  out : List Outstanding := []
  /-- Stored responses to repeated requests: requester path, SEQ, response. -/
  answered : List (Nat × Nat × List Byte) := []
  /-- CONTROL REQUESTs waiting for mailboxes 24 to 27: requester path, depth, SEQ, payload. -/
  waiting : List (Nat × Nat × Nat × List Byte) := []
  /-- Requests being executed in mailboxes 24 to 27: mailbox, requester path, depth, SEQ. -/
  serving : Tab (Nat × Nat × Nat) := []
  tx : List CtlTx := []
  nextSeq : Nat := 0
  /-- Last dealers to which a JOIN was sent, per group. -/
  joinTo : List Nat := []
  /-- Own episode open since this trick index, with its lowest pace. -/
  episode : Option (Nat × Nat) := none
  deriving DecidableEq, Repr

/-- Mailbox states (13 Table 13.7). -/
inductive MbState where
  | idle | pending | done
  deriving DecidableEq, Repr

/-- What an accepted command waits for. -/
inductive Wait where
  /-- Firmware has not executed it. -/
  | exec
  /-- Before its commit point it waits for what another holds: the MAC engine, flash, or a quiet hand for a patch (13 R404, R415, R420). -/
  | outside
  /-- Past its commit point: the next trick boundary answers it with its index (10 R321, 13 R417). -/
  | boundary
  /-- Answered when the trick count reaches the value (08 R238). -/
  | ticks (at_ : Nat)
  | echo (lane : Nat)
  | staging
  /-- PWR_CAP_SET, with the rubbers still to close (16 R496). -/
  | cap (skip : Nat)
  /-- TABLE_OP: clusters still to answer, outcomes per cluster: outcome, slot, moves, bucket, entry; undo running. -/
  | table (left : List Nat) (undo : Bool)
  /-- FLASH_STORE sequence: image or board table write in progress. -/
  | flash
  /-- Remote command, waiting for RESPONSEs (12 R377). -/
  | remote
  /-- FW_PATCH_APPLY, until the next hand boundary. -/
  | patch
  /-- Executed: the response stands ready. -/
  | answered
  deriving DecidableEq, Repr

/-- Outcome of a keyed operation in one cluster (06 Table 6.13). -/
structure OpOut where
  outcome : Nat := 255
  slot : Nat := 255
  moves : Nat := 0
  prior : Nat := 255
  bucket : Nat := 0
  entry : BitVec 256 := 0
  deriving DecidableEq, Repr

/-- An accepted command (13 R399). -/
structure Cmd where
  code : Nat
  len : Nat
  seq : BitVec 32
  /-- STATUS, RSV and DETAIL of the request header, which must be zero. -/
  dirty : Bool
  payload : List Byte
  wait : Wait := .exec
  status : Nat := 0
  detail : BitVec 32 := 0
  resp : List Byte := []
  /-- Earliest trick count at which the response may be written (17 R518). -/
  notBefore : Nat := 0
  outs : Tab OpOut := []
  deriving DecidableEq, Repr

/-- One mailbox (13 R397). -/
structure Mailbox where
  st : MbState := .idle
  seq : BitVec 32 := 0
  abortResult : Nat := 0
  writeBusy : Bool := false
  doorbellBusy : Bool := false
  staleDoorbell : Bool := false
  written : Bool := false
  age : Nat := 0
  irqDone : Bool := false
  area : Mem := []
  cmd : Option Cmd := none
  deriving DecidableEq, Repr

/-- A setting that a command has scheduled for the next trick boundary (13 R403): the request's code, payload and mailbox. -/
structure Deferred where
  code : Nat
  req : List Byte
  mb : Nat
  deriving DecidableEq, Repr

/-- A key slot (13 R419). -/
structure KeySlot where
  owner : Nat := 0
  key : Option (BitVec 256) := none
  deriving DecidableEq, Repr

/-- The MAC engine (13 Table 13.22). -/
structure Ciph where
  owner : Nat := 0
  waiting : Bool := false
  brokenHost : Bool := false
  brokenBmc : Bool := false
  slot : Nat := 0
  gmac : Bool := false
  src : BitVec 64 := 0
  len : BitVec 32 := 0
  ivLo : BitVec 64 := 0
  ivHi : BitVec 32 := 0
  error : Nat := 0
  done : Bool := false
  busy : Bool := false
  tag : BitVec 128 := 0
  keyReg : BitVec 256 := 0
  slots : Tab KeySlot := []
  lease : Nat := 32
  held : Nat := 0
  deriving DecidableEq, Repr

/-- Ring types (14 R428). -/
inductive RingType where
  | none | sq | cq | rx
  deriving DecidableEq, Repr

/-- Ring states (14 Table 14.8). -/
inductive RingState where
  | off | run | halted | stopping
  deriving DecidableEq, Repr

/-- An SQ entry whose cells the stake refuses (14 R436): first index, slots, frame, header bytes. -/
structure SqWait where
  index : Nat
  slots : Nat
  hdr : List Byte
  frame : List Byte
  deriving DecidableEq, Repr

/-- A source of completions (14 R439): an SQ by its ring, or a DMA channel. -/
inductive CqSource where
  | sq (r : Nat)
  | dma (k : Nat)
  deriving DecidableEq, Repr

/-- One host ring (14 R428 to R445). -/
structure Ring where
  base : BitVec 64 := 0
  enable : Bool := false
  typ : RingType := .none
  log2 : Nat := 6
  cq : Nat := 0
  irq : Bool := false
  p : Nat := 0
  c : Nat := 0
  wb : BitVec 64 := 0
  st : RingState := .off
  haltCause : Nat := 0
  /-- Entries held inside the device, each as its bytes; an RX frame copy carries the chain it references. -/
  hold : List (List Byte × Option Nat) := []
  entries : BitVec 64 := 0
  errors : BitVec 32 := 0
  stalls : BitVec 32 := 0
  drops : BitVec 32 := 0
  idxErr : BitVec 32 := 0
  /-- A completion that waits because the CQ's hold is full: entry bytes (14 R439). -/
  stalled : Option (List Byte) := none
  /-- Of a CQ: the sources whose completions wait, in the order in which those became final (14 R439). -/
  waiters : List CqSource := []
  wait : Option SqWait := none
  rung : Bool := false
  deriving DecidableEq, Repr

/-- An MSI-X vector (14 R447). -/
structure Vector where
  count : Nat := 1
  tricks : Nat := 0
  pend : Nat := 0
  t0 : Nat := 0
  /-- MSI-X table entry: address, data, mask; and the pending bit. -/
  addr : BitVec 64 := 0
  data : BitVec 32 := 0
  masked : Bool := true
  pba : Bool := false
  /-- Messages sent. -/
  sent : Nat := 0
  deriving DecidableEq, Repr

/-- Interrupts (14 R446, R447). -/
structure Irq where
  map : Tab (Bool × Nat) := []
  cause : BitVec 128 := 0
  vecs : Tab Vector := []
  deriving DecidableEq, Repr

/-- Host link and BAR0 global registers (14). -/
structure HostLink where
  cxl : Bool := false
  trained : Bool := false
  /-- The mode is fixed until PERST_N asserts (14 R423). -/
  fixed : Bool := false
  aptBase : Nat := 0
  bar2 : Nat := 64
  aptErr : BitVec 32 := 0
  evtValid : Bool := false
  evtRing : Nat := 0
  d0 : Bool := true
  /-- Data the last device-memory read returned, and whether it was poisoned. -/
  rdata : List Byte := []
  poison : Bool := false
  deriving DecidableEq, Repr

/-- DMA channel states (15 Table 15.8). -/
inductive DmaState where
  | stopped | running | waiting | parked | stalled
  deriving DecidableEq, Repr

/-- What a waiting channel waits for (15 R455). -/
inductive DmaWait where
  | tricks (n : Nat)
  | hand
  | flags (mask : BitVec 32)
  | writes
  deriving DecidableEq, Repr

/-- One DMA channel (15 Table 15.9). -/
structure Chan where
  pc : Nat := 0
  cq : Nat := 0
  irq : Bool := false
  devmem : Bool := false
  st : DmaState := .stopped
  abortResult : Nat := 0
  lastStatus : Nat := 0
  cqBad : Bool := false
  hostBase : Nat := 0
  flags : BitVec 32 := 0
  ctr : List Nat := [0, 0, 0, 0]
  /-- Running CRC value. -/
  crc : BitVec 32 := 0
  crcOut : BitVec 32 := 0
  bytes : BitVec 64 := 0
  stalls : BitVec 32 := 0
  doorbell : Bool := false
  wait : Option DmaWait := none
  /-- Writes whose responses are delayed return at this trick count (17 R518). -/
  writesAt : Nat := 0
  /-- Records that wait for room in the CQ's hold: bytes, and whether the last ends the run. -/
  due : List (List Byte) := []
  dueEnds : Bool := false
  deriving DecidableEq, Repr

/-- One power domain of Table 16.3. -/
structure PDom where
  req : Nat := 0
  held : Nat := 0
  moving : Bool := false
  deriving DecidableEq, Repr

/-- An ageing log record (16 Table 16.6). -/
structure AgeRec where
  seq : Nat
  rubber : Nat
  kind : Nat
  old : Nat
  new : Nat
  unit : Nat
  value : Nat
  deriving DecidableEq, Repr

/-- The power manager (16). -/
structure Power where
  /-- Issue rate in effect, in eighths, and the one set by the cap ladder or firmware. -/
  issue : Nat := 8
  want : Nat := 8
  /-- Issue rate announced in heartbeats, and a decrease with the trick count at which it takes effect (12 R387). -/
  pace : Nat := 8
  decrease : Option (Nat × Nat) := none
  limiter : Bool := false
  limiterLow : Nat := 0
  limiterHigh : Nat := 0
  exhausted : Nat := 0
  /-- Trick count of the last octet shed by 16 R470, plus one. -/
  shedAt : Nat := 0
  emergency : Bool := false
  /-- Trick count at which the emergency shed began. -/
  emergencyAt : Nat := 0
  triggers : List ShedTrigger := []
  absent : Nat := 0
  therm : Bool := false
  ageCol : Nat := 0
  unreachable : Bool := false
  limiterSeen : Bool := false
  emergencySeen : Bool := false
  thermSeen : Bool := false
  irqAge : Bool := false
  irqTherm : Bool := false
  irqEmergency : Bool := false
  irqLimiter : Bool := false
  irqCap : Bool := false
  vin : Nat := 0
  iin : Nat := 0
  energy : BitVec 64 := 0
  /-- What the energy counter has beyond whole nJ, 10^-6 nJ. -/
  energyFrac : Nat := 0
  energyLat : Tab (BitVec 32) := []
  rubberEnergy : Nat := 0
  rubberMean : Nat := 0
  sensor : Nat := 0
  tj : Int := 0
  rails : List (Nat × Nat) := []
  cap : Nat := 0
  sprintEn : Bool := false
  shedRung : Nat := 4
  headroom : Nat := 150
  hyst : Nat := 25
  shedList : List Nat := []
  /-- Octets shed by the cap or by 16 R470. -/
  shedOcts : List Nat := []
  doms : Tab PDom := []
  /-- Input power of the last tricks in µW and VIN of the last tricks in mV, newest first. -/
  last4 : List Nat := []
  vins : List Nat := []
  sinceStep : Nat := 0
  floorAll : Bool := false
  hotRubber : Bool := false
  plan : ClockPlan := .none
  railsSprint : Bool := false
  /-- The rubber now open is not judged: it began in the emergency shed (16 R493). -/
  noJudge : Bool := false
  colNext : Option Nat := none
  overThresh : Nat := 0
  log : List AgeRec := []
  logWait : List AgeRec := []
  logRo : Bool := false
  logSpares : Nat := 64
  stateSpares : Nat := 64
  stateRo : Bool := false
  /-- Time-state records that wait for a store. -/
  stateWait : List (Nat × Int × Int × Int × Bool) := []
  /-- The batch of octets that leaves rung 5 (18 R531). -/
  ramping : List Nat := []
  deriving DecidableEq, Repr

/-- A fault instance (17 R501). -/
structure FltInst where
  sticky : Bool := false
  severe : Bool := false
  opened : Bool := false
  c : Nat := 0
  s : Nat := 0
  total : Nat := 0
  first : Nat := 0
  detail : Nat := 0
  injected : Bool := false
  /-- Order of the first error among all, for 17 R513. -/
  order : Nat := 0
  severeTrick : Nat := 0
  deriving DecidableEq, Repr

/-- Class, N and W of a source (17 R512). -/
structure FltSrc where
  cls : Nat
  n : Nat
  w : Nat
  deriving DecidableEq, Repr

/-- The perturbation registers (17 Table 17.11). -/
structure Perturb where
  enable : Bool := false
  jitter : Nat := 0
  dmaCh : BitVec 32 := 0
  dmaDelay : Nat := 0
  mbs : BitVec 32 := 0
  mbDelay : Nat := 0
  rxDelay : Tab Nat := []
  tsRx : Tab Int := []
  tsTx : Tab Int := []
  qhold : Tab (BitVec 64) := []
  deriving DecidableEq, Repr

/-- The fault block (17). -/
structure FaultBlock where
  /-- Instances by source times 1024 plus unit. -/
  inst : Tab FltInst := []
  srcs : Tab FltSrc := []
  order : Nat := 0
  /-- First severe event's trick index, by 13 Table 13.16. -/
  irqFirst : Bool := false
  irqSevere : Bool := false
  assertPin : Bool := false
  pulseNext : Bool := false
  pulsing : Bool := false
  pulseCnt : BitVec 32 := 0
  unlocked : Bool := false
  challenge : Option (List Byte) := none
  /-- Registers as written, and as in effect since the last boundary. -/
  tp : Perturb := {}
  tpOn : Perturb := {}
  lfsr : BitVec 16 := 0xACE1
  /-- Spares used per bank, by memory, unit and bank. -/
  spares : Tab Nat := []
  /-- Rows that a bank watches for corrections, oldest first: row, cycles in this rubber (17 R507). Banks as for spares. -/
  watched : Tab (List (Nat × Nat)) := []
  /-- Rows that 8 corrected cycles of one rubber have made failing, not yet repaired: bank and row. -/
  failing : List (Nat × Nat) := []
  deriving DecidableEq, Repr

/-- Phases of start-up (18 Table 18.1). -/
inductive Phase where
  /-- Conversion off. -/
  | off
  /-- Conversion has started; the time PLL is not locked. -/
  | aon
  /-- Time PLL locked, rails ramping (4 ms row). -/
  | rails
  /-- Rails in regulation, the boot ROM may start (8 ms row). -/
  | regulated
  /-- A verified image runs and has not set FW_RUNNING. -/
  | fwStart
  /-- FW_RUNNING, not READY. -/
  | fwRun
  | ready
  | recovery
  deriving DecidableEq, Repr

/-- A flash image slot (13 R412). -/
structure Slot where
  img : Mem := []
  blank : Bool := true
  /-- Failed to set FW_RUNNING; treated as failing until the next cold start (18 R524). -/
  failed : Bool := false
  /-- A store of it read back wrong: it fails verification until it is written again (13 R414). -/
  damaged : Bool := false
  deriving DecidableEq, Repr

/-- A flash write sequence in progress for a command (13 R414, 18 R538). -/
structure FlashJob where
  mb : Nat
  /-- 0 image slot, 1 board table copy, 2 ageing log, 3 time-state area. -/
  area : Nat
  /-- Slot or copy. -/
  idx : Nat
  src : Mem
  len : Nat
  /-- Sectors to erase and pages to program that are left. -/
  erases : Nat
  pages : Nat
  deriving DecidableEq, Repr

/-- Start-up, images and board table (13, 18). -/
structure Boot where
  phase : Phase := .off
  ready : Bool := false
  fwRunning : Bool := false
  cold : Bool := true
  slot : Nat := 0
  fwVersion : BitVec 32 := 0
  patches : Nat := 0
  patchAt : Option Nat := none
  seqTie : Bool := false
  otherBad : Bool := false
  slots : Tab Slot := []
  /-- Board table copies in flash, the copy chosen, and the table in use. -/
  copies : Tab Mem := []
  copyBlank : List Nat := [0, 1]
  chosen : Option Nat := none
  table : Mem := []
  tableOk : Bool := false
  cBoard : Nat := 0
  vinWarn : Nat := 9500
  setsBad : Nat := 0
  recordsBad : Nat := 0
  flash : Option FlashJob := none
  /-- A store is in progress: erase or program. -/
  storing : Option Bool := none
  refMLost : Bool := false
  tempWait : Bool := false
  /-- Stopped by the thermal trip: VIN must fall below 9 V before conversion starts again (16 Table 16.5). -/
  tripped : Bool := false
  perst : Bool := false
  deriving DecidableEq, Repr

/-- SyncE and references (03 R64; 04 R111, R112; 19 R546). -/
structure Refs where
  /-- Lost inputs: 0 to 3 REFCLK_A to D, 4 M, 5 T. -/
  lost : List Nat := []
  out : List (Option Nat) := [none, none]
  freq : List Bool := [false, false]
  quads : List Bool := [false, false, false, false]
  /-- Outputs held low by 04 R111, with the tricks since the port returned to UP. -/
  low : List Bool := [true, true]
  reftLost : Bool := false
  /-- Trick count at which an output's port returned to UP. -/
  upAt : List Nat := [0, 0]
  /-- Divisors of the outputs (04 Table 4.8); 0 for an output without a lane. -/
  divs : List Nat := [0, 0]
  deriving DecidableEq, Repr

/-- JTAG instructions in effect (19 R555). -/
inductive JtagInstr where
  | bypass | idcode | sample | extest | clamp | highz
  deriving DecidableEq, Repr

/-- I3C target and boundary scan (19). -/
structure Pins where
  i3cAddr : Option Nat := none
  i3cPtr : Nat := 0
  i3cPage : Nat := 0
  mrl : Nat := 1026
  mwl : Nat := 1026
  /-- Bytes the last I3C transfer or CCC returned, and whether the CCC was acknowledged. -/
  i3cOut : List Byte := []
  i3cAck : Bool := false
  jtag : JtagInstr := .idcode
  boundary : BitVec 32 := 0
  /-- Value captured by the selected data register. -/
  dr : BitVec 32 := 0
  deriving DecidableEq, Repr

/-- Data that the last read returned to host (0) and BMC (1). -/
structure Bus where
  rdata : Tab (BitVec 64) := []
  deriving DecidableEq, Repr

/-- The whole state. -/
structure State where
  ident : Ident := {}
  trick : Trick := {}
  refs : Refs := {}
  lanes : Tab Lane := []
  ports : Tab Port := []
  groups : Tab Group := []
  tables : Tab TableDesc := []
  clusters : Tab Cluster := []
  wins : Tab Window := []
  uc : CtlStore := {}
  buf : Buffer := {}
  time : TimeUnit := {}
  telem : Telem := {}
  stack : Stack := {}
  mboxes : Tab Mailbox := []
  /-- Mailboxes with an accepted command, oldest acceptance first (13 R404). -/
  order : List Nat := []
  deferred : List Deferred := []
  ciph : Ciph := {}
  link : HostLink := {}
  rings : Tab Ring := []
  irq : Irq := {}
  chans : Tab Chan := []
  power : Power := {}
  flt : FaultBlock := {}
  boot : Boot := {}
  pins : Pins := {}
  bus : Bus := {}
  /-- Event counters (11 R349), by code, unit and PARAM. -/
  evc : Tab (BitVec 64) := []
  /-- LPDDR5X. -/
  devMem : Mem := []
  /-- Host memory, as the device reads and writes it. -/
  hostMem : Mem := []
  /-- The model's own counter of free values drawn. -/
  freeCount : Nat := 0
  /-- The commands that are waiting, first in, first out. -/
  pending : List Instr := []
  deriving DecidableEq, Repr

/-- The state right after reset: every register at its reset value, no memory listed, nothing configured, conversion not yet started. -/
def State.reset : State := {}

end Sys2Proof.Machine
end

