-- ==== Sys2Proof/Config.lean ====
section
/-! DEFINITION. What the spec fixes at manufacture or leaves open: opaque constants without a body. Log entries 1 and 2 name them. -/

namespace Sys2Proof

/-- Free values: the n-th value that the spec leaves open. Nothing constrains it. -/
opaque Config.freeByte : Nat → BitVec 8

/-- The fused image key (13 R412). -/
opaque Config.imageKey : BitVec 256

/-- The fused test key (17 R514). -/
opaque Config.testKey : BitVec 256

/-- The 6-byte SERIAL of Table 13.13. -/
opaque Config.serial : BitVec 48

/-- The fused voltage table, in mV: rail 0 to 2, age column 0 to 3, sprint or normal clock (16 R486). -/
opaque Config.voltage : Nat → Nat → Bool → Nat

/-- The fused AGE_THRESH of an age column, ppm (16 R487). -/
opaque Config.ageThresh : Nat → Nat

/-- The fused count of slowdown monitor i (16 R487). -/
opaque Config.fusedCount : Nat → Nat

/-- The boot microcode that a firmware image carries (05 R119, 18 R528): the body of a microcode image, by image version. -/
opaque Config.bootMicrocode : BitVec 32 → List Byte

/-- VERSION of the boot microcode that a firmware image carries, by image version. -/
opaque Config.bootVersion : BitVec 32 → BitVec 32

/-- Blocks of idle or fault filling that stand before the n-th thing that the PCS of port p sends: the spec gives no length of a gap (log entry 105). -/
opaque Config.fillBlocks : Nat → Nat → Nat

/-- What the lane distribution and FEC of IEEE 802.3 send on lane i of a port of a mode and width after n blocks, for a run of 64b/66b blocks: the spec names the standard and gives no content (04 R96; log entry 105). -/
opaque Config.ieeeLine : Nat → Nat → Nat → Nat → List (BitVec 66) → List (BitVec 2)

/-- The payload of the REQUEST that a dealer's control round of a hand sends to every member, by trick index: the spec gives it no content (12 R386; log entry 113). -/
opaque Config.controlRound : Nat → List (BitVec 8)

/-- TC, COLOUR and DEST in the stack header of a MAC control frame: the spec states none (12 R367; log entry 111). -/
opaque Config.macCtlSuit : BitVec 21

/-- High 16 bits of the I3C provisional ID (19 R549 gives the low 32). -/
opaque Config.i3cPidHigh : BitVec 16

/-- Bus characteristics register of the I3C target; its IBI bits are given by 19 R549. -/
opaque Config.i3cBcr : BitVec 8

/-- Device characteristics register of the I3C target. -/
opaque Config.i3cDcr : BitVec 8

end Sys2Proof
end

