-- ==== Sys2Proof/Machine/Ops.lean ====
section
/-! DEFINITION. Named operations over the state's plain data: sparse tables, byte memories in canonical form, byte orders, bit fields, and access to the units of the block. -/

namespace Sys2Proof.Machine

/-! ## Sparse tables -/

/-- The value listed at k. -/
def tabGet {α : Type} (t : Tab α) (k : Nat) : Option α :=
  match t with
  | [] => none
  | (i, v) :: r => if i = k then some v else if k < i then none else tabGet r k

/-- The value at k, or the default of an unlisted index. -/
def tabGetD {α : Type} (t : Tab α) (k : Nat) (d : α) : α :=
  match tabGet t k with
  | some v => v
  | none => d

/-- Put v at k, keeping indices rising. -/
def tabPut {α : Type} (t : Tab α) (k : Nat) (v : α) : Tab α :=
  match t with
  | [] => [(k, v)]
  | (i, w) :: r => if i = k then (k, v) :: r else if k < i then (k, v) :: (i, w) :: r else (i, w) :: tabPut r k v

/-- Remove k. -/
def tabErase {α : Type} (t : Tab α) (k : Nat) : Tab α :=
  match t with
  | [] => []
  | (i, w) :: r => if i = k then r else if k < i then (i, w) :: r else (i, w) :: tabErase r k

/-- Change the value at k, starting from the default when unlisted. -/
def tabMod {α : Type} (t : Tab α) (k : Nat) (d : α) (f : α → α) : Tab α :=
  tabPut t k (f (tabGetD t k d))

/-- Change the value at k when it is listed. -/
def tabUpd {α : Type} (t : Tab α) (k : Nat) (f : α → α) : Tab α :=
  match tabGet t k with
  | some v => tabPut t k (f v)
  | none => t

/-- Change every listed value. -/
def tabMap {α β : Type} (t : Tab α) (f : Nat → α → β) : Tab β := t.map (fun e => (e.1, f e.1 e.2))

/-- The listed indices. -/
def tabKeys {α : Type} (t : Tab α) : List Nat := t.map (fun e => e.1)

/-! ## Byte memories -/

/-- The byte at a. -/
def memRead (m : Mem) (a : Nat) : Byte :=
  match m with
  | [] => 0
  | (i, b) :: r => if i = a then b else if a < i then 0 else memRead r a

/-- Write one byte; writing zero removes the entry, so that the form stays canonical. -/
def memWrite (m : Mem) (a : Nat) (b : Byte) : Mem :=
  match m with
  | [] => if b = 0 then [] else [(a, b)]
  | (i, c) :: r =>
    if i = a then (if b = 0 then r else (a, b) :: r)
    else if a < i then (if b = 0 then (i, c) :: r else (a, b) :: (i, c) :: r)
    else (i, c) :: memWrite r a b

/-- Write bytes from a upward. -/
def memWriteL (m : Mem) (a : Nat) (bs : List Byte) : Mem :=
  match bs with
  | [] => m
  | b :: r => memWriteL (memWrite m a b) (a + 1) r

/-- n bytes from a upward. -/
def memReadN (m : Mem) (a n : Nat) : List Byte := (List.range n).map (fun i => memRead m (a + i))

/-- The canonical form above a lower bound: addresses rising, no byte zero. -/
def memOkFrom (lo : Nat) (m : Mem) : Bool :=
  match m with
  | [] => true
  | (i, b) :: r => decide (lo ≤ i) && decide (b ≠ 0) && memOkFrom (i + 1) r

/-- The canonical form of a byte memory. -/
def memWf (m : Mem) : Bool := memOkFrom 0 m

/-- Keep the bytes inside [a, a + n), moved to start at zero. -/
def memSlice (m : Mem) (a n : Nat) : Mem :=
  (m.filter (fun e => decide (a ≤ e.1 ∧ e.1 < a + n))).map (fun e => (e.1 - a, e.2))

/-- Clear the bytes inside [a, a + n). -/
def memClear (m : Mem) (a n : Nat) : Mem := m.filter (fun e => !decide (a ≤ e.1 ∧ e.1 < a + n))

/-- Copy every byte of src, moved up by a, over a cleared stretch of n bytes. -/
def memPlace (m : Mem) (a n : Nat) (src : Mem) : Mem :=
  (src.filter (fun e => decide (e.1 < n))).foldl (fun acc e => memWrite acc (a + e.1) e.2) (memClear m a n)

/-! ## Bytes, fields and byte orders (00 R18) -/

/-- A byte from a number, taken modulo 256. -/
def byte (n : Nat) : Byte := BitVec.ofNat 8 n

/-- Little-endian value of bytes. -/
def leVal (bs : List Byte) : Nat := bs.foldr (fun b acc => b.toNat + 256 * acc) 0

/-- Big-endian value of bytes. -/
def beVal (bs : List Byte) : Nat := bs.foldl (fun acc b => acc * 256 + b.toNat) 0

/-- n little-endian bytes of v. -/
def leBytes (n v : Nat) : List Byte :=
  match n with
  | 0 => []
  | k + 1 => byte (v % 256) :: leBytes k (v / 256)

/-- n big-endian bytes of v. -/
def beBytes (n v : Nat) : List Byte := (leBytes n v).reverse

/-- n zero bytes. -/
def zeros (n : Nat) : List Byte := List.replicate n 0

/-- n bytes of a list from offset a; bytes past its end read zero. -/
def slice (bs : List Byte) (a n : Nat) : List Byte :=
  let t := (bs.drop a).take n
  t ++ zeros (n - t.length)

/-- Little-endian field of n bytes at offset a of a structure. -/
def fld (bs : List Byte) (a n : Nat) : Nat := leVal (slice bs a n)

/-- Big-endian field of n bytes at offset a of a frame. -/
def bfld (bs : List Byte) (a n : Nat) : Nat := beVal (slice bs a n)

/-- Replace the bytes of a list from offset a. -/
def patch (bs : List Byte) (a : Nat) (new : List Byte) : List Byte :=
  bs.take a ++ new ++ bs.drop (a + new.length)

/-- Bits hi down to lo of v. -/
def bits (v hi lo : Nat) : Nat := (v >>> lo) % 2 ^ (hi + 1 - lo)

/-- A Bool as a bit. -/
def b2n (b : Bool) : Nat := if b then 1 else 0

/-- Two's complement reading of the low w bits. -/
def sInt (w v : Nat) : Int :=
  let x := v % 2 ^ w
  if x < 2 ^ (w - 1) then (x : Int) else (x : Int) - 2 ^ w

/-- Two's complement bits of an integer in w bits. -/
def uInt (w : Nat) (i : Int) : Nat := (i % 2 ^ w).toNat

/-- Clamp to [lo, hi]. -/
def clampI (lo hi v : Int) : Int := if v < lo then lo else if hi < v then hi else v

/-- Saturate at n. -/
def satN (n v : Nat) : Nat := if v ≤ n then v else n

/-- A saturating count in a bit vector. -/
def satInc {w : Nat} (v : BitVec w) : BitVec w := if v = BitVec.allOnes w then v else v + 1

/-- Division rounded up. -/
def cdiv (a b : Nat) : Nat := (a + b - 1) / b

/-- All bytes are zero. -/
def allZero (bs : List Byte) : Bool := bs.all (fun b => b == 0)

/-- Element i of a list of numbers, or zero. -/
def at0 (l : List Nat) (i : Nat) : Nat := l.getD i 0

/-! ## Units -/

/-- Lanes of the ordering code (00 R1, R2). -/
def laneCount (s : State) : Nat := if s.ident.half then 256 else 512

/-- Port groups of the ordering code. -/
def groupCount (s : State) : Nat := if s.ident.half then 16 else 32

/-- Table clusters of the ordering code. -/
def clusterCount (s : State) : Nat := if s.ident.half then 2 else 4

/-- Octets of the ordering code. -/
def octetCount (s : State) : Nat := if s.ident.half then 32 else 64

/-- Port group of a port (1 Table 1.1). -/
def groupOf (p : Nat) : Nat := p / 16

/-- Cluster of a port group (01 R23). -/
def clusterOf (g : Nat) : Nat := g / 8

/-- A lane. -/
def lane (s : State) (l : Nat) : Lane := tabGetD s.lanes l {}

/-- Change a lane. -/
def modLane (l : Nat) (f : Lane → Lane) (s : State) : State :=
  { s with lanes := tabMod s.lanes l {} f }

/-- A configured port. -/
def port (s : State) (p : Nat) : Option Port := tabGet s.ports p

/-- Change a configured port; nothing where it is not configured. -/
def modPort (p : Nat) (f : Port → Port) (s : State) : State :=
  { s with ports := tabUpd s.ports p f }

/-- A port group. -/
def grp (s : State) (g : Nat) : Group := tabGetD s.groups g {}

/-- Change a port group. -/
def modGrp (g : Nat) (f : Group → Group) (s : State) : State :=
  { s with groups := tabMod s.groups g {} f }

/-- A table cluster. -/
def cluster (s : State) (c : Nat) : Cluster := tabGetD s.clusters c {}

/-- Change a table cluster. -/
def modCluster (c : Nat) (f : Cluster → Cluster) (s : State) : State :=
  { s with clusters := tabMod s.clusters c {} f }

/-- The lanes of a port. -/
def portLanes (p : Nat) (x : Port) : List Nat := (List.range x.width).map (fun i => p + i)

/-- A queue of a port: Q00 to Q15 as 0 to 15, M0 to M3 as 16 to 19. -/
def queue (x : Port) (q : Nat) : Queue := tabGetD x.queues q {}

/-- Change a queue. -/
def modQueue (p q : Nat) (f : Queue → Queue) (s : State) : State :=
  modPort p (fun x => { x with queues := tabMod x.queues q {} f }) s

/-- A mailbox. -/
def mbox (s : State) (m : Nat) : Mailbox := tabGetD s.mboxes m {}

/-- Change a mailbox. -/
def modMbox (m : Nat) (f : Mailbox → Mailbox) (s : State) : State :=
  { s with mboxes := tabMod s.mboxes m {} f }

/-- Change the queue of every port at a fold over indices. -/
def forAll (l : List Nat) (f : Nat → State → State) (s : State) : State :=
  l.foldl (fun acc i => f i acc) s

/-- Draw n free bytes. -/
def drawFree (n : Nat) (s : State) : List Byte × State :=
  ((List.range n).map (fun i => Config.freeByte (s.freeCount + i)), { s with freeCount := s.freeCount + n })

/-- The trick count as a number (02 R45). -/
def now (s : State) : Nat := s.trick.count.toNat

/-- The trick index as a number (02 R44). -/
def idx (s : State) : Nat := s.trick.index.toNat

/-! ## Device memory and host memory -/

/-- Bytes of LPDDR5X (14 R425). -/
def devRead (s : State) (a n : Nat) : List Byte := memReadN s.devMem a n

/-- Write LPDDR5X. -/
def devWrite (a : Nat) (bs : List Byte) (s : State) : State := { s with devMem := memWriteL s.devMem a bs }

/-- Bytes of host memory. -/
def hostRead (s : State) (a n : Nat) : List Byte := memReadN s.hostMem a n

/-- Write host memory. -/
def hostWrite (a : Nat) (bs : List Byte) (s : State) : State := { s with hostMem := memWriteL s.hostMem a bs }

/-- Bytes that host software has stored before a command. -/
def hostStores (l : List (Nat × Byte)) (s : State) : State :=
  { s with hostMem := l.foldl (fun m e => memWrite m e.1 e.2) s.hostMem }

end Sys2Proof.Machine
end

