-- ==== Sys2Proof/Machine/Crc.lean ====
section
/-! DEFINITION. The two CRCs of 06 R147, in reflected form, and the Internet checksum arithmetic of RFC 1624. -/

namespace Sys2Proof.Machine

/-- One bit of a reflected CRC. -/
def crcBit (poly c : Nat) : Nat := if c % 2 = 1 then (c >>> 1) ^^^ poly else c >>> 1

/-- One byte of a reflected CRC, least significant bit first. -/
def crcByte (poly c : Nat) (b : Byte) : Nat :=
  let c0 := c ^^^ b.toNat
  crcBit poly (crcBit poly (crcBit poly (crcBit poly (crcBit poly (crcBit poly (crcBit poly (crcBit poly c0)))))))

/-- Running value over bytes. -/
def crcRun (poly c : Nat) (bs : List Byte) : Nat := bs.foldl (crcByte poly) c

/-- Reflected Castagnoli polynomial. -/
def polyC : Nat := 0x82F63B78

/-- Reflected IEEE 802.3 polynomial. -/
def polyE : Nat := 0xEDB88320

/-- H1 of 06 R147: CRC-32C from a seed. -/
def crc32c (seed : Nat) (bs : List Byte) : Nat := crcRun polyC seed bs ^^^ 0xFFFFFFFF

/-- H2 of 06 R147: CRC-32 of IEEE 802.3 from a seed. -/
def crc32 (seed : Nat) (bs : List Byte) : Nat := crcRun polyE seed bs ^^^ 0xFFFFFFFF

/-- The FCS of a frame, as the four bytes sent. -/
def fcsOf (bs : List Byte) : List Byte := leBytes 4 (crc32 0xFFFFFFFF bs)

/-- End-around carry of a 16-bit one's complement sum. -/
def onesAdd (a b : Nat) : Nat :=
  let t := a + b
  (t % 65536 + t / 65536) % 65536 + (t % 65536 + t / 65536) / 65536

/-- RFC 1624: a checksum after a 16-bit word changed from old to new. -/
def csumUpdate (c old new : Nat) : Nat :=
  65535 - onesAdd (onesAdd (65535 - c) (65535 - old)) new

/-- RFC 1624 over a run of bytes at an even offset. -/
def csumUpdateL (c : Nat) (old new : List Byte) : Nat :=
  ((List.range (old.length / 2)).map (fun i => (bfld old (2 * i) 2, bfld new (2 * i) 2))).foldl
    (fun acc p => csumUpdate acc p.1 p.2) c

end Sys2Proof.Machine
end

