-- ==== Sys2Proof/Machine/Board.lean ====
section
/-! DEFINITION. The board table: its copies (18 R526), lane records and FIR sets (03 R67 to R69). -/

namespace Sys2Proof.Machine

/-- Length of a board table copy. -/
def boardLen : Nat := 282624

/-- A field of a byte memory, little-endian. -/
def memFld (m : Mem) (a n : Nat) : Nat := leVal (memReadN m a n)

/-- State of a copy as 18 Table 18.6 names it: 1 valid, 2 CHECK fails, 3 header or range fails. -/
def boardState (m : Mem) : Nat :=
  if memFld m 0 4 ≠ 0xB0A4D7C5 ∨ memFld m 4 2 ≠ 1 ∨ memFld m 16 4 ≠ boardLen ∨ memFld m 28 4 ≠ 4096
    ∨ 1000000 < memFld m 20 4 ∨ memFld m 24 4 < 9000 ∨ 58000 < memFld m 24 4 then 3
  else if crc32c 0xFFFFFFFF (memReadN (memClear m 64 4) 0 boardLen) ≠ memFld m 64 4 then 2
  else 1

/-- Offset of lane record n. -/
def recOff (n : Nat) : Nat := 4096 + 544 * n

/-- Position matches the record's LANE field, and a valid table is in use (03 R68; 18 R527). -/
def recOk (s : State) (n : Nat) : Bool :=
  s.boot.tableOk && memFld s.boot.table (recOff n) 2 == n

/-- FLAGS of a lane record; zero without a valid table. -/
def recFlags (s : State) (n : Nat) : Nat := if s.boot.tableOk then memFld s.boot.table (recOff n + 2) 1 else 0

/-- LINEAR_OK of a lane record. -/
def linearOk (s : State) (n : Nat) : Bool := (recFlags s n).testBit 2

/-- NO_N400 of a lane record. -/
def noN400 (s : State) (n : Nat) : Bool := (recFlags s n).testBit 3

/-- EYE_WARN of a lane record. -/
def eyeWarn (s : State) (n : Nat) : Nat := if s.boot.tableOk then memFld s.boot.table (recOff n + 3) 1 else 0

/-- PLANE_DELAY of a lane record, ps. -/
def planeDelay (s : State) (n : Nat) : Nat := if s.boot.tableOk then memFld s.boot.table (recOff n + 4) 2 else 0

/-- The 8 bytes of FIR set k of lane n (03 Table 3.5). -/
def firBytes (m : Mem) (n k : Nat) : List Byte := memReadN m (recOff n + 32 + 8 * k) 8

/-- The five taps of a set. -/
def firTaps (b : List Byte) : List Int := (List.range 5).map (fun i => sInt 8 (fld b i 1))

/-- The four conditions of 03 R68 on a set. -/
def firOk (b : List Byte) : Bool :=
  (fld b 6 1).testBit 0 && decide (((firTaps b).map Int.natAbs).sum = 64) && decide (32 ≤ (firTaps b).getD 3 0)
    && decide (40 ≤ fld b 5 1 ∧ fld b 5 1 ≤ 120)

/-- FIR set k of lane n is usable (03 R68). -/
def firUsable (s : State) (n k : Nat) : Bool := recOk s n && firOk (firBytes s.boot.table n k)

/-- Rate group of a lane mode: 0 for N-400, 1 for 100G and 200G (03 R67). -/
def rateGroup (mode : Nat) : Nat := if mode = 3 then 0 else 1

/-- Index of the set that 03 R69 selects for a class, mode and mark, when one is usable. A usable alternate does not stand in for an unusable primary on a lane that is not marked to use it: that needs the missing set (DESIGN CHOICE, log entry 101). -/
def firSelect (s : State) (n cls mode : Nat) (alt : Bool) : Option Nat :=
  let k := 4 * cls + 2 * rateGroup mode
  if alt && firUsable s n (k + 1) then some (k + 1)
  else if firUsable s n k then some k
  else none

/-- The checks of 18 R526 over the lane records: unusable FIR sets, and records whose LANE does not match. -/
def boardCounts (m : Mem) : Nat × Nat :=
  let bad := (List.range 512).filter (fun n => memFld m (recOff n) 2 != n)
  let sets := (List.range 512).map (fun n => ((List.range 64).filter (fun k => !firOk (firBytes m n k))).length)
  (sets.sum, bad.length)

end Sys2Proof.Machine
end

