-- ==== Sys2Proof/Machine/Flags.lean ====
section
/-! DEFINITION. Flags and counts that many commands raise: event counters (11 R349), watch counters (11 R350), interrupts (14 R446, R447), fault events (17 R501 to R505) and the access-error bits of the register regions (00 R20, R21). -/

namespace Sys2Proof.Machine

/-! ## Event counters -/

/-- Index of an event counter: code, unit, PARAM (11 R349). -/
def evKey (code unit param : Nat) : Nat := (code * 65536 + unit) * 64 + param

/-- An event counter. -/
def evGet (s : State) (code unit param : Nat) : BitVec 64 := tabGetD s.evc (evKey code unit param) 0

/-- Add to an event counter; it is 64 bits wide and wraps. -/
def evAdd (code unit param n : Nat) (s : State) : State :=
  { s with evc := tabMod s.evc (evKey code unit param) 0 (fun v => v + BitVec.ofNat 64 n) }

/-- Count one event without PARAM. -/
def ev (code unit : Nat) (s : State) : State := evAdd code unit 0 1 s

/-- Zero an event counter. -/
def evZero (code unit param : Nat) (s : State) : State :=
  { s with evc := tabErase s.evc (evKey code unit param) }

/-- The value a status field of n bytes reports: the counter's low bits. -/
def evLow (s : State) (code unit param n : Nat) : List Byte := leBytes n (evGet s code unit param).toNat

/-! ## Watch counters -/

/-- A valued event: MODE 3 counters of its code, unit and PARAM count values above THRESHOLD (11 R350). -/
def watchEvent (code unit param value : Nat) (s : State) : State :=
  { s with telem := { s.telem with watch := tabMap s.telem.watch (fun _ w =>
      if w.mode = 3 ∧ w.code = code ∧ w.unit = unit ∧ w.param = param ∧ w.thresh < value
      then { w with value := w.value + 1 } else w) } }

/-! ## Interrupts -/

/-- A vector. -/
def vec (s : State) (v : Nat) : Vector := tabGetD s.irq.vecs v {}

/-- fire() of 14 R447: the message is sent, or the PBA bit set while the vector is masked. -/
def fireVec (v : Nat) (s : State) : State :=
  { s with irq := { s.irq with vecs := tabMod s.irq.vecs v {} (fun x =>
      if x.masked then { x with pba := true, pend := 0 } else { x with sent := x.sent + 1, pend := 0 }) } }

/-- An event reaches vector v (14 R447). COUNT 0 is read as 1. -/
def vecEvent (v : Nat) (s : State) : State :=
  let x := vec s v
  let s1 := { s with irq := { s.irq with vecs := tabPut s.irq.vecs v { x with pend := x.pend + 1, t0 := if x.pend = 0 then now s else x.t0 } } }
  if (if x.count = 0 then 1 else x.count) ≤ x.pend + 1 then fireVec v s1 else s1

/-- Interrupt source src raises one event (14 R446): its cause bit sets, and it reaches its vector when IRQ_MAP enables it. -/
def irqEvent (src : Nat) (s : State) : State :=
  let s1 := { s with irq := { s.irq with cause := s.irq.cause ||| (1#128 <<< src) } }
  match tabGet s.irq.map src with
  | some (true, v) => vecEvent v s1
  | _ => s1

/-- A ring's own source (14 R446): an event only while RING_CFG.IRQ is set. -/
def ringIrq (r : Nat) (s : State) : State :=
  if (tabGetD s.rings r {}).irq then irqEvent r s else s

/-- Boundary part of 14 R447 for one vector. TRICKS 0 is read as 64. -/
def vecTimeout (v : Nat) (s : State) : State :=
  let x := vec s v
  if 0 < x.pend ∧ (if x.tricks = 0 then 64 else x.tricks) ≤ now s - x.t0 then fireVec v s else s

/-! ## Fault events -/

/-- Default class, N and W of a source (17 Table 17.1). -/
def fltDefault (src : Nat) : FltSrc :=
  if src = 49 then ⟨0, 16, 16384⟩
  else if src = 50 then ⟨0, 1024, 1024⟩
  else if src = 52 then ⟨1, 64, 1024⟩
  else if src = 62 then ⟨1, 0, 0⟩
  else if src = 48 ∨ src = 51 ∨ src = 53 ∨ src = 54 ∨ src = 55 ∨ src = 56 ∨ src = 57 ∨ src = 58 ∨ src = 60
    ∨ src = 61 ∨ src = 65 ∨ src = 66 then ⟨1, 1, 0⟩
  else ⟨0, 1, 0⟩

/-- Class, N and W of a source in effect. -/
def fltSrc (s : State) (src : Nat) : FltSrc := tabGetD s.flt.srcs src (fltDefault src)

/-- Index of a fault instance. -/
def fltKey (src unit : Nat) : Nat := src * 1024 + unit

/-- Unit index of a buffer section under SPARES_EXHAUSTED, whose instances are clusters and sections (17 Table 17.1). -/
def sectionUnit (n : Nat) : Nat := 16 + n

/-- A fault instance. -/
def fltInst (s : State) (src unit : Nat) : FltInst := tabGetD s.flt.inst (fltKey src unit) {}

/-- Change a fault instance. -/
def modFlt (src unit : Nat) (f : FltInst → FltInst) (s : State) : State :=
  { s with flt := { s.flt with inst := tabMod s.flt.inst (fltKey src unit) {} f } }

/-- What follows when an instance becomes severe: the interrupt, and FAULT_N for the classes PIN and CONTAIN (17 R504, R505). -/
def severeActs (src : Nat) (s : State) : State :=
  let s1 := if 1 ≤ (fltSrc s src).cls then { s with flt := { s.flt with pulseNext := true } } else s
  if s.flt.irqSevere then irqEvent 114 s1 else s1

/-- An instance becomes severe. -/
def makeSevere (src unit : Nat) (s : State) : State :=
  severeActs src (modFlt src unit (fun i => { i with severe := true, severeTrick := idx s }) s)

/-- One fault event (17 R501), with the interrupts of R504. Sources above 68 never raise one. -/
def raiseFault (src unit detail : Nat) (inj : Bool) (s : State) : State :=
  if 68 < src then s else
  let i := fltInst s src unit
  let n := (fltSrc s src).n
  let c := (if i.opened then i.c else 0) + 1
  let i1 := { i with opened := true, s := if i.opened then i.s else now s, c := c, total := i.total + 1 }
  let fresh := !i.sticky
  let i2 := if fresh then { i1 with sticky := true, first := idx s, detail := detail % 2 ^ 32, injected := inj, order := s.flt.order } else i1
  let s1 := { s with flt := { s.flt with inst := tabPut s.flt.inst (fltKey src unit) i2, order := if fresh then s.flt.order + 1 else s.flt.order } }
  let s2 := if fresh && s.flt.irqFirst then irqEvent 114 s1 else s1
  if n ≠ 0 ∧ n ≤ c ∧ i.severe = false then makeSevere src unit s2 else s2

/-- A fault event that hardware raises. -/
def fault (src unit detail : Nat) (s : State) : State := raiseFault src unit detail false s

/-- Region of a BAR0 offset in the row order of Table 14.2, as REG_ACCESS counts it; an offset outside every region counts to the first region below it. -/
def regionOf (a : Nat) : Nat :=
  if a < 0x10000 then 0 else if a < 0x20000 then 1 else if a < 0x30000 then 2 else if a < 0x40000 then 3
  else if a < 0x50000 then 4 else if a < 0x60000 then 5 else if a < 0x80000 then 6 else if a < 0x100000 then 7
  else if a < 0x400000 then 8 else if a < 0x800000 then 9 else if a < 0x1000000 then 10 else 11

/-- A register access error (00 R20, R21): one REG_ACCESS event of the region. -/
def regError (a : Nat) (s : State) : State := fault (36 + regionOf a) 0 a s

/-- Close a window and clear the severe bit (17 R502). -/
def clearSevere (i : FltInst) : FltInst := if i.severe then { i with severe := false, opened := false, c := 0 } else i

/-- The fault-window job (17 R501): every window older than W closes. -/
def closeWindows (s : State) : State :=
  { s with flt := { s.flt with inst := tabMap s.flt.inst (fun k i =>
      let w := (fltSrc s (k / 1024)).w
      if i.opened ∧ w ≠ 0 ∧ w ≤ now s - i.s then { i with opened := false, c := 0 } else i) } }

/-- Instances now severe. -/
def severeCount (s : State) : Nat := (s.flt.inst.filter (fun e => e.2.severe)).length

/-- FAULT_N is driven low: the OR of the pulse and ASSERT (17 R505); held low in recovery (18 R525). -/
def faultPin (s : State) : Bool := s.flt.pulsing || s.flt.assertPin || decide (s.boot.phase = .recovery)

end Sys2Proof.Machine
end

