-- ==== Sys2Proof/Machine/Buffer.lean ====
section
/-! DEFINITION. Operations of the shared buffer: power rungs of sections, cells and free lists (08 R216 to R220), chains, stakes and owners (R221 to R223), accounts and admission (R224 to R232), pause requests and pause frames (R233; 09 R272 to R274), and random early drop (R240). -/

namespace Sys2Proof.Machine

/-! ## Power domains (16 Table 16.3) -/

/-- A domain fused off on the N2048-H (00 R2). -/
def fusedOff (s : State) (d : Nat) : Bool :=
  s.ident.half && (decide (32 ≤ d ∧ d < 64) || decide (80 ≤ d ∧ d < 96) || decide (106 ≤ d ∧ d < 108))

/-- A power domain; an octet's starts at rung 5 (18 Table 18.3). -/
def pdom (s : State) (d : Nat) : PDom :=
  tabGetD s.power.doms d (if d < 64 then { req := 5, held := 5 } else {})

/-- Rung held by an octet's shared PLL and supply: the highest-power rung of its eight lanes (03 R82). -/
def octetRung (s : State) (o : Nat) : Nat :=
  (List.range 8).foldl (fun acc i => min acc (lane s (8 * o + i)).rung) 5

/-- The rung a domain holds; 0 is Run (16 R474). -/
def heldRung (s : State) (d : Nat) : Nat :=
  if fusedOff s d then 5 else if d < 64 then octetRung s d else (pdom s d).held

/-- A domain is at Run and has completed its exit. -/
def atRun (s : State) (d : Nat) : Bool := decide (heldRung s d = 0) && !(pdom s d).moving

/-! ## Cells and free lists -/

/-- Cells of a section. -/
def secCells : Nat := 163840

/-- Cells of the buffer. -/
def bufCells : Nat := 1310720

/-- A section. -/
def sect (s : State) (n : Nat) : Section := tabGetD s.buf.sections n {}

/-- Change a section. -/
def modSect (n : Nat) (f : Section → Section) (s : State) : State :=
  { s with buf := { s.buf with sections := tabMod s.buf.sections n {} f } }

/-- A section's domain is at Run. -/
def sectRun (s : State) (n : Nat) : Bool := decide (heldRung s (96 + n) = 0)

/-- The section has a free cell. -/
def sectFree (x : Section) : Bool := !(x.backlog.isEmpty && x.cache.isEmpty && x.list.isEmpty)

/-- Allocatable: at Run, not draining, not rebuilding its list after an exit, with a free cell (08 R218, R247). A list being rebuilt from the link entries leaves the cache and backlog in use (R250). -/
def allocatable (s : State) (n : Nat) : Bool :=
  let x := sect s n
  sectRun s n && !x.drain && !x.rebuilding &&
    (if x.listRebuild then !(x.backlog.isEmpty && x.cache.isEmpty) else sectFree x)

/-- Take the first index of a list held as runs. -/
def runsPop (l : List (Nat × Nat)) : Option (Nat × List (Nat × Nat)) :=
  match l with
  | [] => none
  | (a, n) :: r => if n ≤ 1 then some (a, r) else some (a, (a + 1, n - 1) :: r)

/-- Put an index in front of a list held as runs. -/
def runsPush (a : Nat) (l : List (Nat × Nat)) : List (Nat × Nat) :=
  match l with
  | (b, n) :: r => if a + 1 = b then (a, n + 1) :: r else (a, 1) :: (b, n) :: r
  | [] => [(a, 1)]

/-- Put an index behind a list held as runs. -/
def runsSnoc (a : Nat) (l : List (Nat × Nat)) : List (Nat × Nat) :=
  match l with
  | [] => [(a, 1)]
  | [(b, n)] => if b + n = a then [(b, n + 1)] else [(b, n), (a, 1)]
  | e :: r => e :: runsSnoc a r

/-- Indices in a list held as runs. -/
def runsLen (l : List (Nat × Nat)) : Nat := (l.map (fun r => r.2)).sum

/-- An index is in a list held as runs. -/
def runsMem (c : Nat) (l : List (Nat × Nat)) : Bool := l.any (fun r => decide (r.1 ≤ c ∧ c < r.1 + r.2))

/-- The first k indices of a list held as runs, and the rest. -/
def runsSplit (k : Nat) (l : List (Nat × Nat)) : List (Nat × Nat) × List (Nat × Nat) :=
  match l with
  | [] => ([], [])
  | (a, n) :: r =>
    if k = 0 then ([], l)
    else if n ≤ k then
      let t := runsSplit (k - n) r
      ((a, n) :: t.1, t.2)
    else ([(a, k)], (a + k, n - k) :: r)

/-- Remove an index from a list held as runs. -/
def runsDel (x : Nat) (l : List (Nat × Nat)) : List (Nat × Nat) :=
  l.flatMap (fun e =>
    let (a, n) := e
    if a ≤ x ∧ x < a + n then
      (if a < x then [(a, x - a)] else []) ++ (if x + 1 < a + n then [(x + 1, a + n - x - 1)] else [])
    else [(a, n)])

/-- A list held as runs from index c on, when c is in it. -/
def runsFrom (c : Nat) (l : List (Nat × Nat)) : Option (List (Nat × Nat)) :=
  match l with
  | [] => none
  | (a, n) :: r => if a ≤ c ∧ c < a + n then some ((c, a + n - c) :: r) else runsFrom c r

/-- The ascending runs of a section's cells without the ones given (08 R247). -/
def freshRuns (n : Nat) (without : List Nat) : List (Nat × Nat) :=
  without.foldl (fun acc x => runsDel x acc) [(n * secCells, secCells)]

/-- The end of a free list (08 R219). -/
def endLink : Nat := 0x1FFFFF

/-- The index that follows c on a list. -/
def runsNext (c : Nat) (l : List (Nat × Nat)) : Nat :=
  match l with
  | [] => endLink
  | (a, n) :: r =>
    if a ≤ c ∧ c < a + n then
      if c + 1 < a + n then c + 1
      else match r with
        | (b, _) :: _ => b
        | [] => endLink
    else runsNext c r

/-- The first 4 bytes of word 0 of a listed cell (08 R219): what the pool manager wrote there, unless something else has. -/
def linkOf (x : Section) (c : Nat) : Nat := tabGetD x.links c (runsNext c x.list)

/-- A byte of the buffer address space (08 R216): in a listed cell the pointer of R219, else what the cell holds. -/
def bufByte (s : State) (a : Nat) : Byte :=
  let c := a / 256
  let x := sect s (c / secCells)
  if a % 256 < 4 ∧ runsMem c x.list = true then byte (linkOf x c / 256 ^ (a % 256)) else memRead s.buf.mem a

/-- n bytes of the buffer address space from a. -/
def bufRead (s : State) (a n : Nat) : List Byte := (List.range n).map (fun i => bufByte s (a + i))

/-- The list's head leaves it, and its pointer names the next one. Broken, the pointer takes the rest of the list with it and the list is to be rebuilt (08 R250). -/
def listPop (x : Section) : Option (Nat × Section × Bool) :=
  match runsPop x.list with
  | none => none
  | some (c, rest) =>
    let v := linkOf x c
    let y := { x with list := rest, links := tabErase x.links c }
    if v = runsNext c x.list then some (c, y, false)
    else match runsFrom v rest with
      | some l => some (c, { y with list := l }, false)
      | none => some (c, { y with list := [], links := [], listRebuild := true }, true)

/-- At most k indices move from the list to the cache. -/
def cacheFill (k : Nat) (x : Section) : Section × Bool :=
  match k with
  | 0 => (x, false)
  | n + 1 =>
    match listPop x with
    | none => (x, false)
    | some (c, y, broken) =>
      let z := { y with cache := runsSnoc c y.cache }
      if broken then (z, true) else cacheFill n z

/-- Below 512 indices the cache refills from the list (08 R220): as a whole while every pointer is the pool manager's own. True when a broken pointer was found. -/
def cacheRefill (x : Section) : Section × Bool :=
  let k := 512 - runsLen x.cache
  if x.listRebuild = true ∨ k = 0 then (x, false)
  else if x.links.isEmpty then
    let t := runsSplit k x.list
    ({ x with cache := x.cache ++ t.1, list := t.2 }, false)
  else cacheFill k x

/-- Above 3,584 indices the cache spills its oldest ones onto the list (08 R220). -/
def cacheSpill (k : Nat) (x : Section) : Section :=
  match k with
  | 0 => x
  | n + 1 =>
    if x.listRebuild = true ∨ runsLen x.cache ≤ 3584 then x
    else match runsPop x.cache with
      | some (c, r) => cacheSpill n { x with cache := r, list := runsPush c x.list }
      | none => x

/-- A free index enters the cache, else the backlog; with both full its requester waits (08 R220). -/
def sectKeep (c : Nat) (x : Section) : Section :=
  if runsLen x.cache < 4096 then cacheSpill 512 { x with cache := runsSnoc c x.cache }
  else if x.backlog.length < 8192 then { x with backlog := x.backlog ++ [c] }
  else { x with waiting := x.waiting ++ [c] }

/-- One cell of a section: backlog, then cache, then list head (08 R220). True when a broken pointer was found on the way. -/
def sectTake (x : Section) : Option (Nat × Section × Bool) :=
  match x.backlog with
  | c :: r => some (c, { x with backlog := r ++ x.waiting.take 1, waiting := x.waiting.drop 1 }, false)
  | [] =>
    match runsPop x.cache with
    | some (c, r) => some (c, cacheRefill { x with cache := r })
    | none =>
      if x.listRebuild then none
      else (listPop x).map (fun e =>
        let t := cacheRefill e.2.1
        (e.1, t.1, e.2.2 || t.2))

/-- A cell returns to its section (08 R220). A cell marked for retirement is removed instead (08 R249). -/
def sectGive (c : Nat) (x : Section) : Section :=
  if x.retireMark.contains c then
    { x with retireMark := x.retireMark.filter (fun y => y != c), retired := x.retired ++ [c] }
  else sectKeep c x

/-- A list is new: every cell of the section that is not retired, in a chain, in the cache or in the backlog, in ascending index (08 R247, R250); the cache takes its share. -/
def sectRelist (n : Nat) (used : List Nat) (x : Section) : Section :=
  let kept := x.cache.foldl (fun l r => (List.range r.2).foldl (fun a i => runsDel (r.1 + i) a) l) (freshRuns n (x.retired ++ used ++ x.backlog ++ x.waiting))
  cacheSpill 512 (cacheRefill { x with list := kept, links := [], listRebuild := false, rebuilding := false }).1

/-- A requester of the pool manager (08 Table 8.2). -/
def requester (s : State) (r : Nat) : Requester := tabGetD s.buf.requesters r {}

/-- Change a requester. -/
def modReq (r : Nat) (f : Requester → Requester) (s : State) : State :=
  { s with buf := { s.buf with requesters := tabMod s.buf.requesters r {} f } }

/-- The section after the last one used, in the rotation over allocatable sections (08 R218). -/
def nextSect (s : State) (last : Nat) : Option Nat :=
  ((List.range 8).map (fun i => (last + 1 + i) % 8)).find? (fun n => allocatable s n)

/-- One cell for a requester. -/
def takeCell (r : Nat) (s : State) : Option (Nat × State) :=
  match nextSect s (requester s r).last with
  | none => none
  | some n =>
    match sectTake (sect s n) with
    | none => none
    | some (c, x, broken) =>
      let s1 := modReq r (fun y => { y with last := n }) (modSect n (fun _ => x) s)
      some (c, if broken then fault 54 n c s1 else s1)

/-- n cells for a requester; none when the buffer runs out before. -/
def takeCells (n r : Nat) (s : State) : Option (List Nat × State) :=
  match n with
  | 0 => some ([], s)
  | k + 1 =>
    match takeCell r s with
    | none => none
    | some (c, s1) => (takeCells k r s1).map (fun e => (c :: e.1, e.2))

/-- Section of a cell. -/
def sectOf (c : Nat) : Nat := c / secCells

/-- Cells go back to their sections. -/
def giveCells (cs : List Nat) (s : State) : State :=
  cs.foldl (fun acc c => modSect (sectOf c) (sectGive c) acc) s

/-! ## Chains -/

/-- Cells of F bytes. -/
def cellsOf (f : Nat) : Nat := cdiv f 256

/-- Write frame bytes into a chain's cells from byte off of the frame. -/
def chainWrite (cs : List Nat) (off : Nat) (bs : List Byte) (s : State) : State :=
  { s with buf := { s.buf with mem := (bs.zipIdx off).foldl (fun m e => memWrite m (256 * cs.getD (e.2 / 256) 0 + e.2 % 256) e.1) s.buf.mem } }

/-- Charge a requester's stake. -/
def stakeAdd (r n : Nat) (s : State) : State := modReq r (fun y => { y with charged := y.charged + n }) s

/-- Take a requester's charge back. -/
def stakeSub (r n : Nat) (s : State) : State := modReq r (fun y => { y with charged := y.charged - n }) s

/-- The stake of a requester other than a port group refuses n more cells (08 R221). -/
def stakeRefuses (s : State) (r n : Nat) : Bool := decide ((requester s r).stake < (requester s r).charged + n)

/-- A chain of n cells for a requester, charged to its stake, with the bytes that have arrived; none when no cell is free. Only the cells written are taken: a frame still arriving gets the others with its last byte (08 R221). -/
def newChain (r n len : Nat) (bs : List Byte) (s : State) : Option (Nat × State) :=
  match takeCells n r s with
  | some (c :: cs, s1) =>
    let s2 := chainWrite (c :: cs) 0 bs s1
    some (c, stakeAdd r n { s2 with buf := { s2.buf with chains := tabPut s2.buf.chains c { cells := c :: cs, owner := r, refcnt := 0, writer := r, staked := n, len := len, mta := none } } })
  | _ => none

/-- A chain. -/
def chain (s : State) (h : Nat) : Option Chain := tabGet s.buf.chains h

/-- Change a chain. -/
def modChain (h : Nat) (f : Chain → Chain) (s : State) : State :=
  { s with buf := { s.buf with chains := tabUpd s.buf.chains h f } }

/-- n bytes of a chain from byte off. -/
def chainRead (s : State) (h off n : Nat) : List Byte :=
  match chain s h with
  | some c => (List.range n).map (fun i => memRead s.buf.mem (256 * c.cells.getD ((off + i) / 256) 0 + (off + i) % 256))
  | none => zeros n

/-- A frame still arriving whose chain has gone is stored nowhere. -/
def orphan (h : Nat) (s : State) : State :=
  if s.ports.any (fun e => match e.2.arriving with
      | some a => a.head == h
      | none => false) then
    { s with ports := tabMap s.ports (fun _ x => { x with arriving := x.arriving.map (fun a => if a.head = h then { a with head := bufCells, mta := bufCells, copies := [] } else a) }) }
  else s

/-- The decision on a chain has been made, or it goes: its cells leave the stake of the requester that wrote them (08 R221). -/
def unstake (h : Nat) (s : State) : State :=
  match chain s h with
  | none => s
  | some c => if c.staked = 0 then s else modChain h (fun y => { y with staked := 0 }) (stakeSub c.writer c.staked s)

/-- The cells of a chain return to the free lists and its metadata record to the pool (08 R222, R225). -/
def dropChain (h : Nat) (s0 : State) : State :=
  match chain s0 h with
  | none => s0
  | some c =>
    let s := orphan h (unstake h s0)
    let s1 := { s with buf := { s.buf with
      chains := tabErase s.buf.chains h
      metas := match c.mta with
        | some m => tabErase s.buf.metas m
        | none => s.buf.metas } }
    giveCells c.cells s1

/-- A reference on a chain goes; the last one frees it in the name of its owner (08 R222; 14 R441). -/
def chainUnref (h : Nat) (s : State) : State :=
  match chain s h with
  | none => s
  | some c => if c.refcnt ≤ 1 then dropChain h s else modChain h (fun y => { y with refcnt := y.refcnt - 1 }) s

/-- A reference on a chain is added. -/
def chainRef (h : Nat) (s : State) : State := modChain h (fun y => { y with refcnt := y.refcnt + 1 }) s

/-- The chain, if any, one of whose cells is c. -/
def chainOfCell (s : State) (c : Nat) : Option (Nat × Chain) :=
  s.buf.chains.find? (fun e => e.2.cells.contains c)

/-- A free request by address (08 R223): bad pointer, revoke, or the chain is freed. -/
def freeRequest (r addr : Nat) (s : State) : State :=
  let c := addr / 256
  let reject := fun (code : Nat) (t : State) =>
    fault r 0 addr (evAdd code 0 r 1 t)
  if addr % 256 ≠ 0 ∨ bufCells ≤ c ∨ sectRun s (sectOf c) = false then reject 0x0502 s
  else match chain s c with
    | some x => if x.owner = r then dropChain c s else reject 0x0501 s
    | none => reject 0x0501 s

/-- No cell of the section belongs to a chain. -/
def sectEmpty (s : State) (n : Nat) : Bool :=
  s.buf.chains.all (fun e => e.2.cells.all (fun c => sectOf c != n))

/-- DRAINED: the section drains and its last chain has been freed (08 R246). -/
def sectDrained (s : State) (n : Nat) : Bool := (sect s n).drain && sectEmpty s n

/-! ## Accounts -/

/-- Usable cells of a section at Run and not draining (08 R227). -/
def sectUsable (s : State) (n : Nat) : Nat :=
  if sectRun s n && !(sect s n).drain then secCells - (sect s n).retired.length - (sect s n).retireMark.length else 0

/-- U of 08 R227. -/
def usableCells (s : State) : Nat := ((List.range 8).map (sectUsable s)).sum

/-- Sum over the queues of configured ports. -/
def sumQueues (s : State) (f : Queue → Nat) : Nat :=
  (s.ports.map (fun e => (e.2.queues.map (fun q => f q.2)).sum)).sum

/-- Sum of the stakes of all 36 requesters. -/
def stakeSum (s : State) : Nat := ((List.range 36).map (fun r => (requester s r).stake)).sum

/-- S of 08 R227 before retirement takes it below zero. -/
def potSizeI (s : State) : Int :=
  (usableCells s : Int) - sumQueues s (fun q => q.ante) - s.buf.kitty - stakeSum s

/-- S. -/
def potSize (s : State) : Nat := (potSizeI s).toNat

/-- F_pot. -/
def potFree (s : State) : Nat := potSize s - s.buf.potUsed

/-- Q: cells charged to a queue from all three accounts. -/
def depth (q : Queue) : Nat := q.a + q.p + q.k

/-- Next value of the random early drop register (08 R240). -/
def lfsrShift (n : Nat) (v : BitVec 16) : BitVec 16 :=
  match n with
  | 0 => v
  | k + 1 =>
    let fb := (v ^^^ (v >>> 2) ^^^ (v >>> 3) ^^^ (v >>> 5)) &&& 1#16
    lfsrShift k ((v >>> 1) ||| (fb <<< 15))

/-- Random early drop on a privileged queue (08 R240): the decision, and whether a value was drawn. -/
def redDrop (q : Queue) (colour : Nat) (v : BitVec 16) : Bool × Bool :=
  let f := q.red.getD (if colour = 3 then 2 else colour) {}
  let d := depth q
  if d < f.min then (false, false)
  else if f.max ≤ d then (true, false)
  else (decide ((lfsrShift 16 v).toNat * (f.max - f.min) < f.maxp * (d - f.min) * 256), true)

/-- Lossless treatment of a frame (08 R226). -/
def isLossless (s : State) (inPort pri : Nat) : Bool :=
  match port s inPort with
  | some x => x.lossless.toNat.testBit pri
  | none => false

/-! ## Pause requests and pause frames -/

/-- Two PFC frames that wait become one, when they do not speak of the same priority (09 R272). -/
def mergePfc (a b : MacCtl) : MacCtl :=
  { a with vec := a.vec ||| b.vec, quanta := (List.range 8).map (fun i => if b.vec.getLsbD i then at0 b.quanta i else at0 a.quanta i) }

/-- A MAC control frame joins those that wait: changes of several priorities pending at one moment share one frame (09 R272). -/
def joinMacCtl (l : List MacCtl) (m : MacCtl) : List MacCtl :=
  match l.getLast? with
  | some a => if a.annex31 = false ∧ m.annex31 = false ∧ a.vec &&& m.vec = 0 then l.dropLast ++ [mergePfc a m] else l ++ [m]
  | none => [m]

/-- Send a MAC control frame ahead of all queued traffic; none while the port is not UP (09 R272). -/
def pushMacCtl (p : Nat) (m : MacCtl) (s : State) : State :=
  modPort p (fun x => if x.link = .up then { x with macCtl := joinMacCtl x.macCtl m } else x) s

/-- The priorities that generate PFC (09 R272). -/
def pfcGen (x : Port) : BitVec 8 := x.lossless &&& x.pfcTx

/-- What the port must advertise now: a bit for each priority with a standing request and a PFC path, bit 8 for Annex 31B (09 R272, R274). -/
def wantAdvert (x : Port) : BitVec 9 :=
  let pfc := (pfcGen x &&& x.pauseReq).setWidth 9
  if x.pfcTx = 0 ∧ x.pauseTx = true ∧ x.pauseReq ≠ 0 then pfc ||| 256#9 else pfc

/-- Frames that announce the change from what is advertised (09 R272, R274): one PFC frame for all priorities that change, one Annex 31B frame. While PFC_TX is not 0 the port sends PFC only. -/
def announce (p : Nat) (s : State) : State :=
  match port s p with
  | none => s
  | some x =>
    if x.link ≠ .up then s else
    let w := wantAdvert x
    let chg := w ^^^ x.advert
    let pf := chg.setWidth 8
    let quanta := (List.range 8).map (fun i => if w.getLsbD i then x.pfcQuanta else 0)
    let s1 := if pf ≠ 0 then pushMacCtl p { annex31 := false, vec := pf, quanta := quanta } s else s
    let s2 := if chg.getLsbD 8 ∧ x.pfcTx = 0 then pushMacCtl p { annex31 := true, vec := 0, quanta := [if w.getLsbD 8 then x.pauseQuanta else 0] } s1 else s1
    modPort p (fun y => { y with advert := w }) s2

/-- PAUSE_REQ of one ingress port and priority after its accounts moved (08 R233). -/
def pauseUpdate (p i : Nat) (kitty : Bool) (s : State) : State :=
  match port s p with
  | none => s
  | some x =>
    if x.lossless.toNat.testBit i = false then s else
    let bit : BitVec 8 := 1#8 <<< i
    let req :=
      if kitty ∨ at0 x.xoff i ≤ at0 x.u i then x.pauseReq ||| bit
      else if at0 x.k i = 0 ∧ at0 x.u i ≤ at0 x.xon i then x.pauseReq &&& ~~~bit
      else x.pauseReq
    if req = x.pauseReq then s else announce p (modPort p (fun y => { y with pauseReq := req }) s)

/-- NO_PAUSE_PATH of 09 R274: a lossless priority without a generating path. -/
def noPausePath (x : Port) : Bool :=
  if x.pfcTx ≠ 0 then decide (x.lossless &&& ~~~x.pfcTx ≠ 0) else decide (x.lossless ≠ 0) && !x.pauseTx

/-- PFC_OVER_PAUSE of 09 R274. -/
def pfcOverPause (x : Port) : Bool := decide (x.pfcTx ≠ 0) && x.pauseTx

/-- Change u or k of an ingress port and priority. -/
def modUK (p i : Nat) (acc : Account) (f : Nat → Nat) (s : State) : State :=
  modPort p (fun x =>
    match acc with
    | .ante => x
    | .pot => { x with u := x.u.set i (f (at0 x.u i)) }
    | .kitty => { x with k := x.k.set i (f (at0 x.k i)) }) s

/-! ## Admission (08 R228) -/

/-- Why a frame or copy is refused. The number is the reason code of 14 R436. -/
inductive Refuse where
  | hard | noRoom | red | portDown | descFull
  deriving DecidableEq, Repr

/-- Reason code of 14 R436. -/
def refuseCode (r : Refuse) : Nat :=
  match r with
  | .hard => 1
  | .noRoom => 2
  | .red => 3
  | .portDown => 4
  | .descFull => 5

/-- Queue event code of a refusal (11 Table 11.9). -/
def refuseEvent (r : Refuse) : Nat :=
  match r with
  | .hard => 0x0202
  | .noRoom => 0x0203
  | .red => 0x0204
  | .portDown => 0x0205
  | .descFull => 0x0206

/-- Unit index of a queue in Table 11.9. -/
def queueUnit (p q : Nat) : Nat := 20 * p + q

/-- Descriptors of a queue: those that wait, and those selected and not yet released (08 R232; 09 R264). -/
def heldDescs (x : Port) (q : Nat) : Nat := (queue x q).descs.length + (x.inflight.filter (fun f => f.queue == q)).length

/-- Descriptors held. -/
def descCount (s : State) : Nat := sumQueues s (fun q => q.descs.length) + (s.ports.map (fun e => e.2.inflight.length)).sum

/-- A port refuses under the first line of R228: flushed and not UP since (08 R244). -/
def portDownPast (x : Port) : Bool := x.flushed && decide (x.link ≠ .up)

/-- Which account takes n cells (08 R228), without random early drop. -/
def chooseAccount (s : State) (q : Queue) (n : Nat) (lossless : Bool) (headroom k : Nat) : Option Account :=
  let t := potFree s * 2 ^ q.alpha / 256
  if q.a + n ≤ q.ante then some .ante
  else if q.p + n ≤ t ∧ n ≤ potFree s then some .pot
  else if lossless = true ∧ k + n ≤ headroom ∧ s.buf.kittyUsed + n ≤ s.buf.kitty then some .kitty
  else none

/-- Cells move onto an account of a queue. -/
def chargeQueue (acc : Account) (n : Nat) (q : Queue) : Queue :=
  let q1 := match acc with
    | .ante => { q with a := q.a + n }
    | .pot => { q with p := q.p + n }
    | .kitty => { q with k := q.k + n }
  { q1 with peak := max q1.peak (depth q1) }

/-- Cells leave an account of a queue. -/
def refundQueue (acc : Account) (n : Nat) (q : Queue) : Queue :=
  match acc with
  | .ante => { q with a := q.a - n }
  | .pot => { q with p := q.p - n }
  | .kitty => { q with k := q.k - n }

/-- Device-wide use of the pot and kitty. -/
def modUsed (acc : Account) (f : Nat → Nat) (s : State) : State :=
  match acc with
  | .ante => s
  | .pot => { s with buf := { s.buf with potUsed := f s.buf.potUsed } }
  | .kitty => { s with buf := { s.buf with kittyUsed := f s.buf.kittyUsed } }

/-- The charge of R228 and its effect on u, k and PAUSE_REQ (08 R233). -/
def charge (p q : Nat) (inp : Option Nat) (i : Nat) (acc : Account) (n : Nat) (s : State) : State :=
  let s1 := modQueue p q (chargeQueue acc n) s
  let s2 := modUsed acc (fun v => v + n) s1
  match inp with
  | some ip => pauseUpdate ip i (acc = .kitty) (modUK ip i acc (fun v => v + n) s2)
  | none => s2

/-- The return of R232. -/
def refund (p q : Nat) (inp : Option Nat) (i : Nat) (acc : Account) (n : Nat) (s : State) : State :=
  let s1 := modQueue p q (refundQueue acc n) s
  let s2 := modUsed acc (fun v => v - n) s1
  match inp with
  | some ip => pauseUpdate ip i false (modUK ip i acc (fun v => v - n) s2)
  | none => s2

/-- Ingress port whose accounts a descriptor moves. -/
def ingressOf (d : Desc) : Option Nat := if d.foreign then none else some d.inPort

/-- A frame or copy asks for a place in queue q of port p (08 R225, R228, R239, R240). The descriptor comes complete but for its charge; ect says that its header reads ECN-capable. -/
def takeIn (p q : Nat) (d : Desc) (lossless ect : Bool) (s : State) : Option Refuse × State :=
  match port s p with
  | none => (some .portDown, s)
  | some x =>
    let y := queue x q
    let n := d.n
    let refuse := fun (r : Refuse) (t : State) =>
      let t1 := ev (refuseEvent r) (queueUnit p q) t
      (some r, if lossless then evAdd 0x011A d.inPort d.pri 1 t1 else t1)
    if 2097152 ≤ descCount s then refuse .descFull s
    else if portDownPast x then refuse .portDown s
    else if y.hard < depth y + n then refuse .hard s
    else
      let g := groupOf p
      let r := if y.priv then redDrop y d.colour (grp s g).lfsr else (false, false)
      let s1 := if r.2 then modGrp g (fun z => { z with lfsr := lfsrShift 16 z.lfsr }) s else s
      if r.1 then refuse .red s1
      else
        match port s1 d.inPort with
        | inx =>
          let hr := match inx with
            | some z => at0 z.headroom d.pri
            | none => 0
          let kk := match inx with
            | some z => at0 z.k d.pri
            | none => 0
          match chooseAccount s1 y n lossless hr kk with
          | none => refuse .noRoom s1
          | some acc =>
            let ce := !y.priv && decide (y.ecn ≠ 0) && decide (y.ecn ≤ depth y) && ect
            let dd := { d with src := acc, ce := ce, admitDepth := depth y }
            let s2 := charge p q (ingressOf d) d.pri acc n s1
            let s3 := modQueue p q (fun z => { z with descs := z.descs ++ [dd] }) s2
            (none, watchEvent 0x0702 (queueUnit p q) 0 (depth y) (ev 0x0201 (queueUnit p q) s3))

end Sys2Proof.Machine
end

