-- ==== Sys2Proof/Machine/Aes.lean ====
section
/-! DEFINITION. The functions of the MAC engine: AES-256, CMAC (RFC 4493 with a 256-bit key) and GMAC (GCM over an empty plaintext with a 96-bit IV), as 13 R418 names them. -/

namespace Sys2Proof.Machine

/-- The S-box of AES. -/
def aesSbox : List Nat :=
  [99, 124, 119, 123, 242, 107, 111, 197, 48, 1, 103, 43, 254, 215, 171, 118, 202, 130, 201, 125, 250, 89, 71, 240, 173, 212, 162, 175, 156, 164, 114, 192] ++
  [183, 253, 147, 38, 54, 63, 247, 204, 52, 165, 229, 241, 113, 216, 49, 21, 4, 199, 35, 195, 24, 150, 5, 154, 7, 18, 128, 226, 235, 39, 178, 117] ++
  [9, 131, 44, 26, 27, 110, 90, 160, 82, 59, 214, 179, 41, 227, 47, 132, 83, 209, 0, 237, 32, 252, 177, 91, 106, 203, 190, 57, 74, 76, 88, 207] ++
  [208, 239, 170, 251, 67, 77, 51, 133, 69, 249, 2, 127, 80, 60, 159, 168, 81, 163, 64, 143, 146, 157, 56, 245, 188, 182, 218, 33, 16, 255, 243, 210] ++
  [205, 12, 19, 236, 95, 151, 68, 23, 196, 167, 126, 61, 100, 93, 25, 115, 96, 129, 79, 220, 34, 42, 144, 136, 70, 238, 184, 20, 222, 94, 11, 219] ++
  [224, 50, 58, 10, 73, 6, 36, 92, 194, 211, 172, 98, 145, 149, 228, 121, 231, 200, 55, 109, 141, 213, 78, 169, 108, 86, 244, 234, 101, 122, 174, 8] ++
  [186, 120, 37, 46, 28, 166, 180, 198, 232, 221, 116, 31, 75, 189, 139, 138, 112, 62, 181, 102, 72, 3, 246, 14, 97, 53, 87, 185, 134, 193, 29, 158] ++
  [225, 248, 152, 17, 105, 217, 142, 148, 155, 30, 135, 233, 206, 85, 40, 223, 140, 161, 137, 13, 191, 230, 66, 104, 65, 153, 45, 15, 176, 84, 187, 22]

/-- S-box of one byte. -/
def aesSub (b : Nat) : Nat := aesSbox.getD b 0

/-- Multiplication by x in the field of AES. -/
def aesX (b : Nat) : Nat := if b < 128 then 2 * b else (2 * b) % 256 ^^^ 27

/-- Bytewise exclusive or. -/
def xorL (a b : List Nat) : List Nat := List.zipWith (· ^^^ ·) a b

/-- Round constants of the AES-256 key schedule. -/
def aesRcon : List Nat := [1, 2, 4, 8, 16, 32, 64]

/-- One word of the key schedule: the last word, the word eight back, and the index. -/
def aesNextWord (w8 last : List Nat) (i : Nat) : List Nat :=
  let t :=
    if i % 8 = 0 then
      let r := (last.drop 1 ++ last.take 1).map aesSub
      xorL r [aesRcon.getD (i / 8 - 1) 0, 0, 0, 0]
    else if i % 8 = 4 then last.map aesSub
    else last
  xorL w8 t

/-- The schedule from a window of its last eight words, oldest first. -/
def aesExpand (n i : Nat) (win : List (List Nat)) : List (List Nat) :=
  match n with
  | 0 => []
  | k + 1 =>
    let w := aesNextWord (win.headD []) (win.getLastD []) i
    w :: aesExpand k (i + 1) (win.drop 1 ++ [w])

/-- Cut a list into pieces of n; the fuel bounds the number of pieces. -/
def chunks {α : Type} (fuel n : Nat) (l : List α) : List (List α) :=
  match fuel with
  | 0 => []
  | f + 1 => if l.isEmpty then [] else l.take n :: chunks f n (l.drop n)

/-- The 15 round keys. -/
def aesKeys (key : List Nat) : List (List Nat) :=
  let ws := chunks 8 4 key
  (chunks 15 4 (ws ++ aesExpand 52 8 ws)).map (fun g => g.flatten)

/-- ShiftRows on a state held column by column. -/
def aesShift (st : List Nat) : List Nat :=
  (List.range 16).map (fun i => st.getD ((i + 4 * (i % 4)) % 16) 0)

/-- MixColumns of one column. -/
def aesMixCol (c : List Nat) : List Nat :=
  let t := c.foldl (· ^^^ ·) 0
  (List.range 4).map (fun i => c.getD i 0 ^^^ t ^^^ aesX (c.getD i 0 ^^^ c.getD ((i + 1) % 4) 0))

/-- MixColumns. -/
def aesMix (st : List Nat) : List Nat := ((chunks 4 4 st).map aesMixCol).flatten

/-- The rounds after the first key addition. -/
def aesRounds (ks : List (List Nat)) (st : List Nat) : List Nat :=
  match ks with
  | [] => st
  | [k] => xorL (aesShift (st.map aesSub)) k
  | k :: r => aesRounds r (xorL (aesMix (aesShift (st.map aesSub))) k)

/-- AES-256 of one block under expanded keys. -/
def aesBlock (ks : List (List Nat)) (b : List Nat) : List Nat :=
  match ks with
  | [] => b
  | k :: r => aesRounds r (xorL b k)

/-- Doubling of RFC 4493 on a block. -/
def cmacDouble (b : List Nat) : List Nat :=
  let v := b.foldl (fun acc x => acc * 256 + x) 0
  let d := (2 * v) % 2 ^ 128
  let e := if v < 2 ^ 127 then d else d ^^^ 135
  (List.range 16).map (fun i => (e >>> (8 * (15 - i))) % 256)

/-- CBC over whole blocks. -/
def cmacChain (ks : List (List Nat)) (acc : List Nat) (bs : List (List Nat)) : List Nat :=
  match bs with
  | [] => acc
  | b :: r => cmacChain ks (aesBlock ks (xorL acc b)) r

/-- Bytes of a number, most significant first. -/
def natBytes (n v : Nat) : List Nat := (List.range n).map (fun i => (v >>> (8 * (n - 1 - i))) % 256)

/-- AES-256-CMAC of a message. Key byte 0 is the most significant byte of the key. -/
def cmac (key : List Nat) (msg : List Nat) : List Nat :=
  let ks := aesKeys key
  let z := List.replicate 16 0
  let k1 := cmacDouble (aesBlock ks z)
  let k2 := cmacDouble k1
  let bs := chunks (msg.length / 16 + 1) 16 msg
  let whole := decide (msg ≠ [] ∧ msg.length % 16 = 0)
  let last := bs.getLastD []
  let fin := if whole then xorL last k1 else xorL (last ++ [128] ++ List.replicate (15 - last.length) 0) k2
  aesBlock ks (xorL (cmacChain ks z bs.dropLast) fin)

/-- Multiplication in the field of GCM; bit 0 of the standard is the most significant bit here. -/
def gcmMul (n x v acc : Nat) : Nat :=
  match n with
  | 0 => acc
  | k + 1 =>
    let acc1 := if x.testBit k then acc ^^^ v else acc
    let v1 := if v % 2 = 1 then (v >>> 1) ^^^ (225 * 2 ^ 120) else v >>> 1
    gcmMul k x v1 acc1

/-- Value of a block, most significant byte first. -/
def blockVal (b : List Nat) : Nat := b.foldl (fun acc x => acc * 256 + x) 0

/-- GHASH over blocks. -/
def ghash (h acc : Nat) (bs : List (List Nat)) : Nat :=
  match bs with
  | [] => acc
  | b :: r => ghash h (gcmMul 128 (acc ^^^ blockVal (b ++ List.replicate (16 - b.length) 0)) h 0) r

/-- AES-256-GMAC of a message under a 96-bit IV. -/
def gmac (key : List Nat) (iv : Nat) (msg : List Nat) : List Nat :=
  let ks := aesKeys key
  let h := blockVal (aesBlock ks (List.replicate 16 0))
  let bs := chunks (msg.length / 16 + 1) 16 msg
  let s0 := ghash h 0 bs
  let s1 := gcmMul 128 (s0 ^^^ (8 * msg.length * 2 ^ 64)) h 0
  let j0 := natBytes 12 iv ++ [0, 0, 0, 1]
  xorL (natBytes 16 s1) (aesBlock ks j0)

/-- Bytes as numbers. -/
def toNats (bs : List Byte) : List Nat := bs.map (fun b => b.toNat)

/-- A 256-bit key register as bytes: byte 0 is its low byte, as CIPH_KEY0 holds key bytes 0 to 7 (13 Table 13.22). -/
def keyOctets (k : BitVec 256) : List Nat := (List.range 32).map (fun i => (k.toNat >>> (8 * i)) % 256)

/-- CMAC over bytes. -/
def cmacBytes (k : BitVec 256) (msg : List Byte) : List Byte := (cmac (keyOctets k) (toNats msg)).map byte

/-- GMAC over bytes; IV byte 0 is the low byte of the IV registers. -/
def gmacBytes (k : BitVec 256) (iv : BitVec 96) (msg : List Byte) : List Byte :=
  (gmac (keyOctets k) (beVal (leBytes 12 iv.toNat)) (toNats msg)).map byte

end Sys2Proof.Machine
end

