-- ==== Sys2Proof/Machine/Operands.lean ====
section
/-! DEFINITION. Operand forms of Suilanil commands: paths (00 R8 to R15; 13 R407, R408), status codes and DETAIL (13 R401), command codes and who may issue them (13 R406), and the answer a command gives. -/

namespace Sys2Proof.Machine

/-! ## Paths -/

/-- A binary path (13 Table 13.11). MEMBERS carries element k in bits [53 - 6k:48 - 6k]. -/
structure Path where
  kind : Nat
  levels : Nat
  index : Nat
  queue : Nat
  members : Nat
  deriving DecidableEq, Repr

/-- Element k, from 1, of a 48-bit member path (12 R369). -/
def pathElem (m k : Nat) : Nat := (m >>> (48 - 6 * k)) % 64

/-- The first k elements of a member path. -/
def pathPrefix (m k : Nat) : Nat := (m >>> (48 - 6 * k)) <<< (48 - 6 * k)

/-- Member path p of depth n begins with q of depth k. -/
def pathBegins (p n q k : Nat) : Bool := decide (k ≤ n) && pathPrefix p k == pathPrefix q k

/-- The first level, not above the shorter depth, at which two member paths differ (12 R365). -/
def pathDiffer (p n q m : Nat) : Option Nat :=
  ((List.range (min n m)).map (· + 1)).find? (fun k => pathElem p k != pathElem q k)

/-- Largest INDEX of a KIND (13 Table 13.11). -/
def indexMax (kind : Nat) : Nat :=
  match kind with
  | 2 | 3 | 4 | 5 => 511
  | 6 => 31
  | 7 => 3
  | 8 => 7
  | 9 => 63
  | _ => 0

/-- Largest QUEUE of a KIND. -/
def queueMax (kind : Nat) : Nat :=
  match kind with
  | 4 => 15
  | 5 => 3
  | _ => 0

/-- A path is malformed (13 R408). KIND 0 stands only where the command gives it a meaning. -/
def pathBad (kind0 : Bool) (p : List Byte) : Bool :=
  let kind := fld p 0 1
  let levels := fld p 1 1
  decide (9 < kind ∨ (kind = 0 ∧ kind0 = false) ∨ 8 < levels ∨ indexMax kind < fld p 2 2 ∨ queueMax kind < fld p 4 1 ∨
    fld p 5 3 ≠ 0 ∨ pathPrefix (fld p 8 6) levels ≠ fld p 8 6 ∨ fld p 14 2 ≠ 0)

/-- The fields of a path. -/
def pathOf (p : List Byte) : Path := ⟨fld p 0 1, fld p 1 1, fld p 2 2, fld p 4 1, fld p 8 6⟩

/-- The bytes of a path. -/
def pathBytes (p : Path) : List Byte :=
  [byte p.kind, byte p.levels] ++ leBytes 2 p.index ++ [byte p.queue, 0, 0, 0] ++ leBytes 6 p.members ++ [0, 0]

/-- The chip unit of a path exists here (00 R12, R13). -/
def unitExists (s : State) (p : Path) : Bool :=
  match p.kind with
  | 1 => true
  | 2 => decide (p.index < laneCount s)
  | 3 | 4 | 5 => (port s p.index).isSome
  | 6 => decide (p.index < groupCount s)
  | 7 => decide (p.index < clusterCount s)
  | 8 => decide (p.index < 8)
  | 9 => decide (p.index < octetCount s)
  | _ => false

/-- Queue number of a queue path: multicast queues follow the 16 unicast ones. -/
def queueNo (p : Path) : Nat := if p.kind = 5 then 16 + p.queue else p.queue

/-- Where a well-formed path leads (00 R13 to R15; 12 R377). -/
inductive Target where
  | here
  /-- A group this chip belongs to, by the number of its elements. -/
  | ownGroup (j : Nat)
  /-- Another chip or a group elsewhere. -/
  | elsewhere
  | absent
  deriving DecidableEq, Repr

/-- The target of a path. -/
def target (s : State) (p : Path) : Target :=
  if p.levels = 0 then .here
  else if s.stack.levels = 0 then .absent
  else if p.levels = s.stack.levels ∧ p.members = s.stack.own then .here
  else if p.levels < s.stack.levels ∧ pathPrefix s.stack.own p.levels = p.members then .ownGroup p.levels
  else match pathDiffer p.members p.levels s.stack.own s.stack.levels with
    | some _ => .elsewhere
    | none => .absent

/-! ## Status codes (13 Table 13.9) -/

abbrev stOk : Nat := 0
abbrev stPending : Nat := 1
abbrev stBadCmd : Nat := 2
abbrev stBadArg : Nat := 3
abbrev stNoResource : Nat := 4
abbrev stAborted : Nat := 5
abbrev stAbortLate : Nat := 6
abbrev stAuthFail : Nat := 7
abbrev stNotReady : Nat := 8
abbrev stLocked : Nat := 9
abbrev stCapUnreachable : Nat := 10

/-- DETAIL form 0x1: offset of the first field at fault (13 R401). -/
def detailAt (off : Nat) : Nat := 0x10000000 + off % 65536

/-- DETAIL form 0x2: a loader check (13 R401). -/
def detailCheck (code sect addr : Nat) : Nat := 0x20000000 + (code % 256) * 2 ^ 20 + (sect % 32) * 2 ^ 15 + addr % 2 ^ 15

/-- What a command's meaning answers: a final status with DETAIL and payload, or a wait for an outside event. -/
inductive Ans where
  | done (status detail : Nat) (resp : List Byte) (s : State)
  | hold (w : Wait) (s : State)
  deriving Repr

/-- OK with a response payload. -/
def ansOk (resp : List Byte) (s : State) : Ans := .done stOk 0 resp s

/-- BAD_ARG naming the field at fault. -/
def ansBad (off : Nat) (s : State) : Ans := .done stBadArg (detailAt off) [] s

/-- A status without DETAIL. -/
def ansSt (st : Nat) (s : State) : Ans := .done st 0 [] s

/-- The first check that fails answers BAD_ARG at its offset; otherwise go on. -/
def checks (l : List (Bool × Nat)) (s : State) (go : Unit → Ans) : Ans :=
  match l.find? (fun c => !c.1) with
  | some c => ansBad c.2 s
  | none => go ()

/-- n bytes at an offset are zero, as a check. -/
def rsv (p : List Byte) (off n : Nat) : Bool × Nat := (fld p off n == 0, off)

/-! ## Command codes -/

/-- The status commands: those whose name ends in _GET (13 R406). -/
def isGet (code : Nat) : Bool :=
  [0x0101, 0x0102, 0x0103, 0x0105, 0x0202, 0x0211, 0x0212, 0x0304, 0x0306, 0x0406, 0x0407, 0x0408, 0x0504, 0x0505,
   0x0606, 0x0805, 0x0806, 0x0807, 0x0904, 0x0905, 0x0A02, 0x0A04, 0x0B02, 0x0C03].contains code

/-- Commands that change no state, which may execute between the others (13 R404): the status commands, but for the one that restarts PEAK (08 R256) and the one that makes a challenge (17 R514). -/
def changesNone (code : Nat) : Bool := isGet code && decide (code ≠ 0x0407) && decide (code ≠ 0x0A04)

/-- The codes that the command tables list. -/
def knownCode (code : Nat) : Bool :=
  let f := code / 256
  let n := code % 256
  match f with
  | 1 => decide (1 ≤ n ∧ n ≤ 5)
  | 2 => decide ((1 ≤ n ∧ n ≤ 4) ∨ (0x10 ≤ n ∧ n ≤ 0x14) ∨ n = 0x20 ∨ n = 0x21)
  | 3 => decide (1 ≤ n ∧ n ≤ 7)
  | 4 => decide (1 ≤ n ∧ n ≤ 8)
  | 5 => decide (1 ≤ n ∧ n ≤ 5)
  | 6 => decide (1 ≤ n ∧ n ≤ 8)
  | 7 => decide (1 ≤ n ∧ n ≤ 7)
  | 8 => decide (1 ≤ n ∧ n ≤ 7)
  | 9 => decide (1 ≤ n ∧ n ≤ 5)
  | 10 => decide (1 ≤ n ∧ n ≤ 6)
  | 11 => decide (1 ≤ n ∧ n ≤ 6)
  | 12 => decide (1 ≤ n ∧ n ≤ 3)
  | _ => false

/-- Owner of a mailbox (13 Table 13.2). -/
def mbOwner (m : Nat) : Who := if m < 16 then .host else if m < 24 then .bmc else .fw

/-- The always-on domain, the fault block and the power manager run: from the 4 ms row of 18 Table 18.1 on. -/
def powered (s : State) : Bool := decide (s.boot.phase ≠ .off) && decide (s.boot.phase ≠ .aon)

/-- Boundary scan holds the sideband lands: no capture is made, PWR_FAIL_N and PERST_N are ignored (19 R556). -/
def scanHolds (s : State) : Bool := decide (s.pins.jtag = .extest ∨ s.pins.jtag = .clamp ∨ s.pins.jtag = .highz)

/-- An access of a requester arrives: host software needs a trained link, the BMC a powered device (18 R521, R522). -/
def reaches (s : State) (who : Who) : Bool :=
  match who with
  | .host => s.link.trained
  | .bmc => powered s
  | .fw => true

/-- Table 13.10: the owner of mailbox m may issue the code. -/
def mayIssue (s : State) (m code : Nat) : Bool :=
  let f := code / 256
  match mbOwner m with
  | .host => decide (f ≠ 12) || s.flt.unlocked
  | .bmc => if f = 1 ∨ f = 9 ∨ f = 10 ∨ f = 11 then true else if f = 12 then false else isGet code
  | .fw => if f = 11 then isGet code else decide (f ≠ 12)

end Sys2Proof.Machine
end

