-- ==== Sys2Proof/Machine/MbOps.lean ====
section
/-! DEFINITION. Operations of mailboxes and of the stack's control traffic: acceptance (13 R399), answers, stack headers and routes (12 R369, R381), CONTROL messages (R383), commands carried to another chip or applied to a group (R377, R391; 00 R14), and completion (13 R400). -/

namespace Sys2Proof.Machine

/-! ## Answers -/

/-- Change a mailbox's accepted command. -/
def modCmd (m : Nat) (f : Cmd → Cmd) (s : State) : State := { s with mboxes := tabUpd s.mboxes m (fun x => { x with cmd := x.cmd.map f }) }

/-- The mailbox delay of the perturbation registers in effect (17 R518). -/
def mbDelay (s : State) (m : Nat) : Nat :=
  if s.flt.tpOn.enable ∧ s.flt.tpOn.mbs.toNat.testBit m = true then s.flt.tpOn.mbDelay else 0

/-- The response of a command stands ready; COMMAND_COMPLETE writes it. -/
def answer (m st detail : Nat) (resp : List Byte) (s : State) : State :=
  modCmd m (fun c => { c with wait := .answered, status := st, detail := BitVec.ofNat 32 detail, resp := resp, notBefore := now s + mbDelay s m }) s

/-- What a command's meaning answers goes into its mailbox. -/
def settle (m : Nat) (a : Ans) : State :=
  match a with
  | .done st d r s => answer m st d r s
  | .hold w s => modCmd m (fun c => { c with wait := w }) s

/-! ## Acceptance -/

/-- The 16 bytes of a response header (13 Table 13.8). -/
def respHeader (code len seq st detail : Nat) : List Byte :=
  leBytes 2 code ++ leBytes 2 len ++ leBytes 4 seq ++ leBytes 2 st ++ [0, 0] ++ leBytes 4 detail

/-- Commands that firmware answers between FW_RUNNING and READY (18 R529). -/
def earlyCodes : List Nat := [0x0101, 0x0102, 0x0105, 0x0B02, 0x0A02, 0x0904]

/-- Commands that the boot ROM answers in recovery (18 R525). -/
def recoveryCodes : List Nat := [0x0101, 0x0B02, 0x0B01]

/-- The answer that a command gets without executing, if any (13 R401, R402, R406; 18 R522, R525, R529). -/
def preCheck (s : State) (m : Nat) (c : Cmd) : Option Nat :=
  let recov := decide (s.boot.phase = .recovery)
  if s.boot.fwRunning = false ∧ (recov = false ∨ (m ≠ 0 ∧ m ≠ 16) ∨ recoveryCodes.contains c.code = false) then some stNotReady
  else if 944 < c.len then some stBadArg
  else if knownCode c.code = false then some stBadCmd
  else if mayIssue s m c.code = false then some stLocked
  else if s.boot.fwRunning = true ∧ s.boot.phase ≠ .ready ∧ earlyCodes.contains c.code = false then some stNotReady
  else if c.dirty then some stBadArg
  else none

/-- The four steps of acceptance (13 R399), and the answers that need no execution. -/
def acceptMb (m : Nat) (s : State) : State :=
  let x := mbox s m
  let hdr := memReadN x.area 0 16
  let len := fld hdr 2 2
  let c : Cmd := { code := fld hdr 0 2, len := len, seq := BitVec.ofNat 32 (fld hdr 4 4), dirty := !allZero (hdr.drop 8), payload := if len ≤ 944 then memReadN x.area 16 len else [] }
  let s1 := modMbox m (fun y => { y with
    area := memWriteL [] 0 (respHeader c.code 0 c.seq.toNat stPending 0)
    seq := c.seq, written := false, abortResult := 0, st := .pending, age := 0, cmd := some c }) { s with order := s.order.filter (fun i => i != m) ++ [m] }
  match preCheck s m c with
  | some st => answer m st 0 [] s1
  | none => s1

/-- Store a message in a mailbox's area as its owner would (13 Table 13.7). -/
def storeMsg (m off : Nat) (bs : List Byte) (s : State) : State :=
  modMbox m (fun x => { x with area := memWriteL x.area off bs, written := true, st := .idle }) s

/-! ## Stack headers and routes -/

/-- Own path and depth. -/
def ownLevels (s : State) : Nat := s.stack.levels

/-- Stack header (12 Table 12.1): TYPE, DST and its depth, and the last 24 bits. -/
def stackHeader (s : State) (typ dst dl last24 : Nat) : List Byte :=
  [byte (typ * 64 + ((dl - 1) % 8) * 8 + (s.stack.levels - 1) % 8)] ++ beBytes 6 dst ++ beBytes 6 s.stack.own ++ beBytes 3 last24

/-- Link set that R381 gives for path q of depth n. -/
def routeSet (s : State) (q n : Nat) : Option Nat :=
  match pathDiffer q n s.stack.own s.stack.levels with
  | some l => tabGet s.stack.routes (l * 64 + pathElem q l)
  | none => none

/-- LIVE members of a link set, ascending. -/
def liveMembers (s : State) (set : Nat) : List Nat :=
  (s.ports.filter (fun e => e.2.stk.enable && decide (e.2.stk.st = .live) && decide (e.2.stk.linkSet = set))).map (fun e => e.1)

/-- The lowest-numbered LIVE member toward a path, for CONTROL frames. -/
def routeControl (s : State) (q n : Nat) : Option Nat :=
  match routeSet s q n with
  | some set => (liveMembers s set).head?
  | none => none

/-- Queue a frame of the stack engine on a port. -/
def stackTx (p : Nat) (bs : List Byte) (s : State) : State :=
  { s with stack := { s.stack with tx := s.stack.tx ++ [{ port := p, bytes := bs }] } }

/-- Envelope of a CONTROL frame (12 Table 12.7). -/
def envelope (kind seq : Nat) (payload : List Byte) : List Byte :=
  [byte kind, 0] ++ beBytes 2 payload.length ++ beBytes 4 seq ++ payload

/-- Send a CONTROL message to another chip; without a route it is counted in NO_ROUTE (12 R381). -/
def sendControl (dst dl kind seq : Nat) (payload : List Byte) (s : State) : State :=
  match routeControl s dst dl with
  | some p => stackTx p (stackHeader s 2 dst dl (idx s % 2 ^ 24) ++ envelope kind seq payload) s
  | none => ev 0x0520 0 s

/-! ## Commands of other chips in mailboxes 24 to 27 -/

/-- A waiting REQUEST takes a free mailbox of 24 to 27 (13 R396). -/
def serveNext (s : State) : State :=
  match s.stack.waiting with
  | [] => s
  | (q, n, seq, bs) :: rest =>
    match [24, 25, 26, 27].find? (fun m => decide ((mbox s m).st ≠ .pending) && (tabGet s.stack.serving m).isNone) with
    | none => s
    | some m =>
      let s1 := { s with stack := { s.stack with waiting := rest, serving := tabPut s.stack.serving m (q, n, seq) } }
      acceptMb m (storeMsg m 0 (bs.take 960) (modMbox m (fun x => { x with area := [] }) s1))

/-- A REQUEST for this chip: repeated ones get the stored response, a full queue of 64 discards it (12 R383; 13 R396). -/
def enqueueRequest (q n seq : Nat) (bs : List Byte) (s : State) : State :=
  let busy := s.stack.waiting.any (fun w => w.1 == q && w.2.2.1 == seq) || s.stack.serving.any (fun e => e.2.1 == q && e.2.2.2 == seq)
  if busy ∨ 64 ≤ s.stack.waiting.length then s
  else serveNext { s with stack := { s.stack with waiting := s.stack.waiting ++ [(q, n, seq, bs)] } }

/-! ## Commands that this chip sends out -/

/-- The command of a REQUEST, with its path rewritten to a chip. -/
def requestBytes (code seq : Nat) (payload : List Byte) : List Byte :=
  respHeader code payload.length seq 0 0 ++ payload

/-- The payload with PATH naming DEV of a chip. -/
def devPath (payload : List Byte) (q n : Nat) : List Byte :=
  patch payload 0 (pathBytes { kind := 1, levels := n, index := 0, queue := 0, members := q })

/-- Send one REQUEST whose command header and payload `bytes` forms from its SEQ, and remember it. -/
def request (m : Option Nat) (q n : Nat) (bytes : Nat → List Byte) (rest : List (Nat × Nat)) (answers : List (List Byte)) (agg : Bool) (s : State) : State :=
  let seq := s.stack.nextSeq
  let bs := bytes seq
  let o : Outstanding := { mb := m, seq := seq, dst := q, levels := n, tries := 0, sent := now s, payload := bs, rest := rest, answers := answers, agg := agg }
  let s1 := { s with stack := { s.stack with nextSeq := (seq + 1) % 2 ^ 32, out := s.stack.out ++ [o] } }
  if q = s.stack.own ∧ n = s.stack.levels then enqueueRequest q n seq bs s1 else sendControl q n 1 seq bs s1

/-- The REQUEST of a command of mailbox m. -/
def sendRequest (m code q n : Nat) (payload : List Byte) (rest : List (Nat × Nat)) (answers : List (List Byte)) (agg : Bool) (s : State) : State :=
  request (some m) q n (fun seq => requestBytes code seq payload) rest answers agg s

/-- Members of the group of j elements that this chip leads, itself among them, in ascending path order. -/
def groupMembers (s : State) (j : Nat) : List (Nat × Nat) :=
  let others := (s.stack.joined.filter (fun x => decide (x.level = j ∧ x.path ≠ s.stack.own))).map (fun x => (x.path, x.depth))
  ((s.stack.own, s.stack.levels) :: others).mergeSort (fun a b => decide (a.1 ≤ b.1))

/-- Commands that a group path may carry (12 R377, R391; 13 R409; 17 R512). -/
def groupCodes : List Nat := [0x0102, 0x0103, 0x0104, 0x0105, 0x0A03, 0x0301, 0x0302, 0x0303, 0x0304]

/-- The dealer of the chip's group j (12 R374); PRIO 0 says that there is none. -/
def bestOf (s : State) (j : Nat) : Best := s.stack.best.getD j {}

/-- This chip is the dealer of its group j. -/
def leads (s : State) (j : Nat) : Bool :=
  decide ((bestOf s j).prio ≠ 0 ∧ (bestOf s j).path = s.stack.own ∧ (bestOf s j).serial = Config.serial.toNat)

/-- A command whose path does not lead to a unit of this chip (12 R377). -/
def remoteCmd (m code : Nat) (payload : List Byte) (p : Path) (s : State) : Ans :=
  match target s p with
  | .ownGroup j =>
    if groupCodes.contains code = false ∨ p.kind ≠ 1 then ansSt stNoResource s
    else if (bestOf s j).prio = 0 then ansSt stNotReady s
    else if leads s j then
      if s.stack.joined.any (fun x => decide (x.level = j) && x.tooDeep) || s.stack.tooDeep then ansSt stNotReady s
      else match groupMembers s j with
        | (q, n) :: rest => .hold .remote (sendRequest m code q n (devPath payload q n) rest [] true s)
        | [] => ansSt stNotReady s
    else
      let b := bestOf s j
      match routeControl s b.path b.levels with
      | some _ => .hold .remote (sendRequest m code b.path b.levels payload [] [] false s)
      | none => ansSt stNoResource s
  | .elsewhere =>
    match routeControl s p.members p.levels with
    | some _ => .hold .remote (sendRequest m code p.members p.levels payload [] [] false s)
    | none => ansSt stNoResource s
  | _ => ansSt stNoResource s

/-! ## Aggregates (00 R14; 12 R391) -/

/-- Status of a response. -/
def respStatus (a : List Byte) : Nat := fld a 8 2

/-- Payload of a response. -/
def respBody (a : List Byte) : List Byte := (a.drop 16).take (fld a 2 2)

/-- Sum of n little-endian fields of w bytes from offset a. -/
def sumFields (l : List (List Byte)) (a w n : Nat) : List Byte :=
  (List.range n).flatMap (fun i => leBytes w ((l.map (fun b => fld b (a + w * i) w)).sum))

/-- OR of n bytes from offset a. -/
def orBytes (l : List (List Byte)) (a n : Nat) : List Byte :=
  (List.range n).map (fun i => l.foldl (fun acc b => acc ||| byte (fld b (a + i) 1)) 0)

/-- The least field. -/
def minField (l : List (List Byte)) (a w : Nat) : Nat := ((l.map (fun b => fld b a w)).min?).getD 0

/-- The aggregate of responses with status OK, in the layout of one chip's (00 R14; 13 R409 to R411; 12 R391). -/
def aggregate (s : State) (code : Nat) (l : List (List Byte)) : List Byte :=
  let first := l.headD []
  match code with
  | 0x0102 =>
    let serv := l.all (fun b => (fld b 2 1).testBit 0)
    let sev := l.any (fun b => (fld b 2 1).testBit 1)
    [byte (fld first 0 1), byte (minField l 1 1), byte (b2n serv + 2 * b2n sev + 4), 0]
      ++ leBytes 4 ((l.map (fun b => fld b 4 4)).sum) ++ leBytes 8 (idx s)
  | 0x0103 => orBytes l 0 8 ++ leBytes 8 (idx s) ++ sumFields l 16 8 ((first.length - 16) / 8)
  | 0x0104 => [byte (minField l 0 1)] ++ zeros 7 ++ slice first 8 8
  | 0x0105 =>
    let firsts := (l.map (fun b => fld b 64 8)).filter (fun v => v != 0)
    orBytes l 0 64 ++ leBytes 8 ((firsts.min?).getD 0) ++ [byte (b2n (l.any (fun b => fld b 72 1 != 0)))] ++ zeros 7
  | 0x0303 =>
    let cell := fun (c : Nat) =>
      let cs := (l.map (fun b => slice b (8 * c) 8)).filter (fun r => fld r 0 1 != 0xFF)
      match cs.find? (fun r => fld r 0 1 != 0) with
      | some r => r
      | none => cs.headD (slice first (8 * c) 8)
    (List.range 4).flatMap cell ++ ((l.map (fun b => slice b 32 32)).find? (fun e => !allZero e)).getD (zeros 32)
  | 0x0304 => sumFields l 0 4 4 ++ sumFields l 16 8 3 ++ sumFields l 40 4 10
  | _ => []

/-- A RESPONSE arrives for a command of this chip (12 R377, R383). -/
def handleResponse (seq : Nat) (bs : List Byte) (s : State) : State :=
  match s.stack.out.find? (fun o => o.seq == seq) with
  | none => s
  | some o =>
    let s1 := { s with stack := { s.stack with out := s.stack.out.filter (fun x => x.seq != seq) } }
    match o.mb with
    -- an answer of the control round changes nothing here
    | none => s1
    | some m =>
      if o.agg = false then answer m (respStatus bs) (fld bs 12 4) (respBody bs) s1
      else
        let all := o.answers ++ [bs]
        match o.rest with
        | (q, n) :: rest => sendRequest m (fld o.payload 0 2) q n (devPath (o.payload.drop 16) q n) rest all true s1
        | [] =>
          match all.find? (fun a => respStatus a != stOk) with
          | some a => answer m (respStatus a) (fld a 12 4) (respBody a) s1
          | none => answer m stOk 0 (aggregate s1 (fld o.payload 0 2) (all.map respBody)) s1

/-! ## Completion -/

/-- The response of a mailbox of 24 to 27 goes back to its requester and is stored for a repeated SEQ (12 R383). -/
def sendResponse (m : Nat) (bs : List Byte) (s : State) : State :=
  match tabGet s.stack.serving m with
  | none => s
  | some (q, n, seq) =>
    let s1 := { s with stack := { s.stack with
      serving := tabErase s.stack.serving m
      answered := (s.stack.answered.filter (fun a => !(a.1 == q && a.2.1 == seq)) ++ [(q, seq, bs)]) } }
    serveNext (if q = s.stack.own ∧ n = s.stack.levels then handleResponse seq bs s1 else sendControl q n 2 seq bs s1)

/-- Payload, header, then DONE with its interrupt (13 R400, Table 13.7). -/
def completeNow (m : Nat) (s : State) : State :=
  match (mbox s m).cmd with
  | none => s
  | some c =>
    let bs := respHeader c.code c.resp.length c.seq.toNat c.status c.detail.toNat ++ c.resp
    let s1 := modMbox m (fun x => { x with area := memWriteL [] 0 bs, st := .done, cmd := none }) { s with order := s.order.filter (fun i => i != m) }
    let s2 := if (mbox s m).irqDone = true ∧ m < 16 then irqEvent (96 + m) s1 else s1
    sendResponse m bs s2

/-! ## Running a command -/

/-- State-changing commands run in the order of their acceptance, each to its commit point before the next (13 R404). -/
def myTurn (s : State) (m code : Nat) : Bool :=
  changesNone code ||
    (s.order.find? (fun i =>
      match (mbox s i).cmd with
      | some c => decide (c.wait = .exec) && !changesNone c.code
      | none => false)) == some m

/-- Firmware, or the boot ROM in recovery, executes the command that waits in mailbox m, if it is the row's. While a patch waits for its hand boundary no command starts (13 R415; log entry 114). -/
def runCmd (code m : Nat) (body : Cmd → State → Ans) (s : State) : State :=
  match (mbox s m).cmd with
  | none => s
  | some c =>
    if c.code ≠ code ∨ c.wait ≠ .exec ∨ myTurn s m code = false ∨ s.boot.patchAt.isSome = true ∨ (s.boot.fwRunning = false ∧ s.boot.phase ≠ .recovery) then s
    else settle m (body c s)

/-- Checks common to all requests: length, zero tail and a well-formed path of a KIND the command takes; then the command here, or carried to where the path leads (13 R402, R408; 00 R13; 12 R377). Whether the unit exists is left to the command. A payload that cuts the path short names it; one that ends later is answered without detail. -/
def onPathAny (m code len : Nat) (kinds : List Nat) (c : Cmd) (s : State) (go : Path → List Byte → Ans) : Ans :=
  let p := c.payload
  if p.length < 16 then ansBad 0 s
  else if p.length < len then ansSt stBadArg s
  else match ((p.drop len).zipIdx).find? (fun b => b.1 != 0) with
    | some b => ansBad (len + b.2) s
    | none =>
      let q := pathOf p
      if pathBad false p = true ∨ kinds.contains q.kind = false then ansBad 0 s
      else match target s q with
        | .here => go q p
        | _ => remoteCmd m code p q s

/-- The same, for a unit that must exist (00 R12, R13). -/
def onPath (m code len : Nat) (kinds : List Nat) (c : Cmd) (s : State) (go : Path → List Byte → Ans) : Ans :=
  onPathAny m code len kinds c s (fun q p => if unitExists s q then go q p else ansSt stNoResource s)

end Sys2Proof.Machine
end

