-- ==== Sys2Proof/Machine/Time.lean ====
section
/-! DEFINITION. Operations of the time unit: device time and the two domain counters (10 R283 to R286, R308), port timestamps (R287), the timestamp queues (R300, R301), the servo (R303 to R307), domain selection (R309 to R312) and the timing pins (R316 to R319). Counters are held in 2^-40 ns, the accumulator of R283. -/

namespace Sys2Proof.Machine

/-- A domain. -/
def dom (s : State) (x : Nat) : Domain := tabGetD s.time.doms x {}

/-- Change a domain. -/
def modDom (x : Nat) (f : Domain → Domain) (s : State) : State :=
  { s with time := { s.time with doms := tabMod s.time.doms x {} f } }

/-- Change the time unit. -/
def modTime (f : TimeUnit → TimeUnit) (s : State) : State := { s with time := f s.time }

/-- One time-clock cycle at correction f (2^-16 ppb), in 2^-40 ns (10 R284). -/
def addend (f : Int) : Int := 2 ^ 40 - f * 2 ^ 24 / 10 ^ 9

/-- How far D moves in one cycle, 2^-40 ns (10 R308). -/
def slewStep (s : State) : Int := (s.time.slewRate : Int) * 2 ^ 40 / 10 ^ 9

/-- D after n cycles toward 0. -/
def slewed (d step : Int) (n : Nat) : Int :=
  let m := step * n
  if d.natAbs ≤ m.natAbs then 0 else if 0 < d then d - m else d + m

/-- Device time now, at the last boundary, 2^-40 ns (10 R308). -/
def t40 (s : State) : Int := (dom s s.time.cur).ctr + s.time.d

/-- Device time n whole time-clock cycles after the last boundary. -/
def t40Cycles (s : State) (n : Nat) : Int :=
  (dom s s.time.cur).ctr + n * addend (dom s s.time.cur).f + slewed s.time.d (slewStep s) n

/-- Time clock that has run since the end of the last cycle counted at the boundary, ph sixteenths of a nanosecond after that boundary, in 2^-40 ns. -/
def clock40 (s : State) (ph : Nat) : Nat := s.time.frac + ph * 2 ^ 36

/-- Whole time-clock cycles that end within ph sixteenths of a nanosecond after the last boundary (10 R283). -/
def cyclesAt (s : State) (ph : Nat) : Nat := clock40 s ph / 2 ^ 40

/-- Device time ph sixteenths of a nanosecond of time clock after the last boundary, between two cycles by the phase interpolator (10 R288); time stands while the time PLL is not locked. -/
def t40At (s : State) (ph : Nat) : Int :=
  if s.time.running then
    t40Cycles s (cyclesAt s ph) + ((clock40 s ph % 2 ^ 40 : Nat) : Int) * addend (dom s s.time.cur).f / 2 ^ 40
  else t40 s

/-- Whole nanoseconds of a time. -/
def ns40 (t : Int) : Nat := (t / 2 ^ 40).toNat

/-- Sixteenths of a nanosecond of a time. -/
def sub40 (t : Int) : Nat := (t / 2 ^ 36).toNat

/-- T of 02 R43 at the last boundary. -/
def tNs (s : State) : Nat := ns40 (t40 s)

/-- SEC of a time in ns. -/
def secOf (n : Nat) : Nat := (n / 10 ^ 9) % 2 ^ 48

/-- NS of a time in ns. -/
def nsOf (n : Nat) : Nat := n % 10 ^ 9

/-- All counters run on by n time-clock cycles. -/
def runTime (n : Nat) (s : State) : State :=
  modTime (fun t => { t with
    doms := tabMap (tabMod (tabMod t.doms 0 {} id) 1 {} id) (fun _ d => { d with ctr := d.ctr + n * addend d.f })
    d := slewed t.d (slewStep s) n }) s

/-- Picoseconds in 2^-40 ns. -/
def ps40 (n : Nat) : Int := (n : Int) * 2 ^ 40 / 1000

/-- Timestamp offset of the perturbation registers in effect (17 R518). -/
def tsOffset (s : State) (p : Nat) (rx : Bool) : Int :=
  if s.flt.tpOn.enable then (if rx then tabGetD s.flt.tpOn.tsRx p 0 else tabGetD s.flt.tpOn.tsTx p 0) else 0

/-- The lane of a port that carries the block holding a frame's delimiter (10 R287). -/
def sfdLane (p : Nat) (x : Port) (ln : Nat) : Nat := p + ln % max 1 x.width

/-- Ingress timestamp of a port, 1/16 ns, of a frame whose delimiter came on lane ln of the port (10 R287). -/
def ingressTs (s : State) (p : Nat) (x : Port) (ln ph : Nat) : Nat :=
  ((t40At s ph - ps40 (planeDelay s (sfdLane p x ln))) / 2 ^ 36 + x.rxAdj + tsOffset s p true).toNat

/-- Egress timestamp of a port, 1/16 ns, of a frame whose delimiter goes out on lane ln of the port (10 R287). -/
def egressTs (s : State) (p : Nat) (x : Port) (ln ph : Nat) : Nat :=
  ((t40At s ph + ps40 (planeDelay s (sfdLane p x ln))) / 2 ^ 36 + x.txAdj + tsOffset s p false).toNat

/-- The counter of domain x ph sixteenths of a nanosecond after the last boundary, 2^-40 ns. -/
def domAt (s : State) (x ph : Nat) : Int :=
  let d := dom s x
  d.ctr + (if s.time.running then (cyclesAt s ph : Int) * addend d.f + ((clock40 s ph % 2 ^ 40 : Nat) : Int) * addend d.f / 2 ^ 40 else 0)

/-- An entry of a master list takes the port identity of a message that came in on a port (10 R313, Table 10.25). -/
def masterOk (clockId portNum p : Nat) (e : Nat × Nat × Nat) : Bool :=
  decide (e.1 = clockId) && decide (e.2.1 = 0xFFFF ∨ e.2.1 = portNum) && decide (e.2.2 = 0xFFFF ∨ e.2.2 = p)

/-! ## Registers -/

/-- HOLDOVER of 10 R312: the current domain is SRC_LOST. -/
def inHoldover (s : State) : Bool := s.time.holdover

/-- TIME_STAT (10 Table 10.11). -/
def timeStat (s : State) : Nat :=
  b2n s.time.freqClamp * 2 ^ 11 + b2n s.time.splitSeen * 2 ^ 10 + b2n s.time.stepped * 2 ^ 9
    + b2n (dom s 1).srcLost * 2 ^ 8 + b2n (dom s 0).srcLost * 2 ^ 7 + b2n (dom s 1).locked * 2 ^ 6
    + b2n (dom s 0).locked * 2 ^ 5 + b2n s.time.split * 2 ^ 4 + b2n (decide (s.time.d ≠ 0)) * 8
    + b2n s.time.holdover * 4 + b2n s.time.valid * 2 + s.time.cur % 2

/-- TIME_NOW_LO and TIME_NOW_HI ph sixteenths after the last boundary (10 Tables 10.1, 10.2). -/
def timeNow (s : State) (ph : Nat) : Nat × Nat :=
  let t := if s.time.running then t40Cycles s (cyclesAt s ph) else t40 s
  let frac := ((t / 2 ^ 24).toNat) % 65536
  (nsOf (ns40 t) * 2 ^ 32 + frac * 2 ^ 16 + b2n s.time.valid, secOf (ns40 t))

/-! ## Timestamp queues -/

/-- Push an entry to the host's queue, or to firmware's (10 R300, R301). -/
def tsqPush (fw : Bool) (e : TsqEntry) (s : State) : State :=
  if fw then
    if s.time.fwTsq.length < 4096 then
      modTime (fun t => { t with fwTsq := t.fwTsq ++ [{ e with gap := t.fwTsqGap }], fwTsqGap := false }) s
    else modTime (fun t => { t with fwTsqGap := true }) s
  else if s.time.tsq.length < 4096 then
    let s1 := modTime (fun t => { t with tsq := t.tsq ++ [{ e with gap := t.tsqGap }], tsqGap := false }) s
    if s.time.tsq.isEmpty && s.time.irqTsq then irqEvent 113 s1 else s1
  else ev 0x0509 0 (modTime (fun t => { t with tsqGap := true, tsqDrop := satInc t.tsqDrop }) s)

/-! ## Steps and domain selection -/

/-- Device time is stepped (02 R49; 10 R309): the generator handles it at the boundary. -/
def markStep (s : State) : State := { s with trick := { s.trick with stepNow := true } }

/-- Domain x's counter steps by minus e (2^-40 ns): device time by 10 R285 and R309. -/
def stepDom (x : Nat) (e : Int) (s : State) : State :=
  let s1 := modTime (fun t => { t with stepped := true }) (modDom x (fun d => { d with ctr := d.ctr - e }) s)
  if s.time.valid = false then
    markStep (modTime (fun t => { t with valid := true, cur := x, d := 0, holdover := false }) s1)
  else if x = s.time.cur then
    if s.time.stepFollow then markStep s1
    else modTime (fun t => { t with d := t.d + e }) s1
  else s1

/-- The current domain becomes x, and device time does not move (10 R311). -/
def switchDom (x : Nat) (s : State) : State :=
  let t := t40 s
  let s1 := modTime (fun u => { u with cur := x, d := t - (dom s x).ctr, holdover := false }) s
  let s2 := ev 0x0507 0 s1
  if s.time.irqSwitch then irqEvent 113 s2 else s2

/-- HOLDOVER becomes 1 (10 R312; Table 10.12). -/
def enterHoldover (s : State) : State :=
  let s1 := modTime (fun t => { t with holdover := true }) s
  if s.time.irqHoldover && s.time.holdover = false then irqEvent 113 s1 else s1

/-! ## The servo -/

/-- A sample e (2^-16 ns) is offered to domain x under a source (10 R303, R305). -/
def offerSample (x src : Nat) (e : Int) (s : State) : State :=
  let d := dom s x
  if d.source ≠ src ∨ 4 ≤ d.queue.length then evAdd 0x050A 0 x 1 s
  else modDom x (fun y => { y with queue := y.queue ++ [e] }) s

/-- One sample processed (10 R305, R306). -/
def servoSample (x : Nat) (e : Int) (s : State) : State :=
  let d := dom s x
  let th : Int := (d.stepThresh : Int) * 65536
  let lk : Int := (d.lockThresh : Int) * 65536
  let lim : Int := (d.freqLimit : Int) * 65536
  let a : Int := e.natAbs
  let s0 := evAdd 0x050B 0 x 1 s
  let base := fun (y : Domain) => { y with since := 0, srcLost := false, lastE := e }
  let s1 :=
    if d.stepThresh ≠ 0 ∧ th ≤ a ∧ (d.stepAllow = true ∨ d.everLocked = false) then
      let s2 := stepDom x (e * 2 ^ 24) s0
      evAdd 0x050C 0 x 1 (modDom x (fun y => { base y with f := y.acc, locked := false, good := 0 }) s2)
    else
      let acc0 := d.acc + (d.ki : Int) * e / 65536
      let acc := clampI (-lim) lim acc0
      let f0 := (d.kp : Int) * e / 65536 + acc
      let f := clampI (-lim) lim f0
      let good := if a < lk then d.good + 1 else 0
      let locked := if 4 * lk ≤ a then false else d.locked || decide (8 ≤ good)
      let s2 := modDom x (fun y => { base y with acc := acc, f := f, good := good, locked := locked, everLocked := y.everLocked || locked }) s0
      if acc ≠ acc0 ∨ f ≠ f0 then modTime (fun t => { t with freqClamp := true }) s2 else s2
  if x = s1.time.cur then modTime (fun t => { t with holdover := false }) s1 else s1

/-- The samples that wait at a boundary, in the order written (10 R305). -/
def servoDomain (x : Nat) (s : State) : State :=
  let q := (dom s x).queue
  let s1 := q.foldl (fun acc e => servoSample x e acc) s
  modDom x (fun y => { y with queue := [], since := if q.isEmpty then y.since + 1 else 0 }) s1

/-- The split comparison of 10 R310. -/
def splitCheck (s : State) : State :=
  let a := dom s 0
  let b := dom s 1
  let diff := (a.ctr - b.ctr).natAbs
  let th := s.time.splitThresh * 2 ^ 40
  if s.time.split then
    if !a.locked || !b.locked || decide (diff * 2 ≤ th) then modTime (fun t => { t with split := false }) s else s
  else if a.locked && b.locked && decide (th < diff) then
    let s1 := modTime (fun t => { t with split := true, splitSeen := true }) s
    let s2 := fault 57 0 (satN 0xFFFFFFFF (diff / 2 ^ 40)) (ev 0x0508 0 s1)
    if s.time.irqSplit then irqEvent 113 s2 else s2
  else s

/-- DOM_OFS at a boundary: the domain counter minus device time (10 R307). -/
def recordOfs (s : State) : State :=
  let t := t40 s
  modTime (fun u => { u with doms := tabMap (tabMod (tabMod u.doms 0 {} id) 1 {} id) (fun _ d => { d with dofs := (d.ctr - t) / 2 ^ 24 }) }) s

/-- TIME_SET at a boundary (10 R309, R321): flags, FRAC, NS, SEC. -/
def applyTimeSet (flags frac ns sec : Nat) (s : State) : State :=
  if flags.testBit 0 then
    modTime (fun t => { t with valid := false }) s
  else
    let v : Int := ((sec * 10 ^ 9 + ns : Nat) : Int) * 2 ^ 40 + (frac : Int) * 2 ^ 24
    let set := fun (y : Domain) => { y with ctr := v }
    let s1 := modDom s.time.cur set s
    let s2 := if flags.testBit 1 then modDom 0 set (modDom 1 set s1) else s1
    markStep (modTime (fun t => { t with d := 0, valid := true, stepped := true }) s2)

/-! ## Timing pins -/

/-- A pin block. -/
def pin (s : State) (n : Nat) : Pin := tabGetD s.time.pins n {}

/-- Change a pin block. -/
def modPin (n : Nat) (f : Pin → Pin) (s : State) : State :=
  { s with time := { s.time with pins := tabMod s.time.pins n {} f } }

/-- PERIOD in 2^-16 ns. -/
def pinPeriod (x : Pin) : Nat := x.period.toNat % 2 ^ 48

/-- One hand of device time in 2^-16 ns. -/
def handSpan : Nat := 65536 * 65536

/-- First edge of a pin's mode in 1/16 ns: START and SUB, or in HAND mode START counted in hands (10 Table 10.15; log entry 91). -/
def pinStart (x : Pin) (mode : Nat) : Nat := if mode = 4 then x.start.toNat * 65536 * 16 else x.start.toNat * 16 + x.sub

/-- Distance of the edges of a pin's mode in 2^-16 ns: PERIOD, or in HAND mode the whole part of PERIOD counted in hands. -/
def pinSpan (x : Pin) (mode : Nat) : Nat := if mode = 4 then pinPeriod x / 65536 * handSpan else pinPeriod x

/-- The PERIOD and WIDTH that a train of a mode needs (10 R319). -/
def trainOk (x : Pin) (mode : Nat) : Bool :=
  let per := pinSpan x mode
  decide (16 * 65536 ≤ per) && decide (4 ≤ x.width.toNat) && decide (x.width.toNat * 65536 + 4 * 65536 ≤ per)

/-- The first edge of a train that lies at or after t (2^-16 ns). -/
def nextEdge (start per t : Nat) : Nat :=
  if t ≤ start then start else start + cdiv (t - start) per * per

/-- Device time at the last boundary, 2^-16 ns. -/
def t16 (s : State) : Nat := (t40 s / 2 ^ 24).toNat

/-- An active edge is driven ph sixteenths of a nanosecond after the last boundary, and the pulse is held for the sampled WIDTH (10 R318, R319). -/
def pinFire (ph : Nat) (x : Pin) : Pin :=
  { x with pulses := x.pulses + 1, onAt := ph * 4096, offAt := ph * 4096 + x.sWidth * 65536 }

/-- A pulse is being driven ph sixteenths of a nanosecond after the last boundary. -/
def pinActive (x : Pin) (ph : Nat) : Bool := decide (x.onAt ≤ ph * 4096) && decide (ph * 4096 < x.offAt)

/-- The level of a pin's land: none in high impedance, else POLARITY and the pulse (10 Tables 10.15, 10.16). An input drives nothing. -/
def pinLevel (x : Pin) (ph : Nat) : Option Bool := if 2 ≤ x.mode ∧ x.mode ≤ 4 then some (pinActive x ph != x.polarity) else none

/-- The time clock runs on by n (2^-16 ns): what is left of a pulse. -/
def pinRun (n : Nat) (x : Pin) : Pin := { x with onAt := x.onAt - n, offAt := x.offAt - n }

/-- A one-shot whose START has come or gone fires at a boundary; MISSED says that it had already passed (10 R318). -/
def oneShotAt (t : Nat) (x : Pin) : Pin :=
  if x.sStart * 4096 ≤ t then pinFire 0 { x with armed := false, missed := x.missed || decide (x.sStart * 4096 < t) } else { x with armed := true }

/-- A MODE write takes effect at a boundary (10 R316, R318, R319). A pulse of the mode before it ends. -/
def pinMode (x : Pin) (mode t : Nat) : Pin :=
  let st := pinStart x mode
  let per := pinSpan x mode
  let y := { x with mode := mode, modeNext := none, sStart := st, sPeriod := per, sWidth := x.width.toNat, armed := false, onAt := 0, offAt := 0 }
  if mode = 2 then oneShotAt t y
  else if mode = 3 ∨ mode = 4 then { y with armed := true, due := nextEdge (st * 4096) per t }
  else y

/-- A step of device time moves armed pins (10 R318, R319). -/
def pinStep (x : Pin) (t : Nat) : Pin :=
  if x.mode = 2 ∧ x.armed = true then oneShotAt t x
  else if (x.mode = 3 ∨ x.mode = 4) ∧ x.armed = true then
    let d := nextEdge (x.sStart * 4096) x.sPeriod (t + 1)
    { x with due := d, missed := x.missed || decide (x.due < d) }
  else x

/-- Pins at a trick boundary. -/
def pinsBoundary (stepped : Bool) (s : State) : State :=
  let t := t16 s
  { s with time := { s.time with pins := tabMap s.time.pins (fun _ x =>
      let y := if stepped then pinStep x t else x
      match x.modeNext with
      | some m => pinMode y m t
      | none => y) } }

/-- A capture enters a FIFO of 16 (10 R317). -/
def pinCapture (n : Nat) (rising : Bool) (ph : Nat) (s : State) : State :=
  let x := pin s n
  if 16 ≤ x.fifo.length then modPin n (fun y => { y with gapNext := true }) s
  else
    let t := sub40 (t40At s ph)
    let c : Capture := { t := t / 16, sub := t % 16, rising := rising, gap := x.gapNext }
    let s1 := modPin n (fun y => { y with fifo := y.fifo ++ [c], gapNext := false }) s
    if x.fifo.isEmpty && s.time.irqTpio then irqEvent 113 s1 else s1

/-- An edge is selected by EDGE (10 Table 10.16). -/
def edgeOn (x : Pin) (rising : Bool) : Bool :=
  decide (x.mode = 1) && (if rising then x.edge.testBit 0 else x.edge.testBit 1)

/-- The sample that a rising edge makes for domain x (10 R304), 2^-16 ns: the counter is captured in the time-clock cycle of the edge. -/
def edgeSample (s : State) (x ph : Nat) : Int :=
  let d := dom s x
  let c := d.ctr + (if s.time.running then (cyclesAt s ph : Int) * addend d.f else 0)
  let m := (c / 2 ^ 24 - d.pinDelay * 4096) % (10 ^ 9 * 65536)
  if m < 5 * 10 ^ 8 * 65536 then m else m - 10 ^ 9 * 65536

/-- A rising edge of a servo source: each domain that takes it gets a sample. -/
def edgeSamples (src pinNo ph : Nat) (s : State) : State :=
  forAll [0, 1] (fun x acc =>
    let d := dom s x
    if d.source = src ∧ (src = 2 ∨ d.pin = pinNo) then offerSample x src (edgeSample s x ph) acc else acc) s

end Sys2Proof.Machine
end

