-- ==== Sys2Proof/Machine/Telem.lean ====
section
/-! DEFINITION. Operations of telemetry: marks of a span (11 R328), rings in LPDDR5X (R330), the flow cache and its eviction (R331 to R339), sample and capture records (R344, R347), event and watch ranges (R349, R350) and hand dumps (R352). -/

namespace Sys2Proof.Machine

/-- Change telemetry. -/
def modTelem (f : Telem → Telem) (s : State) : State := { s with telem := f s.telem }

/-! ## Marks -/

/-- STEPPED, SLEWING, TIME_INVALID of a span that began at a trick count and ends now (11 R328). -/
def marks (s : State) (first : Nat) : Bool × Bool × Bool :=
  (decide (first < s.trick.lastStepped), decide (first < s.trick.lastSlewing),
   decide (first < s.trick.lastInvalid) || !s.time.valid)

/-! ## Rings in LPDDR5X (11 R330) -/

/-- An index of a ring of 2^r records, advanced by k. -/
def tIdx (r i k : Nat) : Nat := (i + k) % 2 ^ (r + 1)

/-- Records between CONS and PROD. -/
def tUsed (r : Nat) (x : TRing) : Nat := (x.prod + 2 ^ (r + 1) - x.cons) % 2 ^ (r + 1)

/-- The ring is full. -/
def tFull (r : Nat) (x : TRing) : Bool := decide (2 ^ r ≤ tUsed r x)

/-- Address of record i of an area. -/
def tAddr (base r size i : Nat) : Nat := base + 4096 + size * (i % 2 ^ r)

/-- CONS as read from the control page: taken when it lies within the ring, else the previous one stays. -/
def tCons (s : State) (base r : Nat) (x : TRing) : TRing :=
  let v := leVal (devRead s (base + 64) 8)
  if v < 2 ^ (r + 1) ∧ (x.prod + 2 ^ (r + 1) - v) % 2 ^ (r + 1) ≤ 2 ^ r then { x with cons := v } else x

/-! ## Flow cache -/

/-- log2 of the flow store's records. -/
def flowLog2 : Nat := 24

/-- A slice. -/
def sliceOf (s : State) (g : Nat) : Slice := (grp s g).slice

/-- Change a slice. -/
def modSlice (g : Nat) (f : Slice → Slice) (s : State) : State := modGrp g (fun x => { x with slice := f x.slice }) s

/-- What a frame brings to station 7 (11 R333). -/
structure FlowIn where
  profile : Nat
  /-- 40 bytes. -/
  key : List Byte
  keyBytes : Nat
  len : Nat
  /-- Ingress timestamp in ns and trick count at slot issue. -/
  ts : Nat
  count : Nat
  /-- No copy was admitted for transmission. -/
  dropped : Bool
  marked : Bool
  exc : Bool
  maxq : Nat
  deriving DecidableEq, Repr

/-- The set of a key (11 R332). -/
def flowSet (s : State) (profile : Nat) (key : List Byte) : Nat :=
  crc32c s.telem.seed.toNat (byte profile :: key) % 8192

/-- ⌈log2(depth + 1)⌉ (11 R333). -/
def maxqOf (depth : Nat) : Nat := Nat.clog 2 (depth + 1)

/-- A frame's contribution without its first and last values. -/
def flowAdd (f : FlowIn) (r : FlowRec) : FlowRec :=
  { r with
    packets := r.packets + 1
    bytes := r.bytes + f.len
    maxq := max r.maxq f.maxq
    drops := if f.dropped then satN 65535 (r.drops + 1) else r.drops
    refused := r.refused || f.dropped
    marked := if f.marked then satN 65535 (r.marked + 1) else r.marked
    exc := r.exc || f.exc }

/-- A frame updates a record (11 R333). -/
def flowTouch (f : FlowIn) (r : FlowRec) : FlowRec :=
  { flowAdd f r with lastTs := f.ts % 2 ^ 40, lastCount := f.count % 2 ^ 24 }

/-- A record that a frame opens (11 R335). -/
def flowOpen (f : FlowIn) : FlowRec :=
  flowTouch f { profile := f.profile, key := f.key, keyBytes := f.keyBytes, firstTs := f.ts % 2 ^ 40, firstCount := f.count % 2 ^ 24 }

/-- The older of two values of w bits, seen from a later one. -/
def older (w now a b : Nat) : Nat :=
  if (now + 2 ^ w - a % 2 ^ w) % 2 ^ w < (now + 2 ^ w - b % 2 ^ w) % 2 ^ w then b else a

/-- The later of two values of w bits. -/
def newer (w now a b : Nat) : Nat :=
  if (now + 2 ^ w - a % 2 ^ w) % 2 ^ w < (now + 2 ^ w - b % 2 ^ w) % 2 ^ w then a else b

/-- A record folds into the overflow record (11 R336, R337). -/
def flowFold (s : State) (r o : FlowRec) : FlowRec :=
  let c := now s % 2 ^ 24
  let t := tNs s % 2 ^ 40
  { o with
    packets := o.packets + r.packets
    bytes := o.bytes + r.bytes
    maxq := max o.maxq r.maxq
    drops := satN 65535 (o.drops + r.drops)
    marked := satN 65535 (o.marked + r.marked)
    refused := o.refused || r.refused
    exc := o.exc || r.exc
    firstTs := if o.packets = 0 then r.firstTs else older 40 t o.firstTs r.firstTs
    lastTs := if o.packets = 0 then r.lastTs else newer 40 t o.lastTs r.lastTs
    firstCount := if o.packets = 0 then r.firstCount else older 24 c o.firstCount r.firstCount
    lastCount := if o.packets = 0 then r.lastCount else newer 24 c o.lastCount r.lastCount }

/-- A slice's eviction queue has a free entry. -/
def evRoom (x : Slice) : Bool := decide (x.evq.length < 256)

/-- The flow update of station 7 (11 R333, R335). -/
def flowUpdate (g : Nat) (f : FlowIn) (s : State) : State :=
  let x := sliceOf s g
  let base := 4 * flowSet s f.profile f.key
  let ways := [base, base + 1, base + 2, base + 3]
  let hit := ways.find? (fun w =>
    match tabGet x.recs w with
    | some r => r.profile == f.profile && r.key == f.key && r.keyBytes == f.keyBytes
    | none => false)
  match hit with
  | some w => modSlice g (fun y => { y with recs := tabUpd y.recs w (flowTouch f) }) s
  | none =>
    match ways.find? (fun w => (tabGet x.recs w).isNone) with
    | some w => modSlice g (fun y => { y with recs := tabPut y.recs w (flowOpen f) }) s
    | none =>
      -- the oldest LAST_COUNT, the lowest way on a tie
      let age := fun (w : Nat) => (now s + 2 ^ 24 - (tabGetD x.recs w {}).lastCount % 2 ^ 24) % 2 ^ 24
      let v := ways.foldl (fun b w => if age b < age w then w else b) base
      if evRoom x then
        ev 0x0321 g (modSlice g (fun y => { y with evq := y.evq ++ [(tabGetD x.recs v {}, 3)], recs := tabPut y.recs v (flowOpen f) }) s)
      else
        ev 0x0320 g (modSlice g (fun y => { y with overRec := flowFold s (flowOpen f) y.overRec }) s)

/-- One record of the idle scan (11 R336). -/
def idleVisit (g i : Nat) (s : State) : State :=
  let x := sliceOf s g
  match tabGet x.recs i with
  | none => s
  | some r =>
    let c := now s
    let idle := (c + 2 ^ 24 - r.lastCount) % 2 ^ 24
    let age := (c + 2 ^ 24 - r.firstCount) % 2 ^ 24
    let due := if s.telem.idle ≤ idle then some 1 else if s.telem.active ≤ age then some 2 else none
    match due with
    | none => s
    | some reason =>
      if x.evq.length + 64 < 256 then
        modSlice g (fun y => { y with evq := y.evq ++ [(r, reason)], recs := tabErase y.recs i }) s
      else if 2 ^ 23 ≤ age then
        ev 0x0322 g (modSlice g (fun y => { y with overRec := flowFold s r y.overRec, recs := tabErase y.recs i }) s)
      else s

/-- The idle scan of one slice for one trick: 512 records in ascending index order, the whole slice in 64 tricks of the trick count. -/
def idleScan (g : Nat) (s : State) : State :=
  let x := sliceOf s g
  let a := 512 * (now s % 64)
  let due := (x.recs.map (fun e => e.1)).filter (fun i => decide (a ≤ i ∧ i < a + 512))
  forAll due (idleVisit g) s

/-- The overflow record at a hand boundary (11 R337). -/
def overflowQueue (g : Nat) (s : State) : State :=
  let x := sliceOf s g
  if 0 < x.overRec.packets ∧ evRoom x then
    modSlice g (fun y => { y with evq := y.evq ++ [(y.overRec, 4)], overRec := { profile := 255 } }) s
  else s

/-- The latest value not after now with the given low bits. -/
def rebuild (w now low : Nat) : Nat := now - (now + 2 ^ w - low % 2 ^ w) % 2 ^ w

/-- The store record of Table 11.4. -/
def storeRecord (s : State) (g : Nat) (r : FlowRec) (reason : Nat) : List Byte :=
  let t := tNs s
  let m := marks s (rebuild 24 (now s) r.firstCount)
  let flags := b2n m.1 + 2 * b2n m.2.1 + 4 * b2n r.refused + 8 * b2n r.exc
    + 16 * b2n (decide (r.drops = 65535 ∨ r.marked = 65535)) + 32 * b2n m.2.2
  leBytes 8 (rebuild 40 t r.firstTs) ++ leBytes 8 (rebuild 40 t r.lastTs) ++ leBytes 8 (r.packets % 2 ^ 40)
    ++ leBytes 8 (r.bytes % 2 ^ 48) ++ leBytes 4 r.drops ++ leBytes 4 r.marked ++ leBytes 8 (idx s)
    ++ leBytes 4 s.telem.flow.seq ++ [byte g, byte r.profile, byte reason, byte flags, byte r.maxq, byte r.keyBytes]
    ++ zeros 6 ++ slice r.key 0 40 ++ zeros 24

/-- One record of the eviction job; none is taken while the store is full. -/
def evictOne (g : Nat) (s : State) : State :=
  match (sliceOf s g).evq with
  | [] => s
  | (r, reason) :: rest =>
    if tFull flowLog2 s.telem.flow then s
    else
      let x := s.telem.flow
      let s1 := devWrite (tAddr s.telem.flowBase flowLog2 128 x.prod) (storeRecord s g r reason) s
      let s2 := modTelem (fun t => { t with flow := { t.flow with prod := tIdx flowLog2 x.prod 1, seq := x.seq + 1 } }) s1
      ev 0x0323 g (ev 0x0510 0 (modSlice g (fun y => { y with evq := rest }) s2))

/-- The flow eviction job of one trick (11 R338; 01 R38), slice 0 to slice 31: the order of the slices in the store is the model's (DESIGN CHOICE, log entry 98). FLOW_STORE_FULL counts each trick in which the job takes nothing because the store is full or FLOW_EN is 0. -/
def flowEviction (s : State) : State :=
  if s.telem.flowEn = false ∨ tFull flowLog2 s.telem.flow then ev 0x0511 0 s
  else
    let p := s.telem.flow.prod
    let s1 := forAll (List.range 32) (fun g acc => forAll (List.range 16) (fun _ a => evictOne g a) acc) s
    if s1.telem.flow.prod = p then s1
    else devWrite s1.telem.flowBase (leBytes 8 s1.telem.flow.prod) s1

/-- A record of some slice's cache is VALID (11 R358). -/
def flowAnyValid (s : State) : Bool := s.groups.any (fun e => !e.2.slice.recs.isEmpty)

/-! ## The write FIFO of samples and captures (11 R347) -/

/-- Records of one kind in the FIFO. -/
def fifoOf (s : State) (cap : Bool) : Nat := (s.telem.fifo.filter (fun e => e.1 == cap)).length

/-- A sample record is offered (11 R347, R357). -/
def sampleOffer (bs : List Byte) (s : State) : State :=
  let t := s.telem
  if t.sampleEn = false ∨ 1024 ≤ t.fifo.length ∨ 2 ^ t.sampleLog2 ≤ tUsed t.sampleLog2 t.sample + fifoOf s false then ev 0x0513 0 s
  else modTelem (fun y => { y with fifo := y.fifo ++ [(false, bs, none)] }) s

/-- The mirror engine's cell behind a capture record is freed, and leaves its stake (11 R346). -/
def cellDone (cell : Option Nat) (s : State) : State :=
  match cell with
  | some h => dropChain h s
  | none => s

/-- A capture record is offered, with everything but its SEQ, and with the mirror engine's cell that its writing frees (11 R346, R347, Table 11.8). A record that is not taken frees the cell at once. -/
def captureOffer (bs : List Byte) (cell : Option Nat) (s : State) : State :=
  let t := s.telem
  let s1 := modTelem (fun y => { y with capture := { y.capture with seq := y.capture.seq + 1 } }) s
  if t.captureEn = false ∨ 1024 ≤ t.fifo.length
      ∨ (t.captureWrap = false ∧ 2 ^ t.captureLog2 ≤ tUsed t.captureLog2 t.capture + fifoOf s true) then cellDone cell (ev 0x0515 0 s1)
  else modTelem (fun y => { y with fifo := y.fifo ++ [(true, patch bs 16 (leBytes 4 t.capture.seq), cell)] }) s1

/-- One record leaves the FIFO for its ring. -/
def fifoDrainOne (s : State) : State :=
  match s.telem.fifo with
  | [] => s
  | (cap, bs, cell) :: rest =>
    let s0 := cellDone cell (modTelem (fun y => { y with fifo := rest }) s)
    let t := s.telem
    if cap then
      if t.captureEn = false then ev 0x0515 0 s0
      else
        let s1 := devWrite (tAddr t.captureBase t.captureLog2 256 t.capture.prod) bs s0
        ev 0x0514 0 (modTelem (fun y => { y with capture := { y.capture with prod := tIdx t.captureLog2 t.capture.prod 1 } }) s1)
    else if t.sampleEn = false then ev 0x0513 0 s0
    else
      let s1 := devWrite (tAddr t.sampleBase t.sampleLog2 256 t.sample.prod) bs s0
      ev 0x0512 0 (modTelem (fun y => { y with sample := { y.sample with prod := tIdx t.sampleLog2 t.sample.prod 1 } }) s1)

/-- One trick of the FIFO: 64 records within the share of Table 1.5, then PROD of each ring that moved. -/
def fifoDrain (s : State) : State :=
  let a := s.telem.sample.prod
  let b := s.telem.capture.prod
  let s1 := forAll (List.range (min 64 s.telem.fifo.length)) (fun _ acc => fifoDrainOne acc) s
  let s2 := if s1.telem.sample.prod ≠ a then devWrite s1.telem.sampleBase (leBytes 8 s1.telem.sample.prod) s1 else s1
  if s2.telem.capture.prod ≠ b then devWrite s2.telem.captureBase (leBytes 8 s2.telem.capture.prod) s2 else s2

/-! ## Sample and capture records -/

/-- A stage entry (11 Table 11.7). -/
def stageEntBytes (e : StageEnt) : List Byte :=
  leBytes 8 (b2n e.keyed * 2 ^ 63 + b2n e.hit * 2 ^ 62 + b2n e.acted * 2 ^ 61 + (e.kind % 4) * 2 ^ 59
    + (e.addr % 1024) * 2 ^ 49 + (e.slot % 4) * 2 ^ 47 + (e.bucket % 2 ^ 20) * 2 ^ 27 + (e.table % 64) * 2 ^ 21
    + (satN 255 e.stall) * 2 ^ 13)

/-- Stage entries padded to n. -/
def stageEnts (l : List StageEnt) (n : Nat) : List Byte := slice (l.flatMap stageEntBytes) 0 (8 * n)

/-- How a tracked packet was released (11 Table 11.6). -/
structure Release where
  outcome : Nat
  outPort : Nat := 0xFFFF
  queue : Nat := 0xFF
  depth : Nat := 0
  /-- Egress timestamp, 1/16 ns, of a frame that was sent. -/
  egress : Option Nat := none
  cut : Bool := false
  stages : List StageEnt := []
  deriving DecidableEq, Repr

/-- The sample record of Table 11.6. -/
def sampleRecord (s : State) (m : Meta) (r : Release) : List Byte :=
  let k := marks s m.count
  let eg := r.egress.getD 0
  let res := match r.egress with
    | some e => satN 0xFFFFFFFF (e - m.inTs)
    | none => 0
  let flags := b2n k.1 + 2 * b2n k.2.1 + 4 * b2n k.2.2 + 8 * b2n m.mcastGroup.isSome + 16 * b2n r.cut
  let pres := m.phv.pres.toNat
  leBytes 8 m.trick.toNat ++ leBytes 8 (m.inTs / 16) ++ leBytes 8 (eg / 16) ++ leBytes 4 res
    ++ [byte (m.inTs % 16 + 16 * (eg % 16)), byte flags] ++ leBytes 2 m.phv.inPort ++ leBytes 2 r.outPort
    ++ [byte r.queue, byte r.outcome] ++ leBytes 4 r.depth ++ leBytes 4 m.phv.disp.toNat ++ leBytes 2 (bits pres 48 43 * 1024 + bits pres 22 13)
    ++ leBytes 2 m.copies ++ leBytes 4 m.phv.len ++ zeros 12 ++ stageEnts m.sample 16 ++ stageEnts r.stages 8

/-- A tracked packet is released: its sample record is offered and its tracker is free (11 R343, R344). -/
def sampleWrite (m : Meta) (r : Release) (s : State) : State :=
  if m.tracked then sampleOffer (sampleRecord s m r) (modGrp m.group (fun g => { g with trackers := g.trackers - 1 }) s) else s

/-- The capture record of Table 11.8 without its SEQ. -/
def captureRecord (s : State) (inPort len : Nat) (ts : Nat) (reason : Nat) (count trick : Nat) (data : List Byte) : List Byte :=
  let k := marks s count
  let cap := min len 224
  leBytes 8 (ts / 16)
    ++ [byte (ts % 16 + 16 * b2n k.1 + 32 * b2n k.2.1 + 64 * b2n k.2.2 + 128 * b2n (decide (224 < len))), byte reason]
    ++ leBytes 2 inPort ++ leBytes 2 len ++ leBytes 2 cap ++ zeros 4 ++ leBytes 4 trick ++ zeros 8
    ++ slice (data.take cap) 0 224

/-! ## Ranges of codes -/

/-- Units, lowest and highest PARAM of an event code (11 Table 11.9). -/
def evRange (code : Nat) : Option (Nat × Nat × Nat) :=
  let inR := fun (a b : Nat) => decide (a ≤ code ∧ code ≤ b)
  if inR 0x0101 0x010F || inR 0x0110 0x0114 || inR 0x011C 0x011F || inR 0x0120 0x0125 then some (512, 0, 0)
  else if inR 0x0118 0x011A then some (512, 0, 7)
  else if inR 0x0201 0x020B then some (10240, 0, 0)
  else if inR 0x0301 0x0311 || inR 0x0320 0x0328 then some (32, 0, 0)
  else if inR 0x0401 0x0404 then some (4, 1, 63)
  else if inR 0x0405 0x0407 then some (4, 0, 0)
  else if inR 0x0411 0x0419 then some (4, 0, 63)
  else if inR 0x0501 0x0503 then some (1, 0, 35)
  else if inR 0x050A 0x050C then some (1, 0, 1)
  else if inR 0x0504 0x0509 || inR 0x0510 0x0518 || inR 0x0520 0x0523 || inR 0x0530 0x0535 then some (1, 0, 0)
  else none

/-- Units of a code that this ordering code has (00 R4). -/
def evUnitsHere (s : State) (code : Nat) : Nat :=
  match code / 256 with
  | 1 => laneCount s
  | 2 => 20 * laneCount s
  | 3 => groupCount s
  | 4 => clusterCount s
  | _ => 1

/-- Zero all counters of a port and of its queues (11 R349). -/
def evZeroPort (p : Nat) (s : State) : State :=
  { s with evc := s.evc.filter (fun e =>
      let code := e.1 / 64 / 65536
      let unit := e.1 / 64 % 65536
      !((decide (code / 256 = 1) && decide (unit = p)) || (decide (code / 256 = 2) && decide (unit / 20 = p)))) }

/-- Zero the stack codes (11 R349; 12 R392). -/
def evZeroStack (s : State) : State :=
  { s with evc := s.evc.filter (fun e =>
      let code := e.1 / 64 / 65536
      !(decide (0x0120 ≤ code ∧ code ≤ 0x0125) || decide (0x0520 ≤ code ∧ code ≤ 0x0523))) }

/-! ## Watch counters -/

/-- Units and highest PARAM of a watch code, and whether it is a level (11 Table 11.10). -/
def watchRange (code : Nat) : Option (Nat × Nat × Bool) :=
  match code with
  | 0x0601 => some (10240, 0, true)
  | 0x0602 => some (512, 0, true)
  | 0x0603 | 0x0604 | 0x0605 => some (1, 0, true)
  | 0x0606 | 0x0609 => some (32, 0, true)
  | 0x0607 => some (512, 7, true)
  | 0x0608 => some (4, 0, true)
  | 0x0701 | 0x0703 => some (512, 0, false)
  | 0x0702 => some (10240, 0, false)
  | _ => none

/-- The unit of a watch code is fused off (00 R4): on the N2048-H half of every kind of unit but the device. -/
def watchFused (s : State) (code unit : Nat) : Bool :=
  match watchRange code with
  | some (n, _, _) => decide (1 < n) && s.ident.half && decide (n / 2 ≤ unit)
  | none => false

/-- Bytes in flight of a port (09 R261). -/
def inflightBytes (x : Port) : Nat := (x.inflight.map (fun f => f.counted)).sum

/-- The level of a watch code (11 Table 11.10). -/
def watchLevel (s : State) (w : Watch) : Nat :=
  match w.code with
  | 0x0601 => match port s (w.unit / 20) with
    | some x => depth (queue x (w.unit % 20))
    | none => 0
  | 0x0602 => match port s w.unit with
    | some x => inflightBytes x
    | none => 0
  | 0x0603 => s.buf.potUsed
  | 0x0604 => potFree s
  | 0x0605 => s.buf.kittyUsed
  | 0x0606 => (s.ports.map (fun e => if groupOf e.1 = w.unit then (e.2.staged.map (fun f => f.data.length)).sum else 0)).sum
  | 0x0607 => match port s w.unit with
    | some x => b2n (decide (0 < at0 x.timers w.param))
    | none => 0
  | 0x0608 => (cluster s w.unit).cmdQ.length
  | 0x0609 => (sliceOf s w.unit).evq.length
  | _ => 0

/-- The level of a watch passes its test (11 R350). -/
def watchPasses (s : State) (w : Watch) : Bool :=
  let v := watchLevel s w
  decide ((w.mode = 1 ∧ w.thresh < v) ∨ (w.mode = 2 ∧ v ≤ w.thresh))

/-- Level watches at the end of a trick of n cycles (11 R350): one count for each core cycle in which the level passed. The cycles come with the boundary; a counter for which none are named passes in all of them or in none, as its level stands at the boundary (log entry 45). -/
def watchCycles (n : Nat) (passed : List (Nat × Nat)) (s : State) : State :=
  modTelem (fun t => { t with watch := tabMap t.watch (fun k w =>
    if w.mode = 1 ∨ w.mode = 2 then
      let c := match passed.find? (fun e => e.1 == k) with
        | some e => min e.2 n
        | none => if watchPasses s w then n else 0
      { w with value := w.value + BitVec.ofNat 64 c }
    else w) }) s

/-! ## Hand dumps (11 R351 to R354) -/

/-- Bytes of one dump item. -/
def itemBytes (d : DumpItem) : Nat := (if d.kind = 1 then 16 else 8) * d.run

/-- Data of one item as it stands. -/
def itemData (s : State) (d : DumpItem) : List Byte :=
  (List.range d.run).flatMap (fun i =>
    match d.kind with
    | 1 =>
      let c := tabGetD (cluster s d.sel).counters (d.first + i) (0, 0)
      leBytes 8 c.1.toNat ++ leBytes 8 c.2.toNat
    | 2 => leBytes 8 (evGet s d.code (d.first + i) d.sel).toNat
    | _ => leBytes 8 (tabGetD s.telem.watch (d.first + i) {}).value.toNat)

/-- The dump of a hand boundary, with the last of the sets that take effect at it (11 R352 to R354). -/
def dumpOpen (s : State) : State :=
  let due := fun (e : List DumpItem × Nat) => decide (e.2 ≤ idx s / 64 * 64)
  let s0 := match (s.telem.next.filter due).getLast? with
    | some e => modTelem (fun t => { t with items := e.1, next := t.next.filter (fun x => !due x), setChanged := true }) s
    | none => s
  let t := s0.telem
  if t.dumpEn = false then modTelem (fun y => { y with cycles := 0, prevHand := now s0 }) s0
  else if t.dump.isSome then
    ev 0x0517 0 (modTelem (fun y => { y with skipBefore := true, cycles := 0, prevHand := now s0 }) s0)
  else
    let data := t.items.flatMap (itemData s0)
    let k := marks s0 t.prevHand
    let flags := b2n k.1 + 2 * b2n k.2.1 + 4 * b2n k.2.2 + 8 * b2n t.setChanged + 16 * b2n t.skipBefore
    let hdr := leBytes 8 (idx s0) ++ leBytes 8 (now s0) ++ leBytes 8 (tNs s0) ++ leBytes 4 t.dumpNo ++ leBytes 4 data.length
      ++ leBytes 4 t.cycles ++ leBytes 4 t.commits ++ leBytes 4 flags ++ zeros 20
    let slots := if t.dumpSlots = 0 then 1 else t.dumpSlots
    modTelem (fun y => { y with
      dump := some { data := data, done := 0, header := hdr, slot := t.dumpNo % slots }
      dumpNo := y.dumpNo + 1, setChanged := false, skipBefore := false, cycles := 0, prevHand := now s0 }) s0

/-- One trick of a dump: 16 KiB, and the header with the last data. -/
def dumpWrite (s : State) : State :=
  match s.telem.dump with
  | none => s
  | some d =>
    let at_ := s.telem.dumpBase + 1048576 * d.slot
    let s1 := devWrite (at_ + 64 + d.done) (d.data.take 16384) s
    let rest := d.data.drop 16384
    if rest.isEmpty then modTelem (fun t => { t with dump := none }) (devWrite at_ d.header s1)
    else modTelem (fun t => { t with dump := some { d with data := rest, done := d.done + 16384 } }) s1

end Sys2Proof.Machine
end

