-- ==== Sys2Proof/Machine/Release.lean ====
section
/-! DEFINITION. Release of descriptors (08 R222, R232; 01 R29), with what hangs on it: the NOT_SENT entry of a time request (10 R300), the sample record of a tracked packet (11 R344), and the flushes of 08 R243 to R245. -/

namespace Sys2Proof.Machine

/-- A metadata record. -/
def metaOf (s : State) (m : Nat) : Option Meta := tabGet s.buf.metas m

/-- Change a metadata record. -/
def modMeta (m : Nat) (f : Meta → Meta) (s : State) : State :=
  { s with buf := { s.buf with metas := tabUpd s.buf.metas m f } }

/-- The time request a frame has on its egress port: ONE_STEP is taken as TWO_STEP while TX_STEP is 0 (10 R299). -/
def reqOn (x : Port) (r : TimeReq) : TimeReq :=
  match r with
  | .none => .none
  | .twoStep => .twoStep
  | .origin => if x.txStep then .origin else .twoStep
  | .turnaround => if x.txStep then .turnaround else .twoStep

/-- NOT_SENT entry of a TWO_STEP frame that will never be sent (10 R300). -/
def notSentPush (p : Nat) (d : Desc) (s : State) : State :=
  match port s p with
  | none => s
  | some x =>
    if reqOn x d.req = .twoStep then
      tsqPush d.fromFw { ts := 0, gap := false, notSent := true, timeValid := s.time.valid, port := p, tag := d.tag } s
    else s

/-- The sample record of a tracked packet, written with the first release of its copies. -/
def sampleRelease (m : Nat) (r : Release) (s : State) : State :=
  match metaOf s m with
  | none => s
  | some x => if x.tracked then modMeta m (fun y => { y with tracked := false }) (sampleWrite x r s) else s

/-- A descriptor leaves queue q of port p: its charge returns, its sample is written and its chain is freed or loses a reference. -/
def releaseDesc (p q : Nat) (d : Desc) (r : Release) (s : State) : State :=
  let s1 := refund p q (ingressOf d) d.pri d.src d.n s
  let s2 := sampleRelease d.mta { r with outPort := p, queue := q, depth := d.admitDepth } s1
  chainUnref d.head s2

/-- A descriptor leaves without having been sent. -/
def dropDesc (p q : Nat) (d : Desc) (r : Release) (s : State) : State :=
  releaseDesc p q d r (notSentPush p d s)

/-- Flush one descriptor (08 R243): counted DROP_PORT_DOWN. -/
def flushDesc (p q : Nat) (d : Desc) (s : State) : State :=
  dropDesc p q d { outcome := 5 } (ev 0x0205 (queueUnit p q) s)

/-- Queue members of group g of a port; Q15 belongs to none while TRUMP is 1 (09 R257). -/
def groupQueues (x : Port) (g : Nat) : List Nat :=
  (List.range 20).filter (fun q => decide ((queue x q).group = g) && !(x.trump && decide (q = 15)))

/-- A member of a DWRR set that has become empty with DEFICIT above 0 resets it (09 R269). -/
def idleDeficits (p : Nat) (s : State) : State :=
  modPort p (fun x => { x with
    queues := tabMap x.queues (fun _ q => if q.descs.isEmpty ∧ 0 < q.deficit then { q with deficit := 0 } else q)
    sgroups := tabMap x.sgroups (fun g y => if (groupQueues x g).all (fun q => (queue x q).descs.isEmpty) ∧ 0 < y.deficit then { y with deficit := 0 } else y) }) s

/-- Flush the descriptors of one queue that a predicate selects. -/
def flushQueue (p q : Nat) (sel : Desc → Bool) (s : State) : State :=
  match port s p with
  | none => s
  | some x =>
    let ds := (queue x q).descs
    let s1 := modQueue p q (fun y => { y with descs := y.descs.filter (fun d => !sel d) }) s
    idleDeficits p ((ds.filter sel).foldl (fun acc d => flushDesc p q d acc) s1)

/-- Flush the descriptors of a port's 20 queues that a predicate selects, in queue order. -/
def flushPort (p : Nat) (sel : Desc → Bool) (s : State) : State :=
  forAll (List.range 20) (fun q acc => flushQueue p q sel acc) s

/-- The end of a hold (08 R243, R244): every descriptor goes, and admission refuses until the port is UP again. -/
def holdFlush (p : Nat) (s : State) : State :=
  modPort p (fun x => { x with hold := none, holdArm := false, flushed := true }) (flushPort p (fun _ => true) s)

end Sys2Proof.Machine
end

