-- ==== Sys2Proof/Machine/LinkOps.lean ====
section
/-! DEFINITION. Operations of lanes and links: FIR sets (03 R65 to R69), the power ladder of a lane (03 R82 to R86; 16 R474), link states (04 Table 4.7), stack links going up and down (12 Table 12.2), and faults of ports with class CONTAIN (17 R504). -/

namespace Sys2Proof.Machine

/-! ## Lanes -/

/-- Rubber number now (02 R46). -/
def rubberNow (s : State) : Nat := idx s / 1024

/-- The configured port that holds a lane. -/
def portOfLane (s : State) (l : Nat) : Option (Nat × Port) :=
  s.ports.find? (fun e => decide (e.1 ≤ l ∧ l < e.1 + e.2.width))

/-- Mode in which the lanes of a port run: the mode resolved last, else the configured one (03 R60; 04 R105). -/
def portMode (x : Port) : Nat := if x.lastMode ≠ 0 then x.lastMode else x.mode

/-- Mode in which a lane runs: its port's; 0 in no port. -/
def laneMode (s : State) (l : Nat) : Nat :=
  match portOfLane s l with
  | some (_, x) => portMode x
  | none => 0

/-- Linear drive (03 R76). -/
def linear (s : State) (l : Nat) : Bool :=
  decide ((lane s l).cls = 5) && linearOk s l && decide (2 ≤ laneMode s l)

/-- The FIR set for the lane's class, mode and mark goes into force (03 R69). Without a usable one, as after a negotiation that resolves to a mode whose rate group has none, the transmitter is in electrical idle (DESIGN CHOICE, log entry 101). -/
def applyFir (l : Nat) (s : State) : State :=
  let x := lane s l
  let m := laneMode s l
  let pick := if m = 0 ∨ x.cls = 0 then none else firSelect s l x.cls m x.useAlt
  let y : Lane := match pick with
    | some k =>
      let b := firBytes s.boot.table l k
      { x with fir := some k, taps := firTaps b, swing := fld b 5 1 }
    | none => { x with fir := none, taps := [], swing := 0 }
  let s1 := modLane l (fun _ => if x.fir = y.fir then y else { y with lastChange := rubberNow s }) s
  -- a change of set makes the port's calibration void (10 R290)
  match portOfLane s l with
  | some (p, _) => if x.fir.isSome ∧ x.fir ≠ y.fir then modPort p (fun z => { z with calValid := false }) s1 else s1
  | none => s1

/-- The stored copy goes (03 R84). -/
def dropStored (l : Nat) (s : State) : State := modLane l (fun x => { x with stored := none }) s

/-- Initial adaptation starts (03 R73). -/
def startAdapt (x : Lane) : Lane := { x with init := some {}, trial := none, restoreLeft := 0 }

/-- A pending CTLE trial is resolved by its previous code (03 R84). -/
def endTrial (x : Lane) : Lane :=
  match x.trial with
  | some t => { x with ctle := t.prev, trial := none }
  | none => x

/-- The eye figure while a lane has no signal, no lock or is below Run (03 R72). -/
def laneDark (x : Lane) : Lane := { endTrial x with efLast := 0, init := none, cdr := false, freqOffset := 0 }

/-- A quadrant's reference is lost: its own, or REFCLK_T while it takes that one. -/
def quadLost (s : State) (q : Nat) : Bool :=
  if s.refs.quads.getD q false then s.refs.lost.contains 5 else s.refs.lost.contains q

/-- The rung that requests, shedding, the emergency shed and a lost reference impose on a lane (16 R474, R484, R492; 03 R64); a measurement asks for Run (03 R78). -/
def laneRaw (s : State) (l : Nat) : Nat :=
  let shed := if s.power.shedOcts.contains (l / 8) then s.power.shedRung else 0
  -- rung 1 at the next boundary, the shed rung from the one after it (Table 16.7; log entry 115)
  let em := if s.power.emergency = false then 0 else if now s ≤ s.power.emergencyAt + 1 then 1 else 3
  let rf := if quadLost s (l / 128) then 4 else 0
  let x := lane s l
  max (max (if x.echo.isSome then 0 else x.req) shed) (max em rf)

/-- The rung a lane goes to: rung 5 only with its whole octet (03 R82). -/
def laneTarget (s : State) (l : Nat) : Nat :=
  let t := laneRaw s l
  if t < 5 then t
  else if (List.range 8).all (fun i => decide (5 ≤ laneRaw s (8 * (l / 8) + i))) then 5 else 4

/-- The port of a lane is not aligned any more. -/
def unalign (l : Nat) (s : State) : State :=
  match portOfLane s l with
  | some (p, _) => modPort p (fun y => { y with aligned := false }) s
  | none => s

/-- A lane enters a deeper rung (03 R83, R84, R88). -/
def laneEnter (l t : Nat) (s : State) : State :=
  let x := endTrial (lane s l)
  let keep := decide (2 ≤ t) && (match x.lastWin with
    | some e => decide (eyeWarn s l ≤ e)
    | none => false)
  let x1 := if keep && decide (x.rung < 5) then { x with stored := some ⟨x.ctle, x.adapt⟩ } else x
  let x2 := laneDark x1
  let x3 := if t = 5 then { x2 with ctle := 0, adapt := ⟨[], 0, []⟩ } else x2
  let x4 := { x3 with rung := t, moving := true, signal := false, ready := false, restoreLeft := 0 }
  let x5 := if x.rung = 0 ∧ x.ageMove = true then { x4 with ageMove := false, useAlt := true } else x4
  let s1 := unalign l (modLane l (fun _ => x5) s)
  if x.rung = 0 ∧ x.ageMove = true then applyFir l s1 else s1

/-- A lane starts to leave its rung toward a shallower one (03 R85). -/
def laneExit (l t : Nat) (s : State) : State :=
  modLane l (fun x => { x with rung := t, moving := true, restored := false, ready := false, lastWin := if t = 0 then none else x.lastWin }) s

/-- The circuits of a lane stand at Run: the FIR set is in force and the stored copy loaded, or initial adaptation waits for the lock (03 R85, R86). -/
def laneRunning (l : Nat) (s : State) : State :=
  let s1 := applyFir l (modLane l (fun x => { x with moving := false, wasLost := false, windows := 0 }) s)
  modLane l (fun x =>
    match x.stored with
    | some c => { x with ctle := c.ctle, adapt := c.adapt, restored := true, fullReadapt := false, restoreLeft := 2 }
    | none => { startAdapt x with fullReadapt := true, restored := false, perFull := true }) s1

/-- The transmitter of a lane sends: a FIR set is in force, the lane stands at Run, and its port is not DAMPENED (03 R66, Table 3.7; 04 R108). Otherwise it is in electrical idle. -/
def laneSends (s : State) (l : Nat) : Bool :=
  let y := lane s l
  y.fir.isSome && decide (y.rung = 0) && !y.moving && (match portOfLane s l with
    | some (_, x) => decide (x.link ≠ .dampened)
    | none => false)

/-- A lane is electrically ready now (04 R558). -/
def laneReady (x : Lane) : Bool :=
  decide (x.rung = 0) && !x.moving && x.cdr && x.init.isNone && decide (x.restoreLeft = 0)

/-! ## Ports -/

/-- The port is UP. -/
def portUp (s : State) (p : Nat) : Bool :=
  match port s p with
  | some x => decide (x.link = .up)
  | none => false

/-- Rate of a port in Gb/s (04 Table 4.1): the resolved mode, else the configured one. -/
def portRate (x : Port) : Nat :=
  let m := portMode x
  x.width * (if m = 1 then 100 else if m = 2 then 200 else 400)

/-- A severe instance of class CONTAIN holds the port (17 R504). -/
def contained (s : State) (p : Nat) : Bool :=
  [49, 50, 51].any (fun src => decide ((fltSrc s src).cls = 2) && (fltInst s src p).severe)

/-- A pulse-echo measurement ends; from the next boundary the rung that the lane is asked for holds again (03 R78). -/
def echoEnd (l : Nat) (s : State) : State := modLane l (fun x => { x with echo := none }) s

/-- A link bring-up on the lane stops a measurement; its command is ABORTED (03 R81). -/
def echoStop (l : Nat) (s : State) : State :=
  match (lane s l).echo with
  | some w => answer w.mb stAborted 0 [] (echoEnd l s)
  | none => s

/-- The link state changes, and LAST_CHANGE with it. A change into any state but DAMPENED and PARKED is a bring-up: it stops measurements on the port's lanes (03 R81; 04 R108). -/
def setLink (p : Nat) (st : LinkState) (s : State) : State :=
  match port s p with
  | none => s
  | some x =>
    if x.link = st then s
    else
      let s1 := modPort p (fun y => { y with link := st, lastChange := idx s }) s
      if st = .dampened ∨ st = .parked then s1 else forAll (portLanes p x) echoStop s1

/-- NEGOTIATING, with nothing resolved (04 Table 4.7). -/
def enterNegotiating (p : Nat) (s : State) : State :=
  setLink p .negotiating (modPort p (fun x => { x with resolved := 0, quiet := 0, probeEnd := none, aligned := false, alignFrom := none }) s)

/-- The 4 ms of 04 R558 begin once every lane of an ALIGNING port has been ready. -/
def alignBegin (p : Nat) (s : State) : State :=
  match port s p with
  | some x =>
    if x.link = .aligning ∧ x.alignFrom = none ∧ (portLanes p x).all (fun l => (lane s l).ready) = true then
      modPort p (fun y => { y with alignFrom := some (now s) }) s
    else s
  | none => s

/-- A lane may have become ready. -/
def alignArm (l : Nat) (s : State) : State :=
  match portOfLane s l with
  | some (p, _) => alignBegin p s
  | none => s

/-- ALIGNING: from TRAINING every lane is ready at entry, else each lane that is ready now (04 R558). A port that stays in ALIGNING begins another attempt. -/
def enterAligning (p : Nat) (fromTraining : Bool) (s : State) : State :=
  match port s p with
  | none => s
  | some x =>
    let s1 := forAll (portLanes p x) (fun l acc => modLane l (fun y => { y with ready := fromTraining || laneReady y }) acc) s
    alignBegin p (setLink p .aligning (modPort p (fun y => { y with alignFrom := none }) s1))

/-- NEGOTIATING, or ALIGNING with NEG 0. -/
def linkAgain (p : Nat) (s : State) : State :=
  match port s p with
  | none => s
  | some x => if x.neg = 0 then enterAligning p false s else enterNegotiating p s

/-- A stack link's port leaves UP, or the link is disabled: DOWN (12 Table 12.2). -/
def stackDown (p : Nat) (s : State) : State :=
  modPort p (fun x => { x with stk := { x.stk with st := .down, good := 0, heard := false, rxIndex := 0, rxTs := 0, best := [], sentHb := [], sumD := 0, sumTheta := 0, nPairs := 0, delay := 0, fs := { x.stk.fs with enable := false, credit := 0 } } }) s

/-- The partner's frequency lies within the limit of the port: 100 ppm, or 50 ppm on a stack link (03 R63; 12 R368). -/
def freqOk (s : State) (p : Nat) (x : Port) : Bool :=
  let lim := if x.stk.enable then 500 else 1000
  (portLanes p x).all (fun l => decide ((lane s l).freqOffset.natAbs ≤ lim))

/-- A stack link's port is UP: DISCOVERING, or HELD with cause SLOW below 800 Gb/s; a partner more than 50 ppm off does not bring the link up (12 R366, R368, Table 12.3). -/
def stackUp (p : Nat) (s : State) : State :=
  match port s p with
  | none => s
  | some x =>
    if x.stk.enable = false ∨ x.link ≠ .up ∨ s.stack.levels = 0 then s
    else if freqOk s p x = false then ev 0x0108 p s
    else if portRate x < 800 then modPort p (fun y => { y with stk := { y.stk with st := .held, cause := 3, lastHb := now s, good := 0 } }) s
    else modPort p (fun y => { y with stk := { y.stk with st := .discovering, cause := 0, lastHb := now s, good := 0 } }) s

/-- The SyncE outputs that carry a lane of the port go low (04 R111). -/
def synceLow (p w : Nat) (s : State) : State :=
  { s with refs := { s.refs with low := (List.range 2).map (fun i =>
      match s.refs.out.getD i none with
      | some l => if p ≤ l ∧ l < p + w then true else s.refs.low.getD i true
      | none => true) } }

/-- Divisor of a SyncE output by lane mode and FREQ (04 Table 4.8). -/
def synceDivisor (mode : Nat) (f25 : Bool) : Nat :=
  match mode with
  | 3 => if f25 then 8500 else 1360
  | 2 => if f25 then 4250 else 680
  | 1 => if f25 then 2125 else 340
  | _ => 0

/-- The divisors follow the modes of the lanes selected. -/
def synceDivs (s : State) : State :=
  { s with refs := { s.refs with divs := (List.range 2).map (fun i =>
      match s.refs.out.getD i none with
      | some l => synceDivisor (laneMode s l) (s.refs.freq.getD i false)
      | none => 0) } }

/-- What happens to a port that leaves UP (04 R106, R107, R110, R111; 08 R243, R245; 09 R272; 12 Table 12.2). -/
def leaveUp (p : Nat) (s : State) : State :=
  match port s p with
  | none => s
  | some x =>
    if x.link ≠ .up then s else
    let s1 := modPort p (fun y => { y with
      timers := [0, 0, 0, 0, 0, 0, 0, 0, 0], pausedRun := [0, 0, 0, 0, 0, 0, 0, 0, 0], stormQuiet := [0, 0, 0, 0, 0, 0, 0, 0, 0]
      storm := 0, storm31 := false, neighbour := none, holdArm := true, hold := none, macCtl := [], advert := 0
      remoteDegrade := false }) (ev 0x0109 p s)
    let s2 := setLink p .negotiating s1
    synceLow p x.width (stackDown p (flushPort p (fun d => d.ptp) s2))

/-- A port leaves UP for a cause, with or without the dampening penalty (04 R107; 16 R484). -/
def linkLost (p cause : Nat) (penalise : Bool) (s : State) : State :=
  match port s p with
  | none => s
  | some x =>
    if x.link ≠ .up then s else
    let pen := if penalise then satN 0xFFFFFFFF (x.penalty + 1000 * 65536) else x.penalty
    let damp := penalise && decide (x.guard.suppress ≤ pen / 65536)
    -- a fault that the reconciliation sublayer reports leaves the alignment standing (04 R101)
    let keep := !damp && (decide (cause = 8) || decide (cause = 10))
    let s1 := leaveUp p (modPort p (fun y => { y with penalty := pen, downCause := cause, aligned := y.aligned && keep }) s)
    if damp then setLink p .dampened s1 else linkAgain p s1

/-- A severe CONTAIN instance takes its port to DAMPENED (17 R504). -/
def containPort (p : Nat) (s : State) : State :=
  match port s p with
  | none => s
  | some _ => setLink p .dampened (modPort p (fun y => { y with downCause := 7, aligned := false }) (leaveUp p s))

/-- A fault event of a port, with the action of class CONTAIN when it makes the instance severe. -/
def portFaultI (src p detail : Nat) (inj : Bool) (s : State) : State :=
  let s1 := raiseFault src p detail inj s
  if (fltInst s src p).severe = false ∧ (fltInst s1 src p).severe = true ∧ (fltSrc s src).cls = 2 then containPort p s1 else s1

/-- A fault event of a port that hardware raises. -/
def portFault (src p detail : Nat) (s : State) : State := portFaultI src p detail false s

/-- A port whose CONTAIN instances have been cleared goes on (17 Table 17.2). -/
def containRelease (p : Nat) (was : Bool) (s : State) : State :=
  match port s p with
  | none => s
  | some x => if was = true ∧ contained s p = false ∧ x.link = .dampened then linkAgain p s else s

/-- The port enters UP (04 Table 4.7; 08 R243; 09 R272; 12 Table 12.2). -/
def enterUp (p skew : Nat) (s : State) : State :=
  match port s p with
  | none => s
  | some x =>
    let s1 := setLink p .up (modPort p (fun y => { y with hold := none, holdArm := false, flushed := false, skew := if y.width = 1 then 0 else skew, advert := 0, macCtl := [], quiet := 0, aligned := true, rxBad := false, early := none, lldpAt := none, esmcAt := none }) s)
    let s2 := synceDivs { s1 with refs := { s1.refs with upAt := (List.range 2).map (fun i =>
      match s1.refs.out.getD i none with
      | some l => if p ≤ l ∧ l < p + x.width then now s1 else s1.refs.upAt.getD i 0
      | none => s1.refs.upAt.getD i 0) } }
    stackUp p (announce p s2)

/-- Request a rung for the lanes of a port (04 Table 4.7): it acts at the next trick boundary (16 R475). -/
def lanesReq (p r : Nat) (s : State) : State :=
  match port s p with
  | none => s
  | some x => forAll (portLanes p x) (fun l acc => modLane l (fun y => { y with req := r }) acc) s

/-- The link of the port that holds a lane goes down because the lane left Run. -/
def laneLinkDown (l cause : Nat) (penalise : Bool) (s : State) : State :=
  match portOfLane s l with
  | some (p, _) => linkLost p cause penalise s
  | none => s

end Sys2Proof.Machine
end

