-- ==== Sys2Proof/Machine/PowOps.lean ====
section
/-! DEFINITION. Operations of the power manager that other families use: ageing log records (16 R488, R489, R491), the hold-up check (R490), the effective cap (R478), and images of the power registers. -/

namespace Sys2Proof.Machine

/-- Change the power manager. -/
def modPower (f : Power → Power) (s : State) : State := { s with power := f s.power }

/-- The power interrupt source (14 R446). -/
def powerIrq (on : Bool) (s : State) : State := if on then irqEvent 115 s else s

/-- An ageing log record waits for its store, with the interrupt of IRQ_AGE; a 257th is discarded and counted, and none is kept while the log is read-only (16 R489, R491, Table 16.9). -/
def ageRecord (kind old new unit value : Nat) (s : State) : State :=
  if s.power.logRo then s
  else if 256 ≤ s.power.logWait.length + s.power.stateWait.length then ev 0x0534 0 s
  else powerIrq s.power.irqAge (modPower (fun p => { p with logWait := p.logWait ++ [{ seq := 0, rubber := idx s / 1024, kind := kind, old := old, new := new, unit := unit, value := value }] }) s)

/-- The record of Table 16.6 in bytes. -/
def ageBytes (r : AgeRec) : List Byte :=
  let b := leBytes 8 r.seq ++ leBytes 8 r.rubber ++ [byte r.kind, byte r.old, byte r.new, 0] ++ leBytes 2 r.unit ++ zeros 2
    ++ leBytes 4 r.value ++ zeros 32
  b ++ leBytes 4 (crc32c 0xFFFFFFFF b)

/-- Lowest VIN of the last 64 tricks, mV. -/
def vinLow (s : State) : Nat := (s.power.vins.min?).getD 0

/-- The hold-up check of 16 R490, exact, in units of 10^-13 J per sample of the last 4 tricks: E against P_now * 200 us and 50 W * t_store. -/
def storeOk (s : State) (erase : Bool) : Bool :=
  let v := vinLow s
  let n := max 1 s.power.last4.length
  let e := s.boot.cBoard * (v * v - 81000000) * 4
  let store := if erase then 30000000000000 else 600000000000
  !s.power.emergency && decide (s.power.last4.sum * 2000 + n * store ≤ n * e)

/-- cap_eff in mW (16 R478). -/
def capEff (s : State) : Nat :=
  let lim := vinLow s * 38
  if s.power.cap = 0 then lim else min (s.power.cap * 1000) lim

/-- Octets shed by the cap or by R470 (16 Table 16.8). -/
def shedCount (s : State) : Nat := s.power.shedOcts.length

/-- The floor of R479. -/
def atFloor (s : State) : Bool :=
  !s.trick.sprint && decide (s.power.issue = 1) && s.power.shedList.all (fun o => s.power.shedOcts.contains o)

/-- PWR_STAT (16 Table 16.8). -/
def pwrStat (s : State) : Nat :=
  let p := s.power
  (p.issue % 16) * 2 ^ 28 + b2n s.trick.sprint * 2 ^ 27 + b2n p.limiter * 2 ^ 26 + b2n p.emergency * 2 ^ 25 + b2n p.therm * 2 ^ 24
    + (p.ageCol % 4) * 2 ^ 22 + (shedCount s % 128) * 2 ^ 15 + b2n (atFloor s) * 2 ^ 14 + b2n p.unreachable * 2 ^ 7
    + b2n p.limiterSeen * 2 ^ 6 + b2n p.emergencySeen * 2 ^ 5 + b2n p.thermSeen * 2 ^ 4

/-- PWR_TEMP (16 Table 16.13). -/
def pwrTemp (s : State) : Nat := (s.power.sensor % 16) * 2 ^ 16 + uInt 16 s.power.tj

end Sys2Proof.Machine
end

