-- ==== Sys2Proof/Machine/FlashOps.lean ====
section
/-! DEFINITION. Operations of flash: the check of an image (13 R412, R413), write sequences as stores of one sector or one page (16 R490, R491; 13 R414; 18 R538), and the records of the ageing log and the time-state area (16 R489; 10 R291; 17 R510). -/

namespace Sys2Proof.Machine

/-- Change boot and flash. -/
def modBoot (f : Boot → Boot) (s : State) : State := { s with boot := f s.boot }

/-! ## Images -/

/-- Bytes of the host-exposed LPDDR5X window (14 R425). -/
def windowLen : Nat := 0xC00000000

/-- Greatest BODY_LEN of a KIND (13 Table 13.17); an unknown KIND has none. -/
def imgLimit (kind : Nat) : Option Nat :=
  match kind with
  | 1 => some 67108800
  | 2 => some 524288
  | 3 => some 1048576
  | _ => none

/-- The header of an image is one that R412 accepts. -/
def imgHeaderOk (img : Mem) : Bool :=
  memFld img 0 4 == 0x4E2048C5 && memFld img 6 2 == 64 && (match imgLimit (memFld img 4 1) with
    | some n => decide (memFld img 20 4 ≤ n)
    | none => false)

/-- The image verifies (13 R412). -/
def imgVerifies (img : Mem) : Bool :=
  imgHeaderOk img && memReadN img 48 16 == cmacBytes Config.imageKey (memReadN img 0 48 ++ memReadN img 64 (memFld img 20 4))

/-- DEVS includes the running code. -/
def imgRuns (s : State) (img : Mem) : Bool := (memFld img 5 1).testBit (b2n s.ident.half)

/-- An image slot. -/
def slotOf (s : State) (k : Nat) : Slot := tabGetD s.boot.slots k {}

/-- Change an image slot. -/
def modSlot (k : Nat) (f : Slot → Slot) (s : State) : State := modBoot (fun b => { b with slots := tabMod b.slots k {} f }) s

/-- STATE of a slot (13 Table 13.19). -/
def slotState (s : State) (k : Nat) : Nat :=
  let x := slotOf s k
  if x.blank then 0
  else if imgHeaderOk x.img = false then 3
  else if x.failed = true ∨ x.damaged = true ∨ imgVerifies x.img = false then 2
  else 1

/-- SEQ of a slot that verifies, else 0. -/
def slotSeq (s : State) (k : Nat) : Nat := if slotState s k = 1 then memFld (slotOf s k).img 8 8 else 0

/-! ## The MAC engine in firmware's hands -/

/-- The engine given back: no owner, and CIPH_KEY zeroed as at each release (13 R419, R420). -/
def engineFree (c : Ciph) : Ciph := { c with owner := 0, waiting := false, held := 0, keyReg := 0 }

/-- Firmware needs the MAC engine for the command of a mailbox: while host software or the BMC holds it, firmware waits; when it has done, it gives the engine back (13 R420). -/
def withEngine (wants : Bool) (f : State → State) (s : State) : State :=
  if wants = false then f s
  else if s.ciph.owner = 1 ∨ s.ciph.owner = 2 then { s with ciph := { s.ciph with waiting := true } }
  else
    let t := f s
    { t with ciph := engineFree t.ciph }

/-- A command of the code waits in the mailbox to be executed. -/
def waitsExec (s : State) (m code : Nat) : Bool :=
  ((mbox s m).cmd.any (fun c => decide (c.code = code) && decide (c.wait = .exec))) && myTurn s m code

/-- A command of the code waits in the mailbox for what another holds. -/
def waitsOutside (s : State) (m code : Nat) : Bool := (mbox s m).cmd.any (fun c => decide (c.code = code) && decide (c.wait = .outside))

/-- A command whose turn has come while another holds what it needs waits, and does not hold up those behind it (13 R404). -/
def heldUp (busy : Bool) (ask : State → State) (m code : Nat) (f : State → State) (s : State) : State :=
  if waitsOutside s m code then (if busy then s else f (modCmd m (fun c => { c with wait := .exec }) s))
  else if busy && waitsExec s m code then ask (modCmd m (fun c => { c with wait := .outside }) s)
  else f s

/-- Host software or the BMC holds the MAC engine. -/
def engineHeld (s : State) : Bool := decide (s.ciph.owner = 1 ∨ s.ciph.owner = 2)

/-- Firmware says that it waits for the engine (13 R420). -/
def engineAsk (s : State) : State := if engineHeld s then { s with ciph := { s.ciph with waiting := true } } else s

/-- A command for which firmware needs the MAC engine, and what else must not be busy. -/
def macCmd (busy : State → Bool) (m code : Nat) (f : State → State) (s : State) : State :=
  heldUp (busy s || engineHeld s) engineAsk m code (fun t => withEngine (waitsExec t m code) f t) s

/-- A command is past its start with steps still to come. -/
def midway (s : State) : Bool :=
  s.mboxes.any (fun e => e.2.cmd.any (fun c => match c.wait with
    | .table _ _ | .flash | .staging | .remote => true
    | .exec | .outside | .boundary | .ticks _ | .echo _ | .cap _ | .patch | .answered => false))

/-! ## Stores -/

/-- Sectors already erased. -/
def jobErased (j : FlashJob) : Nat := cdiv j.len 4096 - j.erases

/-- The next page to program. -/
def jobPage (j : FlashJob) : Nat := cdiv j.len 256 - j.pages

/-- A write sequence over the sectors and pages that n bytes cover. -/
def newJob (mb area i len : Nat) (src : Mem) : FlashJob := ⟨mb, area, i, src, len, cdiv len 4096, cdiv len 256⟩

/-- The bytes that a job's slot or copy holds. -/
def jobMem (s : State) (j : FlashJob) : Mem := if j.area = 0 then (slotOf s j.idx).img else tabGetD s.boot.copies j.idx []

/-- The flash of a job's slot or copy becomes m. -/
def jobPut (j : FlashJob) (m : Mem) (s : State) : State :=
  if j.area = 0 then modSlot j.idx (fun x => { x with img := m, blank := m.isEmpty }) s
  else modBoot (fun b => { b with
    copies := tabPut b.copies j.idx m
    copyBlank := if m.isEmpty then (if b.copyBlank.contains j.idx then b.copyBlank else j.idx :: b.copyBlank) else b.copyBlank.filter (fun i => i != j.idx) }) s

/-- One erase of a sector or program of a page of a job has ended well. -/
def jobStore (erase : Bool) (j : FlashJob) (s : State) : FlashJob × State :=
  let m := jobMem s j
  if erase then ({ j with erases := j.erases - 1 }, jobPut j (memClear m (4096 * jobErased j) 4096) s)
  else
    let a := 256 * jobPage j
    ({ j with pages := j.pages - 1 }, jobPut j (memWriteL m a (memReadN j.src a (min 256 (j.len - a)))) s)

/-- A store of a job read back wrong: what the sector or page holds is open. -/
def jobSpoil (erase : Bool) (j : FlashJob) (s : State) : State :=
  let n := if erase then 4096 else 256
  let a := if erase then 4096 * jobErased j else 256 * jobPage j
  let r := drawFree n s
  let s1 := jobPut j (memWriteL (jobMem s j) a r.1) r.2
  if j.area = 0 then modSlot j.idx (fun x => { x with damaged := true }) s1 else s1

/-- A write sequence has ended: the response of IMAGE_WRITE (13 R414) or BOARD_TABLE_WRITE (18 R538). In recovery the boot ROM starts anew (18 R525). -/
def jobEnd (j : FlashJob) (s : State) : State :=
  let s1 := modBoot (fun b => { b with flash := none }) s
  let resp := [byte j.idx] ++ zeros 7 ++ leBytes 8 (memFld j.src 8 8)
  if j.area = 0 then
    if slotState s1 j.idx = 1 then
      let s2 := answer j.mb stOk 0 resp s1
      if s2.boot.phase = .recovery then modBoot (fun b => { b with phase := .regulated }) s2 else s2
    else answer j.mb stAuthFail 0 [] s1
  else answer j.mb stOk 0 resp s1

/-- A command starts a write sequence with its first erase, if 16 R490 lets it. -/
def jobStart (j : FlashJob) (s : State) : Ans :=
  if storeOk s true = false then ansSt stNotReady (ev 0x0534 0 s)
  else
    let s1 := modBoot (fun b => { b with flash := some j, storing := some true }) s
    .hold .flash (if j.area = 0 then modSlot j.idx (fun x => { x with failed := false, damaged := false }) s1 else s1)

/-! ## Records of the log and of the time-state area -/

/-- Firmware, or the boot ROM in recovery, is there to run a store. -/
def fwThere (s : State) : Bool := s.boot.fwRunning || decide (s.boot.phase = .recovery)

/-- Records wait for a store. -/
def recordsWait (s : State) : Bool := !(s.power.logWait.isEmpty && s.power.stateWait.isEmpty)

/-- A store for the oldest waiting record, the log's first, starts or is deferred (16 R490, R491). -/
def recordStore (erase : Bool) (s : State) : State :=
  if s.boot.storing.isSome ∨ s.boot.flash.isSome ∨ s.boot.fwRunning = false ∨ recordsWait s = false then s
  else if storeOk s erase = false then ev 0x0534 0 s
  else modBoot (fun b => { b with storing := some erase, flash := some ⟨32, if s.power.logWait.isEmpty then 3 else 2, 0, [], 0, 0, 0⟩ }) s

/-- SEQ of the next log record. -/
def nextLogSeq (s : State) : Nat :=
  match s.power.log.getLast? with
  | some r => r.seq + 1
  | none => 1

/-- The oldest waiting record of an area is in flash. -/
def recordStored (area : Nat) (s : State) : State :=
  if area = 2 then
    match s.power.logWait with
    | r :: rest => modPower (fun p => { p with logWait := rest, log := p.log ++ [{ r with seq := nextLogSeq s, rubber := rubberNow s }] }) s
    | [] => s
  else
    match s.power.stateWait with
    | (k, rx, tx, asym, v) :: rest =>
      { s with power := { s.power with stateWait := rest }, time := { s.time with cal := tabPut s.time.cal k (rx, tx, asym, v) } }
    | [] => s

/-- Spare sectors left in an area. -/
def areaSpares (s : State) (area : Nat) : Nat := if area = 2 then s.power.logSpares else s.power.stateSpares

/-- A sector of a record area failed: a spare takes its place; with the last one the area becomes read-only and its waiting records go unlogged (17 R510; 16 R489). -/
def takeSpare (area : Nat) (s : State) : State :=
  if area = 2 then
    let s1 := modPower (fun p => { p with logSpares := p.logSpares - 1 }) s
    if s1.power.logSpares = 0 ∧ s.power.logRo = false then fault 66 0 0 (modPower (fun p => { p with logRo := true }) s1) else s1
  else
    let s1 := modPower (fun p => { p with stateSpares := p.stateSpares - 1 }) s
    if s1.power.stateSpares = 0 ∧ s.power.stateRo = false then fault 66 0 1 (modPower (fun p => { p with stateRo := true }) s1) else s1

/-- A record area that is read-only takes no further store: its waiting records are dropped. -/
def dropWaiting (area : Nat) (s : State) : State :=
  if area = 2 then modPower (fun p => if p.logRo then { p with logWait := [] } else p) s
  else modPower (fun p => if p.stateRo then { p with stateWait := [] } else p) s

/-- A store for a record has ended (17 R510): one that failed is repeated on a spare. -/
def recordEnd (erase ok : Bool) (area : Nat) (s : State) : State :=
  let idle := modBoot (fun b => { b with storing := none, flash := none }) s
  if ok then dropWaiting area (if erase then idle else recordStored area idle)
  else if areaSpares s area = 0 then dropWaiting area idle
  else takeSpare area s

/-! ## Steps of a store -/

/-- FLASH_STORE: the next store of the command that writes flash, or a store for a waiting record. A sector is erased before its pages are programmed. -/
def flashStore (erase : Bool) (s : State) : State :=
  if s.boot.storing.isSome ∨ fwThere s = false then s
  else match s.boot.flash with
    | none => recordStore erase s
    | some j =>
      if (erase = true ∧ j.erases = 0) ∨ (erase = false ∧ (j.pages = 0 ∨ jobErased j ≤ jobPage j / 16)) then s
      else if storeOk s erase then modBoot (fun b => { b with storing := some erase }) s
      else answer j.mb stNotReady 0 [] (ev 0x0534 0 (modBoot (fun b => { b with flash := none }) s))

/-- FLASH_STORE_END. A store that a warm restart found running ends without its sequence going on: its job has no mailbox, number 32. -/
def flashStoreEnd (ok : Bool) (s : State) : State :=
  match s.boot.storing, s.boot.flash with
  | some er, some j =>
    if 2 ≤ j.area then recordEnd er ok j.area s
    else
      let s1 := modBoot (fun b => { b with storing := none }) s
      if ok = false then
        let t := jobSpoil er j (modBoot (fun b => { b with flash := none }) s1)
        if j.mb = 32 then t else answer j.mb stAuthFail 0 [] t
      else
        let r := jobStore er j s1
        if r.1.mb = 32 then modBoot (fun b => { b with flash := none }) r.2
        else if r.1.erases = 0 ∧ r.1.pages = 0 then jobEnd r.1 r.2
        else modBoot (fun b => { b with flash := some r.1 }) r.2
  | _, _ => s

end Sys2Proof.Machine
end

