-- ==== Sys2Proof/Machine/SchedOps.lean ====
section
/-! DEFINITION. Charging of selections (09 R262, R263, R266) and what the last byte of an admitted frame settles (08 R230, R242). -/

namespace Sys2Proof.Machine

/-- The counted length of a descriptor (09 R262). -/
def countedLen (x : Port) (len : Nat) : Nat := (max 1 ((len : Int) + x.overhead)).toNat

/-- The lowest CREDIT (09 R266). -/
def creditFloor : Int := -8388608 * 65536

/-- A debit of l bytes. -/
def debit (l : Nat) (h : Shaper) : Shaper :=
  if h.enable then { h with credit := max creditFloor (h.credit - (l : Int) * 65536) } else h

/-- The refill of one trick (09 R267). -/
def refill (h : Shaper) : Shaper :=
  if h.enable then { h with credit := min ((h.burst : Int) * 65536) (h.credit + h.rate) } else h

/-- SHAPER_SET on a shaper (09 R268). A disabled shaper keeps CREDIT at 0 (R267). -/
def setShaper (enable forgive : Bool) (rate burst : Nat) (h : Shaper) : Shaper :=
  let c := if enable = true ∧ h.enable = false then 0 else h.credit
  { h with enable := enable, rate := rate, burst := burst, credit := if enable = false ∨ (forgive ∧ c < 0) then 0 else c }

/-- A group of a port. -/
def sgroup (x : Port) (g : Nat) : SGroup := tabGetD x.sgroups g {}

/-! ## Arbiters of a port group (01 R32; 09 R260) -/

/-- Weight of a port among the ports of its group, in 100 Gb/s: lane count times lane rate (01 R32). -/
def arbWeight (x : Port) : Nat := max 1 (portRate x / 100)

/-- Mark at which a port's next turn starts: after its last one, and not before the turn in progress, so that a port which wanted nothing saves nothing. -/
def arbStart (a : Arb) (p : Nat) : Nat := max a.mark (tabGetD a.fin p 0)

/-- It is port p's turn: none of the ports that want one is due before it. Among equals either may go (log entry 94). -/
def arbTurn (a : Arb) (want : List Nat) (p : Nat) : Bool := want.all (fun q => decide (arbStart a p ≤ arbStart a q))

/-- Port p has its turn: the next one comes the later, the smaller its weight. -/
def arbServe (w p : Nat) (a : Arb) : Arb := { mark := arbStart a p, fin := tabPut a.fin p (arbStart a p + 64 / w) }

/-- The configured ports of a group. -/
def groupPorts (s : State) (g : Nat) : Tab Port := s.ports.filter (fun e => groupOf e.1 == g)

/-! ## Charging -/

/-- Queue q is the port's trump queue (09 R257). -/
def isTrump (x : Port) (q : Nat) : Bool := x.trump && decide (q = 15)

/-- The charges of a selection of l counted bytes from queue q (09 R262), the follow-suit shaper of a stack link among them (12 R388). -/
def chargeSel (p q l : Nat) (s : State) : State :=
  match port s p with
  | none => s
  | some x =>
    let y := queue x q
    let g := y.group
    let gr := sgroup x g
    let s1 := modQueue p q (fun z => { z with shaper := debit l z.shaper }) s
    let s2 := modPort p (fun z => { z with shaper := debit l z.shaper, stk := { z.stk with fs := debit l z.stk.fs } }) s1
    if isTrump x q then s2
    else
      let s3 := if gr.dwrr then modQueue p q (fun z => { z with deficit := z.deficit - l }) s2 else s2
      modPort p (fun z => { z with sgroups := tabMod z.sgroups g {} (fun w =>
        { w with shaper := debit l w.shaper, deficit := if w.ets then w.deficit - l else w.deficit }) }) s3

/-- The charge of a provisional descriptor falls to its final count (08 R230). -/
def settleCharge (p q : Nat) (d : Desc) (n : Nat) (s : State) : State := refund p q (ingressOf d) d.pri d.src (d.n - n) s

/-- The provisional descriptors of a chain in one queue settle. -/
def settleQueue (head len n : Nat) (bad : Bool) (p q : Nat) (s : State) : State :=
  match port s p with
  | none => s
  | some x =>
    let mine := (queue x q).descs.filter (fun d => d.head == head && d.prov)
    let s1 := mine.foldl (fun acc d => settleCharge p q d n acc) s
    if mine.isEmpty then s
    else modQueue p q (fun y => { y with descs := y.descs.map (fun d =>
      if d.head = head ∧ d.prov = true then { d with n := n, len := len, prov := false, bad := d.bad || bad } else d) }) s1

/-- The FCS of a transmission ended by 08 R242. -/
def stompFcs (bs : List Byte) : List Byte := (fcsOf bs).map (fun b => ~~~b)

/-- A transmission that began before the last byte arrived goes on with the rest, or is ended with an inverted FCS; its charge is made now (09 R263; 08 R242). -/
def settleSent (head len n : Nat) (bad : Bool) (rest : List Byte) (p : Nat) (s : State) : State :=
  match port s p with
  | none => s
  | some x =>
    let mine := x.inflight.filter (fun f => f.desc.head == head && f.desc.prov)
    mine.foldl (fun acc f =>
      let l := countedLen x len
      let a1 := settleCharge p f.queue f.desc n acc
      let a2 := chargeSel p f.queue l (modQueue p f.queue (fun y => { y with owed := false }) a1)
      let w := if f.desc.bad then f.wire else if bad then f.wire ++ stompFcs f.wire else f.wire ++ rest ++ fcsOf (f.wire ++ rest)
      let g := { f with counted := l, wire := w, desc := { f.desc with n := n, len := len, prov := false, bad := f.desc.bad || bad } }
      if f.dropped then
        -- it was not to be sent: it only waited for its charge
        dropDesc p f.queue g.desc { outcome := f.outcome, cut := true, stages := f.stages } (modPort p (fun y => { y with inflight := y.inflight.filter (fun z => z != f) }) a2)
      else
        let a3 := modPort p (fun y => { y with inflight := y.inflight.map (fun z => if z = f then g else z) }) a2
        if bad = true ∧ f.desc.bad = false then ev 0x0209 (queueUnit p f.queue) a3 else a3) s

/-- The BAD descriptors at the head of a queue are dropped (08 R242). -/
def dropBad (p q : Nat) (s : State) : State :=
  match port s p with
  | none => s
  | some x =>
    let ds := (queue x q).descs
    let b := ds.takeWhile (fun d => d.bad)
    if b.isEmpty then s
    else idleDeficits p (b.foldl (fun acc d => dropDesc p q d { outcome := 7, cut := d.cut } acc) (modQueue p q (fun y => { y with descs := ds.drop b.length }) s))

/-- The chain of a frame whose last byte arrives gets n cells: those of the bytes that follow come from its writer's rotation, and count in the writer's stake while the decision on the frame is open (08 R218, R221; 01 R26). False when the buffer has none to give. -/
def fitChain (h n : Nat) (s : State) : Bool × State :=
  match chain s h with
  | none => (true, s)
  | some c =>
    let m := c.cells.length
    let open_ := decide (c.staked ≠ 0)
    if n < m then
      let s1 := giveCells (c.cells.drop n) (modChain h (fun y => { y with cells := y.cells.take n, staked := if open_ then n else 0 }) s)
      (true, if open_ then stakeSub c.writer (m - n) s1 else s1)
    else
      match takeCells (n - m) c.writer s with
      | some (l, s1) =>
        let s2 := modChain h (fun y => { y with cells := y.cells ++ l, staked := if open_ then n else 0 }) s1
        (true, if open_ then stakeAdd c.writer (n - m) s2 else s2)
      | none => (false, s)

/-- The last byte of an admitted frame has arrived, or never will: every provisional descriptor of its chain settles. -/
def settleFrame (a : Arriving) (rest0 : List Byte) (bad0 : Bool) (s0 : State) : State :=
  let fit := fitChain a.head (max 1 (cellsOf (a.got + rest0.length))) s0
  let rest := if fit.1 then rest0 else []
  let bad := bad0 || !fit.1
  let s := fit.2
  match chain s a.head with
  | none => s
  | some c =>
    let len := a.got + rest.length
    let n := max 1 (cellsOf len)
    let s1 := modChain a.head (fun y => { y with len := len }) (chainWrite c.cells a.got rest s)
    let sent := min a.got (a.len - 4)
    let tail := chainRead s1 a.head sent (len - 4 - sent)
    let ports := s1.ports.map (fun e => e.1)
    let s2 := forAll ports (fun p acc => forAll (List.range 20) (fun q t => settleQueue a.head len n bad p q t) acc) s1
    let s3 := forAll ports (fun p acc => settleSent a.head len n bad tail p acc) s2
    let s4 := forAll (List.range 32) (fun g acc =>
      if (grp acc g).repl.any (fun j => j.head == a.head && j.prov) then
        modGrp g (fun x => { x with repl := x.repl.map (fun j => if j.head = a.head ∧ j.prov = true then { j with prov := false, len := len, n := n, bad := j.bad || bad } else j) }) acc
      else if (grp acc g).at6.any (fun j => j.head == a.head) then
        modGrp g (fun x => { x with at6 := x.at6.map (fun j => if j.head = a.head then
          { j with whole := true, n := n, bad := j.bad || bad, info := { j.info with phv := { j.info.phv with len := len } } } else j) }) acc
      else acc) s3
    let s5 := { s4 with buf := { s4.buf with metas := tabUpd s4.buf.metas a.mta (fun m => { m with phv := { m.phv with len := len } }) } }
    if bad then forAll ports (fun p acc => forAll (List.range 20) (fun q t => dropBad p q t) acc) s5 else s5

end Sys2Proof.Machine
end

