-- ==== Sys2Proof/Machine/TableOps.lean ====
section
/-! DEFINITION. Table clusters (06): entries and buckets, the two hashes, lookups, keyed operations with the shuffle, learning, and the notification queue. An entry is a number of 128 or 256 bits; its unit is a slot of a narrow bucket or a pair of a wide one. -/

namespace Sys2Proof.Machine

/-! ## Entries (06 R144, R145) -/

/-- Width of an entry. -/
def entW (d : TableDesc) : Nat := if d.wide then 256 else 128

/-- Units of a bucket. -/
def unitCount (d : TableDesc) : Nat := if d.wide then 2 else 4

/-- Unit i of a bucket. -/
def unitGet (d : TableDesc) (b : BitVec 512) (i : Nat) : Nat := (b.toNat >>> (entW d * i)) % 2 ^ entW d

/-- Replace unit i of a bucket. -/
def unitPut (d : TableDesc) (b : BitVec 512) (i v : Nat) : BitVec 512 :=
  BitVec.ofNat 512 (b.toNat - (unitGet d b i) * 2 ^ (entW d * i) + (v % 2 ^ entW d) * 2 ^ (entW d * i))

/-- Slot number of a unit. -/
def unitSlot (d : TableDesc) (i : Nat) : Nat := if d.wide then 2 * i else i

/-- Unit of a slot number. -/
def slotUnit (d : TableDesc) (n : Nat) : Nat := if d.wide then n / 2 else n

/-- VALID, LOCK, LEARNED, TABLE, REPORTED and AGE of an entry (06 Table 6.2). -/
def entValid (e : Nat) : Bool := e.testBit 31
def entLock (e : Nat) : Bool := e.testBit 30
def entLearned (e : Nat) : Bool := e.testBit 29
def entTable (e : Nat) : Nat := bits e 28 23
def entReported (e : Nat) : Bool := e.testBit 22
def entAge (e : Nat) : Nat := e % 65536

/-- KEY of an entry. -/
def entKey (d : TableDesc) (e : Nat) : Nat := e >>> (entW d - d.keyBits)

/-- Bits of DATA. -/
def dataBits (d : TableDesc) : Nat := entW d - 32 - d.keyBits

/-- DATA of an entry. -/
def entData (d : TableDesc) (e : Nat) : Nat := (e >>> 32) % 2 ^ dataBits d

/-- An entry from its fields. -/
def entMake (d : TableDesc) (key data ctl : Nat) : Nat :=
  (key % 2 ^ d.keyBits) * 2 ^ (entW d - d.keyBits) + (data % 2 ^ dataBits d) * 2 ^ 32 + ctl % 2 ^ 32

/-- A control word. -/
def ctlMake (lock learned : Bool) (table age : Nat) : Nat :=
  2 ^ 31 + b2n lock * 2 ^ 30 + b2n learned * 2 ^ 29 + (table % 64) * 2 ^ 23 + age % 65536

/-- The entry image of 32 bytes; a narrow entry fills the first 16. -/
def entImage (e : Nat) : BitVec 256 := BitVec.ofNat 256 e

/-! ## Hashes (06 R147) -/

/-- Bytes of a key, its most significant bit first. -/
def keyBytes (n key : Nat) : List Byte :=
  let k := cdiv n 8
  beBytes k (key * 2 ^ (8 * k - n))

/-- The two candidate buckets of a key. -/
def candidates (d : TableDesc) (key : Nat) : Nat × Nat :=
  let bs := keyBytes d.keyBits key
  (d.base + crc32c d.seed1.toNat bs % 2 ^ d.log2, d.base + crc32 d.seed2.toNat bs % 2 ^ d.log2)

/-! ## Buckets -/

/-- A bucket is retired in a cluster (06 R178). -/
def isRetired (c : Cluster) (b : Nat) : Bool := c.retired.contains b

/-- A bucket as stored. -/
def bucketRaw (c : Cluster) (b : Nat) : BitVec 512 := tabGetD c.buckets b 0

/-- A bucket as lookups read it: a retired one holds no entries. -/
def bucketGet (c : Cluster) (b : Nat) : BitVec 512 := if isRetired c b then 0 else bucketRaw c b

/-- Write a bucket; one that is all zero is not listed. -/
def bucketPut (b : Nat) (v : BitVec 512) (c : Cluster) : Cluster :=
  { c with buckets := if v = 0 then tabErase c.buckets b else tabPut c.buckets b v }

/-- Write one unit of a bucket. -/
def bucketUnit (d : TableDesc) (b i v : Nat) (c : Cluster) : Cluster := bucketPut b (unitPut d (bucketRaw c b) i v) c

/-- The unit of a bucket that matches table and key (06 R146). -/
def matchIn (c : Cluster) (d : TableDesc) (t key b : Nat) : Option Nat :=
  (List.range (unitCount d)).find? (fun i =>
    let e := unitGet d (bucketGet c b) i
    entValid e && decide (entTable e = t) && decide (entKey d e = key))

/-- Where an entry stands: bucket, unit and the entry. -/
structure Found where
  b : Nat
  i : Nat
  e : Nat
  deriving DecidableEq, Repr

/-- The matching entry, the H1 bucket's first (06 R150). -/
def findKey (c : Cluster) (d : TableDesc) (t key : Nat) : Option Found :=
  let h := candidates d key
  match matchIn c d t key h.1 with
  | some i => some ⟨h.1, i, unitGet d (bucketGet c h.1) i⟩
  | none =>
    match matchIn c d t key h.2 with
    | some i => some ⟨h.2, i, unitGet d (bucketGet c h.2) i⟩
    | none => none

/-- The lowest free unit of a bucket that is not retired (06 R154). -/
def freeIn (c : Cluster) (d : TableDesc) (b : Nat) : Option Nat :=
  if isRetired c b then none
  else (List.range (unitCount d)).find? (fun i => !entValid (unitGet d (bucketRaw c b) i))

/-- The current stamp of a table (06 R161). -/
def ageStamp (s : State) (d : TableDesc) : Nat := (now s >>> d.ageShift) % 65536

/-! ## Definitions in force -/

/-- A table's definition, as keys see it. -/
def tdesc (s : State) (t : Nat) : Option TableDesc := tabGet s.tables t

/-- The definition that a TABLE_CREATE request gives (06 Table 6.10). -/
def descOf (p : List Byte) : TableDesc where
  ladder := fld p 17 1 == 2
  wide := fld p 18 1 == 1
  log2 := fld p 19 1
  base := fld p 20 4
  keyBits := fld p 24 2
  ageMode := fld p 26 1
  ageShift := fld p 27 1
  ageLimit := fld p 28 2
  learn := (fld p 30 1).testBit 0
  learnUpdate := (fld p 30 1).testBit 1
  seed1 := BitVec.ofNat 32 (fld p 32 4)
  seed2 := BitVec.ofNat 32 (fld p 36 4)

/-- TABLE_CREATE on the definitions. -/
def createIn (p : List Byte) (l : Tab TableDesc) : Tab TableDesc :=
  if fld p 17 1 = 0 then tabErase l (fld p 16 1) else tabPut l (fld p 16 1) (descOf p)

/-- TABLE_LADDER_SET on the definitions (06 R160). -/
def ladderIn (p : List Byte) (l : Tab TableDesc) : Tab TableDesc :=
  tabUpd l (fld p 16 1) (fun d =>
    let y := { d with dflt := BitVec.ofNat 32 (fld p 20 4) }
    if (fld p 19 1).testBit 0 then y
    else { y with addrBits := fld p 18 1, rl := (List.range (fld p 17 1)).map (fun i => fld p (24 + i) 1) })

/-- The definitions as firmware sees them, with what is scheduled for the next trick boundary. -/
def fwTables (s : State) : Tab TableDesc :=
  s.deferred.foldl (fun l x => if x.code = 0x0301 then createIn x.req l else if x.code = 0x0302 then ladderIn x.req l else l) s.tables

/-- A table as firmware sees it. -/
def fwTable (s : State) (t : Nat) : Option TableDesc := tabGet (fwTables s) t

/-- The region of a table holds a bucket. -/
def inRegion (d : TableDesc) (b : Nat) : Bool := decide (d.base ≤ b ∧ b < d.base + 2 ^ d.log2)

/-- Some table whose region holds a bucket; all that overlap have one width (06 R143). -/
def regionTable (s : State) (b : Nat) : Option (Nat × TableDesc) := s.tables.find? (fun e => inRegion e.2 b)

/-- The entries of table t in a cluster's region of it: bucket, unit, entry. -/
def tableEntries (c : Cluster) (d : TableDesc) (t : Nat) : List Found :=
  (c.buckets.filter (fun e => inRegion d e.1 && !isRetired c e.1)).flatMap (fun e =>
    ((List.range (unitCount d)).map (fun i => (⟨e.1, i, unitGet d e.2 i⟩ : Found))).filter (fun f => entValid f.e && decide (entTable f.e = t)))

/-! ## Notifications (06 R167, Table 6.6) -/

/-- The notification queue has room. -/
def notifRoom (c : Cluster) : Bool := decide (c.notif.length < 4096)

/-- Raise a notification. -/
def notify (n typ table slot bucket : Nat) (entry : BitVec 256) (s : State) : State :=
  modCluster n (fun c => { c with notif := c.notif ++ [{ typ := typ, cluster := n, table := table, slot := slot, bucket := bucket, trick := s.trick.index, entry := entry, done := decide (typ ≠ 1 ∧ typ ≠ 2) }] }) s

/-- RETIRED is raised for a bucket once the queue has room (06 R167, R178). -/
def notifyRetired (n : Nat) (s : State) : State :=
  match (cluster s n).retWait with
  | [] => s
  | b :: r => if notifRoom (cluster s n) then notify n 6 0xFF 0xFF b 0 (modCluster n (fun c => { c with retWait := r }) s) else s

/-- The record of Table 6.6. -/
def notifBytes (r : Notif) : List Byte :=
  [byte r.typ, byte r.cluster, byte r.table, byte r.slot] ++ leBytes 4 r.bucket ++ leBytes 8 r.trick.toNat ++ zeros 16 ++ leBytes 32 r.entry.toNat

/-! ## Lookups (06 R146 to R150, R162) -/

/-- A lookup of a key by a stage: its counts, and the refresh of the entry that it hits, dropped when the stamp queue is full. -/
def lookup (n t key : Nat) (full : Bool) (s : State) : Option Found × State :=
  match tdesc s t with
  | none => (none, s)
  | some d =>
    match findKey (cluster s n) d t key with
    | none => (none, evAdd 0x0412 n t 1 s)
    | some f =>
      let u := ageStamp s d
      let s1 := evAdd 0x0411 n t 1 s
      if d.ageMode ≠ 0 ∧ entLock f.e = false ∧ (entAge f.e ≠ u ∨ entReported f.e = true) then
        let e := f.e - entAge f.e + u - (if entReported f.e then 2 ^ 22 else 0)
        (some f, if full then evAdd 0x0417 n t 1 s1 else modCluster n (bucketUnit d f.b f.i e) s1)
      else (some f, s1)

/-! ## Insertion (06 R154, R155) -/

/-- The candidate bucket of an entry other than the one it stands in, by its own table's definition. -/
def altOf (s : State) (b e : Nat) : Option Nat :=
  match fwTable s (entTable e) with
  | none => none
  | some d =>
    let h := candidates d (entKey d e)
    if h.1 = h.2 then none else if h.1 = b then some h.2 else if h.2 = b then some h.1 else none

/-- An unlocked entry of bucket b that can move, with its other bucket. -/
def movable (s : State) (c : Cluster) (d : TableDesc) (b i : Nat) : Option Nat :=
  let e := unitGet d (bucketRaw c b) i
  if entValid e = false ∨ entLock e = true then none
  else match altOf s b e with
    | some a => if isRetired c a then none else some a
    | none => none

/-- One move of a walk: bucket, unit, entry, destination. -/
structure Move where
  b : Nat
  i : Nat
  e : Nat
  to_ : Nat
  deriving DecidableEq, Repr

/-- The walk of R154, n steps being left. -/
def walk (s : State) (c : Cluster) (d : TableDesc) (n m b : Nat) (path : List Move) : Option (List Move) :=
  match n with
  | 0 => none
  | k + 1 =>
    let u := unitCount d
    let mv := fun (i a : Nat) => (⟨b, i, unitGet d (bucketRaw c b) i, a⟩ : Move)
    match (List.range u).findSome? (fun i => (movable s c d b i).bind (fun a => if (freeIn c d a).isSome then some (mv i a) else none)) with
    | some x => some (path ++ [x])
    | none =>
      match ((List.range u).map (fun j => ((m - 1) + j) % u)).findSome? (fun i => (movable s c d b i).map (mv i)) with
      | some x => walk s c d k (m + 1) x.to_ (path ++ [x])
      | none => none

/-- The moves of a walk, from the far end (06 R155). -/
def runMoves (d : TableDesc) (path : List Move) (c : Cluster) : Cluster :=
  match path.reverse with
  | [] => c
  | x :: rest =>
    let c1 := match freeIn c d x.to_ with
      | some i => bucketUnit d x.to_ i x.e c
      | none => c
    -- each preceding entry goes into the slot vacated by the one moved after it
    (rest.foldl (fun acc y => (bucketUnit d acc.2.b acc.2.i y.e acc.1, y)) (c1, x)).1

/-- An insertion of an absent key: the bucket and unit taken with the number of moves, or full. -/
def place (s : State) (c : Cluster) (d : TableDesc) (key e : Nat) : Option (Nat × Nat × Nat × Cluster) :=
  let h := candidates d key
  match freeIn c d h.1 with
  | some i => some (h.1, i, 0, bucketUnit d h.1 i e c)
  | none =>
    match freeIn c d h.2 with
    | some i => some (h.2, i, 0, bucketUnit d h.2 i e c)
    | none =>
      if isRetired c h.1 ∧ isRetired c h.2 then none
      else
        match walk s c d 16 1 (if isRetired c h.1 then h.2 else h.1) [] with
        | some (x :: xs) => some (x.b, x.i, (x :: xs).length, bucketUnit d x.b x.i e (runMoves d (x :: xs) c))
        | _ => none

/-! ## Keyed operations (06 Table 6.5, R153) -/

abbrev outDone : Nat := 0
abbrev outExists : Nat := 1
abbrev outNotFound : Nat := 2
abbrev outFull : Nat := 3
abbrev outLocked : Nat := 4
abbrev outConflict : Nat := 5
abbrev outRetired : Nat := 6

/-- The entry that a keyed operation writes: KEY, DATA, LOCK and LEARNED of its image, and a fresh stamp (06 R161, R181). -/
def opEntry (s : State) (d : TableDesc) (t img : Nat) : Nat :=
  entMake d (entKey d img) (entData d img) (ctlMake (entLock img) (entLearned img) t (ageStamp s d))

/-- Outcome naming a place. -/
def outAt (d : TableDesc) (o b i : Nat) : OpOut := { outcome := o, slot := unitSlot d i, bucket := b }

/-- PLACE. -/
def placeAt (s : State) (c : Cluster) (d : TableDesc) (t : Nat) (force : Bool) (slot b img : Nat) : OpOut × Cluster :=
  let i := slotUnit d slot
  let key := entKey d img
  if isRetired c b then ({ outcome := outRetired, bucket := b }, c)
  else
    let e := unitGet d (bucketRaw c b) i
    let same := entValid e && decide (entTable e = t) && decide (entKey d e = key)
    if same ∧ entLock e = true ∧ force = false then (outAt d outLocked b i, c)
    else if same = true ∨ (entValid e = false ∧ (matchIn c d t key b).isNone = true) then
      (outAt d outDone b i, bucketUnit d b i (opEntry s d t img) c)
    else ({ outcome := outConflict, bucket := b }, c)

/-- A keyed operation on a cluster's buckets; op as in Table 6.12. -/
def keyedOp (s : State) (c : Cluster) (d : TableDesc) (t op : Nat) (force : Bool) (slot b img : Nat) : OpOut × Cluster :=
  let key := entKey d img
  let ne := opEntry s d t img
  let none_ : OpOut := { outcome := outNotFound }
  if op = 6 then placeAt s c d t force slot b img
  else match findKey c d t key with
    | some f =>
      let at_ := fun o => outAt d o f.b f.i
      if op = 1 then (at_ outExists, c)
      else if op = 5 then ({ at_ outDone with entry := entImage f.e }, c)
      else if entLock f.e = true ∧ force = false then (at_ outLocked, c)
      else if op = 4 then (at_ outDone, bucketUnit d f.b f.i 0 c)
      else (at_ outDone, bucketUnit d f.b f.i ne c)
    | none =>
      if op = 1 ∨ op = 2 then
        match place s c d key ne with
        | some (pb, i, m, c1) => ({ outAt d outDone pb i with moves := m }, c1)
        | none => ({ outcome := outFull, bucket := (candidates d key).1 }, c)
      else (none_, c)

/-- Table write slots that the engine uses (06 R151). -/
def useSlots (k : Nat) (c : Cluster) : Cluster := { c with slotsUsed := c.slotsUsed + k }

/-- Bucket writes of a keyed operation (06 Table 6.5). -/
def opWrites (op : Nat) (o : OpOut) : Nat := if o.outcome = outDone ∧ op ≠ 5 then o.moves + 1 else 0

/-- A bucket write (06 R175, R178). -/
def bucketWrite (n b : Nat) (v : BitVec 512) (s : State) : State :=
  if isRetired (cluster s n) b then
    (s.tables.filter (fun e => inRegion e.2 b)).foldl (fun acc e => evAdd 0x0419 n e.1 1 acc) s
  else modCluster n (fun c => useSlots 1 (bucketPut b v c)) s

/-! ## Views (06 R172, R174) -/

/-- A bucket in the stable view: AGE and REPORTED read as zero. -/
def stableView (s : State) (b : Nat) (v : BitVec 512) : BitVec 512 :=
  match regionTable s b with
  | none => v
  | some (_, d) =>
    (List.range (unitCount d)).foldl (fun acc i =>
      let e := unitGet d acc i
      unitPut d acc i (e - entAge e - (if entReported e then 2 ^ 22 else 0))) v

/-- The 64 bytes of a bucket in a view; a retired one has lost its entries (06 R178). -/
def bucketBytes (s : State) (n b : Nat) (stable : Bool) : List Byte :=
  let v := bucketGet (cluster s n) b
  leBytes 64 (if stable then stableView s b v else v).toNat

/-! ## The command queue (06 Table 6.4) -/

/-- Free places on a command queue. -/
def cmdRoom (s : State) (n : Nat) : Nat := 1024 - (cluster s n).cmdQ.length

/-- Operations that waited for room join the command queue of 1,024. -/
def cmdFill (c : Cluster) : Cluster :=
  let k := 1024 - c.cmdQ.length
  { c with cmdQ := c.cmdQ ++ c.cmdWait.take k, cmdWait := c.cmdWait.drop k }

/-- An operation goes to a command queue; while the queue is full its source waits, in arrival order. -/
def pushOp (n : Nat) (o : EngineOp) (s : State) : State := modCluster n (fun c => cmdFill { c with cmdWait := c.cmdWait ++ [o] }) s

/-- A bucket write of the DMA engine or of a table window (06 R174, R176). -/
def sendBucket (n b : Nat) (v : BitVec 512) (ch : Option Nat) (s : State) : State := pushOp n (.bucket b v ch) s

end Sys2Proof.Machine
end

