-- ==== Sys2Proof/Machine/RingOps.lean ====
section
/-! DEFINITION. Entries of host rings: slots, wrap and phase bits, posting by the device, holds and index write-back (14 R428 to R432, R438 to R442). -/

namespace Sys2Proof.Machine

/-- A ring. -/
def ring (s : State) (r : Nat) : Ring := tabGetD s.rings r {}

/-- Change a ring. -/
def modRing (r : Nat) (f : Ring → Ring) (s : State) : State := { s with rings := tabMod s.rings r {} f }

/-- Slots of a ring. -/
def ringSize (x : Ring) : Nat := 2 ^ x.log2

/-- An index advanced by k slots, with its wrap bit (14 R429). -/
def ringStep (x : Ring) (i k : Nat) : Nat := (i + k) % (2 * ringSize x)

/-- Slots in use (14 R429). -/
def ringUsed (x : Ring) : Nat := (x.p + 2 * ringSize x - x.c) % (2 * ringSize x)

/-- Host address of the slot that index i names (14 R429). -/
def slotAddr (x : Ring) (i : Nat) : Nat := x.base.toNat + 64 * (i % ringSize x)

/-- Wrap bit of an index. -/
def wrapBit (x : Ring) (i : Nat) : Bool := i.testBit x.log2

/-- An entry of k slots fits (14 R431). -/
def ringFits (x : Ring) (k : Nat) : Bool := decide (ringUsed x + k ≤ ringSize x)

/-- Bytes of the slots of an entry at index i, n slots. -/
def ringRead (s : State) (x : Ring) (i n : Nat) : List Byte :=
  ((List.range n).map (fun j => hostRead s (slotAddr x (i + j)) 64)).flatten

/-- Write an entry's slots from index i. -/
def ringWriteSlots (x : Ring) (i : Nat) (bs : List Byte) (n : Nat) (s : State) : State :=
  forAll (List.range n) (fun j => hostWrite (slotAddr x (i + j)) (slice bs (64 * j) 64)) s

/-- Byte 0 of an entry's first slot: PHASE differs from the wrap bit (14 R430). -/
def withPhase (x : Ring) (i : Nat) (bs : List Byte) : List Byte :=
  match bs with
  | [] => []
  | b :: r => byte (b.toNat % 128 + (if wrapBit x i then 0 else 128)) :: r

/-- The index write-back of 14 R432: 8 bytes at RING_WB when it is not zero. -/
def ringWriteBack (r i : Nat) (s : State) : State :=
  let x := ring s r
  if x.wb.toNat = 0 then s else hostWrite x.wb.toNat (leBytes 8 i) s

/-- Post an entry that fits: body and terminator, then the first slot, the index, the write-back and the interrupt (14 R431, R432, R446). -/
def ringPost (r : Nat) (bs : List Byte) (s : State) : State :=
  let x := ring s r
  let k := bs.length / 64
  let p2 := ringStep x x.p k
  let full := decide (ringUsed x + k = ringSize x)
  let s1 := if x.typ = .rx ∧ full = false then hostWrite (slotAddr x p2) [byte (if wrapBit x p2 then 128 else 0)] s else s
  let s2 := ringWriteSlots x x.p (withPhase x x.p bs) k s1
  let s3 := modRing r (fun y => { y with p := p2, entries := y.entries + 1 }) s2
  ringIrq r (ringWriteBack r p2 s3)

/-- A completion's status is other than OK. -/
def complBad (bs : List Byte) : Bool := decide (fld bs 2 2 ≠ 0)

/-- A source still waits with a completion. -/
def stillWaits (s : State) (w : CqSource) : Bool :=
  match w with
  | .sq q => (ring s q).stalled.isSome
  | .dma k => decide ((tabGetD s.chans k {}).st = .stalled)

/-- The sources that wait for a CQ, the longest first. -/
def cqWaiting (s : State) (r : Nat) : List CqSource := (ring s r).waiters.filter (stillWaits s)

/-- The CQ has a place for one more completion, in the ring or in its hold of 32. -/
def cqSpace (s : State) (r : Nat) : Bool :=
  let x := ring s r
  (x.hold.isEmpty && ringFits x 1) || decide (x.hold.length < 32)

/-- The CQ takes a completion of a source now: there is a place, and no other source waits with an earlier one (14 R439). -/
def cqRoom (s : State) (r : Nat) (w : CqSource) : Bool := cqSpace s r && ((cqWaiting s r).head?.getD w == w)

/-- A completion is written to the ring. A DMA record written raises its channel's source (15 R461). -/
def cqWrite (r : Nat) (bs : List Byte) (s : State) : State :=
  let k := fld bs 1 1
  let t := ringPost r bs s
  if fld bs 0 1 % 16 = 2 ∧ (tabGetD s.chans k {}).irq = true then irqEvent (64 + k) t else t

/-- A completion of a source goes to its CQ: into the ring, or into the hold behind earlier ones (14 R439). The caller has asked cqRoom. -/
def cqPost (r : Nat) (w : CqSource) (bs : List Byte) (s : State) : State :=
  let x := ring s r
  let s1 := modRing r (fun y => { y with waiters := y.waiters.filter (fun v => v != w), errors := if complBad bs then satInc y.errors else y.errors }) s
  if x.hold.isEmpty && ringFits x 1 then cqWrite r bs s1
  else modRing r (fun y => { y with hold := y.hold ++ [(bs, none)] }) s1

/-- A source finds the CQ's hold full, or others before it, and waits: one RING_STALLS event (14 R439). -/
def cqStall (r : Nat) (w : CqSource) (s : State) : State :=
  modRing r (fun y => { y with stalls := satInc y.stalls, waiters := y.waiters.filter (fun v => v != w) ++ [w] }) s

/-- The ring is an enabled RX ring. -/
def rxOn (s : State) (r : Nat) : Bool :=
  let x := ring s r
  decide (x.typ = .rx) && x.enable && decide (x.st = .run)

/-- Where an RX entry went. -/
inductive RxTo where
  | written | held | dropped
  deriving DecidableEq, Repr

/-- What an RX ring does with an entry (14 R442). -/
def rxTo (s : State) (r : Nat) (k : Nat) : RxTo :=
  let x := ring s r
  if rxOn s r = false then .dropped
  else if x.hold.isEmpty && ringFits x k then .written
  else if x.hold.length < 32 then .held
  else .dropped

/-- Bytes padded to whole slots. -/
def toSlots (bs : List Byte) : List Byte := bs ++ zeros (64 * cdiv bs.length 64 - bs.length)

/-- An entry for an RX ring: posted, held with the chain it references, or dropped and counted (14 R442). -/
def rxPost (r : Nat) (bs : List Byte) (chain : Option Nat) (s : State) : State :=
  let e := toSlots bs
  match rxTo s r (e.length / 64) with
  | .written => ringPost r e s
  | .held => modRing r (fun y => { y with hold := y.hold ++ [(e, chain)] }) s
  | .dropped => modRing r (fun y => { y with drops := satInc y.drops }) s

/-- Header of an RX entry (14 Table 14.7). -/
def rxHeader (typ cls dataLen inPort outPort flags sub disp ts trick : Nat) : List Byte :=
  [byte typ, byte cls] ++ leBytes 2 (64 * cdiv (32 + dataLen) 64) ++ leBytes 2 dataLen ++ leBytes 2 inPort
    ++ leBytes 2 outPort ++ [byte flags, byte sub] ++ leBytes 4 disp ++ leBytes 8 ts ++ leBytes 8 trick

end Sys2Proof.Machine
end

