-- ==== Sys2Proof/Machine/Tables.lean ====
section
/-! DEFINITION. The rows of 06: the table engine and its three queues, learning, ageing, notifications, and the table commands. -/

namespace Sys2Proof.Machine

/-! ## The three queues (06 Table 6.4, R151) -/

/-- Queue k of a cluster has work that the engine may take: commands; learns whose table is not held, with room for their notification (06 R167, R170); age deletions likewise. -/
def queueReady (c : Cluster) (k : Nat) : Bool :=
  if k = 0 then !c.cmdQ.isEmpty
  else if k = 1 then notifRoom c && c.learnQ.any (fun r => !c.learnHold.contains r.table)
  else notifRoom c && !c.ageQ.isEmpty

/-- The queue that the engine serves next, in round robin. -/
def engineTurn (c : Cluster) : Option Nat := ((List.range 3).map (fun i => (c.rr + i) % 3)).find? (queueReady c)

/-- The engine of a cluster has taken an operation of state s, which leaves state t: it takes one once the one before is complete, and one that writes in a trick whose 64 write slots are not used up (06 R151; 02 R51). Slots used beyond those of the trick are the next trick's. -/
def engineTakes (n : Nat) (t s : State) : State :=
  let a := (cluster s n).slotsUsed
  if a < 64 ∨ (a = 64 ∧ (cluster t n).slotsUsed = 64) then t else s

/-- The write slots of a new trick (02 R51). -/
def slotsTick (s : State) : State := { s with clusters := tabMap s.clusters (fun _ c => { c with slotsUsed := c.slotsUsed - 64 }) }

/-- Present clusters. -/
def clustersHere (s : State) : List Nat := List.range (clusterCount s)

/-! ## TABLE_OP -/

/-- The clusters that a TABLE_OP addresses. -/
def opClusters (s : State) (q : Path) : List Nat := if q.kind = 7 then [q.index] else clustersHere s

/-- The response of Table 6.13. -/
def tableOpResp (outs : Tab OpOut) : List Byte :=
  let cell := fun (n : Nat) =>
    let o := tabGetD outs n {}
    [byte o.outcome, byte o.slot, byte o.moves, byte o.prior] ++ leBytes 4 o.bucket
  let ent := ((List.range 4).filterMap (fun n => tabGet outs n)).find? (fun o => decide (o.outcome = outDone ∧ o.entry ≠ 0))
  (List.range 4).flatMap cell ++ leBytes 32 (match ent with
    | some o => o.entry.toNat
    | none => 0)

/-- Release of the hold on learning of a table (06 R170). -/
def releaseHold (t : Nat) (s : State) : State :=
  forAll (clustersHere s) (fun n acc => modCluster n (fun c => { c with learnHold := c.learnHold.erase t }) acc) s

/-- Every addressed cluster has answered: the undo of R181 starts, or the command is answered. Only after an undo does a FULL name the H1 candidate bucket. -/
def tableOpFinish (m : Nat) (undo : Bool) (s : State) : State :=
  match (mbox s m).cmd with
  | none => s
  | some c =>
    let q := pathOf c.payload
    let t := fld c.payload 16 1
    let outs := c.outs
    let full := outs.any (fun e => decide (e.2.outcome = outFull))
    let took := (outs.filter (fun e => decide (e.2.outcome = outDone))).map (fun e => e.1)
    if undo then
      releaseHold t (answer m stOk 0 (tableOpResp (tabMap outs (fun _ o => { o with prior := o.outcome, outcome := outFull }))) s)
    else if q.kind = 1 ∧ full = true ∧ took ≠ [] then
      let s1 := modCmd m (fun x => { x with wait := .table took true }) s
      forAll took (fun n acc => pushOp n (.keyed (.undo m) t 4 true 0 0 (BitVec.ofNat 256 (fld c.payload 32 32))) acc) s1
    else
      let s1 := answer m stOk 0 (tableOpResp (tabMap outs (fun _ o => if o.outcome = outFull then { o with bucket := 0 } else o))) s
      if q.kind = 1 then releaseHold t s1 else s1

/-- A cluster answers an operation of mailbox m. -/
def tableOpAnswer (m n : Nat) (undo : Bool) (o : OpOut) (s : State) : State :=
  match (mbox s m).cmd with
  | none => s
  | some c =>
    match c.wait with
    | .table left u =>
      let rest := left.filter (fun x => x != n)
      let s1 := modCmd m (fun x => { x with wait := .table rest u, outs := if undo then x.outs else tabPut x.outs n o }) s
      if rest.isEmpty then tableOpFinish m undo s1 else s1
    | _ => s

/-- PLACE operations that replicate a record to the other clusters (06 R169). -/
def copyRecord (r : Notif) (s : State) : State :=
  forAll ((clustersHere s).filter (fun n => n != r.cluster)) (fun n acc =>
    pushOp n (.keyed (.replicate r.cluster) r.table 6 false r.slot r.bucket r.entry) acc) s

/-- Firmware replicates every record of a table that still needs it, oldest first (06 R169, R170). -/
def replicateTable (t : Nat) (s : State) : State :=
  forAll (clustersHere s) (fun n acc =>
    let rs := (cluster acc n).notif.filter (fun r => !r.done && decide (r.table = t))
    rs.foldl (fun a r => copyRecord r a)
      (modCluster n (fun c => { c with notif := c.notif.map (fun r => if r.table = t then { r with done := true } else r) }) acc)) s

/-- Learning into a table is held in every cluster (06 R170). -/
def holdLearn (t : Nat) (s : State) : State :=
  forAll (clustersHere s) (fun n acc => modCluster n (fun c => { c with learnHold := t :: c.learnHold }) acc) s

/-- A device-wide operation on the table stands on a queue or waits for its answers (06 R168). -/
def tableBusy (s : State) (m t : Nat) : Bool :=
  s.mboxes.any (fun e => decide (e.1 ≠ m) && (match e.2.cmd with
    | some c => (match c.wait with
      | .table _ _ => decide (fld c.payload 16 1 = t ∧ fld c.payload 0 1 = 1)
      | _ => false)
    | none => false)) ||
  s.clusters.any (fun e => (e.2.cmdQ ++ e.2.cmdWait).any (fun o => match o with
    | .keyed .reinsert x _ _ _ _ _ => decide (x = t)
    | _ => false))

/-- An entry that lost its slot in cluster n waits for its re-insertion. -/
def wantReinsert (n t : Nat) (img : BitVec 256) (s : State) : State :=
  modCluster n (fun c => { c with reinsert := if c.reinsert.contains (t, img) then c.reinsert else c.reinsert ++ [(t, img)] }) s

/-- Firmware inserts an entry that lost its slot again, device-wide: learning is held, records are replicated, and INSERT goes to every cluster (06 R169, R170). -/
def reinsertNext (s : State) : State :=
  match (clustersHere s).findSome? (fun n => ((cluster s n).reinsert.find? (fun e => !tableBusy s 99 e.1)).map (fun e => (n, e))) with
  | none => s
  | some (n, e) =>
    let s1 := replicateTable e.1 (holdLearn e.1 (modCluster n (fun c => { c with reinsert := c.reinsert.filter (fun x => x != e) }) s))
    forAll (clustersHere s1) (fun c acc => pushOp c (.keyed .reinsert e.1 1 false 0 0 e.2) acc) s1

/-- Two units hold one entry, but for the stamp. -/
def sameEntry (a b : Nat) : Bool := entValid a && decide (entTable a = entTable b ∧ a >>> 32 = b >>> 32)

/-- A replicating PLACE met a unit that holds something else. Of two learned entries the one of the lower-numbered cluster keeps the slot in every replica; the other is deleted and inserted again device-wide (06 R169). The cluster of the entry found is the lowest that holds it there; one that no cluster learned keeps its slot (DEDUCED, log entry 109). -/
def resolveConflict (n src t slot b : Nat) (img : BitVec 256) (d : TableDesc) (s : State) : State :=
  let i := slotUnit d slot
  let there := unitGet d (bucketRaw (cluster s n) b) i
  let key := entKey d img.toNat
  let here := fun (c : Nat) => sameEntry (unitGet d (bucketRaw (cluster s c) b) i) there
  let del := fun (t e c : Nat) (acc : State) => pushOp c (.keyed .repair t 4 false 0 0 (BitVec.ofNat 256 e)) acc
  let again := fun (acc : State) => pushOp n (.keyed (.replicate src) t 6 false slot b img) acc
  if entValid there = false ∨ (entTable there = t ∧ entKey d there = key) then
    -- the key itself stands in another slot of the bucket
    if src < n then again (del t img.toNat n s)
    else forAll ((clustersHere s).filter (fun c => c != n)) (del t img.toNat) s
  else if entLearned there = true ∧ src < ((clustersHere s).find? here).getD n then
    wantReinsert n (entTable there) (BitVec.ofNat 256 there) (again (forAll (clustersHere s) (del (entTable there) there) s))
  else wantReinsert src t img (forAll (clustersHere s) (del t img.toNat) s)

/-- One keyed operation executes. -/
def runKeyed (n : Nat) (why : OpWhy) (t op : Nat) (force : Bool) (slot b : Nat) (img : BitVec 256) (s : State) : State :=
  let give := fun (o : OpOut) (acc : State) =>
    match why with
    | .command m => tableOpAnswer m n false o acc
    | .undo m => tableOpAnswer m n true o acc
    | _ => acc
  match fwTable s t with
  | none => give { outcome := outNotFound } s
  | some d =>
    let r := keyedOp s (cluster s n) d t op force slot b img.toNat
    let s1 := modCluster n (fun _ => useSlots (opWrites op r.1) r.2) s
    let s2 := if 0 < r.1.moves then evAdd 0x0413 n t r.1.moves s1 else s1
    let s3 := if r.1.outcome = outFull then evAdd 0x0414 n t 1 s2 else s2
    match why with
    | .replicate src => if r.1.outcome = outConflict then resolveConflict n src t slot b img d s3 else s3
    | .reinsert => if tableBusy s3 99 t then s3 else releaseHold t s3
    | _ => give r.1 s3

/-- The oldest operation of a command queue executes whole; a source that waited for its place takes it. -/
def engineCmd (n : Nat) (s : State) : State :=
  match (cluster s n).cmdQ with
  | [] => s
  | o :: rest =>
    let s1 := modCluster n (fun c => cmdFill { c with cmdQ := rest, rr := 1 }) s
    match o with
    | .bucket b v _ => bucketWrite n b v s1
    | .keyed why t op force slot b img => reinsertNext (runKeyed n why t op force slot b img s1)

/-- TABLE_ENGINE_OP. -/
def execTableEngineOp (n : Nat) (s : State) : Host.Outcome State Fault Refusal :=
  .next (if engineTurn (cluster s n) = some 0 then engineTakes n (engineCmd n s) s else s)

/-! ## Learning (06 R165, R166) -/

/-- Execute a learn. -/
def runLearn (n : Nat) (r : LearnReq) (s : State) : State :=
  match fwTable s r.table with
  | none => s
  | some d =>
    let c := cluster s n
    let e := entMake d r.key r.data (ctlMake false true r.table (ageStamp s d))
    match findKey c d r.table r.key with
    | some f =>
      if d.learnUpdate ∧ entLock f.e = false ∧ entData d f.e ≠ r.data % 2 ^ dataBits d then
        let e2 := entMake d r.key r.data (f.e % 2 ^ 32)
        notify n 2 r.table (unitSlot d f.i) f.b (entImage e2) (modCluster n (fun c => useSlots 1 (bucketUnit d f.b f.i e2 c)) s)
      else s
    | none =>
      let h := candidates d r.key
      let go := fun (b i : Nat) => notify n 1 r.table (unitSlot d i) b (entImage e) (modCluster n (fun c => useSlots 1 (bucketUnit d b i e c)) s)
      match freeIn c d h.1 with
      | some i => go h.1 i
      | none =>
        match freeIn c d h.2 with
        | some i => go h.2 i
        | none => notify n 5 r.table 0xFF h.1 (entImage e) (evAdd 0x0414 n r.table 1 (evAdd 0x0415 n r.table 1 s))

/-- LEARN_EXECUTE: the oldest request whose table is not held. -/
def execLearnExecute (n : Nat) (s : State) : Host.Outcome State Fault Refusal :=
  .next (
    let c := cluster s n
    if engineTurn c = some 1 then
      match c.learnQ.find? (fun r => !c.learnHold.contains r.table) with
      | none => s
      | some r => engineTakes n (runLearn n r (modCluster n (fun x => { x with learnQ := x.learnQ.erase r, rr := 2 }) s)) s
    else s)

/-! ## Ageing (06 R161 to R164) -/

/-- Tables that age. -/
def ageingTables (s : State) : List (Nat × TableDesc) := s.tables.filter (fun e => decide (e.2.ageMode ≠ 0))

/-- The bucket that the ager reads at position a: the first in an ageing region at or after it, wrapping. -/
def agerBucket (s : State) (a : Nat) : Option Nat :=
  let from_ := fun (x : Nat) =>
    ((ageingTables s).filterMap (fun e => if x < e.2.base + 2 ^ e.2.log2 then some (max x e.2.base) else none)).min?
  match from_ a with
  | some b => some b
  | none => from_ 0

/-- The ager examines one unit: the state after it, or none where it has something to queue and no room for it. -/
def agerUnit (n b i : Nat) (d0 : TableDesc) (s : State) : Option State :=
  let c := cluster s n
  let e := unitGet d0 (bucketRaw c b) i
  match tdesc s (entTable e) with
  | none => some s
  | some d =>
    let idle := (ageStamp s d + 65536 - entAge e) % 65536
    if entValid e = false ∨ entLock e = true ∨ d.ageMode = 0 ∨ inRegion d b = false ∨ idle ≤ d.ageLimit then some s
    else if d.ageMode = 1 then
      if c.ageQ.length < 256 then some (modCluster n (fun x => { x with ageQ := x.ageQ ++ [⟨b, i, entTable e, entImage e⟩] }) s) else none
    else if entReported e then some s
    else if notifRoom c = false then none
    else
      let s1 := notify n 3 (entTable e) (unitSlot d0 i) b (entImage e) s
      some (evAdd 0x0418 n (entTable e) 1 (modCluster n (bucketUnit d0 b i (e + 2 ^ 22)) s1))

/-- The ager examines units of a bucket from the first of a list; where a queue fills, its scan pauses there (06 R163, Table 6.4). -/
def agerUnits (n b : Nat) (d : TableDesc) (l : List Nat) (s : State) : State :=
  match l with
  | [] => modCluster n (fun x => { x with ager := (b + 1) % 2 ^ 20, agerAt := 0 }) s
  | i :: r =>
    match agerUnit n b i d s with
    | some t => agerUnits n b d r t
    | none => modCluster n (fun x => { x with ager := b, agerAt := i }) s

/-- AGER_VISIT: the ager reads one bucket. It pauses while the age queue or the notification queue is full (06 Table 6.4, R167). -/
def execAgerVisit (n : Nat) (s : State) : Host.Outcome State Fault Refusal :=
  .next (
    let c := cluster s n
    if notifRoom c = false ∨ 256 ≤ c.ageQ.length then s
    else match agerBucket s c.ager with
      | none => s
      | some b =>
        match regionTable s b with
        | some (_, d) => agerUnits n b d (if isRetired c b then [] else (List.range (unitCount d)).drop (if b = c.ager then c.agerAt else 0)) s
        | none => s)

/-- The entry of a queued deletion still stands where it was, unlocked and not refreshed since: the four conditions of 06 R164. -/
def stillIdle (c : Cluster) (d : TableDesc) (a : AgeDel) : Bool :=
  let e := unitGet d (bucketGet c a.bucket) a.slot
  let q := a.entry.toNat
  entValid e && !entLock e && decide (entTable e = a.table ∧ entKey d e = entKey d q ∧ entAge e = entAge q)

/-- AGE_DELETE_EXECUTE: dropped when the entry has been refreshed, locked, moved or deleted (06 R164). -/
def execAgeDeleteExecute (n : Nat) (s : State) : Host.Outcome State Fault Refusal :=
  .next (
    let c := cluster s n
    if engineTurn c = some 2 then
      match c.ageQ with
      | [] => s
      | a :: rest =>
        let s1 := modCluster n (fun x => { x with ageQ := rest, rr := 0 }) s
        match fwTable s1 a.table with
        | none => s1
        | some d =>
          if stillIdle c d a then
            let e := unitGet d (bucketGet c a.bucket) a.slot
            let s2 := modCluster n (fun x => useSlots 1 (bucketUnit d a.bucket a.slot 0 x)) s1
            engineTakes n (evAdd 0x0418 n a.table 1 (notify n 4 a.table (unitSlot d a.slot) a.bucket (entImage e) s2)) s
          else engineTakes n s1 s
    else s)

/-! ## Notifications -/

/-- A table-event entry of the host's ring (14 Table 14.7). -/
def eventEntry (r : Notif) : List Byte := rxHeader 3 0 64 0xFFFF 0xFFFF 0 0 0 0 r.trick.toNat ++ notifBytes r

/-- Firmware replicates the oldest record that still needs it. -/
def replicateNext (n : Nat) (s : State) : State :=
  match (cluster s n).notif.find? (fun r => !r.done) with
  | none => s
  | some r => copyRecord r (modCluster n (fun c => { c with notif := c.notif.map (fun x => if x = r then { x with done := true } else x) }) s)

/-- NOTIFICATION_FORWARD: firmware replicates a learn record, and passes the oldest record to the ring that HOST_EVT_RING names while that ring can take it; it is never dropped (14 R441, R442). -/
def execNotificationForward (n : Nat) (s : State) : Host.Outcome State Fault Refusal :=
  .next (
    let s1 := reinsertNext (replicateNext n s)
    match (cluster s1 n).notif with
    | [] => s1
    | r :: rest =>
      if r.done = true ∧ s1.link.evtValid = true ∧ rxTo s1 s1.link.evtRing 2 ≠ .dropped then
        rxPost s1.link.evtRing (eventEntry r) none (notifyRetired n (modCluster n (fun c => { c with notif := rest }) s1))
      else s1)

/-! ## Table commands -/

/-- The multicast region, with a BUF_GLOBAL_SET that is scheduled: base and log2. -/
def mcastRegion (s : State) : Nat × Nat :=
  s.deferred.foldl (fun r x => if x.code = 0x0403 then (fld x.req 40 4, fld x.req 38 1) else r) (s.buf.mcastBase, s.buf.mcastLog2)

/-- Two stretches of buckets overlap. -/
def overlaps (a n b m : Nat) : Bool := decide (a < b + m) && decide (b < a + n)

/-- A table shares buckets with tables of its own width only (06 R143). -/
def widthsOk (s : State) (t : Nat) (d : TableDesc) : Bool :=
  (fwTables s).all (fun e => decide (e.1 = t) || !overlaps d.base (2 ^ d.log2) e.2.base (2 ^ e.2.log2) || decide (e.2.wide = d.wide))

/-- A table's region is clear of the multicast region (06 R143). -/
def mcastClear (s : State) (d : TableDesc) : Bool :=
  let mc := mcastRegion s
  decide (mc.2 = 0) || !overlaps d.base (2 ^ d.log2) mc.1 (2 ^ mc.2)

/-- A table holds entries in some replica. -/
def tableHolds (s : State) (t : Nat) : Bool :=
  match fwTable s t with
  | none => false
  | some d => (clustersHere s).any (fun n => !(tableEntries (cluster s n) d t).isEmpty)

/-- A command's setting waits for the next trick boundary. -/
def schedule (m : Nat) (c : Cmd) (p : List Byte) (s : State) : State :=
  { s with deferred := s.deferred ++ [{ code := c.code, req := p, mb := m }] }

/-- TABLE_CREATE (06 R143, R145, R180, Table 6.10). -/
def tableCreate (m : Nat) (c : Cmd) (p : List Byte) (s : State) : Ans :=
  let t := fld p 16 1
  let d := descOf p
  let kind := fld p 17 1
  let fin := fun (_ : Unit) => if tableHolds s t then ansSt stNotReady s else ansOk [] (schedule m c p s)
  checks [(decide (t ≤ 63), 16), (decide (kind ≤ 2), 17), rsv p 31 1, rsv p 40 8] s (fun _ =>
    if kind = 0 then fin ()
    else checks [(decide (fld p 18 1 ≤ 1), 18), (decide (10 ≤ d.log2 ∧ d.log2 ≤ 20), 19),
        (decide (d.base % 2 ^ d.log2 = 0 ∧ d.base + 2 ^ d.log2 ≤ 1048576), 20),
        (decide (1 ≤ d.keyBits ∧ d.keyBits ≤ (if d.wide then 216 else 88)), 24),
        (decide (kind = 1 ∨ (40 ≤ d.keyBits ∧ d.keyBits + 66 ≤ entW d)), 24), (decide (d.ageMode ≤ 2), 26), (decide (d.ageShift ≤ 15), 27),
        (decide (d.ageMode = 0 ∨ (1 ≤ d.ageLimit ∧ d.ageLimit ≤ 32767)), 28), (decide (fld p 30 1 < 4), 30), (widthsOk s t d, 18), (mcastClear s d, 20)] s fin)

/-- TABLE_CREATE at its trick boundary: the counts of a table start anew (06 R182). -/
def tableCreateApply (p : List Byte) (s : State) : State :=
  let t := fld p 16 1
  let s1 := { s with tables := createIn p s.tables }
  forAll (List.range 4) (fun n acc => forAll (List.range 9) (fun i a => evZero (0x0411 + i) n t a) acc) s1

/-- Rung lengths of a request, strictly ascending in 1 to ADDR_BITS and zero beyond N. -/
def rungsOk (p : List Byte) : Bool :=
  let n := fld p 17 1
  let a := fld p 18 1
  (List.range 31).all (fun i =>
    let v := fld p (24 + i) 1
    if i < n then decide (1 ≤ v ∧ v ≤ a ∧ (i = 0 ∨ fld p (23 + i) 1 < v)) else decide (v = 0))

/-- TABLE_LADDER_SET (06 R160, R180, Table 6.11). -/
def tableLadderSet (m : Nat) (c : Cmd) (p : List Byte) (s : State) : Ans :=
  let t := fld p 16 1
  match fwTable s t with
  | none => ansBad 16 s
  | some d =>
    let fin := fun (_ : Unit) => ansOk [] (schedule m c p s)
    checks [(d.ladder, 16), (decide (fld p 19 1 < 2), 19), rsv p 55 9] s (fun _ =>
      if (fld p 19 1).testBit 0 then fin ()
      else checks [(decide (fld p 17 1 ≤ 31), 17), (decide ((fld p 18 1 = 32 ∨ fld p 18 1 = 128) ∧ fld p 18 1 + 8 ≤ d.keyBits), 18), (rungsOk p, 24)] s (fun _ =>
        let rl := (List.range (fld p 17 1)).map (fun i => fld p (24 + i) 1)
        if (rl ≠ d.rl ∨ fld p 18 1 ≠ d.addrBits) ∧ tableHolds s t = true then ansSt stNotReady s else fin ()))

/-- TABLE_LADDER_SET at its trick boundary. -/
def tableLadderApply (p : List Byte) (s : State) : State := { s with tables := ladderIn p s.tables }

/-- TABLE_OP (06 R168, R170, R181, Table 6.12). While a queue it needs is full, or an earlier device-wide operation on the table is not done, firmware waits. -/
def tableOp (m : Nat) (q : Path) (p : List Byte) (s : State) : Ans :=
  let t := fld p 16 1
  let op := fld p 17 1
  match (if q.kind = 7 ∧ unitExists s q = false then none else fwTable s t) with
  | none => ansSt stNoResource s
  | some d =>
    let slot := fld p 19 1
    let b := fld p 20 4
    checks [(!(decide (op = 6) && decide (q.kind = 1)), 0), (decide (1 ≤ op ∧ op ≤ 6), 17), (decide (fld p 18 1 < 2), 18),
      (if op = 6 then decide (slot < 4 ∧ (d.wide = false ∨ slot % 2 = 0)) else decide (slot = 0), 19),
      (if op = 6 then inRegion d b else decide (b = 0), 20), rsv p 24 8, (d.wide || decide (fld p 48 16 = 0), 32)] s (fun _ =>
      -- of the control word only LOCK is used
      let img0 := fld p 32 32
      let img := img0 - img0 % 2 ^ 32 + b2n (entLock img0) * 2 ^ 30
      let cs := opClusters s q
      if cs.any (fun n => decide (cmdRoom s n = 0)) || (decide (q.kind = 1) && tableBusy s m t) then .hold .exec s
      else
        let s1 := if d.learn ∧ q.kind = 1 then replicateTable t (holdLearn t s) else s
        let s2 := forAll cs (fun n acc => pushOp n (.keyed (.command m) t op ((fld p 18 1).testBit 0) slot b (BitVec.ofNat 256 img)) acc) s1
        .hold (.table cs false) (modCmd m (fun x => { x with outs := [] }) s2))

/-- One cluster's report of a table (06 Table 6.14). -/
def tableReport (s : State) (t : Nat) (d : TableDesc) (n : Nat) : List Byte :=
  let c := cluster s n
  let es := tableEntries c d t
  let ret := (c.retired.filter (inRegion d)).length
  let cnt := fun (code w : Nat) => evLow s code n t w
  let cl := fun (code : Nat) => evLow s code n 0 4
  leBytes 4 es.length ++ leBytes 4 (es.filter (fun f => entLock f.e)).length ++ leBytes 4 (unitCount d * (2 ^ d.log2 - ret))
    ++ leBytes 4 ret ++ cnt 0x0411 8 ++ cnt 0x0412 8 ++ cnt 0x0413 8 ++ cnt 0x0414 4 ++ cnt 0x0415 4 ++ cnt 0x0416 4 ++ cnt 0x0417 4
    ++ cnt 0x0418 4 ++ cnt 0x0419 4 ++ cl 0x0405 ++ cl 0x0406 ++ cl 0x0407 ++ leBytes 4 c.cmdQ.length

/-- TABLE_STATUS_GET (06 R182). -/
def tableStatus (q : Path) (p : List Byte) (s : State) : Ans :=
  let t := fld p 16 1
  checks [(decide (t ≤ 63), 16), rsv p 17 7] s (fun _ =>
    match (if q.kind = 7 ∧ unitExists s q = false then none else fwTable s t) with
    | none => ansSt stNoResource s
    | some d =>
      let l := (opClusters s q).map (tableReport s t d)
      ansOk (sumFields l 0 4 4 ++ sumFields l 16 8 3 ++ sumFields l 40 4 10) s)

/-- TABLE_CREATE. -/
def execTableCreate (m : Nat) (s : State) : Host.Outcome State Fault Refusal :=
  .next (runCmd 0x0301 m (fun c t => onPath m c.code 48 [1] c t (fun _ p => tableCreate m c p t)) s)

/-- TABLE_LADDER_SET. -/
def execTableLadderSet (m : Nat) (s : State) : Host.Outcome State Fault Refusal :=
  .next (runCmd 0x0302 m (fun c t => onPath m c.code 64 [1] c t (fun _ p => tableLadderSet m c p t)) s)

/-- TABLE_OP. -/
def execTableOp (m : Nat) (s : State) : Host.Outcome State Fault Refusal :=
  .next (runCmd 0x0303 m (fun c t => onPathAny m c.code 64 [1, 7] c t (fun q p => tableOp m q p t)) s)

/-- TABLE_STATUS_GET. -/
def execTableStatusGet (m : Nat) (s : State) : Host.Outcome State Fault Refusal :=
  .next (runCmd 0x0304 m (fun c t => onPathAny m c.code 24 [1, 7] c t (fun q p => tableStatus q p t)) s)

end Sys2Proof.Machine
end

