-- ==== Sys2Proof/Machine/BufCmds.lean ====
section
/-! DEFINITION. The buffer commands (08 R251 to R256, R227, R238, R246). -/

namespace Sys2Proof.Machine

/-- Bit masks of priorities as a list of settings of 4 bytes each. -/
def words8 (p : List Byte) (a : Nat) : List Nat := (List.range 8).map (fun i => fld p (a + 4 * i) 4)

/-- A profile of QUEUE_SET. -/
def redOf (p : List Byte) (i : Nat) : RedProfile := { min := fld p (32 + 12 * i) 4, max := fld p (36 + 12 * i) 4, maxp := fld p (40 + 12 * i) 1 }

/-- QUEUE_SET at its trick boundary. -/
def queueSetApply (p : List Byte) (s : State) : State :=
  let t := pathOf p
  modQueue t.index (queueNo t) (fun y => { y with
    ante := fld p 16 4
    hard := fld p 20 4
    ecn := fld p 24 4
    alpha := fld p 28 1
    priv := (fld p 29 1).testBit 0
    red := [redOf p 0, redOf p 1, redOf p 2] }) s

/-- PORT_BUF_SET at its trick boundary: a lossless bit that goes takes its pause request with it, and the others are judged anew (08 R233, R253). -/
def portBufSetApply (p : List Byte) (s : State) : State :=
  let n := (pathOf p).index
  let l : BitVec 8 := BitVec.ofNat 8 (fld p 16 1)
  let s1 := modPort n (fun x => { x with
    lossless := l
    cutThrough := (fld p 17 1).testBit 0
    holdSet := fld p 18 2
    headroom := words8 p 24
    xoff := words8 p 56
    xon := words8 p 88
    pauseReq := x.pauseReq &&& l }) s
  announce n (forAll (List.range 8) (fun i acc => pauseUpdate n i false acc) s1)

/-- BUF_GLOBAL_SET at its trick boundary. -/
def bufGlobalSetApply (p : List Byte) (s : State) : State :=
  let s1 := forAll (List.range 4) (fun i acc => modReq (32 + i) (fun y => { y with stake := fld p (20 + 4 * i) 4 }) acc) s
  { s1 with buf := { s1.buf with kitty := fld p 16 4, ecnHdr4 := fld p 36 1, ecnHdr6 := fld p 37 1, mcastLog2 := fld p 38 1, mcastBase := fld p 40 4 } }

/-- BUF_SECTION_SET at its trick boundary. -/
def bufSectionSetApply (p : List Byte) (s : State) : State := modSect (pathOf p).index (fun x => { x with drain := decide (fld p 16 1 = 1) }) s

/-- The 8-byte head record of MCAST_SET (08 R235). -/
def mcastRecord (p : List Byte) : Nat :=
  let c := fld p 18 2
  if c = 0 then 0 else 2 ^ 31 + (c - 1) * 2 ^ 20 + fld p 20 4 % 2 ^ 20

/-- MCAST_SET at its trick boundary: the head record is written in every present cluster, and the response follows 16 tricks later (08 R238). -/
def mcastSetApply (m : Nat) (p : List Byte) (s : State) : State :=
  let g := fld p 16 2
  let b := s.buf.mcastBase + g / 8
  let o := 64 * (g % 8)
  let s1 := forAll (clustersHere s) (fun n acc =>
    let v := (tabGetD (cluster acc n).buckets b 0).toNat
    bucketWrite n b (BitVec.ofNat 512 (v - bits v (o + 63) o * 2 ^ o + mcastRecord p * 2 ^ o)) acc) s
  modCmd m (fun c => { c with wait := .ticks (now s + 16), resp := leBytes 8 (idx s) }) s1

/-- A section that an answered UNIT_RUNG_SET takes below Run no longer counts towards U (08 R227). -/
def sectsToStay (s : State) : State :=
  forAll (List.range 8) (fun n acc => if (pdom acc (96 + n)).req = 0 then acc else modSect n (fun x => { x with drain := true }) acc) s

/-- A buffer setting already scheduled, in force. -/
def bufOrdered (s : State) (d : Deferred) : State :=
  if d.code = 0x0401 then queueSetApply d.req s
  else if d.code = 0x0403 then bufGlobalSetApply d.req s
  else if d.code = 0x0404 then bufSectionSetApply d.req s
  else s

/-- The buffer settings as they will stand when the settings and rungs already ordered are in force. -/
def bufView (s : State) : State := sectsToStay (s.deferred.foldl bufOrdered s)

/-- A setting that would make S negative (08 R227). -/
def overdrawn (before after : State) : Bool := decide (potSizeI after < 0 ∧ potSizeI after < potSizeI before)

/-- A third PRIV queue of a port, or an ante that S cannot meet (08 R227, R252). -/
def queueNoRoom (priv : Bool) (q : Path) (f : State → State) (v : State) : Bool :=
  let others := match port v q.index with
    | some x => ((List.range 20).filter (fun i => decide (i ≠ queueNo q) && (queue x i).priv)).length
    | none => 0
  (priv && decide (2 ≤ others)) || overdrawn v (f v)

/-- QUEUE_SET (08 R252). -/
def queueSet (m : Nat) (c : Cmd) (q : Path) (p : List Byte) (s : State) : Ans :=
  let hard := fld p 20 4
  let priv := (fld p 29 1).testBit 0
  let prof := (List.range 3).flatMap (fun i =>
    let r := redOf p i
    [(!priv || (decide (r.min < r.max) && decide (r.max ≤ hard)), 32 + 12 * i), (decide (fld p (41 + 12 * i) 3 = 0), 32 + 12 * i)])
  checks ([(decide (fld p 16 4 ≤ hard), 16), (decide (1 ≤ hard ∧ hard ≤ 1310720), 20), (decide (fld p 28 1 ≤ 11), 28),
    (decide (fld p 29 1 < 2), 29), rsv p 30 2] ++ prof) s (fun _ =>
    if queueNoRoom priv q (queueSetApply p) (bufView s) then ansSt stNoResource s else ansOk [] (schedule m c p s))

/-- PORT_BUF_SET (08 R253). -/
def portBufSet (m : Nat) (c : Cmd) (p : List Byte) (s : State) : Ans :=
  let on := (List.range 8).map (fun i => (!((fld p 16 1).testBit i) || decide (fld p (88 + 4 * i) 4 < fld p (56 + 4 * i) 4), 88 + 4 * i))
  checks ([(decide (fld p 17 1 < 2), 17), rsv p 20 4] ++ on) s (fun _ => ansOk [] (schedule m c p s))

/-- The multicast region of a request is free of table regions (08 R254; 06 R143). -/
def mcastFree (s : State) (base log2 : Nat) : Bool :=
  decide (log2 = 0) || (fwTables s).all (fun e => !overlaps base (2 ^ log2) e.2.base (2 ^ e.2.log2))

/-- BUF_GLOBAL_SET (08 R254). -/
def bufGlobalSet (m : Nat) (c : Cmd) (p : List Byte) (s : State) : Ans :=
  let l := fld p 38 1
  let b := fld p 40 4
  checks [(decide (fld p 20 4 ≤ 65536), 20), (decide (fld p 24 4 ≤ 262144), 24), (decide (fld p 28 4 ≤ 65536), 28), (decide (fld p 32 4 ≤ 65536), 32),
    (decide (fld p 36 1 ≤ 63), 36), (decide (fld p 37 1 ≤ 63), 37), (decide (l = 0 ∨ (13 ≤ l ∧ l ≤ 20)), 38), rsv p 39 1,
    (decide (l = 0 ∨ (b % 2 ^ l = 0 ∧ b + 2 ^ l ≤ 1048576)), 40), (mcastFree s b l, 40), rsv p 44 4] s (fun _ =>
    let v := bufView s
    if overdrawn v (bufGlobalSetApply p v) then ansSt stNoResource s else ansOk [] (schedule m c p s))

/-- BUF_SECTION_SET (08 R246). -/
def bufSectionSet (m : Nat) (c : Cmd) (p : List Byte) (s : State) : Ans :=
  checks [(decide (fld p 16 1 ≤ 1), 16), rsv p 17 7] s (fun _ =>
    let v := bufView s
    if overdrawn v (bufSectionSetApply p v) then ansSt stNoResource s else ansOk [] (schedule m c p s))

/-- MCAST_SET (08 R238, R255). -/
def mcastSet (m : Nat) (c : Cmd) (p : List Byte) (s : State) : Ans :=
  let cnt := fld p 18 2
  let list := fld p 20 4
  let r := mcastRegion s
  checks [(decide (fld p 16 2 ≤ 32767), 16), (decide (cnt ≤ 512), 18), rsv p 24 8] s (fun _ =>
    if r.2 = 0 then ansSt stNoResource s
    else checks [(decide (cnt = 0 ∨ (r.1 + 4096 ≤ list ∧ list + cdiv cnt 16 ≤ r.1 + 2 ^ r.2)), 20)] s (fun _ => .hold .boundary (schedule m c p s)))

/-- The sum of an event counter over the requesters, in n bytes. -/
def reqSum (s : State) (code n : Nat) : List Byte := leBytes n (((List.range 36).map (fun r => (evGet s code 0 r).toNat)).sum)

/-- BUF_STATUS_GET (08 R256, Table 8.9). -/
def bufStatus (q : Path) (s : State) : Ans :=
  let secs := if q.kind = 8 then [q.index] else List.range 8
  let any := fun (f : Section → Bool) => secs.any (fun n => f (sect s n))
  let flags := b2n (decide (potSizeI s < 0)) + 2 * b2n (any (fun x => x.drain)) + 4 * b2n (secs.any (fun n => sectDrained s n)) + 8 * b2n (any (fun x => x.listRebuild))
  let sticky := ((List.range 36).map (fun r => b2n (fltInst s r 0).sticky * 2 ^ r)).sum
  let tot := fun (f : Section → Nat) => (secs.map (fun n => f (sect s n))).sum
  ansOk (leBytes 4 ((secs.map (sectUsable s)).sum) ++ leBytes 4 (potSize s) ++ leBytes 4 s.buf.potUsed ++ leBytes 4 (sumQueues s (fun y => y.ante))
    ++ leBytes 4 (sumQueues s (fun y => y.a)) ++ leBytes 4 s.buf.kittyUsed ++ leBytes 4 (((List.range 36).map (fun r => (requester s r).charged)).sum)
    ++ leBytes 4 (tot (fun x => x.retired.length + x.retireMark.length)) ++ leBytes 4 (2097152 - descCount s) ++ leBytes 4 (1048576 - s.buf.metas.length)
    ++ leBytes 4 (tot (fun x => x.backlog.length + x.waiting.length)) ++ leBytes 4 flags ++ leBytes 8 sticky ++ reqSum s 0x0501 4 ++ reqSum s 0x0502 4
    ++ evLow s 0x0504 0 0 8 ++ evLow s 0x0505 0 0 4 ++ reqSum s 0x0503 4) s

/-- QUEUE_STATUS_GET (08 R256, Table 8.10): PEAK restarts. -/
def queueStatus (q : Path) (s : State) : Ans :=
  match port s q.index with
  | none => ansSt stNoResource s
  | some x =>
    let n := queueNo q
    let y := queue x n
    let u := queueUnit q.index n
    ansOk (leBytes 4 (depth y) ++ leBytes 4 y.peak ++ leBytes 4 y.a ++ leBytes 4 y.p ++ leBytes 4 y.k ++ leBytes 4 (heldDescs x n)
      ++ (List.range 9).flatMap (fun i => evLow s (0x0201 + i) u 0 8)) (modQueue q.index n (fun z => { z with peak := depth z }) s)

/-- PORT_BUF_STATUS_GET (08 Table 8.11). -/
def portBufStatus (q : Path) (s : State) : Ans :=
  match port s q.index with
  | none => ansSt stNoResource s
  | some x =>
    let left := match x.hold with
      | some t => t - now s
      | none => 0xFFFFFFFF
    ansOk ([byte x.pauseReq.toNat, byte x.lossless.toNat, 0, 0] ++ leBytes 4 left ++ x.u.flatMap (leBytes 4) ++ x.k.flatMap (leBytes 4)
      ++ (List.range 8).flatMap (fun i => evLow s 0x011A q.index i 8)) s

/-- QUEUE_SET. -/
def execQueueSet (m : Nat) (s : State) : Host.Outcome State Fault Refusal :=
  .next (runCmd 0x0401 m (fun c t => onPath m c.code 68 [4, 5] c t (fun q p => queueSet m c q p t)) s)

/-- PORT_BUF_SET. -/
def execPortBufSet (m : Nat) (s : State) : Host.Outcome State Fault Refusal :=
  .next (runCmd 0x0402 m (fun c t => onPath m c.code 120 [3] c t (fun _ p => portBufSet m c p t)) s)

/-- BUF_GLOBAL_SET. -/
def execBufGlobalSet (m : Nat) (s : State) : Host.Outcome State Fault Refusal :=
  .next (runCmd 0x0403 m (fun c t => onPath m c.code 48 [1] c t (fun _ p => bufGlobalSet m c p t)) s)

/-- BUF_SECTION_SET. -/
def execBufSectionSet (m : Nat) (s : State) : Host.Outcome State Fault Refusal :=
  .next (runCmd 0x0404 m (fun c t => onPath m c.code 24 [8] c t (fun _ p => bufSectionSet m c p t)) s)

/-- MCAST_SET. -/
def execMcastSet (m : Nat) (s : State) : Host.Outcome State Fault Refusal :=
  .next (runCmd 0x0405 m (fun c t => onPath m c.code 32 [1] c t (fun _ p => mcastSet m c p t)) s)

/-- BUF_STATUS_GET. -/
def execBufStatusGet (m : Nat) (s : State) : Host.Outcome State Fault Refusal :=
  .next (runCmd 0x0406 m (fun c t => onPath m c.code 16 [1, 8] c t (fun q _ => bufStatus q t)) s)

/-- QUEUE_STATUS_GET. -/
def execQueueStatusGet (m : Nat) (s : State) : Host.Outcome State Fault Refusal :=
  .next (runCmd 0x0407 m (fun c t => onPath m c.code 16 [4, 5] c t (fun q _ => queueStatus q t)) s)

/-- PORT_BUF_STATUS_GET. -/
def execPortBufStatusGet (m : Nat) (s : State) : Host.Outcome State Fault Refusal :=
  .next (runCmd 0x0408 m (fun c t => onPath m c.code 16 [3] c t (fun q _ => portBufStatus q t)) s)

end Sys2Proof.Machine
end

