-- ==== Sys2Proof/Machine/Units.lean ====
section
/-! DEFINITION. The device and unit commands (13 R409 to R411, Tables 13.12 to 13.16), the rungs that requests ask for (16 R474, R477, Table 16.3), the instances that belong to a unit (17 R500), and the identity registers (14 Table 14.3). -/

namespace Sys2Proof.Machine

/-! ## Identity -/

/-- DEV_ID (00 R7). -/
def devId (s : State) : Nat := if s.ident.half then 0x204800B1 else 0x204800A1

/-- DEV_REV (14 Table 14.3). -/
def devRev (s : State) : Nat := (s.ident.stepping % 256) * 256 + s.ident.metal % 256

/-- FW_VERSION (13 Table 13.20). -/
def fwVersion (s : State) : Nat := s.boot.fwVersion.toNat * 2 ^ 32 + (s.boot.slot % 2) * 8 + s.boot.patches % 8

/-- Number of a standby state (13 Table 13.21). -/
def standbyNo (x : Standby) : Nat :=
  match x with
  | .empty => 0
  | .staging => 1
  | .valid => 2
  | .committed => 3
  | .previous => 4

/-- UC_VERSION (13 Table 13.21). -/
def ucVersion (s : State) : Nat :=
  (if s.uc.active.loaded then s.uc.active.version.toNat else 0) * 2 ^ 32 + (s.uc.activeNo % 2) * 8 + standbyNo s.uc.st

/-- DEVICE_INFO_GET (13 Table 13.13). -/
def deviceInfo (s : State) : List Byte :=
  leBytes 4 (devId s) ++ leBytes 4 (devRev s) ++ leBytes 6 Config.serial.toNat
    ++ [byte (s.boot.slot % 2), byte (b2n s.boot.seqTie + 2 * b2n s.boot.otherBad)]
    ++ leBytes 8 (fwVersion s) ++ leBytes 8 (ucVersion s)

/-! ## Status -/

/-- Power domain of a unit that is one (16 Table 16.3). -/
def unitDom (kind n : Nat) : Option Nat :=
  match kind with
  | 6 => some (64 + n)
  | 7 => some (104 + n)
  | 8 => some (96 + n)
  | 9 => some n
  | _ => none

/-- Rung of a unit. A port and its queues are no domain: the highest-power rung of the port's lanes stands for them; DEV is at Run. -/
def unitRung (s : State) (q : Path) : Nat :=
  match unitDom q.kind q.index with
  | some d => heldRung s d
  | none =>
    if q.kind = 2 then (lane s q.index).rung
    else match q.kind, port s q.index with
      | 1, _ => 0
      | _, some x => (portLanes q.index x).foldl (fun acc l => min acc (lane s l).rung) 5
      | _, none => 0

/-- IN_SERVICE (13 Table 13.14). -/
def unitServes (s : State) (q : Path) : Bool :=
  match q.kind with
  | 2 => (lane s q.index).cdr
  | 3 => portUp s q.index
  | _ => decide (unitRung s q = 0)

/-- Units that own the instances of a source (17 Table 17.1): 1 DEV, 2 lane, 3 port, 7 cluster, 8 section. A section of SPARES_EXHAUSTED has index 16 up. -/
def srcKinds (src : Nat) : List Nat :=
  if 49 ≤ src ∧ src ≤ 51 then [3]
  else if src = 52 ∨ src = 53 then [7]
  else if src = 54 then [8]
  else if src = 64 then [2]
  else if src = 65 then [7, 8]
  else [1]

/-- Unit number under a source of a unit of a kind. -/
def srcUnit (src kind n : Nat) : Nat := if src = 65 ∧ kind = 8 then sectionUnit n else if kind = 1 then 0 else n

/-- The instance of a source and unit belongs to the unit (17 R500). -/
def ownsInst (s : State) (kind n src unit : Nat) : Bool :=
  match kind with
  | 1 => true
  | 9 => src == 64 && unit / 8 == n
  | 6 => (src == 64 && unit / 16 == n) || ((srcKinds src).contains 3 && groupOf unit == n && (port s unit).isSome)
  | _ => (srcKinds src).contains kind && unit == srcUnit src kind n

/-- The listed instances of a unit, as source, unit and instance, in the order of 17 R501. -/
def unitInsts (s : State) (q : Path) : List (Nat × Nat × FltInst) :=
  (s.flt.inst.map (fun e => (e.1 / 1024, e.1 % 1024, e.2))).filter (fun e => ownsInst s q.kind q.index e.1 e.2.1)

/-- UNIT_STATUS_GET (13 Table 13.14). -/
def unitStatus (s : State) (q : Path) : List Byte :=
  let sev := (unitInsts s q).any (fun e => e.2.2.severe)
  [byte q.kind, byte (unitRung s q), byte (b2n (unitServes s q) + 2 * b2n sev), 0] ++ leBytes 4 1 ++ leBytes 8 (idx s)

/-! ## Counters -/

/-- Unit number of a path under the event codes of 11 Table 11.9, when the code names units of its kind. -/
def evUnit (code : Nat) (q : Path) : Option Nat :=
  match code / 256, q.kind with
  | 1, 3 => some q.index
  | 2, 4 => some (20 * q.index + queueNo q)
  | 2, 5 => some (20 * q.index + queueNo q)
  | 3, 6 => some q.index
  | 4, 7 => some q.index
  | 5, 1 => some 0
  | _, _ => none

/-- The counter of a code for a unit and PARAM, when the code applies (13 R410). -/
def evApplies (s : State) (code param : Nat) (q : Path) : Option Nat :=
  match evRange code, evUnit code q with
  | some (_, lo, hi), some u => if lo ≤ param ∧ param ≤ hi then some (evGet s code u param).toNat else none
  | _, _ => none

/-- UNIT_COUNTERS_GET (13 Table 13.15). -/
def unitCounters (s : State) (q : Path) (first count param : Nat) : List Byte :=
  let l := (List.range count).map (fun j => evApplies s (first + j) param q)
  let valid := ((l.zipIdx).map (fun e => if e.1.isSome then 2 ^ e.2 else 0)).sum
  leBytes 8 valid ++ leBytes 8 (idx s) ++ l.flatMap (fun v => leBytes 8 (v.getD 0))

/-! ## Faults -/

/-- A mask of sources. -/
def srcMask (l : List Nat) : Nat := l.foldl (fun acc n => acc ||| 2 ^ n) 0

/-- The trick indices at which the severe ones of some instances became severe, the least of them, or 0. -/
def firstSevere (l : List (Nat × Nat × FltInst)) : Nat :=
  (((l.filter (fun e => e.2.2.severe)).map (fun e => e.2.2.severeTrick)).min?).getD 0

/-- UNIT_FAULT_GET (13 Table 13.16). -/
def unitFault (s : State) (q : Path) : List Byte :=
  let l := unitInsts s q
  leBytes 32 (srcMask ((l.filter (fun e => e.2.2.sticky)).map (fun e => e.1)))
    ++ leBytes 32 (srcMask ((l.filter (fun e => e.2.2.severe)).map (fun e => e.1)))
    ++ leBytes 8 (firstSevere l) ++ [byte (b2n (faultPin s))] ++ zeros 7

/-! ## Rungs -/

/-- Change a power domain. -/
def modDomP (d : Nat) (f : PDom → PDom) (s : State) : State :=
  { s with power := { s.power with doms := tabPut s.power.doms d (f (pdom s d)) } }

/-- Requests that stand for a unit at Run: at Run, or to be at the next boundary. -/
def wantsRun (s : State) (d : Nat) : Bool := decide (heldRung s d = 0) || decide ((pdom s d).req = 0)

/-- A domain that counts as at Run for a request that builds on it; during the emergency shed its requested rung stands (16 R477). -/
def serves (s : State) (d : Nat) : Bool := decide ((pdom s d).req = 0) && (s.power.emergency || atRun s d)

/-- Table 16.3 and 16 R477 refuse the rung for the domain. -/
def rungRefused (s : State) (d r : Nat) : Bool :=
  if r = 0 then
    decide (64 ≤ d ∧ d < 96) && decide ((pdom s d).req ≠ 0 ∨ heldRung s d ≠ 0) && !(serves s (104 + clusterOf (d - 64)) && serves s 108)
  else if 64 ≤ d ∧ d < 96 then s.ports.any (fun e => groupOf e.1 == d - 64)
  else if 96 ≤ d ∧ d < 104 then !sectEmpty s (d - 96)
  else if 104 ≤ d ∧ d < 108 then
    (List.range (groupCount s)).any (fun g => clusterOf g == d - 104 && wantsRun s (64 + g))
  else if d = 108 then
    (List.range (groupCount s)).any (fun g => wantsRun s (64 + g)) || flowAnyValid s
      || s.telem.flowEn || s.telem.dumpEn || s.telem.sampleEn || s.telem.captureEn
  else if d = 109 then
    s.link.d0 || s.telem.flowEn || s.telem.dumpEn || s.telem.sampleEn || s.telem.captureEn || s.chans.any (fun e => e.2.st != .stopped)
  else if d = 111 then s.chans.any (fun e => e.2.st != .stopped) || s.rings.any (fun e => e.2.typ == .sq && e.2.st != .off)
  else if d = 112 then decide (s.ciph.owner ≠ 0) || s.time.doms.any (fun e => e.2.rxRequired || e.2.tx)
  else false

/-- The deepest of requested, shed and emergency rungs of a domain (16 R474, R492; 14 R422). -/
def domTarget (s : State) (d : Nat) : Nat :=
  if fusedOff s d then 5
  else if d = 113 then 0
  else if d = 110 then (if s.link.d0 then 0 else 2)
  else max (pdom s d).req (if s.power.emergency then 3 else 0)

/-- The rung an octet goes to. -/
def octTarget (s : State) (o : Nat) : Nat := (List.range 8).foldl (fun acc i => min acc (laneTarget s (8 * o + i))) 5

/-- Response of UNIT_RUNG_SET and PWR_DOMAIN_SET. -/
def rungResp (s : State) (held : Nat) : List Byte := [byte held] ++ zeros 7 ++ leBytes 8 ((idx s + 1) % 2 ^ 64)

/-- UNIT_RUNG_SET (13 R411; 16 R474 to R477; 03 R82): a section whose cells S needs stays at Run (08 R227). -/
def unitRungSet (q : Path) (p : List Byte) (s : State) : Ans :=
  let r := fld p 16 1
  checks [(decide (r ≤ 5), 16), rsv p 17 7] s (fun _ =>
    if q.kind = 2 then
      let t := modLane q.index (fun x => { x with req := r }) s
      ansOk (rungResp t (laneTarget t q.index)) t
    else if q.kind = 9 then
      let t := forAll (List.range 8) (fun i acc => modLane (8 * q.index + i) (fun x => { x with req := r }) acc) s
      ansOk (rungResp t (octTarget t q.index)) t
    else
      let d := (unitDom q.kind q.index).getD 113
      let v := bufView s
      if rungRefused s d r then ansSt stNotReady s
      else if 96 ≤ d ∧ d < 104 ∧ r ≠ 0 ∧ overdrawn v (modSect (d - 96) (fun x => { x with drain := true }) v) = true then ansSt stNoResource s
      else
        let t := modDomP d (fun x => { x with req := r }) s
        ansOk (rungResp t (domTarget t d)) t)

/-! ## Rows -/

/-- DEVICE_INFO_GET. -/
def execDeviceInfoGet (m : Nat) (s : State) : Host.Outcome State Fault Refusal :=
  .next (runCmd 0x0101 m (fun c t => onPath m c.code 16 [1] c t (fun _ _ => ansOk (deviceInfo t) t)) s)

/-- UNIT_STATUS_GET. -/
def execUnitStatusGet (m : Nat) (s : State) : Host.Outcome State Fault Refusal :=
  .next (runCmd 0x0102 m (fun c t => onPath m c.code 16 [1, 2, 3, 4, 5, 6, 7, 8, 9] c t (fun q _ => ansOk (unitStatus t q) t)) s)

/-- UNIT_COUNTERS_GET. -/
def execUnitCountersGet (m : Nat) (s : State) : Host.Outcome State Fault Refusal :=
  .next (runCmd 0x0103 m (fun c t => onPath m c.code 24 [1, 2, 3, 4, 5, 6, 7, 8, 9] c t (fun q p =>
    let n := fld p 18 1
    checks [(decide (1 ≤ n ∧ n ≤ 64), 18), rsv p 20 4] t (fun _ => ansOk (unitCounters t q (fld p 16 2) n (fld p 19 1)) t))) s)

/-- UNIT_RUNG_SET. -/
def execUnitRungSet (m : Nat) (s : State) : Host.Outcome State Fault Refusal :=
  .next (runCmd 0x0104 m (fun c t => onPath m c.code 24 [2, 6, 7, 8, 9] c t (fun q p => unitRungSet q p t)) s)

/-- UNIT_FAULT_GET. -/
def execUnitFaultGet (m : Nat) (s : State) : Host.Outcome State Fault Refusal :=
  .next (runCmd 0x0105 m (fun c t => onPath m c.code 16 [1, 2, 3, 4, 5, 6, 7, 8, 9] c t (fun q _ => ansOk (unitFault t q) t)) s)

end Sys2Proof.Machine
end

