-- ==== Sys2Proof/Machine/Faults.lean ====
section
/-! DEFINITION. The fault commands (17 R512 to R516), the write-one-to-clear rows of the fault registers (17 Tables 17.6, 17.7) and row repair (17 R507, R508; 06 R178; 08 R249). -/

namespace Sys2Proof.Machine

/-! ## Settings and clears -/

/-- Sources whose N, W and class are fixed (17 Table 17.1). -/
def srcFixed (src : Nat) : Bool := src == 61 || src == 62 || src == 68

/-- FLT_SOURCE_SET (17 R512). -/
def fltSourceSet (m : Nat) (c : Cmd) (p : List Byte) (s : State) : Ans :=
  let src := fld p 16 1
  let cls := fld p 17 1
  let n := fld p 18 2
  let w := fld p 20 4
  let d := fltDefault src
  let keep := fun (b : Bool) => !srcFixed src || b
  checks [(decide (src ≤ 68), 16), (decide (cls ≤ 2) && (decide (cls ≠ 2) || decide (49 ≤ src ∧ src ≤ 51)) && keep (cls == d.cls), 17),
    (keep (n == d.n), 18), (decide (w < 2 ^ 24) && keep (w == d.w), 20), rsv p 24 8] s
    (fun _ => ansOk [] (schedule m c p s))

/-- FLT_SOURCE_SET at its trick boundary: the source's windows close. -/
def fltSourceApply (p : List Byte) (s : State) : State :=
  let src := fld p 16 1
  { s with flt := { s.flt with
    srcs := tabPut s.flt.srcs src ⟨fld p 17 1, fld p 18 2, fld p 20 4⟩
    inst := tabMap s.flt.inst (fun k i => if k / 1024 = src then { i with opened := false, c := 0 } else i) } }

/-- The condition that keeps the severe bit of THERMAL and POWER_CAP set (17 Table 17.7). -/
def condHolds (s : State) (src : Nat) : Bool :=
  (src == 62 && decide (1840 ≤ s.power.tj)) || (src == 61 && atFloor s && decide (capEff s < s.power.rubberMean))

/-- Clear the sticky or severe bits of the instances that a test picks; ports held by CONTAIN go on when nothing holds them (17 R502, Table 17.2). -/
def fltClearWhere (pick : Nat → Nat → Bool) (sticky severe : Bool) (s : State) : State :=
  let held := (s.ports.map (fun e => e.1)).filter (contained s)
  let s1 := { s with flt := { s.flt with inst := tabMap s.flt.inst (fun k i =>
    if pick (k / 1024) (k % 1024) then
      let j := if sticky then { i with sticky := false } else i
      if severe ∧ condHolds s (k / 1024) = false then clearSevere j else j
    else i) } }
  forAll held (fun p acc => containRelease p true acc) s1

/-- FLT_CLEAR (17 R512, Table 17.9). -/
def fltClear (m : Nat) (c : Cmd) (p : List Byte) (s : State) : Ans :=
  let src := fld p 16 1
  checks [(decide (src ≤ 68 ∨ src = 255), 16), (decide (fld p 17 1 < 4), 17), rsv p 18 6] s (fun _ => ansOk [] (schedule m c p s))

/-- FLT_CLEAR at its trick boundary. -/
def fltClearApply (p : List Byte) (s : State) : State :=
  let q := pathOf p
  let src := fld p 16 1
  let fl := fld p 17 1
  fltClearWhere (fun n u => (src == 255 || n == src) && ownsInst s q.kind q.index n u) (fl.testBit 0) (fl.testBit 1) s

/-! ## Status -/

/-- The instances that FLT_STATUS_GET reports for a path and source: none where it answers BAD_ARG (17 R513). -/
def statusInsts (s : State) (q : Path) (src : Nat) : Option (List (Nat × Nat × FltInst)) :=
  let all := (s.flt.inst.map (fun e => (e.1 / 1024, e.1 % 1024, e.2))).filter (fun e => e.1 == src)
  if 68 < src then none
  else if q.kind = 1 then some all
  else if (srcKinds src).contains q.kind then some (all.filter (fun e => e.2.1 == srcUnit src q.kind q.index))
  else if srcKinds src = [1] then some all
  else none

/-- The report is about one instance, not an aggregate. -/
def statusSingle (q : Path) (src : Nat) : Bool := (srcKinds src).contains q.kind || srcKinds src == [1]

/-- FLT_STATUS_GET (17 Table 17.10). -/
def fltStatus (s : State) (q : Path) (src : Nat) (l : List (Nat × Nat × FltInst)) : List Byte :=
  let f := fltSrc s src
  let has := fun (g : FltInst → Bool) => b2n (l.any (fun e => g e.2.2))
  let flags := has (fun i => i.sticky) + 2 * has (fun i => i.severe) + 4 * b2n (srcFixed src) + 8 * has (fun i => i.injected) + 16 * has (fun i => i.opened)
  let firsts := l.filter (fun e => decide (0 < e.2.2.total))
  let first := firsts.foldl (fun (b : Option FltInst) e =>
    match b with
    | some i => if e.2.2.order < i.order then some e.2.2 else b
    | none => some e.2.2) none
  let one := if statusSingle q src then (l.head?.map (fun e => e.2.2)).getD {} else {}
  [byte flags, byte f.cls] ++ leBytes 2 f.n ++ leBytes 4 f.w ++ leBytes 4 one.c ++ leBytes 4 (if one.opened then now s - one.s else 0)
    ++ leBytes 8 ((l.map (fun e => e.2.2.total)).sum) ++ leBytes 8 ((first.map (fun i => i.first)).getD 0)
    ++ leBytes 4 ((first.map (fun i => i.detail)).getD 0) ++ zeros 4 ++ leBytes 8 (firstSevere l)

/-! ## The test unlock -/

/-- FLT_TEST_CHALLENGE_GET: 16 random bytes (17 R514). -/
def testChallenge (s : State) : Ans :=
  let r := drawFree 16 s
  ansOk r.1 { r.2 with flt := { r.2.flt with challenge := some r.1 } }

/-- The token that unlocks (17 R514). -/
def tokenOf (challenge : List Byte) : List Byte := cmacBytes Config.testKey (challenge ++ leBytes 6 Config.serial.toNat ++ zeros 10)

/-- FLT_TEST_UNLOCK. -/
def testUnlock (m : Nat) (p : List Byte) (s : State) : Ans :=
  let s1 := { s with flt := { s.flt with challenge := none } }
  if s.flt.challenge.any (fun c => tokenOf c == slice p 16 16) then
    ansOk [] (fault 68 0 m { s1 with flt := { s1.flt with unlocked := true } })
  else ansSt stAuthFail s1

/-- FLT_TEST_LOCK: the registers go back at the next boundary (17 R515). -/
def testLock (m : Nat) (c : Cmd) (p : List Byte) (s : State) : Ans :=
  ansOk [] (schedule m c p { s with flt := { s.flt with unlocked := false } })

/-- The perturbation registers return to their reset values. -/
def testLockApply (s : State) : State := { s with flt := { s.flt with tp := {}, tpOn := {} } }

/-- TEST_FAULT_INJECT (17 R516). -/
def faultInject (m : Nat) (c : Cmd) (q : Path) (p : List Byte) (s : State) : Ans :=
  let src := fld p 16 1
  let n := fld p 18 2
  checks [(decide (src ≤ 68) && !srcFixed src && (srcKinds src).contains q.kind, 16), rsv p 17 1, (decide (1 ≤ n ∧ n ≤ 1024), 18), rsv p 24 8] s
    (fun _ => ansOk [] (schedule m c p s))

/-- One injection at its trick boundary: COUNT events of one instance. -/
def injectOne (p : List Byte) (s : State) : State :=
  let q := pathOf p
  let src := fld p 16 1
  let u := srcUnit src q.kind q.index
  forAll (List.range (fld p 18 2)) (fun _ acc =>
    if 49 ≤ src ∧ src ≤ 51 then portFaultI src u (fld p 20 4) true acc else raiseFault src u (fld p 20 4) true acc) s

/-- The injections of one boundary in the order of 17 R501: source, then unit. -/
def injectAll (l : List (List Byte)) (s : State) : State :=
  let key := fun (p : List Byte) => fltKey (fld p 16 1) (srcUnit (fld p 16 1) (pathOf p).kind (pathOf p).index)
  (l.mergeSort (fun a b => decide (key a ≤ key b))).foldl (fun acc p => injectOne p acc) s

/-! ## Rows of memory -/

/-- Index of a bank's spares. -/
def bankKey (f : FailRow) : Nat :=
  let k := match f.mem with
    | .table => 0
    | .meter => 1
    | .counter => 2
    | .buffer => 3
    | .link => 4
  (k * 16 + f.unit) * 4096 + f.bank

/-- The row exists on this ordering code. -/
def rowExists (s : State) (f : FailRow) : Bool :=
  match f.mem with
  | .table => decide (f.unit < clusterCount s ∧ f.bank < 512 ∧ f.row < 2048)
  | .meter => decide (f.unit < clusterCount s ∧ f.bank < 4096)
  | .counter => decide (f.unit < clusterCount s ∧ f.bank < 4096)
  | .buffer => decide (f.unit < 8 ∧ f.bank < 160 ∧ f.row < 16384)
  | .link => decide (f.unit < 8 ∧ f.bank < 4096 ∧ f.row < secCells)

/-- The bucket of a row of a table bank (06 R141). -/
def rowBucket (f : FailRow) : Nat := f.row * 512 + f.bank

/-- The cell of a row of a buffer bank (08 R216); a row of link memory is numbered as the cell is in its section. -/
def rowCell (f : FailRow) : Nat :=
  match f.mem with
  | .link => f.unit * secCells + f.row
  | _ => f.unit * secCells + f.row * 10 + f.bank / 16

/-- The event of a row's memory: source, unit, DETAIL (17 Table 17.1). -/
def rowEvent (f : FailRow) (s : State) : State :=
  match f.mem with
  | .table => fault 53 f.unit (f.bank * 2 ^ 20 + rowBucket f) s
  | .meter => fault 53 f.unit (f.bank * 2 ^ 20 + f.row) s
  | .counter => fault 53 f.unit (f.bank * 2 ^ 20 + f.row) s
  | .buffer => fault 54 f.unit (rowCell f) s
  | .link => fault 54 f.unit (2 ^ 31 + rowCell f) s

/-- The event of a row that finds no spare. -/
def sparesEvent (f : FailRow) (s : State) : State :=
  let u := match f.mem with
    | .buffer => sectionUnit f.unit
    | .link => sectionUnit f.unit
    | _ => f.unit
  fault 65 u (f.bank * 2 ^ 20 + f.row) s

/-- A transmission whose cell is found uncorrectable is ended with an inverted FCS (08 R248, R242). -/
def stompSent (h p : Nat) (s : State) : State :=
  match port s p with
  | none => s
  | some x => x.inflight.foldl (fun acc f =>
      if f.desc.head = h ∧ f.dropped = false ∧ f.desc.bad = false then
        -- the bytes of a frame still arriving carry no FCS yet
        let w := if f.desc.prov then f.wire else f.wire.take (f.wire.length - 4)
        let g := { f with wire := w ++ stompFcs w, desc := { f.desc with bad := true } }
        ev 0x0209 (queueUnit p f.queue) (modPort p (fun y => { y with inflight := y.inflight.map (fun z => if z = f then g else z) }) acc)
      else acc) s

/-- The frame of a chain holds an uncorrectable word (08 R248): its descriptors are dropped, a transmission that has begun is ended. -/
def spoilChain (h : Nat) (s : State) : State :=
  let ports := s.ports.map (fun e => e.1)
  let s1 := forAll ports (fun p acc => forAll (List.range 20) (fun q t =>
    match port t p with
    | some x => if (queue x q).descs.any (fun d => d.head == h) then modQueue p q (fun y => { y with descs := y.descs.map (fun d => if d.head = h then { d with bad := true } else d) }) t else t
    | none => t) acc) s
  let s2 := forAll ports (stompSent h) s1
  let s3 := forAll (List.range 32) (fun g acc =>
    if (grp acc g).repl.any (fun j => j.head == h) || (grp acc g).at6.any (fun j => j.head == h) then
      modGrp g (fun x => { x with
        repl := x.repl.map (fun j => if j.head = h then { j with bad := true } else j)
        at6 := x.at6.map (fun j => if j.head = h then { j with bad := true } else j) }) acc
    else acc) s2
  forAll ports (fun p acc => forAll (List.range 20) (fun q t => dropBad p q t) acc) s3

/-- A cell whose word is uncorrectable: the frame that holds it is spoiled; in a free cell the list's pointer is broken (08 R248, R250). -/
def spoilCell (c : Nat) (word0 : Bool) (s : State) : State :=
  match chainOfCell s c with
  | some (h, _) => spoilChain h s
  | none =>
    let n := sectOf c
    if word0 && runsMem c (sect s n).list then modSect n (fun x => { x with listRebuild := true, list := [], links := [] }) s else s

/-- The uncorrectable words of a failing row, as the read found them (06 R177; 08 R248). -/
def rowBad (f : FailRow) (s : State) : State :=
  f.bad.foldl (fun acc _ =>
    match f.mem with
    | .table => rowEvent f (ev 0x0407 f.unit acc)
    | .meter => rowEvent f acc
    | .counter => rowEvent f acc
    | .buffer => spoilCell (rowCell f) (decide (f.bank % 16 = 0)) (rowEvent f (ev 0x0505 0 acc))
    | .link => spoilCell (rowCell f) false (rowEvent f (ev 0x0505 0 acc))) s

/-- Words of a bucket that read uncorrectable are written as zero, so that their slots stay empty: in a bucket of wide entries both words of the pair (17 R508; 06 R177). -/
def zeroWords (wide : Bool) (bad : List Nat) (v : BitVec 512) : BitVec 512 :=
  let all := if wide then bad.flatMap (fun w => [w / 2 * 2, w / 2 * 2 + 1]) else bad
  all.foldl (fun acc w => if w < 4 then BitVec.ofNat 512 (acc.toNat - bits acc.toNat (128 * w + 127) (128 * w) * 2 ^ (128 * w)) else acc) v

/-- The bucket of a row lies in a region of wide entries. -/
def wideAt (s : State) (b : Nat) : Bool :=
  match regionTable s b with
  | some (_, d) => d.wide
  | none => false

/-- A bank watches four rows; a fifth replaces the one whose first correction is oldest (17 R507). -/
def watchRow (row n : Nat) (l : List (Nat × Nat)) : List (Nat × Nat) :=
  if l.any (fun w => w.1 == row) then l.map (fun w => if w.1 = row then (row, w.2 + n) else w)
  else (if l.length < 4 then l else l.drop 1) ++ [(row, n)]

/-- Corrected reads of a row: they count, and 8 cycles of one rubber make the row failing (06 R177; 08 R248; 17 R507). -/
def rowCorrected (f : FailRow) (n : Nat) (s : State) : State :=
  if rowExists s f = false then s
  else
    let s1 := match f.mem with
      | .table => evAdd 0x0406 f.unit 0 n s
      | .buffer => evAdd 0x0504 0 0 n s
      | .link => evAdd 0x0504 0 0 n s
      | _ => s
    let w := watchRow f.row n (tabGetD s1.flt.watched (bankKey f) [])
    let hot := w.any (fun x => x.1 == f.row && decide (8 ≤ x.2)) && !s1.flt.failing.contains (bankKey f, f.row)
    { s1 with flt := { s1.flt with watched := tabPut s1.flt.watched (bankKey f) w, failing := if hot then s1.flt.failing ++ [(bankKey f, f.row)] else s1.flt.failing } }

/-- Corrected reads of the trick that ends. -/
def rowsCorrected (l : List (FailRow × Nat)) (s : State) : State := l.foldl (fun acc e => rowCorrected e.1 e.2 acc) s

/-- The counts of the watched rows begin again at a rubber boundary (17 R507). -/
def watchRubber (s : State) : State :=
  { s with flt := { s.flt with watched := s.flt.watched.map (fun e => (e.1, e.2.map (fun w => (w.1, 0)))) } }

/-- A failing row: a read found an uncorrectable word, or 8 cycles of a rubber corrected it (17 R507). -/
def rowFailing (s : State) (f : FailRow) : Bool := !f.bad.isEmpty || s.flt.failing.contains (bankKey f, f.row)

/-- A row that is repaired or retired is watched no longer. -/
def rowDone (f : FailRow) (s : State) : State :=
  { s with flt := { s.flt with watched := tabPut s.flt.watched (bankKey f) ((tabGetD s.flt.watched (bankKey f) []).filter (fun w => w.1 != f.row)), failing := s.flt.failing.filter (fun x => x != (bankKey f, f.row)) } }

/-- The copy of a row into a spare (17 R508): an uncorrectable word of a bucket is written as zero, and one of a cell reads as zero from then on (15 R450). -/
def rowCopy (f : FailRow) (s : State) : State :=
  match f.mem with
  | .table =>
    -- the engine copies the bucket in one write slot
    let s1 := modCluster f.unit (useSlots 1) s
    if f.bad.isEmpty then s1 else modCluster f.unit (fun c => bucketPut (rowBucket f) (zeroWords (wideAt s (rowBucket f)) f.bad (bucketRaw c (rowBucket f))) c) s1
  | .buffer =>
    if f.bad.isEmpty then s
    else
      let c := rowCell f
      let s1 := { s with buf := { s.buf with mem := memClear s.buf.mem (256 * c + 16 * (f.bank % 16)) 16 } }
      if f.bank % 16 = 0 ∧ runsMem c (sect s (sectOf c)).list = true then modSect (sectOf c) (fun x => { x with links := tabPut x.links c 0 }) s1 else s1
  | _ => s

/-- A cell is retired: out of its list, cache or backlog, or marked until its chain is freed (08 R249). -/
def retireCell (c : Nat) (s : State) : State :=
  match chainOfCell s c with
  | some _ => modSect (sectOf c) (fun x => if x.retireMark.contains c then x else { x with retireMark := x.retireMark ++ [c] }) s
  | none => modSect (sectOf c) (fun x => if x.retired.contains c then x else
      { x with retired := x.retired ++ [c], list := runsDel c x.list, cache := runsDel c x.cache, links := tabErase x.links c
               backlog := x.backlog.filter (fun y => y != c), waiting := x.waiting.filter (fun y => y != c) }) s

/-- A failing row that finds no spare is retired; a meter or counter row keeps failing (17 R508; 06 R178; 08 R249). -/
def rowRetire (f : FailRow) (s : State) : State :=
  sparesEvent f (match f.mem with
    | .table =>
      if isRetired (cluster s f.unit) (rowBucket f) then s
      else notifyRetired f.unit (modCluster f.unit (fun c => { c with retired := c.retired ++ [rowBucket f], retWait := c.retWait ++ [rowBucket f] }) s)
    | .buffer => retireCell (rowCell f) s
    | .link => retireCell (rowCell f) s
    | _ => s)

/-- A failing row is repaired or retired (17 R508). -/
def repairRow (f : FailRow) (s : State) : State :=
  if rowExists s f = false then s
  else
    let s1 := rowBad f s
    let used := tabGetD s1.flt.spares (bankKey f) 0
    if used < 4 then
      rowEvent f (rowCopy f { s1 with flt := { s1.flt with spares := tabPut s1.flt.spares (bankKey f) (used + 1) } })
    else rowRetire f s1

/-! ## Rows -/

/-- ROW_REPAIR: of a failing row (17 R507, R508). -/
def execRowRepair (f : FailRow) (s : State) : Host.Outcome State Fault Refusal := .next (if powered s && rowFailing s f then repairRow f (rowDone f s) else s)

/-- FLT_SOURCE_SET. -/
def execFltSourceSet (m : Nat) (s : State) : Host.Outcome State Fault Refusal :=
  .next (runCmd 0x0A01 m (fun c t => onPath m c.code 32 [1] c t (fun _ p => fltSourceSet m c p t)) s)

/-- FLT_STATUS_GET. -/
def execFltStatusGet (m : Nat) (s : State) : Host.Outcome State Fault Refusal :=
  .next (runCmd 0x0A02 m (fun c t => onPath m c.code 24 [1, 2, 3, 4, 5, 6, 7, 8, 9] c t (fun q p =>
    checks [rsv p 17 7] t (fun _ =>
      match statusInsts t q (fld p 16 1) with
      | some l => ansOk (fltStatus t q (fld p 16 1) l) t
      | none => ansBad 16 t))) s)

/-- FLT_CLEAR. -/
def execFltClear (m : Nat) (s : State) : Host.Outcome State Fault Refusal :=
  .next (runCmd 0x0A03 m (fun c t => onPath m c.code 24 [1, 2, 3, 4, 5, 6, 7, 8, 9] c t (fun _ p => fltClear m c p t)) s)

/-- FLT_TEST_CHALLENGE_GET. -/
def execFltTestChallengeGet (m : Nat) (s : State) : Host.Outcome State Fault Refusal :=
  .next (runCmd 0x0A04 m (fun c t => onPath m c.code 16 [1] c t (fun _ _ => testChallenge t)) s)

/-- FLT_TEST_UNLOCK. -/
def execFltTestUnlock (m : Nat) (s : State) : Host.Outcome State Fault Refusal :=
  .next (macCmd (fun _ => false) m 0x0A05 (runCmd 0x0A05 m (fun c t => onPath m c.code 32 [1] c t (fun _ p => testUnlock m p t))) s)

/-- FLT_TEST_LOCK. -/
def execFltTestLock (m : Nat) (s : State) : Host.Outcome State Fault Refusal :=
  .next (runCmd 0x0A06 m (fun c t => onPath m c.code 16 [1] c t (fun _ p => testLock m c p t)) s)

/-- TEST_FAULT_INJECT. -/
def execTestFaultInject (m : Nat) (s : State) : Host.Outcome State Fault Refusal :=
  .next (runCmd 0x0C01 m (fun c t => onPath m c.code 32 [1, 2, 3, 4, 5, 6, 7, 8, 9] c t (fun q p => faultInject m c q p t)) s)

/-- FLT_STICKY_CLEAR: a write to FLT_STICKYk, acting as it arrives (17 R512). -/
def execFltStickyClear (who : Who) (k : Nat) (v : BitVec 64) (s : State) : Host.Outcome State Fault Refusal :=
  .next (if 3 < k ∨ reaches s who = false then s else fltClearWhere (fun n _ => n / 64 == k && v.toNat.testBit (n % 64)) true false s)

/-- FLT_SEVERE_CLEAR: a write to FLT_SEVEREk. -/
def execFltSevereClear (who : Who) (k : Nat) (v : BitVec 64) (s : State) : Host.Outcome State Fault Refusal :=
  .next (if 3 < k ∨ reaches s who = false then s else fltClearWhere (fun n _ => n / 64 == k && v.toNat.testBit (n % 64)) false true s)

end Sys2Proof.Machine
end

