-- ==== Sys2Proof/Machine/Parser.lean ====
section
/-! DEFINITION. The microcoded parser (05): the program section in a control-store bank, the microword, the parse of one frame into its packet header vector, and the loader's checks of the parser section. -/

namespace Sys2Proof.Machine

/-! ## The program section (05 Table 5.2) -/

/-- A little-endian field of a bank's body. -/
def ctlFld (b : Mem) (a n : Nat) : Nat := leVal (memReadN b a n)

/-- ENTRY[e] of a bank: its address when it is VALID. -/
def entryAddr (b : Mem) (e : Nat) : Option Nat :=
  let v := ctlFld b (2 * e) 2
  if v.testBit 15 then some (v % 1024) else none

/-- Entry e is VALID in a bank. -/
def entryValid (b : Bank) (e : Nat) : Bool := b.loaded && (entryAddr b.body e).isSome

/-- PROG_LEN. -/
def progLen (b : Mem) : Nat := ctlFld b 32 2

/-- CONST_LEN. -/
def constLen (b : Mem) : Nat := ctlFld b 34 2

/-- Constant k: VALUE and MASK. -/
def constOf (b : Mem) (k : Nat) : Nat × Nat :=
  if k < constLen b then
    let v := ctlFld b (64 + 4 * k) 4
    (v / 65536, v % 65536)
  else (0, 0)

/-- Bytes of the parser section. -/
def parserLen (b : Mem) : Nat := 1088 + 16 * progLen b

/-! ## The microword (05 Table 5.3) -/

/-- An extraction: offset, bytes and first container. -/
structure Extract where
  off : Nat
  len : Nat
  dst : Nat
  deriving DecidableEq, Repr

/-- A parser microword. -/
structure PWord where
  next : Nat
  condEn : Nat
  csel : List Nat
  laOff : Nat
  constIdx : Nat
  lenMode : Nat
  lenAdd : Nat
  lenShift : Nat
  lenWidth : Nat
  lenScale : Nat
  lchk : Nat
  lbOff : Nat
  hdrId : Nat
  advance : Bool
  done : Bool
  flagSet : Nat
  ext1 : Extract
  ext0 : Extract
  /-- The LEN fields of the two extractions as encoded. -/
  len1 : Nat
  len0 : Nat
  inner : Bool
  lenOff : Nat
  rsv : Nat
  deriving DecidableEq, Repr

/-- Bytes of an extraction LEN code. -/
def extBytes (n : Nat) : Nat :=
  match n with
  | 1 => 1
  | 2 => 2
  | 3 => 4
  | 4 => 8
  | 5 => 16
  | _ => 0

/-- The fields of a microword's 128 bits. -/
def pword (v : Nat) : PWord where
  next := bits v 127 118
  condEn := bits v 117 114
  csel := [bits v 98 94, bits v 103 99, bits v 108 104, bits v 113 109]
  laOff := bits v 93 88
  constIdx := bits v 87 80
  lenMode := bits v 79 78
  lenAdd := bits v 77 70
  lenShift := bits v 69 66
  lenWidth := bits v 65 62
  lenScale := bits v 61 60
  lchk := bits v 59 58
  lbOff := bits v 57 52
  hdrId := bits v 51 46
  advance := v.testBit 45
  done := v.testBit 44
  flagSet := bits v 43 40
  ext1 := { off := bits v 39 34, len := extBytes (bits v 33 31), dst := bits v 30 25 }
  ext0 := { off := bits v 24 19, len := extBytes (bits v 18 16), dst := bits v 15 10 }
  len1 := bits v 33 31
  len0 := bits v 18 16
  inner := v.testBit 9
  lenOff := bits v 8 3
  rsv := bits v 2 0

/-- Microword at an address of a bank. -/
def pwordAt (b : Mem) (a : Nat) : PWord := pword (ctlFld b (1088 + 16 * a) 16)

/-! ## The parse -/

/-- A parser context between two microwords. -/
structure PCtx where
  addr : Nat
  start : Nat := 0
  hdrs : Nat := 0
  flags : Nat := 0
  inner : Bool := false
  innerOff : Nat := 0
  slack : Bool := false
  steps : Nat := 0
  phv : Phv := {}
  /-- EXC and CAUSE once the parse has ended. -/
  ended : Option (Nat × Nat) := none
  deriving DecidableEq, Repr

/-- Two bytes at a position, big-endian; bytes that the parser does not hold read zero. -/
def two (bs : List Byte) (a : Nat) : Nat := bfld bs a 2

/-- The header length of a microword (05 R124). -/
def headerLen (w : PWord) (bs : List Byte) (start : Nat) : Nat :=
  if w.lenMode = 0 then w.lenAdd
  else ((two bs (start + w.lenOff) >>> w.lenShift) % 2 ^ (w.lenWidth + 1)) * 2 ^ w.lenScale + w.lenAdd

/-- The condition vector (05 Table 5.5). -/
def condBit (b : Mem) (w : PWord) (bs : List Byte) (x : PCtx) (endsAtData : Bool) (i : Nat) : Bool :=
  let la := two bs (x.start + w.laOff)
  if i < 16 then la.testBit i
  else if i < 20 then
    let c := constOf b ((w.constIdx + (i - 16)) % 256)
    decide (la &&& c.2 = c.1)
  else if i < 24 then x.flags.testBit (i - 20)
  else if i = 24 then x.inner
  else if i = 25 then endsAtData
  else if i = 26 then x.slack
  else false

/-- The next address (05 R122). -/
def nextAddr (b : Mem) (w : PWord) (bs : List Byte) (x : PCtx) (endsAtData : Bool) : Nat :=
  (List.range 4).foldl (fun acc i =>
    if w.condEn.testBit i ∧ condBit b w bs x endsAtData (w.csel.getD i 0) = true then acc ||| 2 ^ i else acc) w.next

/-- The reads of a microword (05 R123): position and bytes. -/
def pReads (w : PWord) (start : Nat) : List (Nat × Nat) :=
  let la := (List.range 4).any (fun i => w.condEn.testBit i && decide (w.csel.getD i 0 < 20))
  (if la then [(start + w.laOff, 2)] else []) ++ (if w.lenMode = 1 then [(start + w.lenOff, 2)] else [])
    ++ (if w.lchk ≠ 0 then [(start + w.lbOff, 2)] else [])
    ++ (if 0 < w.ext1.len then [(start + w.ext1.off, w.ext1.len)] else [])
    ++ (if 0 < w.ext0.len then [(start + w.ext0.off, w.ext0.len)] else [])

/-- An extraction writes its containers (05 R127). -/
def extract (e : Extract) (bs : List Byte) (start : Nat) (w : Tab Nat) : Tab Nat :=
  if e.len = 0 then w
  else if e.len ≤ 4 then tabPut w e.dst (bfld bs (start + e.off) e.len)
  else (List.range (e.len / 4)).foldl (fun acc i => tabPut acc (e.dst + i) (bfld bs (start + e.off + 4 * i) 4)) w

/-- One microword (05 R129 to R132) of a frame of f bytes, of which bs are the first, up to 512. -/
def pStep (b : Mem) (f : Nat) (bs : List Byte) (x : PCtx) : PCtx :=
  let w := pwordAt b x.addr
  let dataEnd := f - 4
  let h := headerLen w bs x.start
  let hend := x.start + h
  -- a length field at or beyond byte 512 is not held
  let hKnown := decide (w.lenMode = 0) || decide (x.start + w.lenOff + 2 ≤ 512)
  let lbKnown := decide (x.start + w.lbOff + 2 ≤ 512)
  let reads := pReads w x.start
  let claim : Int := two bs (x.start + w.lbOff)
  let remaining : Int := if w.lchk = 1 then (dataEnd : Int) - x.start else (dataEnd : Int) - hend
  let row1 := reads.any (fun r => decide (dataEnd < r.1 + r.2)) || (w.advance && hKnown && decide (dataEnd < hend))
  let row2 := decide (w.lchk ≠ 0) && lbKnown && (decide (w.lchk = 1) || hKnown) && decide (remaining < claim)
  let row3 := reads.any (fun r => decide (512 < r.1 + r.2)) || (w.advance && decide (512 < hend))
  let y := { x with steps := x.steps + 1 }
  if row1 || row2 then { y with ended := some (2, 0) }
  else if row3 then { y with ended := some (1, 1) }
  else
    let words := extract w.ext0 bs x.start (extract w.ext1 bs x.start x.phv.w)
    let phv := if w.hdrId = 0 then { x.phv with w := words }
      else { x.phv with w := words, valid := x.phv.valid ||| (1#64 <<< w.hdrId), offs := tabPut x.phv.offs w.hdrId x.start }
    let hdrs := if w.advance then x.hdrs + 1 else x.hdrs
    let z := { y with
      phv := phv
      hdrs := hdrs
      start := if w.advance then hend else x.start
      flags := x.flags ||| w.flagSet
      inner := x.inner || w.inner
      innerOff := if w.inner then hend else x.innerOff
      slack := x.slack || (decide (w.lchk ≠ 0) && decide (claim < remaining) && decide (64 < f)) }
    if w.advance ∧ hdrs = 16 ∧ w.done = false then { z with ended := some (1, 2) }
    else if y.steps = 32 ∧ w.done = false then { z with ended := some (1, 3) }
    else if w.done then { z with ended := some (0, 0) }
    else { z with addr := nextAddr b w bs x (decide (hend = dataEnd)) }

/-- Microwords until the parse ends. -/
def pRun (b : Mem) (f : Nat) (bs : List Byte) (n : Nat) (x : PCtx) : PCtx :=
  match n with
  | 0 => x
  | k + 1 => if x.ended.isSome then x else pRun b f bs k (pStep b f bs x)

/-- The parse result word (05 Table 5.7). -/
def parseResult (x : PCtx) (entry : Nat) : Nat :=
  let e := x.ended.getD (1, 3)
  e.1 * 2 ^ 62 + e.2 * 2 ^ 60 + b2n x.slack * 2 ^ 59 + b2n x.inner * 2 ^ 58 + (x.flags % 16) * 2 ^ 54 + (x.hdrs % 32) * 2 ^ 49
    + (x.steps % 64) * 2 ^ 43 + (x.start % 1024) * 2 ^ 33 + ((if x.inner then x.innerOff else 0) % 1024) * 2 ^ 23
    + (x.addr % 1024) * 2 ^ 13 + (entry % 16) * 2 ^ 9

/-- The parse of a frame of f bytes by an entry of a bank. -/
def parse (b : Mem) (entry f : Nat) (bs : List Byte) : Phv :=
  let x := pRun b f (bs.take 512) 32 { addr := (entryAddr b entry).getD 0 }
  { x.phv with pres := BitVec.ofNat 64 (parseResult x entry) }

/-- EXC of a parse result. -/
def presExc (p : Phv) : Nat := bits p.pres.toNat 63 62

/-- CAUSE of a parse result. -/
def presCause (p : Phv) : Nat := bits p.pres.toNat 61 60

/-- SLACK of a parse result. -/
def presSlack (p : Phv) : Bool := p.pres.toNat.testBit 59

/-- The group's counts of 05 R135. -/
def parseCounts (g : Nat) (p : Phv) (s : State) : State :=
  let s1 :=
    if presExc p = 1 then ev (0x0300 + presCause p) g s
    else if presExc p = 2 then ev 0x0304 g s
    else s
  if presSlack p then ev 0x0305 g s1 else s1

/-! ## Loader checks (05 Table 5.9) -/

/-- PX_RESERVED on a microword. -/
def pxReserved (w : PWord) : Bool :=
  decide (w.rsv ≠ 0) || decide (2 ≤ w.lenMode) || decide (w.lchk = 3) || decide (6 ≤ w.len1) || decide (6 ≤ w.len0)

/-- Containers of an extraction. -/
def extWords (e : Extract) : Nat := if e.len ≤ 4 then min 1 e.len else e.len / 4

/-- An extraction's destination alone is wrong. -/
def extBad (e : Extract) : Bool :=
  decide (0 < e.len) && (decide (64 < e.dst + extWords e) || decide (e.dst % extWords e ≠ 0))

/-- PX_EXT_DST on a microword. -/
def pxExtDst (w : PWord) : Bool :=
  extBad w.ext1 || extBad w.ext0 ||
    (decide (0 < w.ext1.len ∧ 0 < w.ext0.len) && decide (w.ext1.dst < w.ext0.dst + extWords w.ext0) && decide (w.ext0.dst < w.ext1.dst + extWords w.ext1))

/-- Addresses that NEXT can produce; a microword with DONE reaches none. -/
def pSucc (w : PWord) : List Nat :=
  if w.done then []
  else ((List.range 4).foldl (fun acc i => if w.condEn.testBit i then acc ++ acc.map (fun a => a ||| 2 ^ i) else acc) [w.next]).eraseDups

/-- The reachable addresses below PROG_LEN, by rounds. -/
def pReach (b : Mem) (n fuel : Nat) (seen front : List Nat) : List Nat :=
  match fuel with
  | 0 => seen
  | k + 1 =>
    let new := ((front.flatMap (fun a => pSucc (pwordAt b a))).filter (fun a => decide (a < n) && !seen.contains a)).eraseDups
    if new.isEmpty then seen else pReach b n k (seen ++ new) new

/-- What is left of a set after addresses without a successor in it have gone, by rounds: empty when the set has no cycle. -/
def pTrim (succ : Nat → List Nat) (fuel : Nat) (l : List Nat) : List Nat :=
  match fuel with
  | 0 => l
  | k + 1 =>
    let r := l.filter (fun a => (succ a).any (fun t => l.contains t))
    if r.length = l.length then l else pTrim succ k r

/-- What is left after addresses without a predecessor in the set have gone, by rounds. -/
def pTrimBack (succ : Nat → List Nat) (fuel : Nat) (l : List Nat) : List Nat :=
  match fuel with
  | 0 => l
  | k + 1 =>
    let r := l.filter (fun a => l.any (fun t => (succ t).contains a))
    if r.length = l.length then l else pTrimBack succ k r

/-- The entry check of a bank against the ports' entry indices. -/
def pxEntry (b : Mem) (entries : List Nat) : Bool := entries.any (fun e => (entryAddr b e).isNone)

/-- The first failure of the parser section: code and address, 0x3FF when no microword is at fault. Failures are taken in ascending address, then ascending code, those without a microword last. -/
def pxCheck (b : Mem) (entries : List Nat) : Option (Nat × Nat) :=
  let n := progLen b
  if n = 0 ∨ 1024 < n ∨ 256 < constLen b then some (0x14, 0x3FF)
  else
    let starts := (List.range 16).filterMap (entryAddr b)
    let low := (starts.filter (fun a => decide (a < n))).eraseDups
    let reach := pReach b n n low low
    let succ := fun (a : Nat) => pSucc (pwordAt b a)
    let plain := reach.filter (fun a => !(pwordAt b a).advance)
    let cyc := pTrimBack succ n (pTrim succ n plain)
    let loopAt := cyc.min?
    let bad := fun (a : Nat) =>
      let w := pwordAt b a
      if pxReserved w then some (0x10, a)
      else if pxExtDst w then some (0x11, a)
      else if loopAt = some a then some (0x12, a)
      else if reach.contains a && (pSucc w).any (fun t => decide (n ≤ t)) then some (0x13, a)
      else none
    match (List.range n).findSome? bad with
    | some r => some r
    | none =>
      let rsvBad := (List.range 16).any (fun e => decide (bits (ctlFld b (2 * e) 2) 14 10 ≠ 0)) || !allZero (memReadN b 36 28)
      if rsvBad then some (0x10, 0x3FF)
      else if starts.any (fun a => decide (n ≤ a)) then some (0x13, 0x3FF)
      else if pxEntry b entries then some (0x15, 0x3FF)
      else none

/-- The entry index that a port has from the next boundary on: that of a PARSER_PORT_SET that waits for it, else the one in force (05 R138, R139). -/
def entryNext (s : State) (p : Nat) (x : Port) : Nat :=
  match s.deferred.reverse.find? (fun d => d.code == 0x0220 && (pathOf d.req).index == p) with
  | some d => fld d.req 16 1
  | none => x.entry

/-- Entry indices of the configured ports, as they stand at the next boundary. -/
def portEntries (s : State) : List Nat := s.ports.map (fun e => entryNext s e.1 e.2)

end Sys2Proof.Machine
end

