-- ==== Sys2Proof/Machine/StageOps.lean ====
section
/-! DEFINITION. Match-action stages (07): meters, the words of the packet header vector, key and action microwords, ladder chains, the opcodes, and one run of a pipeline. -/

namespace Sys2Proof.Machine

/-! ## Meters (07 R200 to R204) -/

/-- First exception meter. -/
abbrev excBase : Nat := 262080

/-- A meter. -/
def meter (c : Cluster) (i : Nat) : Meter := tabGetD c.meters i { last := at0 c.swept (i / 4096) }

/-- The refill of R201. -/
def meterRefill (count : Nat) (m : Meter) : Meter :=
  let e := (count + 256 - m.last % 256) % 256
  { m with tc := min (m.cbs * 65536) (m.tc + e * m.cir), tp := min (m.pbs * 65536) (m.tp + e * m.pir), last := count % 256 }

/-- The marking of Table 7.8 on a refilled meter: colour and the meter after it. -/
def meterMark (b colour : Nat) (m : Meter) : Nat × Meter :=
  let c := if m.aware then (if colour = 3 then 2 else colour) else 0
  let okC := decide (b ≤ m.tc / 65536)
  let okP := decide (b ≤ m.tp / 65536)
  let dc := fun (x : Meter) => { x with tc := x.tc - b * 65536 }
  let dp := fun (x : Meter) => { x with tp := x.tp - b * 65536 }
  if m.rfc4115 then
    if c = 0 ∧ okC = true then (0, dc m)
    else if c ≤ 1 ∧ okP = true then (1, dp m)
    else (2, m)
  else if c = 2 ∨ okP = false then (2, m)
  else if c = 1 ∨ okC = false then (1, dp m)
  else (0, dc (dp m))

/-- A packet update (07 R202): the colour and whether a red frame is to be dropped. -/
def meterUpdate (n i f colour : Nat) (s : State) : (Nat × Bool) × State :=
  let m := meter (cluster s n) i
  if m.enable = false then ((colour, false), s)
  else
    let b := ((f : Int) + m.lenAdj).toNat
    let r := meterMark b colour (meterRefill (now s) m)
    ((r.1, decide (r.1 = 2) && m.dropRed), modCluster n (fun c => { c with meters := tabPut c.meters i r.2 }) s)

/-- The refresh sweep of one trick in the clusters at Run (07 R201; 16 R474). -/
def meterSweep (s : State) : State :=
  let j := now s % 64
  forAll ((List.range (clusterCount s)).filter (fun n => decide (heldRung s (104 + n) = 0))) (fun n acc => modCluster n (fun c => { c with
    swept := c.swept.set j (now s % 256)
    meters := tabMap c.meters (fun i m => if i / 4096 = j then meterRefill (now s) m else m) }) acc) s

/-- The record of Table 7.7 as 32 bytes. -/
def meterBytes (m : Meter) : List Byte :=
  leBytes 5 m.cir ++ leBytes 5 m.pir ++ leBytes 3 m.cbs ++ leBytes 3 m.pbs ++ leBytes 5 m.tc ++ leBytes 5 m.tp ++ [byte m.last]
    ++ [byte (b2n m.rfc4115 + 2 * b2n m.aware + 4 * b2n m.enable + 8 * b2n m.dropRed), byte (uInt 8 m.lenAdj), 0, 0, 0]

/-- A record from 32 bytes. -/
def meterOf (b : List Byte) : Meter where
  cir := fld b 0 5
  pir := fld b 5 5
  cbs := fld b 10 3
  pbs := fld b 13 3
  tc := fld b 16 5
  tp := fld b 21 5
  last := fld b 26 1
  rfc4115 := (fld b 27 1).testBit 0
  aware := (fld b 27 1).testBit 1
  enable := (fld b 27 1).testBit 2
  dropRed := (fld b 27 1).testBit 3
  lenAdj := sInt 8 (fld b 28 1)

/-- A meter filled to its bursts at this trick (07 R214). -/
def meterFill (count : Nat) (m : Meter) : Meter := { m with tc := m.cbs * 65536, tp := m.pbs * 65536, last := count % 256 }

/-- An exception meter of a rate and burst (07 R209). -/
def excMeter (count rate burst : Nat) : Meter :=
  meterFill count { cir := rate, pir := rate, cbs := burst, pbs := burst, enable := true }

/-- Settings of a class in a cluster; classes 0x0C and 0x0D go to firmware by default (07 Table 7.9). -/
def excCfg (c : Cluster) (k : Nat) : ExcCfg := tabGetD c.exc k { toFw := decide (k = 0x0C ∨ k = 0x0D) }

/-- What the policing of an exception copy decides (07 R209). -/
inductive ExcTo where
  | host (ring : Nat)
  | firmware
  | red
  | disabled
  /-- Firmware is the target and does not run (18 R535). -/
  | absent
  deriving DecidableEq, Repr

/-- An exception copy of class k and a frame of f bytes is policed. -/
def excPolice (n k f : Nat) (s : State) : ExcTo × State :=
  let x := excCfg (cluster s n) k
  if x.enable = false then (.disabled, s)
  else
    let r := meterUpdate n (excBase + k) f 0 s
    if r.1.1 = 2 then (.red, r.2) else (if x.toFw then (if s.boot.fwRunning then .firmware else .absent) else .host x.ring, r.2)

/-! ## Words of the packet header vector (07 Tables 7.2, 7.3) -/

/-- Read a word. -/
def wordGet (p : Phv) (i : Nat) : Nat :=
  if i < 80 then tabGetD p.w i 0
  else match i with
    | 80 => p.pres.toNat / 2 ^ 32
    | 81 => p.pres.toNat % 2 ^ 32
    | 82 => (p.outPort % 512) * 65536 + p.inPort % 512
    | 83 => p.len % 16384
    | 84 => p.trick % 2 ^ 32
    | 85 => p.disp.toNat
    | 86 => p.profile % 64
    | 87 => b2n p.ladder.active * 2 ^ 31 + (p.ladder.table % 64) * 2 ^ 24 + (p.ladder.hi % 32) * 2 ^ 16 + (p.ladder.lo % 32) * 2 ^ 8
    | 88 => p.best % 2 ^ 32
    | _ => 0

/-- Bits of DISP that ops may write: not MDROP, EXC, DEST_VALID or the reserved bit (07 R196). -/
abbrev dispMask : Nat := 0xC07CFFFF

/-- Write the bits of a mask in a word; an op that writes any bit of DEST sets DEST_VALID. -/
def wordPut (p : Phv) (i mask v : Nat) : Phv :=
  let mix := fun (old m : Nat) => (old &&& (0xFFFFFFFF ^^^ m)) ||| (v &&& m)
  if i < 80 then { p with w := tabPut p.w i (mix (tabGetD p.w i 0) (mask % 2 ^ 32)) }
  else if i = 85 then
    let d := mix p.disp.toNat (mask &&& dispMask)
    { p with disp := BitVec.ofNat 32 (if mask % 65536 ≠ 0 then d ||| 2 ^ 17 else d) }
  else if i = 86 then { p with profile := mix p.profile mask % 64 }
  else p

/-- Set EXC of DISP. -/
def setExc (k : Nat) (p : Phv) : Phv :=
  { p with disp := BitVec.ofNat 32 (p.disp.toNat - bits p.disp.toNat 28 23 * 2 ^ 23 + (k % 64) * 2 ^ 23) }

/-- Fields of DISP. -/
def dispDrop (p : Phv) : Bool := p.disp.toNat.testBit 31
def dispRedirect (p : Phv) : Bool := p.disp.toNat.testBit 30
def dispMdrop (p : Phv) : Bool := p.disp.toNat.testBit 29
def dispExc (p : Phv) : Nat := bits p.disp.toNat 28 23
def dispColour (p : Phv) : Nat := bits p.disp.toNat 22 21
def dispTc (p : Phv) : Nat := bits p.disp.toNat 20 18
def dispDestValid (p : Phv) : Bool := p.disp.toNat.testBit 17
def dispDest (p : Phv) : Nat := p.disp.toNat % 65536

/-- OR bits into DISP. -/
def orDisp (m : Nat) (p : Phv) : Phv := { p with disp := BitVec.ofNat 32 (p.disp.toNat ||| m) }

/-! ## Microwords (07 Tables 7.4, 7.5) -/

/-- A key microword. -/
structure KWord where
  valid : Bool
  kind : Nat
  table : Nat
  predHdr : Nat
  predNeg : Bool
  /-- Source words and widths, up to the first SRC of 127. -/
  segs : List (Nat × Nat)
  hitBase : Nat
  missAddr : Nat
  rsv : Nat
  deriving DecidableEq, Repr

/-- The seven segments of a key microword, all of them. -/
def rawSegs (v : Nat) : List (Nat × Nat) :=
  (List.range 7).map (fun i => let x := bits v (111 - 12 * i) (100 - 12 * i); (x / 32, x % 32 + 1))

/-- The fields of a key microword. -/
def kword (v : Nat) : KWord where
  valid := v.testBit 127
  kind := bits v 126 125
  table := bits v 124 119
  predHdr := bits v 118 113
  predNeg := v.testBit 112
  segs := (rawSegs v).takeWhile (fun x => x.1 != 127)
  hitBase := bits v 27 18
  missAddr := bits v 17 8
  rsv := bits v 7 0

/-- An op of an action microword. -/
structure Op where
  opc : Nat
  a : Nat
  b : Nat
  c : Nat
  d : Nat
  deriving DecidableEq, Repr

/-- The fields of an op. -/
def opOf (v : Nat) : Op := ⟨bits v 29 26, bits v 25 19, bits v 18 10, bits v 9 5, bits v 4 0⟩

/-- Ops OP0 to OP3 of an action microword. -/
def opsOf (v : Nat) : List Op := [opOf (v % 2 ^ 30), opOf (bits v 59 30), opOf (bits v 89 60), opOf (bits v 119 90)]

/-- Offset of a stage section: ingress stages 1 to 16 are sections 0 to 15, egress stages 1 to 8 sections 16 to 23 (07 R211). -/
def sectionOff (b : Mem) (k : Nat) : Nat := parserLen b + 17408 * k

/-- Key microword of a section and profile. -/
def keyAt (b : Mem) (k profile : Nat) : KWord := kword (ctlFld b (sectionOff b k + 16 * profile) 16)

/-- Action microword of a section and address, as a number. -/
def actionAt (b : Mem) (k a : Nat) : Nat := ctlFld b (sectionOff b k + 1024 + 16 * a) 16

/-! ## A pipeline run -/

/-- What a key part leaves for the action part of its stage. -/
structure SRes where
  kw : KWord
  issued : Bool := false
  misfit : Bool := false
  gen : Nat := 0
  table : Nat := 0
  desc : TableDesc := {}
  key : Nat := 0
  mid : Nat := 0
  hit : Option Found := none
  room : Bool := false
  deriving DecidableEq, Repr

/-- One packet in one pipeline. -/
structure Pipe where
  phv : Phv
  eg : Bool
  /-- Port group and cluster of the pipeline. -/
  g : Nat
  n : Nat
  /-- Frame length F. -/
  f : Nat
  body : Mem
  pend : Tab SRes := []
  /-- Meter colours due: position, colour, MDROP. -/
  colours : List (Nat × Nat × Bool) := []
  prior : List Edit := []
  edits : List Edit := []
  /-- A limit of R199 is broken. -/
  broken : Bool := false
  gen : Nat := 0
  ents : Tab StageEnt := []
  banks : BankIn := {}
  deriving DecidableEq, Repr

/-- Section of stage k of the pipeline. -/
def pipeSection (p : Pipe) (k : Nat) : Nat := if p.eg then 15 + k else k - 1

/-- A class is raised (07 R208): the first stands, a later one is counted, REDIRECT is ORed in. -/
def raiseExc (k : Nat) (redirect : Bool) (p : Pipe) (s : State) : Pipe × State :=
  let q := if redirect then orDisp (2 ^ 30) p.phv else p.phv
  if dispExc p.phv = 0 then ({ p with phv := setExc k q }, s)
  else ({ p with phv := q }, evAdd 0x0403 p.n k 1 s)

/-- Key bits and value of a key microword's segments. -/
def keyOf (p : Phv) (segs : List (Nat × Nat)) : Nat × Nat :=
  segs.foldl (fun acc x => (acc.1 + x.2, acc.2 * 2 ^ x.2 + wordGet p x.1 % 2 ^ x.2)) (0, 0)

/-- The key of a ladder probe (06 R157; 07 R190). -/
def ladderKey (d : TableDesc) (mid width v : Nat) : Nat :=
  let q := width - d.addrBits
  let addr := v / 2 ^ q
  let keep := d.rl.getD (mid - 1) 0
  let cut := addr / 2 ^ (d.addrBits - keep) * 2 ^ (d.addrBits - keep)
  (mid * 2 ^ d.addrBits + cut) * 2 ^ q + v % 2 ^ q

/-- A misfit (07 R189). -/
def misfit (k : Nat) (r : SRes) (p : Pipe) (s : State) : Pipe × State :=
  ({ p with pend := tabPut p.pend k { r with misfit := true } }, ev 0x0306 p.g s)

/-- A key goes to the cluster. -/
def issueKey (k : Nat) (r : SRes) (p : Pipe) (s : State) : Pipe × State :=
  let c := cluster s p.n
  let h := candidates r.desc r.key
  let room := (freeIn c r.desc h.1).isSome || (freeIn c r.desc h.2).isSome
  let l := lookup p.n r.table r.key (p.banks.full.contains k) s
  let e : StageEnt := { keyed := true, hit := l.1.isSome, kind := r.kw.kind, table := r.table,
                        slot := (l.1.map (fun f => unitSlot r.desc f.i)).getD 0, bucket := (l.1.map (fun f => f.b)).getD h.1 }
  ({ p with pend := tabPut p.pend k { r with issued := true, hit := l.1, room := room }, ents := tabPut p.ents k e }, l.2)

/-- The key part of stage k (07 R187 to R190). -/
def keyPart (k : Nat) (p : Pipe) (s : State) : Pipe × State :=
  let kw := keyAt p.body (pipeSection p k) p.phv.profile
  let pred := decide (kw.predHdr = 0) || (p.phv.valid.toNat.testBit kw.predHdr != kw.predNeg)
  if kw.valid = false ∨ pred = false then (p, s)
  else
    let r : SRes := { kw := kw }
    let key := keyOf p.phv kw.segs
    let put := fun (q : Pipe) (x : SRes) => { q with pend := tabPut q.pend k x }
    match kw.kind with
    | 0 => (put p r, s)
    | 1 =>
      match tdesc s kw.table with
      | some d =>
        if d.ladder = true ∨ d.keyBits ≠ key.1 then misfit k r p s
        else issueKey k { r with table := kw.table, desc := d, key := key.2 } p s
      | none => misfit k r p s
    | 2 =>
      let p1 := { p with gen := p.gen + 1 }
      match tdesc s kw.table with
      | some d =>
        if d.ladder = false ∨ d.keyBits ≠ key.1 + 8 then misfit k r { p1 with phv := { p1.phv with ladder := { p1.phv.ladder with active := false } } } s
        else
          let n := d.rl.length
          let p2 := { p1 with phv := { p1.phv with ladder := { active := true, table := kw.table, hi := n, lo := 0 }, best := d.dflt.toNat } }
          let mid := (n + 1) / 2
          let x := { r with gen := p2.gen, table := kw.table, desc := d, mid := mid, key := ladderKey d mid key.1 key.2 }
          if n = 0 then (put p2 x, s) else issueKey k x p2 s
      | none => misfit k r { p1 with phv := { p1.phv with ladder := { p1.phv.ladder with active := false } } } s
    | _ =>
      let l := p.phv.ladder
      if l.active = false ∨ l.hi ≤ l.lo then (put p { r with gen := p.gen }, s)
      else
        let gone := { p with gen := p.gen + 1, phv := { p.phv with ladder := { l with active := false } } }
        match tdesc s l.table with
        | some d =>
          if d.ladder = false ∨ d.keyBits ≠ key.1 + 8 then misfit k r gone s
          else
            let mid := (l.lo + l.hi + 1) / 2
            issueKey k { r with gen := p.gen, table := l.table, desc := d, mid := mid, key := ladderKey d mid key.1 key.2 } p s
        | none => misfit k r gone s

/-! ## Ops (07 Table 7.6) -/

/-- Bits written by field D, C: the width, cut at bit 31. -/
def opWidth (o : Op) : Nat := min (o.c + 1) (32 - o.d)

/-- Bytes from container a as an extraction places them (07 R194). -/
def containerBytes (p : Phv) (a n : Nat) : List Byte :=
  if n < 4 then beBytes n (wordGet p a % 2 ^ (8 * n))
  else (List.range (n / 4)).flatMap (fun i => beBytes 4 (wordGet p (a + i)))

/-- Bytes pushed and popped by edits. -/
def pushedBytes (l : List Edit) : Nat :=
  (l.map (fun e => match e with
    | .push _ b => b.length
    | .replace _ _ => 0
    | .pop _ _ => 0
    | .csum _ => 0)).sum
def poppedBytes (l : List Edit) : Nat :=
  (l.map (fun e => match e with
    | .pop a b => b - a
    | .replace _ _ => 0
    | .push _ _ => 0
    | .csum _ => 0)).sum

/-- End of the bytes of the received frame that an edit touches. -/
def editEnd (e : Edit) : Nat :=
  match e with
  | .replace a b => a + b.length
  | .push a _ => a
  | .pop _ b => b
  | .csum a => a + 20

/-- Record an edit, against the limits of R199. -/
def record (e : Edit) (p : Pipe) (s : State) : Pipe × State :=
  if p.broken then (p, s)
  else
    let l := p.edits ++ [e]
    let all := p.prior ++ l
    if 4 < l.length ∨ 96 < pushedBytes all ∨ 192 < poppedBytes all ∨ 256 < editEnd e then
      let q := { p with broken := true, edits := [] }
      if p.eg then (q, s) else raiseExc 3 true q s
    else ({ p with edits := l }, s)

/-- An edit is skipped. -/
def editSkip (p : Pipe) (s : State) : Pipe × State := (p, ev 0x030A p.g s)

/-- REPLACE, PUSH, POP and CSUM4. -/
def wideOp (o : Op) (p : Pipe) (s : State) : Pipe × State :=
  let h := o.b % 64
  let at_ := tabGetD p.phv.offs h 0
  if p.phv.valid.toNat.testBit h = false then editSkip p s
  else if o.opc = 9 then
    let n := extBytes o.c
    if n = 0 then (p, s) else record (.replace (at_ + o.d) (containerBytes p.phv o.a n)) p s
  else if o.opc = 10 then record (.push at_ ((List.range (o.c + 1)).flatMap (fun i => beBytes 4 (wordGet p.phv (o.a + i))))) p s
  else if o.opc = 11 then
    let a := o.a % 64
    if a ≠ 0 ∧ p.phv.valid.toNat.testBit a = false then editSkip p s
    else
      let stop := if a = 0 then bits p.phv.pres.toNat 32 23 else tabGetD p.phv.offs a 0
      if stop ≤ at_ then editSkip p s else record (.pop at_ stop) p s
  else record (.csum at_) p s

/-- LEARN (07 R197). -/
def learnOp (o : Op) (r : SRes) (p : Pipe) (s : State) : Pipe × State :=
  if r.kw.kind ≠ 1 ∨ r.issued = false ∨ r.desc.learn = false then (p, ev 0x0309 p.g s)
  else
    let data := (List.range (o.c + 1)).foldl (fun acc i => acc * 2 ^ 32 + wordGet p.phv (o.b % 128 + i)) 0 % 2 ^ dataBits r.desc
    let c := cluster s p.n
    if r.hit.isSome ∨ r.room = true then
      let q : LearnReq := ⟨r.table, r.key, data⟩
      if c.learnQ.any (fun x => x.table == q.table && x.key == q.key) then (p, s)
      else if 64 ≤ c.learnQ.length then (p, evAdd 0x0416 p.n r.table 1 s)
      else (p, modCluster p.n (fun x => { x with learnQ := x.learnQ ++ [q] }) s)
    else
      let s1 := evAdd 0x0414 p.n r.table 1 (evAdd 0x0415 p.n r.table 1 s)
      let e := entMake r.desc r.key data (ctlMake false true r.table (ageStamp s r.desc))
      let s2 := if notifRoom c then notify p.n 5 r.table 0xFF (candidates r.desc r.key).1 (entImage e) s1 else s1
      ({ p with phv := wordPut p.phv 85 0xFFFF (wordGet p.phv o.a % 65536) }, s2)

/-- One op in position pos, with parameters prm. -/
def runOp (o : Op) (r : SRes) (prm pos : Nat) (p : Pipe) (s : State) : Pipe × State :=
  let w := opWidth o
  let put := fun (v : Nat) => ({ p with phv := wordPut p.phv o.a ((2 ^ w - 1) * 2 ^ o.d) ((v % 2 ^ w) * 2 ^ o.d) }, s)
  let index := fun (n : Nat) => if o.a % 2 = 1 then wordGet p.phv (o.b % 128) % 2 ^ n else (prm >>> o.b) % 2 ^ n
  match o.opc with
  | 0 => (p, s)
  | 1 => put ((prm >>> o.b) % 2 ^ (o.c + 1))
  | 2 => put o.b
  | 3 => ({ p with phv := wordPut p.phv o.a 0xFFFFFFFF (wordGet p.phv (o.b % 128)) }, s)
  | 4 => put (uInt w ((wordGet p.phv o.a >>> o.d : Nat) + sInt 9 o.b))
  | 5 =>
    let i := index 18
    if excBase ≤ i then (p, ev 0x030B p.g s)
    else
      let u := meterUpdate p.n i p.f (dispColour p.phv) s
      ({ p with colours := p.colours ++ [(pos + 3, u.1.1, u.1.2)] }, u.2)
  | 6 =>
    let i := index 20
    (p, modCluster p.n (fun c => { c with counters := tabMod c.counters i (0, 0) (fun v => (v.1 + 1, v.2 + BitVec.ofNat 64 p.f)) }) s)
  | 7 => learnOp o r p s
  | 8 => raiseExc (o.a % 64) (o.c % 2 = 1) p s
  | _ => wideOp o p s

/-- An action microword executes. -/
def runAction (k addr prm pos : Nat) (narrow : Bool) (r : SRes) (p : Pipe) (s : State) : Pipe × State :=
  let v := actionAt p.body (pipeSection p k) addr
  let clash := narrow && v.testBit 127
  let s1 := if clash then ev 0x0308 p.g s else s
  let e := tabGetD p.ents k { kind := r.kw.kind, table := r.table }
  let p1 := { p with ents := tabPut p.ents k { e with acted := true, addr := addr } }
  (opsOf v).foldl (fun acc o => if clash ∧ 9 ≤ o.opc then acc else runOp o r prm pos acc.1 acc.2) (p1, s1)

/-- The action part of stage k (07 R190 to R192, R195). -/
def actionPart (k pos : Nat) (p : Pipe) (s : State) : Pipe × State :=
  match tabGet p.pend k with
  | none => (p, s)
  | some r =>
    let p0 := { p with pend := tabErase p.pend k }
    if 2 ≤ r.kw.kind ∧ r.misfit = false then
      let l := p.phv.ladder
      if r.gen ≠ p.gen ∨ l.active = false then (p0, s)
      else
        let l1 := match r.hit with
          | some _ => { l with lo := r.mid }
          | none => { l with hi := r.mid - 1 }
        let best := match r.hit with
          | some f => entData r.desc f.e % 2 ^ 32
          | none => p.phv.best
        let l2 := if r.issued then l1 else l
        let b2 := if r.issued then best else p.phv.best
        let p1 := { p0 with phv := { p0.phv with ladder := l2, best := b2 } }
        if l2.lo ≠ l2.hi then (p1, s)
        else
          let p2 := { p1 with phv := { p1.phv with ladder := { l2 with active := false } } }
          runAction k ((r.kw.hitBase + b2 / 2 ^ 24) % 1024) (b2 % 2 ^ 24) pos false r p2 s
    else
      match r.hit with
      | some f =>
        let d := entData r.desc f.e
        runAction k ((r.kw.hitBase + d % 256) % 1024) (d / 256) pos (!r.desc.wide) r p0 s
      | none => runAction k r.kw.missAddr 0 pos false r p0 s

/-- One position (07 R185): colours, the action part three stages back, the key part. -/
def position (stages pos : Nat) (p : Pipe) (s : State) : Pipe × State :=
  let due := p.colours.filter (fun x => x.1 == pos)
  let phv := due.foldl (fun v x =>
    let a := { v with disp := BitVec.ofNat 32 (v.disp.toNat - dispColour v * 2 ^ 21 + (x.2.1 % 4) * 2 ^ 21) }
    if x.2.2 then orDisp (2 ^ 29) a else a) p.phv
  let a := actionPart (pos - 3) pos { p with phv := phv } s
  if pos ≤ stages then keyPart pos a.1 a.2 else a

/-- A pipeline's positions in order, and LADDER_SHORT for a search still open at the end. -/
def runPipe (positions stages : Nat) (p : Pipe) (s : State) : Pipe × State :=
  let r := (List.range positions).foldl (fun acc i => position stages (i + 1) acc.1 acc.2) (p, s)
  if r.1.phv.ladder.active then ({ r.1 with phv := { r.1.phv with ladder := { r.1.phv.ladder with active := false } } }, ev 0x0307 p.g r.2) else r

/-- Stage entries 1 to n of a run, with the stall cycles of each. -/
def stageList (n : Nat) (p : Pipe) : List StageEnt :=
  (List.range n).map (fun i => let e := tabGetD p.ents (i + 1) {}; if e.keyed then { e with stall := at0 p.banks.stalls i } else e)

end Sys2Proof.Machine
end

