-- ==== Sys2Proof/Machine/Meters.lean ====
section
/-! DEFINITION. Meter and exception commands (07 R213 to R215). -/

namespace Sys2Proof.Machine

/-- METER_SET (07 R214). -/
def meterSet (m : Nat) (c : Cmd) (p : List Byte) (s : State) : Ans :=
  let r := slice p 24 32
  let x := meterOf r
  checks [(decide (fld p 16 4 < excBase), 16), rsv p 20 4,
    (decide (x.rfc4115 = true ∨ x.cir ≤ x.pir) && decide (fld r 27 1 < 16) && decide (fld r 29 3 = 0), 24)] s (fun _ => ansOk [] (schedule m c p s))

/-- METER_SET at its trick boundary: the record filled to its bursts. -/
def meterSetApply (p : List Byte) (s : State) : State :=
  let x := meterFill (now s) (meterOf (slice p 24 32))
  forAll (opClusters s (pathOf p)) (fun n acc => modCluster n (fun c => { c with meters := tabPut c.meters (fld p 16 4) x }) acc) s

/-- METER_GET. -/
def meterGet (q : Path) (p : List Byte) (s : State) : Ans :=
  checks [(decide (fld p 16 4 < 262144), 16), rsv p 20 4] s (fun _ =>
    ansOk (meterBytes (meter (cluster s q.index) (fld p 16 4)) ++ leBytes 8 (now s)) s)

/-- EXC_SET (07 R215). -/
def excSet (m : Nat) (c : Cmd) (p : List Byte) (s : State) : Ans :=
  let k := fld p 16 1
  checks [(decide (1 ≤ k ∧ k ≤ 0x3F ∧ k ≠ 0x0E ∧ k ≠ 0x0F), 16), (decide (fld p 17 1 ≤ 1), 17), (decide (fld p 18 1 ≤ 63), 18),
    (decide (fld p 19 1 < 2), 19), (decide (fld p 20 8 < 2 ^ 40), 20), (decide (64 ≤ fld p 28 4 ∧ fld p 28 4 ≤ 16777215), 28)] s (fun _ =>
    ansOk [] (schedule m c p s))

/-- EXC_SET at its trick boundary. -/
def excSetApply (p : List Byte) (s : State) : State :=
  let k := fld p 16 1
  let x := excMeter (now s) (fld p 20 8) (fld p 28 4)
  let g : ExcCfg := { toFw := decide (fld p 17 1 = 1), ring := fld p 18 1, enable := (fld p 19 1).testBit 0, rate := fld p 20 8, burst := fld p 28 4 }
  forAll (opClusters s (pathOf p)) (fun n acc =>
    modCluster n (fun c => { c with meters := tabPut c.meters (excBase + k) x, exc := tabPut c.exc k g }) acc) s

/-- The exception meters of a cluster as firmware writes them: with the values last set by EXC_SET, or those of reset (07 R209). -/
def excMetersInit (n : Nat) (s : State) : State :=
  forAll (List.range 64) (fun k acc => modCluster n (fun c =>
    let g := excCfg c k
    { c with meters := tabPut c.meters (excBase + k) (excMeter (now acc) g.rate g.burst), excDue := false }) acc) s

/-- METER_SET. -/
def execMeterSet (m : Nat) (s : State) : Host.Outcome State Fault Refusal :=
  .next (runCmd 0x0305 m (fun c t => onPath m c.code 56 [1, 7] c t (fun _ p => meterSet m c p t)) s)

/-- METER_GET. -/
def execMeterGet (m : Nat) (s : State) : Host.Outcome State Fault Refusal :=
  .next (runCmd 0x0306 m (fun c t => onPath m c.code 24 [7] c t (fun q p => meterGet q p t)) s)

/-- EXC_SET. -/
def execExcSet (m : Nat) (s : State) : Host.Outcome State Fault Refusal :=
  .next (runCmd 0x0307 m (fun c t => onPath m c.code 32 [1, 7] c t (fun _ p => excSet m c p t)) s)

end Sys2Proof.Machine
end

