-- ==== Sys2Proof/Machine/Boot.lean ====
section
/-! DEFINITION. Start-up (18), the host link (14 R422 to R426) and the warm restart (18 R534 to R537). -/

namespace Sys2Proof.Machine

/-! ## Conversion and clocks (18 Table 18.1) -/

/-- CONVERSION_START: VIN has stayed at or above 9.5 V for 1 ms (18 R519). The rails rise at age column 3. -/
def execConversionStart (vin : Nat) (s : State) : Host.Outcome State Fault Refusal :=
  .next (
    if vin < 9500 ∨ s.boot.phase ≠ .off ∨ s.boot.tripped = true then s
    else modPower (fun p => { p with vin := vin, ageCol := 3 }) (modBoot (fun b => { b with phase := .aon, cold := true }) s))

/-- TIME_PLL_LOCK: device time runs from 0, invalid (10 R285), and the trick generator is in FREE; without REFCLK_M the sequence waits (18 R520). -/
def execTimePllLock (s : State) : Host.Outcome State Fault Refusal :=
  .next (
    if s.boot.phase ≠ .aon ∨ s.refs.lost.contains 4 = true then s
    else modTime (fun t => { t with running := true }) (modBoot (fun b => { b with phase := .rails }) { s with trick := { s.trick with gen := .free } }))

/-- START_TEMPERATURE_REACHED: every sensor reads -5 degrees C or more, and the start goes on (19 R544). -/
def execStartTemperatureReached (tmin : Int) (s : State) : Host.Outcome State Fault Refusal :=
  .next (if s.boot.phase = .rails ∧ -80 ≤ tmin then modBoot (fun b => { b with tempWait := false }) s else s)

/-! ## Images and the boot ROM -/

/-- SEQ in the header of a slot, verified or not. -/
def headerSeq (s : State) (k : Nat) : Nat := memFld (slotOf s k).img 8 8

/-- The slot that the boot ROM runs, with SEQ_TIE and OTHER_SLOT_BAD (13 R412; 18 R523): the slot with the higher header SEQ first, and the other only when that one does not settle it. -/
def chooseSlot (s : State) : Option (Nat × Bool × Bool) :=
  let f := if headerSeq s 0 < headerSeq s 1 then 1 else 0
  let o := 1 - f
  let okF := decide (slotState s f = 1)
  if okF && decide (headerSeq s o < headerSeq s f) then some (f, false, false)
  else
    let okO := decide (slotState s o = 1)
    match okF, okO with
    | true, true => some (0, true, false)
    | true, false => some (f, false, true)
    | false, true => some (o, false, true)
    | false, false => none

/-- The firmware of slot k starts. -/
def startFw (k : Nat) (tie bad : Bool) (s : State) : State :=
  modBoot (fun b => { b with
    phase := .fwStart
    slot := k
    fwVersion := BitVec.ofNat 32 (memFld (slotOf s k).img 16 4)
    patches := 0
    patchAt := none
    seqTie := tie
    otherBad := bad }) s

/-- The board-table copy that firmware chooses: the higher SEQ, copy 0 on a tie (18 R526; 17 R511). -/
def chooseCopy (s : State) : Option Nat :=
  let m0 := tabGetD s.boot.copies 0 []
  let m1 := tabGetD s.boot.copies 1 []
  match decide (boardState m0 = 1), decide (boardState m1 = 1) with
  | true, true => some (if memFld m0 8 8 < memFld m1 8 8 then 1 else 0)
  | true, false => some 0
  | false, true => some 1
  | false, false => none

/-- Both copies are intact with one SEQ and differ: COPY_DIFF (17 R511). -/
def copiesDiffer (s : State) : Bool :=
  let m0 := tabGetD s.boot.copies 0 []
  let m1 := tabGetD s.boot.copies 1 []
  decide (boardState m0 = 1) && decide (boardState m1 = 1) && decide (memFld m0 8 8 = memFld m1 8 8) && decide (m0 ≠ m1)

/-- Load the board table (18 R526, R527). -/
def loadBoard (s : State) : State :=
  let s1 := if copiesDiffer s then fault 67 0 0 s else s
  match chooseCopy s with
  | some k =>
    let m := tabGetD s.boot.copies k []
    let n := boardCounts m
    modBoot (fun b => { b with
      chosen := some k
      table := m
      tableOk := true
      cBoard := memFld m 20 4
      vinWarn := memFld m 24 4
      setsBad := n.1
      recordsBad := n.2 }) s1
  | none => modBoot (fun b => { b with
      chosen := none
      table := []
      tableOk := false
      cBoard := 0
      vinWarn := 9500
      setsBad := 0
      recordsBad := 0 }) s1

/-- No slot verifies: the boot ROM enters recovery (18 R525). -/
def enterRecovery (s : State) : State :=
  loadBoard (modBoot (fun b => { b with
    phase := .recovery
    slot := 0
    fwVersion := 0
    patches := 0
    patchAt := none
    seqTie := false
    otherBad := false }) s)

/-- BOOT_ROM_START: every rail is in regulation, or a warm restart is under way and PERST_N is high (18 R519, R523, R536). -/
def execBootRomStart (s : State) : Host.Outcome State Fault Refusal :=
  .next (
    if (s.boot.phase ≠ .rails ∧ s.boot.phase ≠ .regulated) ∨ s.boot.tempWait = true ∨ (s.boot.cold = false ∧ s.boot.perst = true) then s
    else match chooseSlot s with
      | some (k, tie, bad) => startFw k tie bad s
      | none => enterRecovery s)

/-- FW_START_TIMEOUT: the slot counts as failing until the next cold start, and the other runs if it verifies (18 R524, R525). -/
def execFwStartTimeout (s : State) : Host.Outcome State Fault Refusal :=
  .next (
    if s.boot.phase ≠ .fwStart then s
    else
      let k := s.boot.slot
      let s1 := modSlot k (fun x => { x with failed := true }) s
      if slotState s1 (1 - k) = 1 then startFw (1 - k) false true s1 else enterRecovery s1)

/-- FW_RUNNING_SET. -/
def execFwRunningSet (s : State) : Host.Outcome State Fault Refusal :=
  .next (if s.boot.phase = .fwStart then modBoot (fun b => { b with phase := .fwRun, fwRunning := true }) s else s)

/-! ## READY -/

/-- The latest column record of the ageing log gives the boot column (16 R486). -/
def loggedColumn (s : State) : Option Nat :=
  match (s.power.log.filter (fun r => r.kind == 1 || r.kind == 5)).mergeSort (fun a b => decide (b.seq ≤ a.seq)) with
  | r :: _ => some r.new
  | [] => none

/-- Rails 0 to 2 move to the boot column. What the monitors read when the log holds none is open. -/
def bootColumn (s : State) : State :=
  match loggedColumn s with
  | some c => modPower (fun p => { p with ageCol := c, colNext := none }) s
  | none =>
    let r := drawFree 7 s
    let col := fld r.1 0 1 % 4
    ageRecord 5 3 col (fld r.1 1 2 % 64) (fld r.1 3 4) (modPower (fun p => { p with ageCol := col, colNext := none }) r.2)

/-- The self-test and repair of a cold start: failing rows take spares or are retired, and memories read zero (18 R528). -/
def selfTest (failing : List FailRow) (s : State) : State :=
  let s1 := failing.foldl (fun acc f => repairRow { f with bad := [] } acc) s
  let s2 := forAll (List.range (clusterCount s)) (fun n acc => modCluster n (fun c => { c with buckets := [], meters := [], swept := List.replicate 64 0, counters := [] }) acc) s1
  let s3 := forAll (List.range 8) (fun n acc => modSect n (fun x => sectRelist n [] { x with cache := [], backlog := [], waiting := [] }) acc) s2
  { s3 with devMem := [] }

/-- The microcode of the running image, staged and committed at a cold start (18 R519, Table 18.3; 05 R120). -/
def bootMicrocode (s : State) : State :=
  { s with uc := { s.uc with
    active := { version := Config.bootVersion s.boot.fwVersion, loaded := true, body := memWriteL [] 0 (Config.bootMicrocode s.boot.fwVersion) }
    standby := {}
    activeNo := 1 - s.uc.activeNo
    st := .empty
    rollback := false } }

/-- What firmware does before READY (18 R526 to R530): at a cold start all of it, after a warm restart only the board table and the log. -/
def firmwareStart (failing : List FailRow) (s : State) : State :=
  let s1 := loadBoard s
  if s.boot.cold then
    let s2 := selfTest failing (bootColumn s1)
    bootMicrocode (forAll (List.range (clusterCount s2)) excMetersInit s2)
  else s1

/-- READY_RISE. After a loss of REFCLK_M, READY stays low until a cold start (19 R546). -/
def execReadyRise (failing : List FailRow) (s : State) : Host.Outcome State Fault Refusal :=
  .next (
    if s.boot.phase ≠ .fwRun ∨ s.boot.refMLost = true then s
    else modBoot (fun b => { b with phase := .ready, ready := true, cold := false }) (firmwareStart failing s))

/-! ## The host link -/

/-- Every rail is in regulation. -/
def inRegulation (s : State) : Bool :=
  match s.boot.phase with
  | .off | .aon | .rails => false
  | _ => true

/-- HOST_LINK_TRAIN: the controller trains without firmware once the rails are in regulation and PERST_N is high; the first training after PERST_N fixes the mode (14 R423; 18 R521). The system sizes BAR2, 1 to 64 GiB (14 R426). -/
def execHostLinkTrain (i : LinkTrain) (s : State) : Host.Outcome State Fault Refusal :=
  .next (
    if powered s = false ∨ s.boot.tempWait = true ∨ s.boot.perst = true then s
    else
      let s1 := if s.boot.phase = .rails then modBoot (fun b => { b with phase := .regulated }) s else s
      { s1 with link := { s1.link with trained := true, cxl := if s.link.fixed then s.link.cxl else i.cxl, fixed := true, bar2 := 2 ^ min i.bar 6 } })

/-- HOST_POWER_STATE: the CXL controller's domain follows at the next boundary (16 R474, Table 16.3). -/
def execHostPowerState (d0 : Bool) (s : State) : Host.Outcome State Fault Refusal :=
  .next (if s.link.trained then { s with link := { s.link with d0 := d0 } } else s)

/-! ## Warm restart -/

/-- References that held ring entries keep on chains are given back when the rings go OFF. -/
def dropHolds (s : State) : State :=
  (s.rings.flatMap (fun e => e.2.hold.filterMap (fun h => h.2))).foldl (fun acc h => chainUnref h acc) s

/-- A table operation of a discarded command goes on without it. -/
def disownOp (o : EngineOp) : EngineOp :=
  match o with
  | .keyed why t op f sl b e =>
    match why with
    | .command _ => .keyed .repair t op f sl b e
    | .undo _ => .keyed .repair t op f sl b e
    | .reinsert => .keyed .repair t op f sl b e
    | w => .keyed w t op f sl b e
  | o => o

/-- What firmware and the mailboxes forget (18 R534 to R536; 13 R415, R418; 17 R514). The test unlock ends, and with it the perturbation registers return to their reset values at the next trick boundary (17 R515). -/
def resetSuilanil (s : State) : State :=
  { s with
    mboxes := []
    order := []
    ciph := {}
    stack := { s.stack with out := [], waiting := [], serving := [], answered := [] }
    flt := { s.flt with unlocked := false, challenge := none, tp := {} }
    uc := { s.uc with st := if s.uc.st = .staging then .empty else s.uc.st }
    time := { s.time with
      doms := tabMap s.time.doms (fun _ d => { d with listSeen := false, authSeen := false, ptp := {} })
      ptpWait := []
      fwTsq := []
      fwTsqGap := false }
    ports := tabMap s.ports (fun _ x => { x with pdelay := {} })
    clusters := tabMap s.clusters (fun _ c => { c with
      cmdQ := c.cmdQ.map disownOp
      cmdWait := c.cmdWait.filter (fun o => match o with
        | .bucket _ _ none => true
        | _ => false)
      reinsert := []
      learnHold := [] })
    lanes := tabMap s.lanes (fun _ x => { x with echo := x.echo.map (fun e => { e with mb := 32 }) }) }

/-- A warm restart begins (18 R534): the CXL controller, the Suilanil complex, the mailboxes, the DMA engine and the rings are reset; everything else keeps its state and keeps working. A store that has started runs to its end. -/
def warmRestart (s : State) : State :=
  let s1 := resetSuilanil (dropHolds s)
  { s1 with
    rings := []
    chans := []
    irq := {}
    link := { cxl := s.link.cxl, fixed := s.link.fixed }
    boot := { s1.boot with
      phase := .regulated
      ready := false
      fwRunning := false
      patches := 0
      patchAt := none
      flash := if s.boot.storing.isSome then s.boot.flash.map (fun j => { j with mb := 32 }) else none } }

/-- PERST_ASSERT: shorter than 100 µs it is ignored (19 R548); it takes the link down and frees its mode, and starts a warm restart while every rail is in regulation (18 R534; 14 R423). -/
def execPerstAssert (us : Nat) (s : State) : Host.Outcome State Fault Refusal :=
  .next (
    if us < 100 ∨ scanHolds s = true then s
    else
      let s1 := modBoot (fun b => { b with perst := true }) (if inRegulation s then warmRestart s else s)
      { s1 with link := {} })

/-- PERST_DEASSERT. -/
def execPerstDeassert (s : State) : Host.Outcome State Fault Refusal := .next (if scanHolds s then s else modBoot (fun b => { b with perst := false }) s)

/-- FW_WATCHDOG_EXPIRY: firmware that was started has not serviced the watchdog (18 R534). -/
def execFwWatchdogExpiry (s : State) : Host.Outcome State Fault Refusal :=
  .next (
    match s.boot.phase with
    | .fwStart | .fwRun | .ready => warmRestart s
    | _ => s)

/-! ## Host accesses to device memory -/

/-- Device memory is served: firmware runs and the LPDDR5X controller is at Run, outside the emergency shed (16 R493; 18 R522). -/
def memServed (s : State) : Bool := s.boot.fwRunning && !s.power.emergency && decide (heldRung s 109 = 0)

/-- What the host reads. -/
def hostData (bs : List Byte) (poison : Bool) (s : State) : State := { s with link := { s.link with rdata := bs, poison := poison } }

/-- A read or write of n bytes at window offset x, of which the first in lie within the window. -/
def devmemDo (x : Nat) (wr : List Byte) (rd inside : Nat) (bad : Bool) (s : State) : State :=
  let ones := List.replicate rd (byte 255)
  if wr.isEmpty = false then
    let s1 := devWrite x (wr.take inside) s
    if bad ∧ 0 < inside then fault 55 0 (x / 64) s1 else s1
  else if bad ∧ 0 < inside then
    let r := drawFree inside s
    hostData (r.1 ++ ones.drop inside) s.link.cxl (fault 55 0 (x / 64) r.2)
  else hostData (devRead s x inside ++ ones.drop inside) false s

/-- HOST_DEVMEM_ACCESS: an access of the host at HDM offset addr under CXL, at BAR2 offset addr otherwise (14 R425, R426). While the memory is not served, reads are poisoned under CXL and all ones through BAR2, writes are discarded, and the access is counted (16 R493). -/
def execHostDevmemAccess (addr : Nat) (wr : List Byte) (rd : Nat) (bad : Bool) (s : State) : Host.Outcome State Fault Refusal :=
  .next (
    let n := if wr.isEmpty then rd else wr.length
    let x := if s.link.cxl then addr else s.link.aptBase * 2 ^ 30 + addr
    let room := if s.link.cxl then windowLen else s.link.bar2 * 2 ^ 30
    if s.link.trained = false ∨ s.link.d0 = false ∨ n = 0 ∨ room < addr + n then s
    else
      let inside := min n (windowLen - x)
      let s1 := if inside < n then { s with link := { s.link with aptErr := satInc s.link.aptErr } } else s
      if memServed s ∨ inside = 0 then devmemDo x wr rd inside bad s1
      else
        let s2 := ev 0x0535 0 s1
        if wr.isEmpty then hostData (List.replicate rd (byte 255)) s.link.cxl s2 else s2)

end Sys2Proof.Machine
end

