-- ==== Sys2Proof/Machine/Pcs.lean ====
section
/-! DEFINITION. The transmitting PCS of a port (04 R96, R98, R99, Tables 4.3, 4.4; 12 R368): 64b/66b blocks, the scrambler, transcoding, commas, RS(544,514) and the inner code; and what a receiver does to find commas (R100). What 04 takes from IEEE 802.3 without stating it is PRESUMED from that standard (log entry 105). -/

namespace Sys2Proof.Machine

/-! ## 64b/66b blocks. Bit i of a block is the i-th bit sent. -/

/-- A block of eight bytes, the least significant bit of each first, behind its sync header: 01 for data, 10 for control. -/
def block66 (ctl : Bool) (bs : List Byte) : BitVec 66 := BitVec.ofNat 66 ((if ctl then 1 else 2) + 4 * leVal bs)

/-- Eight idle characters. -/
def idleBlock : BitVec 66 := block66 true [0x1E]

/-- An ordered set of three bytes and an O code. -/
def orderedSet (d : List Byte) (o : Byte) : BitVec 66 := block66 true ([0x4B] ++ d ++ [o])

/-- Remote fault: what a port whose own receiver is not in UP sends in place of idles. -/
def remoteFaultBlock : BitVec 66 := orderedSet [0, 0, 2] 0

/-- SKIP (12 R368). -/
def skipBlock : BitVec 66 := orderedSet [0x5A, 0xC5, 0x7B] 0x0C

/-- Block type of a terminate block that carries n data bytes. -/
def termType (n : Nat) : Byte := [0x87, 0x99, 0xAA, 0xB4, 0xCC, 0xD2, 0xE1, 0xFF].getD n 0xFF

/-- The blocks of a frame: start with preamble, data, terminate. -/
def frameBlocks (w : List Byte) : List (BitVec 66) :=
  let n := w.length / 8
  [block66 true [0x78, 0x55, 0x55, 0x55, 0x55, 0x55, 0x55, 0xD5]]
    ++ (List.range n).map (fun i => block66 false (slice w (8 * i) 8))
    ++ [block66 true (termType (w.length % 8) :: w.drop (8 * n))]

/-! ## Scrambling and transcoding -/

/-- One bit through the scrambler 1 + x^39 + x^58: what is sent, and the bits sent last, newest first. -/
def scrBit (b : Bool) (r : BitVec 58) : Bool × BitVec 58 :=
  let o := b ^^ (r.getLsbD 38 ^^ r.getLsbD 57)
  (o, (r <<< 1) ||| BitVec.ofNat 58 (b2n o))

/-- The 64 bits behind a sync header, scrambled. -/
def scramble (b : BitVec 66) (r : BitVec 58) : BitVec 66 × BitVec 58 :=
  let e := (List.range 64).foldl (fun acc i =>
    let o := scrBit (b.getLsbD (2 + i)) acc.2
    (acc.1 + b2n o.1 * 2 ^ (2 + i), o.2)) (b.toNat % 4, r)
  (BitVec.ofNat 66 e.1, e.2)

/-- Four blocks as one of 257 bits: a leading 1 and four payloads, or a leading 0, a flag for each block, and the payloads without the second nibble of the first control block's type. The first five bits are masked with bits 8 to 12. -/
def transcode (l : List (BitVec 66)) : BitVec 257 :=
  let pay := (l.zipIdx.map (fun e => e.1.toNat / 4 * 2 ^ (64 * e.2))).sum
  let isData := fun (b : BitVec 66) => b.getLsbD 1 && !b.getLsbD 0
  let t := match l.findIdx? (fun b => !isData b) with
    | none => 1 + 2 * pay
    | some c =>
      (l.zipIdx.map (fun e => b2n (isData e.1) * 2 ^ (1 + e.2))).sum
        + 32 * (pay % 2 ^ (64 * c + 4)) + 2 ^ (64 * c + 9) * (pay / 2 ^ (64 * c + 8))
  BitVec.ofNat 257 (t ^^^ (t / 256 % 32))

/-! ## RS(544,514) -/

/-- Product in GF(2^10) with x^10 + x^3 + 1. -/
def gfMul (a b : Nat) : Nat :=
  (List.range 10).reverse.foldl (fun r i =>
    let d := 2 * r
    let e := if 1024 ≤ d then d ^^^ 0x409 else d
    if b.testBit i then e ^^^ a else e) 0

/-- Coefficients of the generator polynomial, roots α^0 to α^29, below its leading term, highest power first. -/
def rsGen : List Nat :=
  let times := fun (g : List Nat) (a : Nat) => List.zipWith (· ^^^ ·) (g ++ [0]) (0 :: g.map (gfMul a))
  ((List.range 30).foldl (fun acc _ => (times acc.1 acc.2, gfMul acc.2 2)) ([1], 1)).1.drop 1

/-- The 30 parity symbols of a message, in the order sent. -/
def rsParity (m : List Nat) : List Nat :=
  m.foldl (fun r c =>
    let f := c ^^^ r.headD 0
    List.zipWith (· ^^^ ·) (r.drop 1 ++ [0]) (rsGen.map (gfMul f))) (List.replicate 30 0)

/-- The n bits of a value, the most significant first. -/
def msbBits (n v : Nat) : List Bool := (List.range n).map (fun i => v.testBit (n - 1 - i))

/-- The value of bits, the first the most significant. -/
def msbVal (l : List Bool) : Nat := l.foldl (fun acc b => 2 * acc + b2n b) 0

/-- The bits of a codeword: the message, then its parity (04 Table 4.3 step 5). -/
def codeword (msg : List Bool) : List Bool :=
  msg ++ (rsParity ((List.range 514).map (fun i => msbVal ((msg.drop (10 * i)).take 10)))).flatMap (msbBits 10)

/-! ## The inner code -/

/-- Gray code of a bit pair, and back. -/
def gray (a b : Bool) : BitVec 2 := match a, b with
  | false, false => 0
  | false, true => 1
  | true, true => 2
  | true, false => 3

/-- The bit pair of a Gray code. -/
def ungray (x : BitVec 2) : List Bool := [decide (2 ≤ x.toNat), decide (x = 1 ∨ x = 2)]

/-- y(n) = x(n) - y(n-1) modulo 4 over the bit pairs of a run (04 Table 4.3 step 6). -/
def innerCode : List Bool → BitVec 2 → List (BitVec 2)
  | a :: b :: r, y => let z := gray a b - y; z :: innerCode r z
  | _, _ => []

/-- x(n) = y(n) + y(n-1): the bits of every symbol but the first (04 R100). -/
def innerUndo : List (BitVec 2) → List Bool
  | y :: z :: r => ungray (z + y) ++ innerUndo (z :: r)
  | _ => []

/-! ## Commas (04 Table 4.4). Bit i of a block is the i-th bit sent. -/

/-- COMMA. -/
def commaWord : Nat := 0xC53A0F96E1

/-- A block of 257 bits from bits in the order sent. -/
def block257 (l : List Bool) : BitVec 257 := BitVec.ofNat 257 ((l.zipIdx.map (fun e => b2n e.1 * 2 ^ e.2)).sum)

/-- Bits a to b of a block as a value, the first bit sent the most significant. -/
def commaFld (c : BitVec 257) (a b : Nat) : Nat := msbVal ((List.range (b + 1 - a)).map (fun i => c.getLsbD (a + i)))

/-- CRC-8 of a run of bits: x^8 + x^2 + x + 1 from 0. -/
def crc8 (l : List Bool) : Nat :=
  l.foldl (fun r b => let d := (2 * r) % 256; if decide (128 ≤ r) ^^ b then d ^^^ 7 else d) 0

/-- CHECK as bits 40 to 71 give it. -/
def commaCrc (c : BitVec 257) : Nat := crc8 ((List.range 32).map (fun i => c.getLsbD (40 + i)))

/-- Bits of COMMA that differ. -/
def commaDiff (c : BitVec 257) : Nat := ((msbBits 40 (commaFld c 0 39 ^^^ commaWord)).filter id).length

/-- WIDTH of Table 4.4. -/
def widthCode (w : Nat) : Nat := if w = 8 then 3 else if w = 4 then 2 else if w = 2 then 1 else 0

/-- The comma block that lane i of a port of width w carries in slot 16,384 × j. -/
def commaBlock (w : Nat) (rxOk degrade : Bool) (j i : Nat) : BitVec 257 :=
  let f := msbBits 3 (j % 5) ++ msbBits 3 i ++ msbBits 2 (widthCode w) ++ msbBits 16 (j % 65536) ++ [rxOk, degrade] ++ List.replicate 6 false
  block257 (msbBits 40 commaWord ++ f ++ msbBits 8 (crc8 f))

/-! ## Lanes of an N-400 transmitter -/

/-- A block fills the next slot of a lane; the twentieth completes a codeword, which goes out. -/
def laneSlot (b : BitVec 257) (x : LaneTx) : LaneTx :=
  let m := x.msg ++ (List.range 257).map (fun i => b.getLsbD i)
  if m.length < 5140 then { x with msg := m }
  else
    let o := innerCode (codeword m) x.y
    { msg := [], y := o.getLastD x.y, out := o }

/-- A row of slots begins: every 16,384th carries commas on all lanes (04 Table 4.3 step 4). -/
def rowStart (w : Nat) (cm : Nat → Nat → BitVec 257) (x : PcsTx) : PcsTx :=
  if x.turn = 0 ∧ x.slot % 16384 = 0 then
    { x with lanes := (List.range w).map (fun i => laneSlot (cm (x.slot / 16384) i) (x.lanes.getD i {})), slot := x.slot + 1 }
  else x

/-- Block k of the port stream goes to lane k modulo the width (04 Table 4.3 step 3). -/
def dealBlock (w : Nat) (cm : Nat → Nat → BitVec 257) (b : BitVec 257) (x : PcsTx) : PcsTx :=
  let y := rowStart w cm x
  let z := { y with lanes := (List.range w).map (fun i => let l := y.lanes.getD i {}; if i = y.turn then laneSlot b l else l) }
  if w ≤ z.turn + 1 then { z with turn := 0, slot := z.slot + 1 } else { z with turn := z.turn + 1 }

/-- One 66-bit block through steps 1 to 6. -/
def pcsBlock (w : Nat) (cm : Nat → Nat → BitVec 257) (x : PcsTx) (b : BitVec 66) : PcsTx :=
  let e := scramble b x.scr
  let l := x.blocks ++ [e.1]
  let y := { x with scr := e.2, blocks := l }
  if l.length < 4 then y else dealBlock w cm (transcode l) { y with blocks := [] }

/-- What a port sends between frames, before a thing of its own: idles, or remote fault outside UP; on a stack link the SKIP of a run, in the first gap (12 R368). -/
def gapBlocks (p : Nat) (x : Port) : List (BitVec 66) × PcsTx :=
  let f := List.replicate (Config.fillBlocks p x.pcs.fills) (if x.link = .up then idleBlock else remoteFaultBlock)
  let due := x.stk.enable && decide (16384 * x.pcs.skip ≤ x.pcs.count)
  (if due then skipBlock :: f else f,
   { x.pcs with fills := x.pcs.fills + 1, skip := if due then x.pcs.count / 16384 + 1 else x.pcs.skip })

/-- A run of blocks goes out on a port whose lanes run a mode, behind a gap; degrade is the port's own FEC-degrade condition. -/
def pcsSend (mode : Nat) (degrade : Bool) (p : Nat) (bs : List (BitVec 66)) (x : Port) : Port :=
  let g := gapBlocks p x
  let l := g.1 ++ bs
  let y :=
    if mode = 3 then l.foldl (pcsBlock x.width (commaBlock x.width (decide (x.link = .up)) degrade)) g.2
    else { g.2 with lanes := (List.range x.width).map (fun i => { out := Config.ieeeLine mode x.width i g.2.count l }) }
  { x with pcs := { y with count := g.2.count + l.length } }

/-! ## Receiving commas -/

/-- Bits received from a comma of a PHASE to the next one, 16,384 slots on (04 R99). -/
def commaGap (phase : Nat) : Nat := if phase = 4 then 5440 * 820 - 257 * 16 else 5440 * 819 + 257 * 4

/-- The block that stands o bits into a run, when the run is long enough. -/
def blockAt (l : List Bool) (o : Nat) : Option (BitVec 257) :=
  if o + 257 ≤ l.length then some (block257 ((l.drop o).take 257)) else none

/-- The first place of a run where COMMA stands exactly with a valid CHECK. -/
def commaSearch (l : List Bool) : Option (Nat × BitVec 257) :=
  (List.range l.length).findSome? (fun o =>
    match blockAt l o with
    | some b => if commaDiff b = 0 ∧ commaCrc b = commaFld b 72 79 then some (o, b) else none
    | none => none)

/-- The fields of a comma block go into the lane. -/
def commaTake (c : BitVec 257) (x : Comma) : Comma :=
  { x with phase := commaFld c 40 42, place := commaFld c 43 45, width := commaFld c 46 47, period := commaFld c 48 63,
           rxOk := c.getLsbD 64, degrade := c.getLsbD 65 }

/-- CHECK of a comma that a locked lane expects in a run is invalid though the comma matches (04 R100). -/
def commaBad (at_ : Nat) (l : List Bool) (x : Comma) : Bool :=
  match blockAt l (x.bit + commaGap x.step - at_) with
  | some b => x.locked && decide (at_ ≤ x.bit + commaGap x.step) && decide (commaDiff b ≤ 2) && decide (commaCrc b ≠ commaFld b 72 79)
  | none => false

/-- A locked lane looks at its expected position in a run of bits that begins at bit at_. -/
def commaHeld (at_ : Nat) (l : List Bool) (x : Comma) : Comma :=
  let e := x.bit + commaGap x.step
  let y := { x with bit := e, step := (x.step + 1) % 5 }
  let hit := if e < at_ then none else (blockAt l (e - at_)).filter (fun b => decide (commaDiff b ≤ 2))
  match hit with
  | some b => if commaCrc b = commaFld b 72 79 then { commaTake b y with misses := 0 } else { y with misses := 0 }
  | none => if 4 ≤ x.misses + 1 then { y with locked := false, hits := 0, misses := 0 } else { y with misses := x.misses + 1 }

/-- A lane without lock searches a run of bits that begins at bit at_. The codeword boundaries follow from a comma's place and PHASE (04 R99). -/
def commaSeek (at_ : Nat) (l : List Bool) (x : Comma) : Comma :=
  match commaSearch l with
  | none => { x with hits := 0 }
  | some (o, b) =>
    let y := commaTake b x
    let next := decide (0 < x.hits ∧ at_ + o = x.bit + commaGap x.step ∧ y.phase = (x.phase + 1) % 5 ∧ y.period = (x.period + 1) % 65536)
    let h := if next then x.hits + 1 else 1
    { y with hits := h, locked := decide (3 ≤ h), misses := 0, bit := at_ + o, step := y.phase % 5,
             cw := (at_ + o + 5440 - 257 * 4 * (y.phase % 5)) % 5440 }

/-- A run of bits moves the comma lock of a lane (04 R100). -/
def commaStep (at_ : Nat) (l : List Bool) (x : Comma) : Comma :=
  if x.locked then commaHeld at_ l x else commaSeek at_ l x

end Sys2Proof.Machine
end

