-- ==== Sys2Proof/Machine/PortOps.lean ====
section
/-! DEFINITION. Operations on whole ports: a port's reset settings, its removal and configuration (04 R95; 08 R244; 09 R279 to R281), alignment (04 R101, R558), storms (R110), SyncE and references (R111, R112; 03 R64), and frames that firmware hands to the MAC. -/

namespace Sys2Proof.Machine

/-! ## Configuration -/

/-- Reset settings of a queue (09 R280); the rest are the defaults of its fields. -/
def freshQueue (q : Nat) : Queue :=
  { group := if q < 16 then q % 8 else 0, rxPri := if q < 8 then q else 255 }

/-- Reset settings of the 20 queues. -/
def freshQueues : Tab Queue := (List.range 20).map (fun q => (q, freshQueue q))

/-- Cells charged to an account by frames of an ingress port and priority that are still in queues or in flight. -/
def owedCells (s : State) (p i : Nat) (acc : Account) : Nat :=
  let mine := fun (d : Desc) => decide (d.inPort = p ∧ d.pri = i ∧ d.src = acc) && !d.foreign
  (s.ports.map (fun e =>
    (e.2.queues.map (fun q => ((q.2.descs.filter mine).map (fun d => d.n)).sum)).sum
      + ((e.2.inflight.filter (fun f => mine f.desc)).map (fun f => f.desc.n)).sum)).sum

/-- The frames of a port that are in flight go (04 R95). -/
def dropInflight (p : Nat) (s : State) : State :=
  match port s p with
  | none => s
  | some x =>
    let s1 := modPort p (fun y => { y with inflight := [] }) s
    x.inflight.foldl (fun acc f =>
      let a := ev 0x0205 (queueUnit p f.queue) acc
      -- the entry of a frame whose delimiter has crossed is already queued (10 R300)
      (if f.dropped then dropDesc else releaseDesc) p f.queue f.desc { outcome := if f.dropped then f.outcome else 5, cut := f.desc.cut, stages := f.stages } a) s1

/-- Settings scheduled for a port that goes away. -/
def dropDeferred (p : Nat) (s : State) : State :=
  { s with deferred := s.deferred.filter (fun d =>
      let q := pathOf d.req
      !(decide (q.levels = 0 ∨ target s q = .here) && [3, 4, 5].contains q.kind && decide (q.index = p))) }

/-- A port is removed (04 R95): its queues are flushed at once and its settings are gone. -/
def removePort (p : Nat) (s : State) : State :=
  match port s p with
  | none => s
  | some x =>
    let s1 := match x.arriving with
      | some a => settleFrame a [] true (modPort p (fun y => { y with arriving := none }) s)
      | none => s
    let s2 := dropInflight p (flushPort p (fun _ => true) s1)
    let s3 := synceLow p x.width (dropDeferred p s2)
    { s3 with
      ports := tabErase s3.ports p
      stack := { s3.stack with tx := s3.stack.tx.filter (fun f => f.port != p) } }

/-- A port with its reset settings and the fields of PORT_CONFIG. -/
def freshPort (s : State) (p w mode neg flags maxFrame : Nat) : Port :=
  let cal := tabGet s.time.cal (16 * p + w)
  let base : Port := {
    width := w
    mode := mode
    neg := neg
    pauseRx := flags.testBit 0
    pauseTx := flags.testBit 1
    lldp := flags.testBit 2
    esmc := flags.testBit 3
    maxFrame := if maxFrame = 0 then 9216 else maxFrame
    queues := freshQueues
    lastChange := idx s
    u := (List.range 8).map (fun i => owedCells s p i .pot)
    k := (List.range 8).map (fun i => owedCells s p i .kitty) }
  match cal with
  | some (rx, tx, asym, valid) => { base with rxAdj := rx, txAdj := tx, asym := asym, calValid := valid }
  | none => base

/-- The circuits of a lane run a mode. When it is another one (03 R73, R84; 04 R105), lock and stored copy go, and adaptation starts anew with the next lock. -/
def laneModeSet (l m : Nat) (s : State) : State :=
  if (lane s l).mode = m then s
  else dropStored l (modLane l (fun x => { laneDark x with wasLost := true, comma := {}, mode := m }) s)

/-- A lane leaves its port: it has no mode, no set and none of the port's PCS and FEC state. A lock it holds, its adaptation and its stored copy stay (03 R73). -/
def laneFree (l : Nat) (s : State) : State :=
  applyFir l (modLane l (fun x => { x with comma := {}, symHand := 0, fecOver := false, coeffAns := none, ask := {}, ready := false }) s)

/-- PORT_CONFIG with width 0: the port is gone, and its lanes have no mode and no set. -/
def unconfigPort (p : Nat) (s : State) : State :=
  match port s p with
  | none => s
  | some x => forAll (portLanes p x) laneFree (removePort p s)

/-- PORT_CONFIG's effect with a width other than 0: a port that the lane starts is removed first (04 R95). -/
def configPort (p w mode neg flags maxFrame : Nat) (s : State) : State :=
  let ls := (List.range w).map (fun i => p + i)
  let s0 := unconfigPort p s
  let s1 := evZeroPort p { s0 with ports := tabPut s0.ports p (freshPort s0 p w mode neg flags maxFrame) }
  let s2 := forAll ls (fun l acc => modLane l (fun x => { x with req := 0 }) (applyFir l (laneModeSet l mode acc))) s1
  -- the calibration just restored stands
  let s3 := modPort p (fun x => { x with calValid := (freshPort s0 p w mode neg flags maxFrame).calValid }) s2
  if neg = 0 then modPort p (fun x => { x with lastChange := idx s }) (enterAligning p false s3) else s3

/-! ## Alignment -/

/-- Every lane stands at Run with a signal and CDR lock. -/
def lanesLocked (s : State) (p : Nat) (x : Port) : Bool :=
  (portLanes p x).all (fun l => let y := lane s l; decide (y.rung = 0) && !y.moving && y.signal && y.cdr)

/-- Every lane of an N-400 port holds comma lock. -/
def commaLocked (s : State) (p : Nat) (x : Port) : Bool :=
  decide (portMode x ≠ 3) || (portLanes p x).all (fun l => (lane s l).comma.locked)

/-- WIDTH and LANE of the commas agree (04 R101). -/
def commasAgree (s : State) (p : Nat) (x : Port) : Bool :=
  decide (portMode x ≠ 3) ||
    ((portLanes p x).all (fun l => decide ((lane s l).comma.width = widthCode x.width)) &&
      (List.range x.width).all (fun k => (portLanes p x).any (fun l => decide ((lane s l).comma.place = k))))

/-- Cause of an alignment that did not come within 4 ms (04 R558). -/
def alignCause (s : State) (p : Nat) (x : Port) (localF remoteF : Bool) (skew : Nat) : Nat :=
  let ls := (portLanes p x).map (lane s)
  if ls.any (fun y => !y.signal) then 1
  else if ls.any (fun y => !y.cdr) || !commaLocked s p x then 2
  else if !freqOk s p x then 9
  else if commasAgree s p x = false ∨ 180 < skew then 3
  else if localF then 10
  else if remoteF then 8
  else 3

/-! ## Storms (04 R110) -/

/-- Queues held by a pause of priority i; 8 stands for Annex 31B (09 R276). -/
def pausedQueues (x : Port) (i : Nat) : List Nat :=
  if i = 8 then List.range 20 else (List.range 20).filter (fun q => decide ((queue x q).rxPri = i))

/-- Storm state of priority i, or of Annex 31B. -/
def inStorm (x : Port) (i : Nat) : Bool := if i = 8 then x.storm31 else x.storm.toNat.testBit i

/-- Received pause of priority i is ignored: the priority, or under Annex 31B the whole port, is in storm state. -/
def pauseIgnored (x : Port) (i : Nat) : Bool := x.storm31 || inStorm x i

/-- A queue whose frames storm state discards. -/
def stormQueue (x : Port) (q : Nat) : Bool :=
  x.storm31 || (decide ((queue x q).rxPri < 8) && x.storm.toNat.testBit (queue x q).rxPri)

/-- Discard one descriptor of a queue in storm state. -/
def stormDrop (p q : Nat) (d : Desc) (s : State) : State := dropDesc p q d { outcome := 6 } (ev 0x010F p s)

/-- Discard the frames that queues in storm state hold. -/
def stormDiscard (p : Nat) (s : State) : State :=
  forAll (List.range 20) (fun q acc =>
    match port acc p with
    | none => acc
    | some x =>
      if stormQueue x q then
        let ds := (queue x q).descs
        idleDeficits p (ds.foldl (fun a d => stormDrop p q d a) (modQueue p q (fun y => { y with descs := [] }) acc))
      else acc) s

/-- Set or clear storm state of priority i. -/
def setStorm (p i : Nat) (on : Bool) (s : State) : State :=
  modPort p (fun x =>
    let y := { x with stormQuiet := x.stormQuiet.set i 0, pausedRun := x.pausedRun.set i 0 }
    if i = 8 then { y with storm31 := on }
    else { y with storm := if on then x.storm ||| (1#8 <<< i) else x.storm &&& ~~~(1#8 <<< i) }) s

/-- The watchdog watches priority i of the port. -/
def watched (x : Port) (i : Nat) : Bool := if i = 8 then x.pauseRx else x.lossless.toNat.testBit i

/-! ## SyncE and references -/

/-- An output's lane has its clock: the port is UP and the CDR locked (04 R111). -/
def synceGood (s : State) (l : Nat) : Bool :=
  match portOfLane s l with
  | some (p, _) => portUp s p && (lane s l).cdr
  | none => false

/-- The lanes of quadrant q. -/
def quadLanes (s : State) (q : Nat) : List Nat := ((List.range 128).map (fun i => 128 * q + i)).filter (fun l => decide (l < laneCount s))

/-- Links of a set of lanes go down. -/
def linksDown (ls : List Nat) (cause : Nat) (s : State) : State :=
  let ps := (s.ports.filter (fun e => (portLanes e.1 e.2).any (fun l => ls.contains l))).map (fun e => e.1)
  forAll ps (fun p acc => linkLost p cause true acc) s

/-- A quadrant has lost the reference it uses: lanes are held as at rung 4 and their stored copies are gone (03 R64, R84). -/
def quadDown (q : Nat) (s : State) : State :=
  let ls := quadLanes s q
  forAll ls (fun l acc => dropStored l (if (lane acc l).rung < 4 then laneEnter l 4 acc else acc)) (linksDown ls 6 s)

/-- A quadrant moves to or from REFCLK_T: its lanes at Run leave it and return through the exit from rung 4 (04 R112). -/
def quadMove (q : Nat) (s : State) : State :=
  let ls := (quadLanes s q).filter (fun l => decide ((lane s l).rung = 0))
  forAll ls (fun l acc => laneExit l 0 (laneEnter l 4 acc)) (linksDown ls 7 s)

/-- Loss of a reference of a quadrant (03 R64), of REFCLK_M (19 R546) or of REFCLK_T (04 R112). -/
def refLoss (r : Nat) (s : State) : State :=
  if s.refs.lost.contains r ∨ (s.ident.half = true ∧ (r = 2 ∨ r = 3)) then s
  else
    let s1 := { s with refs := { s.refs with lost := r :: s.refs.lost } }
    if r < 4 then
      let s2 := fault 48 0 r s1
      if s.refs.quads.getD r false then s2 else quadDown r s2
    else if r = 4 then
      let s2 := { s1 with time := { s1.time with running := false }, boot := { s1.boot with ready := false, refMLost := true } }
      fault 48 0 4 s2
    else
      let marked := (List.range 4).filter (fun q => s1.refs.quads.getD q false)
      let s2 := if marked.isEmpty then s1 else { s1 with refs := { s1.refs with quads := [false, false, false, false], reftLost := true } }
      forAll (marked.filter (fun q => s2.refs.lost.contains q)) quadDown s2

/-- SYNCE_SET at its trick boundary (04 R111, R112). An output whose lane is locked on an UP port runs at once; while REFCLK_T is lost every quadrant stays on its own reference, and REFT_LOST says that one was asked for (DESIGN CHOICE, log entry 104). -/
def synceApply (p : List Byte) (s : State) : State :=
  let sel := fun (a : Nat) => if allZero (slice p a 16) then (none : Option Nat) else some (fld p (a + 2) 2)
  let out := [sel 0, sel 16]
  let low := out.map (fun o => match o with
    | some l => !synceGood s l
    | none => true)
  let fq := fld p 32 1
  let want := (List.range 4).map (fun i => (fld p 33 1).testBit i)
  let lostT := s.refs.lost.contains 5
  let now_ := if lostT then [false, false, false, false] else want
  let moved := (List.range 4).filter (fun q => now_.getD q false != s.refs.quads.getD q false)
  let s1 := synceDivs { s with refs := { s.refs with out := out, low := low, freq := [fq.testBit 0, fq.testBit 1], quads := now_, reftLost := lostT && want.any id } }
  forAll moved quadMove s1

/-! ## Frames from firmware to the MAC -/

/-- The FEC-degrade condition of a port holds (04 R109). -/
def portDegraded (s : State) (p : Nat) (x : Port) : Bool := (portLanes p x).any (fun l => (lane s l).fecOver)

/-- The bytes of a frame, with FCS, leave a port through its PCS (04 R96, R98). -/
def wireOut (p : Nat) (w : List Byte) (s : State) : State :=
  modPort p (fun x => pcsSend (portMode x) (portDegraded s p x) p (frameBlocks w) { x with lastTx := w }) s

/-- The filling that a port sends in a trick: in ALIGNING and UP, while every lane's transmitter sends. -/
def pcsTick (p : Nat) (s : State) : State :=
  match port s p with
  | some x =>
    if (x.link = .aligning ∨ x.link = .up) ∧ (portLanes p x).all (laneSends s) = true then
      modPort p (fun y => pcsSend (portMode y) (portDegraded s p y) p [] y) s
    else s
  | none => s

/-- A frame without FCS leaves a port at once (04 R106, R113). -/
def macSend (p : Nat) (bs : List Byte) (s : State) : State :=
  let w := bs ++ fcsOf bs
  evAdd 0x0104 p 0 w.length (ev 0x0103 p (wireOut p w s))

/-- TLVs of an LLDPDU: type and value. -/
def tlvs (n : Nat) (bs : List Byte) : List (Nat × List Byte) :=
  match n with
  | 0 => []
  | k + 1 =>
    if bs.length < 2 then [] else
    let h := bfld bs 0 2
    let len := h % 512
    if bs.length < 2 + len then [] else
    (h / 512, slice bs 2 len) :: (if h = 0 then [] else tlvs k (bs.drop (2 + len)))

/-- The neighbour that an LLDPDU names, when its first three TLVs are the mandatory ones (04 R106). -/
def neighbourOf (bs : List Byte) (at_ : Nat) : Option Neighbour :=
  match tlvs bs.length bs with
  | (1, c) :: (2, q) :: (3, t) :: _ =>
    if c.length < 2 ∨ q.length < 2 ∨ t.length < 2 then none
    else some { chassisSub := fld c 0 1, portSub := fld q 0 1, ttl := bfld t 0 2, chassis := (c.drop 1).take 32, portId := (q.drop 1).take 32, at_ := at_ }
  | _ => none

/-- Whole seconds of a neighbour's TTL that remain, a trick being 1,024 ns. -/
def ttlLeft (s : State) (n : Neighbour) : Nat := (n.ttl * 10 ^ 9 - (now s - n.at_) * 1024) / 10 ^ 9

end Sys2Proof.Machine
end

