-- ==== Sys2Proof/Machine/StageCheck.lean ====
section
/-! DEFINITION. Loader checks of the stage sections (07 R212, Table 7.10): the checks on single microwords, and those on paths of profiles through the stages. A failure stands as section (1 to 24), index in the section, code. -/

namespace Sys2Proof.Machine

/-- Key microword of section n (1 to 24) and profile p. -/
def keyMw (b : Mem) (n p : Nat) : KWord := keyAt b (n - 1) p

/-- Action microword of section n at address a. -/
def actMw (b : Mem) (n a : Nat) : Nat := actionAt b (n - 1) a

/-- Section n is of the ingress pipeline. -/
def secIngress (n : Nat) : Bool := decide (n ≤ 16)

/-- Stage of section n. -/
def secStage (n : Nat) : Nat := if n ≤ 16 then n else n - 16

/-- Addresses whose action microwords a key microword can reach (07 R188, R191, R192). -/
def kActions (k : KWord) : List Nat :=
  if k.valid = false then []
  else if k.kind = 0 then [k.missAddr]
  else ((List.range 256).map (fun a => (k.hitBase + a) % 1024) ++ [k.missAddr]).eraseDups

/-- The check of one key microword. -/
def sxKey (k : KWord) : Option Nat :=
  if k.rsv ≠ 0 ∨ k.segs.any (fun x => decide (89 ≤ x.1)) = true then some 0x21
  else if (if 2 ≤ k.kind then 208 else 216) < (k.segs.map (fun x => x.2)).sum then some 0x26
  else none

/-- Word A is writable by ops (07 Table 7.2). -/
def wordRw (a : Nat) : Bool := decide (a < 80 ∨ a = 85 ∨ a = 86)

/-- An op with a reserved operation or operand. -/
def opReserved (o : Op) : Bool :=
  decide (12 < o.opc) || (decide (o.opc = 9) && decide (o.c = 0 ∨ o.c = 6 ∨ o.c = 7)) ||
    (decide (o.opc = 8) && decide (o.a % 64 = 0 ∨ o.a % 64 = 0x0E ∨ o.a % 64 = 0x0F))

/-- The check of one action microword of section n. -/
def sxAction (n v : Nat) : Option Nat :=
  let l := opsOf v
  if bits v 126 120 ≠ 0 ∨ l.any opReserved = true then some 0x21
  else if l.any (fun o => decide (1 ≤ o.opc ∧ o.opc ≤ 4) && !wordRw o.a) then some 0x22
  else if l.any (fun o => decide (9 ≤ o.opc)) = true ∧ v.testBit 127 = false then some 0x23
  else if l.any (fun o => decide (o.opc = 5)) = true ∧ (if secIngress n then 13 else 5) < secStage n then some 0x24
  else none

/-- The first failure of single microwords of section n. -/
def sxStatic (b : Mem) (n : Nat) : Option (Nat × Nat × Nat) :=
  match (List.range 64).findSome? (fun p => (sxKey (keyMw b n p)).map (fun c => (n, p, c))) with
  | some r => some r
  | none =>
    let reach := ((List.range 64).flatMap (fun p => kActions (keyMw b n p))).eraseDups
    (List.range 1024).findSome? (fun a => if reach.contains a then (sxAction n (actMw b n a)).map (fun c => (n, 64 + a, c)) else none)

/-- One path through the positions of a pipeline so far: the profile it carries, keys and METER ops, the latest ladder stage, whether a KIND 2 stage came before, whether an op could write DISP bit 15, and the stages whose action part is still to come with the profile each took. -/
structure SPath where
  prof : Nat
  keys : Nat := 0
  meters : Nat := 0
  last : Nat := 0
  k2 : Bool := false
  d15 : Bool := false
  pend : List (Nat × Nat) := []
  deriving DecidableEq, Repr

/-- Last bit that an op writes from bit D (07 R194). -/
def opTop (o : Op) : Nat := min (o.d + o.c) 31

/-- An op able to write DISP bit 15 (08 R236). -/
def opDest (o : Op) : Bool :=
  decide (o.opc = 7) || (decide (o.opc = 3) && decide (o.a = 85)) ||
    (decide (o.opc = 1 ∨ o.opc = 2 ∨ o.opc = 4) && decide (o.a = 85) && decide (o.d ≤ 15 ∧ 15 ≤ opTop o))

/-- The profiles that an op leaves from one profile (07 R212). -/
def opProfiles (o : Op) (p : Nat) : List Nat :=
  let w := opTop o + 1 - o.d
  let put := fun (v : Nat) => (p - bits p (opTop o) o.d * 2 ^ o.d + (v % 2 ^ w) * 2 ^ o.d) % 64
  if o.a ≠ 86 then [p]
  else match o.opc with
    | 1 => List.range 64
    | 2 => [put o.b]
    | 3 => List.range 64
    | 4 => [put (uInt w ((bits p (opTop o) o.d : Int) + sInt 9 o.b))]
    | _ => [p]

/-- The METER ops of an action microword of section n. -/
def meterOps (b : Mem) (n a : Nat) : Nat := ((opsOf (actMw b n a)).filter (fun o => decide (o.opc = 5))).length

/-- The action microword, of those reachable in address order, whose METER ops take a running count past two (07 R203, Table 7.10). -/
def meterExcess (b : Mem) (n : Nat) (addrs : List Nat) (count : Nat) : Option Nat :=
  match addrs with
  | [] => none
  | a :: rest => if 2 < count + meterOps b n a ∧ 0 < meterOps b n a then some a else meterExcess b n rest (count + meterOps b n a)

/-- What the action part of a stage charges to every path through a key microword of section n: a path is a sequence of profiles, so each METER op and each op able to write DISP bit 15 of every action microword it reaches is taken to run, whichever of them decides the next profile (07 R212; 08 R236). The failures name the microword at which the count passes its limit: DESIGN CHOICE, log 110. -/
def stageCharge (b : Mem) (n : Nat) (addrs : List Nat) (x : SPath) : SPath × List (Nat × Nat × Nat) :=
  let sorted := (List.range 1024).filter (fun a => addrs.contains a)
  let lists := if secIngress n then sorted.find? (fun a => (opsOf (actMw b n a)).any opDest) else none
  let tooMany := match lists with
    | some a => if x.d15 = false ∧ 6 < x.keys + 1 then [(n, 64 + a, 0x20)] else []
    | none => []
  let meters := match meterExcess b n sorted x.meters with
    | some a => [(n, 64 + a, 0x24)]
    | none => []
  ({ x with
      keys := if lists.isSome = true ∧ x.d15 = false then x.keys + 1 else x.keys
      meters := min 3 (x.meters + (sorted.map (meterOps b n)).sum)
      d15 := x.d15 || lists.isSome }, tooMany ++ meters)

/-- The profiles with which a path goes on after an action microword of section n at address a. -/
def profilesAfter (b : Mem) (n a p : Nat) : List Nat :=
  ((opsOf (actMw b n a)).foldl (fun acc o => (acc.flatMap (opProfiles o)).eraseDups) [p])

/-- The action part at a position: the stage three back. A search may stay open and leave the profile as it is. -/
def pathAction (b : Mem) (off pos : Nat) (x : SPath) : List SPath × List (Nat × Nat × Nat) :=
  match x.pend with
  | [] => ([x], [])
  | (st, p) :: rest =>
    if st + 3 ≠ pos then ([x], [])
    else
      let k := keyMw b (off + st) p
      let addrs := kActions k
      let (y, bad) := stageCharge b (off + st) addrs { x with pend := rest }
      let profs := (if 2 ≤ k.kind then [y.prof] else []) ++ addrs.flatMap (fun a => profilesAfter b (off + st) a y.prof)
      (profs.eraseDups.map (fun q => { y with prof := q }), bad)

/-- The key part at a position. -/
def pathKey (b : Mem) (off n pos : Nat) (x : SPath) : SPath × List (Nat × Nat × Nat) :=
  if n < pos then (x, [])
  else
    let k := keyMw b (off + pos) x.prof
    if k.valid = false then (x, [])
    else
      let ks := if k.kind = 0 then x.keys else x.keys + 1
      let lad := if k.kind = 3 ∧ (x.k2 = false ∨ pos < x.last + 3) then [(off + pos, x.prof, 0x25)] else []
      let bud := if (if off = 0 then 6 else 2) < ks ∧ x.keys < ks then [(off + pos, x.prof, 0x20)] else []
      ({ x with keys := ks, last := if 2 ≤ k.kind then pos else x.last, k2 := x.k2 || decide (k.kind = 2), pend := x.pend ++ [(pos, x.prof)] }, bud ++ lad)

/-- All paths of a pipeline of n stages from position pos on: the failures they meet. -/
def pathsFrom (b : Mem) (off n fuel pos : Nat) (xs : List SPath) (bad : List (Nat × Nat × Nat)) : List (Nat × Nat × Nat) :=
  match fuel with
  | 0 => bad
  | f + 1 =>
    let a := xs.map (pathAction b off pos)
    let k := ((a.flatMap (fun r => r.1)).eraseDups).map (pathKey b off n pos)
    pathsFrom b off n f (pos + 1) (k.map (fun r => r.1)).eraseDups (bad ++ a.flatMap (fun r => r.2) ++ k.flatMap (fun r => r.2))

/-- The lower of two failures: section, index, code. -/
def lowerFail (x y : Nat × Nat × Nat) : Nat × Nat × Nat :=
  if x.1 < y.1 ∨ (x.1 = y.1 ∧ (x.2.1 < y.2.1 ∨ (x.2.1 = y.2.1 ∧ x.2.2 ≤ y.2.2))) then x else y

/-- The failures of the stage sections' checks. -/
def sxFails (b : Mem) : List (Nat × Nat × Nat) :=
  let starts := (List.range 16).filter (fun e => (entryAddr b e).isSome)
  (List.range 24).filterMap (fun i => sxStatic b (i + 1))
    ++ pathsFrom b 0 16 19 1 (starts.map (fun p => { prof := p })) []
    ++ pathsFrom b 16 8 11 1 ((List.range 64).map (fun p => { prof := p })) []

/-- The first failure of the stage sections: section, index, code. -/
def sxCheck (b : Mem) : Option (Nat × Nat × Nat) :=
  match sxFails b with
  | [] => none
  | x :: r => some (r.foldl lowerFail x)

/-- The DETAIL of the first failure of a whole body, parser first (13 R401; 05 R136; 07 R212). -/
def loaderDetail (b : Mem) (entries : List Nat) : Option Nat :=
  match pxCheck b entries with
  | some r => some (detailCheck r.1 0 r.2)
  | none => (sxCheck b).map (fun r => detailCheck r.2.2 r.1 r.2.1)

end Sys2Proof.Machine
end

