-- ==== Sys2Proof/Machine/Images.lean ====
section
/-! DEFINITION. Image, microcode and board-table commands (13 R412 to R417; 05 R120; 18 R538), the steps of flash stores (16 R490, R491; 17 R510) and the trend period with its ageing checks (03 R87; 16 R487, R488). -/

namespace Sys2Proof.Machine

/-! ## Sources -/

/-- The source of a command that copies from the window: SRC, LENGTH and four reserved bytes (13 R413). -/
def sourceOf (p : List Byte) (s : State) (lenOk : Nat → Nat → Bool) (go : Mem → Ans) : Ans :=
  let src := fld p 16 8
  let len := fld p 24 4
  checks [rsv p 28 4, (decide (src % 64 = 0), 16), (decide (src + len ≤ windowLen), 16), (lenOk src len, 24)] s
    (fun _ => go (memSlice s.devMem src len))

/-- LENGTH is 64 + BODY_LEN of the header at SRC (13 R413). -/
def imageLenOk (s : State) (src len : Nat) : Bool := len == 64 + memFld s.devMem (src + 20) 4

/-- What the source holds is no field of the payload: a failure is BAD_ARG without detail (13 R401). -/
def contentOk (ok : Bool) (s : State) (go : Unit → Ans) : Ans := if ok then go () else ansSt stBadArg s

/-- The tag, KIND and DEVS of an image (13 R413). -/
def imageOk (kind : Nat) (img : Mem) (s : State) (go : Unit → Ans) : Ans :=
  if imgVerifies img = false then ansSt stAuthFail s
  else contentOk (memFld img 4 1 == kind && imgRuns s img) s go

/-! ## Firmware images -/

/-- IMAGE_WRITE (13 R414; 18 R525). -/
def imageWrite (m : Nat) (p : List Byte) (s : State) : Ans :=
  sourceOf p s (imageLenOk s) (fun img => imageOk 1 img s (fun _ =>
    let recov := decide (s.boot.phase = .recovery)
    let least := if recov then 0 else memFld (slotOf s s.boot.slot).img 8 8
    contentOk (decide (least < memFld img 8 8)) s (fun _ =>
      jobStart (newJob m 0 (if recov then 0 else 1 - s.boot.slot) (64 + memFld img 20 4) img) s)))

/-- One slot of IMAGE_STATUS_GET. -/
def slotStatus (s : State) (k : Nat) : List Byte :=
  let st := slotState s k
  leBytes 8 (slotSeq s k) ++ leBytes 4 (if st = 1 then memFld (slotOf s k).img 16 4 else 0)
    ++ [byte st, byte (b2n (s.boot.fwRunning && s.boot.slot == k)), 0, 0]

/-- IMAGE_STATUS_GET (13 Table 13.19). -/
def imageStatus (s : State) : List Byte :=
  slotStatus s 0 ++ slotStatus s 1 ++ leBytes 4 (if s.uc.standby.loaded then s.uc.standby.version.toNat else 0) ++ zeros 4

/-- FW_PATCH_APPLY (13 R415): past its checks it waits for a hand boundary. -/
def patchApply (m : Nat) (p : List Byte) (s : State) : Ans :=
  -- seven patches refuse whatever the image holds, before any image check (R413)
  if 7 ≤ s.boot.patches then ansSt stBadArg s
  else sourceOf p s (imageLenOk s) (fun img => imageOk 3 img s (fun _ =>
    contentOk (memFld img 24 4 == s.boot.fwVersion.toNat && memFld img 28 1 == s.boot.patches) s (fun _ =>
      .hold .patch (modBoot (fun b => { b with patchAt := some m }) s))))

/-- A patch takes effect at a hand boundary (13 R415). -/
def patchBoundary (s : State) : State :=
  match s.boot.patchAt with
  | none => s
  | some m =>
    let n := s.boot.patches + 1
    answer m stOk 0 ([byte n] ++ zeros 7 ++ leBytes 8 (idx s)) (modBoot (fun b => { b with patches := n, patchAt := none }) s)

/-! ## Microcode -/

/-- UC_STAGE: past the checks of the source the standby bank is STAGING, its contents gone, and holds firmware's copy (13 R413, R416; 05 Table 5.4). -/
def ucStage (m : Nat) (p : List Byte) (s : State) : Ans :=
  if s.uc.st = .committed ∨ s.uc.st = .staging then ansSt stNotReady s
  else sourceOf p s (imageLenOk s) (fun img =>
    .hold .staging { s with uc := { s.uc with st := .staging, standby := { body := img }, stageMb := m, stageLen := fld p 24 4 } })

/-- Bytes of a body with its PROG_LEN (13 R416). -/
def bodyLen (body : Mem) : Nat := 1088 + 16 * progLen body + 24 * 17408

/-- The outcome of a staging: the bank's contents, or the answer (13 R413, R416). -/
def stagingResult (s : State) (img : Mem) (len : Nat) : Option (Nat × Nat) :=
  let body := memSlice img 64 (len - 64)
  if imgVerifies img = false then some (stAuthFail, 0)
  else if memFld img 4 1 ≠ 2 ∨ imgRuns s img = false then some (stBadArg, 0)
  else if len ≠ 64 + bodyLen body then some (stBadArg, detailAt 24)
  else (loaderDetail body (portEntries s)).map (fun d => (stBadArg, d))

/-- UC_STAGING_END (05 Table 5.4). -/
def ucStagingEnd (s : State) : State :=
  if s.uc.st ≠ .staging then s
  else
    let img := s.uc.standby.body
    match stagingResult s img s.uc.stageLen with
    | some (st, d) => answer s.uc.stageMb st d [] { s with uc := { s.uc with st := .empty, standby := {} } }
    | none =>
      let v := memFld img 16 4
      let b : Bank := { version := BitVec.ofNat 32 v, loaded := true, body := memSlice img 64 (s.uc.stageLen - 64) }
      answer s.uc.stageMb stOk 0 (leBytes 4 v ++ zeros 4) { s with uc := { s.uc with st := .valid, standby := b } }

/-- A commit of the standby bank from one of some states (13 R417; 05 Table 5.4). -/
def ucSwitch (sts : List Standby) (s : State) : Ans :=
  if sts.contains s.uc.st = false then ansSt stNotReady s
  else if (portEntries s).any (fun e => !entryValid s.uc.standby e) then .done stBadArg (detailCheck 0x15 0 0x3FF) [] s
  else .hold .boundary { s with uc := { s.uc with st := .committed, rollback := decide (s.uc.st = .previous) } }

/-- A packet in the device was issued with the program of a generation. -/
def genLive (s : State) (n : Nat) : Bool :=
  s.buf.metas.any (fun e => e.2.gen == n) || s.groups.any (fun e => e.2.at6.any (fun w => w.info.gen == n))

/-- The banks of a committed switch exchange roles at a trick boundary (05 R120). The program that goes is kept for the packets issued with it (02 R53). -/
def ucBoundary (s : State) : State :=
  if s.uc.st ≠ .committed then s
  else { s with uc := { s.uc with
    active := s.uc.standby, standby := s.uc.active, activeNo := 1 - s.uc.activeNo, st := .previous
    gen := s.uc.gen + 1
    past := (tabPut s.uc.past s.uc.gen s.uc.active.body).filter (fun e => genLive s e.1) } }

/-! ## The board table -/

/-- SEQ of a board table copy. -/
def copySeq (m : Mem) : Nat := memFld m 8 8

/-- BOARD_TABLE_WRITE (18 R538). -/
def boardWrite (m : Nat) (p : List Byte) (s : State) : Ans :=
  sourceOf p s (fun _ len => len == boardLen) (fun t =>
    let least := match s.boot.chosen with
      | some c => decide (copySeq (tabGetD s.boot.copies c []) < copySeq t)
      | none => true
    contentOk (boardState t == 1 && least) s (fun _ =>
      jobStart (newJob m 1 (match s.boot.chosen with
        | some c => 1 - c
        | none => 0) boardLen t) s))

/-- STATE of a copy (18 Table 18.6). -/
def copyState (s : State) (c : Nat) : Nat :=
  if s.boot.copyBlank.contains c then 0 else boardState (tabGetD s.boot.copies c [])

/-- BOARD_TABLE_GET (18 Table 18.6). -/
def boardStatus (s : State) : List Byte :=
  let sq := fun (c : Nat) => if copyState s c = 1 then copySeq (tabGetD s.boot.copies c []) else 0
  leBytes 8 (sq 0) ++ leBytes 8 (sq 1) ++ [byte (copyState s 0), byte (copyState s 1), byte (s.boot.chosen.getD 255), 0]
    ++ leBytes 4 s.boot.setsBad ++ leBytes 4 s.boot.recordsBad ++ leBytes 4 s.boot.cBoard ++ leBytes 4 s.boot.vinWarn ++ zeros 4

/-! ## Trend periods and ageing -/

/-- The trend record of a lane (03 Table 3.9). -/
def trendRec (s : State) (l : Nat) : TrendRec :=
  let x := lane s l
  let alt := match x.fir with
    | some k => decide (k % 2 = 1)
    | none => false
  let none_ := decide (x.perN = 0)
  ⟨if none_ then 0 else x.perMin, if none_ then 0 else x.perSum / x.perN, x.ctle,
   b2n none_ + 2 * b2n alt + 4 * b2n (linear s l) + 8 * b2n x.perFull,
   x.adapt.ffe.getD (if linear s l then 6 else 4) 0, rubberNow s⟩

/-- The alternate set of a lane is usable and not in use (16 R488). -/
def altFree (s : State) (l : Nat) : Bool :=
  let x := lane s l
  let m := laneMode s l
  decide (m ≠ 0 ∧ x.cls ≠ 0) && firUsable s l (4 * x.cls + 2 * rateGroup m + 1) && !(match x.fir with
    | some k => decide (k % 2 = 1)
    | none => false)

/-- Ageing of one lane at the close of a period with mean eye figure ef (16 R488). -/
def laneAgeing (l ef : Nat) (s : State) : State :=
  let low := decide (eyeWarn s l ≠ 0 ∧ ef < eyeWarn s l)
  let n := if low then (lane s l).lowPeriods + 1 else 0
  let s1 := modLane l (fun x => { x with lowPeriods := n }) s
  let x := lane s1 l
  if n < 64 then s1
  else if x.ageMove then s1
  else if altFree s1 l then
    ageRecord 2 0 1 l ef (modLane l (fun y => { y with ageMove := true, lowPeriods := 0 }) s1)
  else if x.marginRaised then s1
  else
    ageRecord 4 (b2n x.useAlt) (b2n x.useAlt) l ef (fault 64 l ef (modLane l (fun y => { y with marginRaised := true }) s1))

/-- A lane's period closes (03 R87). -/
def laneTrend (l : Nat) (s : State) : State :=
  let r := trendRec s l
  let s1 := modLane l (fun x =>
    let t := x.trend ++ [r]
    { x with trend := t.drop (t.length - 65536), trendMin := r.efMin, trendMean := r.efMean, perMin := 255, perSum := 0, perN := 0, perFull := false }) s
  laneAgeing l r.efMean s1

/-- Slowdown of monitor i in ppm, rounded down, zero for a monitor that is no slower (16 R487). -/
def slowdown (counts : List Nat) (i : Nat) : Nat := (Config.fusedCount i - at0 counts i) * 1000000 / Config.fusedCount i

/-- The monitor with the largest slowdown, the lowest on a tie, and that slowdown. -/
def slowest (counts : List Nat) : Nat × Nat :=
  (List.range 64).foldl (fun b i => if b.2 < slowdown counts i then (i, slowdown counts i) else b) (0, slowdown counts 0)

/-- Some monitor's slowdown exceeds a threshold, exactly. -/
def exceeds (counts : List Nat) (t : Nat) : Bool :=
  (List.range 64).any (fun i => decide (t * Config.fusedCount i < (Config.fusedCount i - at0 counts i) * 1000000))

/-- Firmware's ageing check of the monitors (16 R487): the column steps up; the rails follow at a rubber boundary. -/
def columnCheck (counts : List Nat) (s : State) : State :=
  let w := slowest counts
  let col := s.power.ageCol
  if 3 ≤ col then (if exceeds counts (Config.ageThresh 2) then fault 63 0 w.1 s else s)
  else if w.2 < Config.ageThresh col then modPower (fun p => { p with overThresh := 0 }) s
  else if s.power.overThresh + 1 < 64 then modPower (fun p => { p with overThresh := p.overThresh + 1 }) s
  else ageRecord 1 col (col + 1) w.1 w.2 (modPower (fun p => { p with overThresh := 0, colNext := some (col + 1) }) s)

/-- TREND_PERIOD_CLOSE with the counts of the 64 monitors. Ageing steps wait while firmware is absent (18 R535). -/
def execTrendPeriodClose (counts : List Nat) (s : State) : Host.Outcome State Fault Refusal :=
  .next (if s.boot.fwRunning = false then s else columnCheck counts (forAll (List.range (laneCount s)) laneTrend s))

/-! ## Rows -/

/-- Another write sequence of flash runs. -/
def flashBusy (s : State) : Bool := s.boot.flash.isSome

/-- IMAGE_WRITE. -/
def execImageWrite (m : Nat) (s : State) : Host.Outcome State Fault Refusal :=
  .next (macCmd flashBusy m 0x0B01 (runCmd 0x0B01 m (fun c t => onPath m c.code 32 [1] c t (fun _ p => imageWrite m p t))) s)

/-- IMAGE_STATUS_GET. -/
def execImageStatusGet (m : Nat) (s : State) : Host.Outcome State Fault Refusal :=
  .next (runCmd 0x0B02 m (fun c t => onPath m c.code 16 [1] c t (fun _ _ => ansOk (imageStatus t) t)) s)

/-- FW_PATCH_APPLY: it starts when no other command is midway, so that none executes across its hand boundary (13 R415; log entry 114). -/
def execFwPatchApply (m : Nat) (s : State) : Host.Outcome State Fault Refusal :=
  .next (macCmd midway m 0x0B03 (runCmd 0x0B03 m (fun c t => onPath m c.code 32 [1] c t (fun _ p => patchApply m p t))) s)

/-- UC_STAGE. -/
def execUcStage (m : Nat) (s : State) : Host.Outcome State Fault Refusal :=
  .next (runCmd 0x0B04 m (fun c t => onPath m c.code 32 [1] c t (fun _ p => ucStage m p t)) s)

/-- UC_STAGING_END, by firmware. -/
def execUcStagingEnd (s : State) : Host.Outcome State Fault Refusal := .next (if s.boot.fwRunning then withEngine (decide (s.uc.st = .staging)) ucStagingEnd s else s)

/-- UC_COMMIT. -/
def execUcCommit (m : Nat) (s : State) : Host.Outcome State Fault Refusal :=
  .next (runCmd 0x0B05 m (fun c t => onPath m c.code 16 [1] c t (fun _ _ => ucSwitch [.valid, .previous] t)) s)

/-- UC_ROLLBACK. -/
def execUcRollback (m : Nat) (s : State) : Host.Outcome State Fault Refusal :=
  .next (runCmd 0x0B06 m (fun c t => onPath m c.code 16 [1] c t (fun _ _ => ucSwitch [.previous] t)) s)

/-- BOARD_TABLE_WRITE. -/
def execBoardTableWrite (m : Nat) (s : State) : Host.Outcome State Fault Refusal :=
  .next (heldUp (flashBusy s) id m 0x0C02 (runCmd 0x0C02 m (fun c t => onPath m c.code 32 [1] c t (fun _ p => boardWrite m p t))) s)

/-- BOARD_TABLE_GET. -/
def execBoardTableGet (m : Nat) (s : State) : Host.Outcome State Fault Refusal :=
  .next (runCmd 0x0C03 m (fun c t => onPath m c.code 16 [1] c t (fun _ _ => ansOk (boardStatus t) t)) s)

/-- FLASH_STORE. -/
def execFlashStore (erase : Bool) (s : State) : Host.Outcome State Fault Refusal := .next (flashStore erase s)

/-- FLASH_STORE_END. -/
def execFlashStoreEnd (ok : Bool) (s : State) : Host.Outcome State Fault Refusal := .next (flashStoreEnd ok s)

end Sys2Proof.Machine
end

