-- ==== Sys2Proof/Machine/Lanes.lean ====
section
/-! DEFINITION. The rows of 03: eye-figure windows and adaptation, lock and loss, pulse-echo, and the lane commands; with the comma and the partner's training requests of 04 R100, R103. -/

namespace Sys2Proof.Machine

/-! ## Windows -/

/-- The eye figure of a histogram (03 R71). -/
def eyeFigure (hist : List Nat) : Nat :=
  let q := ((List.range 256).find? (fun k => decide ((hist.drop (k + 1)).sum ≤ 16))).getD 255
  255 - q

/-- A window of initial adaptation closes with figure ef (03 R73): 16 codes, 4 windows of convergence, 1 confirming. -/
def adaptWindow (ef : Nat) (i : InitAdapt) (x : Lane) : Lane :=
  let n := i.done + 1
  if i.done < 16 then
    let better := decide (i.done = 0 ∨ i.best < ef)
    let best := if better then ef else i.best
    let code := if better then i.done else i.code
    { x with init := some { done := n, best := best, code := code }, ctle := if n < 16 then n else code }
  else if n < 21 then { x with init := some { i with done := n } }
  else { x with init := none, sinceTrial := 0 }

/-- The code that a CTLE trial tries: one step away, or up to two in linear drive, alternating upward and downward (03 R74, R76). At an end of the 16 codes the trial turns round (DEDUCED, log entry 23). -/
def trialCode (lin : Bool) (x : Lane) : Nat :=
  let d := if lin then x.trialSpan else 1
  if x.trialUp then (if x.ctle + d ≤ 15 then x.ctle + d else x.ctle - d)
  else if d ≤ x.ctle then x.ctle - d else x.ctle + d

/-- The trial after this one: the other side, and in linear drive the other distance after both sides. -/
def nextTrial (lin : Bool) (x : Lane) : Lane :=
  if x.trialUp then { x with trialUp := false }
  else { x with trialUp := true, trialSpan := if lin then (if x.trialSpan = 1 then 2 else 1) else 1 }

/-- CTLE trials at the end of a window (03 R74, R75): one begins every 16 windows, its own among them, and is resolved at the end of its window. None begins where a freeze falls due. -/
def trialWindow (lin : Bool) (ef : Nat) (x : Lane) : Lane :=
  match x.trial with
  | some t => { x with trial := none, ctle := if t.before + 2 ≤ ef then x.ctle else t.prev, sinceTrial := 1 }
  | none =>
    if x.frozen ∨ x.freezeNext then x
    else if x.sinceTrial < 15 then { x with sinceTrial := x.sinceTrial + 1 }
    else if ef < 48 then { x with sinceTrial := 0 }
    else nextTrial lin { x with sinceTrial := 0, trial := some ⟨x.ctle, ef⟩, ctle := trialCode lin x }

/-- A freeze that was ordered takes hold at the end of the window, whatever the lane is doing (03 R75). -/
def freezeDue (x : Lane) : Lane := if x.freezeNext then { x with frozen := true, freezeNext := false } else x

/-- A coefficient as the 16 bits of 03 Table 3.9 hold it. -/
def clip16 (v : Int) : Int := max (-32768) (min 32767 v)

/-- Taps of the receiver's FFE (03 R59, R70). -/
def ffeTaps (lin : Bool) : Nat := if lin then 40 else 24

/-- What the loops hold fits the receive chain: its FFE taps, the one-tap DFE, and in linear drive the offsets of the four levels (03 R70). -/
def adaptFit (lin : Bool) (a : Adapt) : Adapt :=
  { ffe := (List.range (ffeTaps lin)).map (fun i => clip16 (a.ffe.getD i 0))
    dfe := clip16 a.dfe
    levels := if lin then (List.range 4).map (fun i => clip16 (a.levels.getD i 0)) else [] }

/-- A port in TRAINING asks the partner for one coefficient step per window, up to 32, and then reports its receiver ready; a partner with TX_FIXED is asked for nothing (04 R103). The step goes on in the direction that raised the eye figure and turns when it did not; which tap comes next is a free value (log entry 106). -/
def askWindow (fixed : Bool) (ef tap : Nat) (x : CoeffAsk) : CoeffAsk :=
  if x.ready then x
  else if fixed ∨ 32 ≤ x.count then { x with ready := true }
  else { x with count := x.count + 1, tap := tap, up := if x.before ≤ ef then x.up else !x.up, before := ef }

/-- A window closes on a lane. -/
def laneWindow (warn : Nat) (lin : Bool) (ef : Nat) (a : Adapt) (x : Lane) : Lane :=
  let ad := adaptFit lin a
  let x1 := { x with efLast := ef, lastWin := some ef, windows := x.windows + 1, adapt := if x.frozen then x.adapt else ad,
                     perMin := min x.perMin ef, perSum := x.perSum + ef, perN := x.perN + 1 }
  let x2 := match x.init with
    | some i => adaptWindow ef i x1
    | none =>
      if x.restoreLeft = 2 ∧ ef < warn then { startAdapt x1 with fullReadapt := true, restored := false, perFull := true, ctle := 0 }
      else if 0 < x.restoreLeft then { x1 with restoreLeft := x.restoreLeft - 1, sinceTrial := 0 }
      else trialWindow lin ef x1
  let x3 := freezeDue x2
  { x3 with ready := x3.ready || laneReady x3 }

/-- The requests of a port in TRAINING at the end of a window of its lane (04 R103). -/
def laneAsk (l ef : Nat) (s : State) : State :=
  match portOfLane s l with
  | some (_, x) =>
    if x.link = .training then
      let f := drawFree 1 s
      modLane l (fun y => { y with ask := askWindow (x.ability.toNat.testBit 6) ef (fld f.1 0 1) y.ask }) f.2
    else s
  | none => s

/-- EYE_WINDOW_END. A window that a lane without lock, or below Run, leaves part-way yields nothing (03 R72). -/
def execEyeWindowEnd (l : Nat) (hist : List Nat) (a : Adapt) (s : State) : Host.Outcome State Fault Refusal :=
  let x := lane s l
  .next (
    if x.rung = 0 ∧ x.moving = false ∧ x.signal = true ∧ x.cdr = true then
      alignArm l (laneAsk l (eyeFigure hist) (modLane l (laneWindow (eyeWarn s l) (linear s l) (eyeFigure hist) a) s))
    else s)

/-! ## Lock, loss and measurement -/

/-- LANE_CDR_LOCK. The CDR locks within ±200 ppm (03 R63). -/
def execLaneCdrLock (l : Nat) (offset : Int) (s : State) : Host.Outcome State Fault Refusal :=
  let x := lane s l
  .next (
    if x.rung ≠ 0 ∨ x.moving = true ∨ 2000 < offset.natAbs then s
    else alignArm l <| modLane l (fun y =>
      let y1 := { y with signal := true, cdr := true, freqOffset := offset }
      let y2 := if y.wasLost then { startAdapt y1 with wasLost := false, ctle := 0 } else { y1 with ctle := if y.init.isSome then 0 else y.ctle }
      { y2 with ready := y2.ready || laneReady y2 }) s)

/-- LANE_SIGNAL_LOSS: the signal goes, or with signal true the lock alone (03 R72; 04 R111). -/
def execLaneSignalLoss (l : Nat) (signal : Bool) (s : State) : Host.Outcome State Fault Refusal :=
  .next (
    let s1 := modLane l (fun x => { laneDark x with signal := signal, wasLost := x.wasLost || decide (x.rung = 0 ∧ x.moving = false), comma := { x.comma with locked := false, hits := 0, misses := 0 } }) s
    synceLow l 1 (unalign l s1))

/-- Response of LANE_ECHO_MEASURE (03 R79, R80, Table 3.15). LENGTH and OUT_OF_RANGE come from the exact delay; the fields hold whole ps and mm, rounded down, from 0 to their largest value (DESIGN CHOICE, log entry 102). -/
def echoResp (s : State) (l : Nat) (e : EchoIn) : List Byte :=
  let d2 := e.roundTrip - 2 * planeDelay s l
  let d := d2 / 2
  -- the length in units of 5 × 10^-13 mm
  let exact := if e.found then d2 * (lane s l).vf * 299792458 else 0
  let len := exact / (2 * 10 ^ 12)
  let q := b2n (e.found && e.positive) + 2 * b2n (e.found && !e.positive) + 4 * b2n (!e.found) + 8 * b2n e.disturbed
    + 16 * b2n (decide (8000 * (2 * 10 ^ 12) < exact))
  leBytes 4 (satN 0xFFFFFFFF e.roundTrip) ++ leBytes 4 (satN 0xFFFFFFFF d) ++ leBytes 2 (satN 65535 len) ++ [byte q] ++ zeros 5

/-- ECHO_MEASURE_END: the measurement of a lane whose circuits stand at Run. -/
def execEchoMeasureEnd (l : Nat) (e : EchoIn) (s : State) : Host.Outcome State Fault Refusal :=
  .next (
    match (lane s l).echo with
    | some w => if (lane s l).rung = 0 ∧ (lane s l).moving = false then answer w.mb stOk 0 (echoResp s l e) (echoEnd l s) else s
    | none => s)

/-- TRAINING_COEFF_REQUEST: answered without moving a tap (04 R103). -/
def execTrainingCoeffRequest (l : Nat) (r : CoeffReq) (s : State) : Host.Outcome State Fault Refusal :=
  .next (
    match portOfLane s l with
    | some (_, x) =>
      if x.link = .training then
        modLane l (fun y => { y with coeffAns := some (match r with
          | .increment => .maximum
          | .decrement => .minimum
          | .initialise => .updated
          | .preset => .updated) }) s
      else s
    | none => s)

/-! ## Commas (04 R99, R100) -/

/-- COMMA_RECEIVE: symbols y that a lane of an N-400 port at Run received, the bits of the second of them standing at bit at_ of all that it received. The inner code is undone and the bits are searched, or on a locked lane looked at where the next comma is due. An invalid CHECK on a locked lane's match counts COMMA_BAD; DEGRADE of the partner sets REMOTE_DEGRADE (04 R100, R109). -/
def execCommaReceive (l : Nat) (i : CommaIn) (s : State) : Host.Outcome State Fault Refusal :=
  .next (
    match portOfLane s l with
    | none => s
    | some (p, x) =>
      if laneMode s l ≠ 3 ∨ (lane s l).rung ≠ 0 ∨ (lane s l).cdr = false then s
      else
        let bits := innerUndo i.ys
        let s0 := modLane l (fun y => { y with comma := commaStep i.at_ bits y.comma }) s
        let s1 := if (lane s0 l).comma.locked then s0 else unalign l s0
        let s2 := if commaBad i.at_ bits (lane s l).comma then ev 0x010D p s1 else s1
        modPort p (fun y => { y with remoteDegrade := (portLanes p x).any (fun i => (lane s2 i).comma.locked && (lane s2 i).comma.degrade) }) s2)

/-! ## Lane commands -/

/-- Response of LANE_CLASS_SET (03 Table 3.12) for a set. -/
def classResp (s : State) (l : Nat) (k : Option Nat) : List Byte :=
  match k with
  | some n =>
    let b := firBytes s.boot.table l n
    [byte n] ++ b.take 5 ++ [byte (fld b 5 1), 0]
  | none => [0xFF] ++ zeros 7

/-- LANE_CLASS_SET (03 R66, R69, R76, R88, R90). -/
def laneClassSet (q : Path) (m : Nat) (c : Cmd) (p : List Byte) (s : State) : Ans :=
  let l := q.index
  let cls := fld p 16 1
  let fl := fld p 17 1
  let vf := fld p 18 2
  let mode := laneMode s l
  let up := match portOfLane s l with
    | some (_, x) => decide (x.link = .up)
    | none => false
  checks [(decide (cls ≤ 15), 16), (decide (fl < 4), 17), (decide (vf = 0 ∨ (500 ≤ vf ∧ vf ≤ 1000)), 18), rsv p 20 4,
    (!up || fl.testBit 0, 17)] s (fun _ =>
    let k := if mode = 0 ∨ cls = 0 then none else firSelect s l cls mode (fl.testBit 1)
    if (cls = 5 ∧ (linearOk s l = false ∨ mode = 1)) ∨ (mode ≠ 0 ∧ cls ≠ 0 ∧ k = none) then ansSt stNoResource s
    else
      let x := lane s l
      let s1 := if x.ageMove then ageRecord 3 (b2n x.useAlt) (b2n (fl.testBit 1)) l (x.trendMean) (modLane l (fun y => { y with ageMove := false }) s) else s
      ansOk (classResp s l k) { s1 with deferred := s1.deferred ++ [{ code := c.code, req := p, mb := m }] })

/-- LANE_CLASS_SET at its trick boundary. FORCE on a lane below Run, or still on its way there, starts no adaptation: the exit that follows restores the stored copy where the class is unchanged (DESIGN CHOICE, log entry 103). -/
def laneClassApply (p : List Byte) (s : State) : State :=
  let l := (pathOf p).index
  let cls := fld p 16 1
  let fl := fld p 17 1
  let vf := fld p 18 2
  let x := lane s l
  let s1 := modLane l (fun y => { y with cls := cls, vf := if vf = 0 then 720 else vf, useAlt := fl.testBit 1, lastChange := if y.cls = cls then y.lastChange else rubberNow s }) s
  let s2 := if x.cls = cls then s1 else dropStored l s1
  let s3 := applyFir l s2
  if fl.testBit 0 = true ∧ x.rung = 0 ∧ x.moving = false then modLane l (fun y => { startAdapt y with ctle := 0, fullReadapt := true, perFull := true }) s3 else s3

/-- SIGNAL as it reads: 0 without a signal, without CDR lock, and at rung 1 or deeper (03 R72). -/
def laneSignal (x : Lane) : Bool := x.signal && x.cdr && decide (x.rung = 0)

/-- LANE_STATUS_GET (03 Table 3.13). -/
def laneStatus (s : State) (l : Nat) : List Byte :=
  let x := lane s l
  let alt := match x.fir with
    | some k => decide (k % 2 = 1)
    | none => false
  let fl := b2n (laneSignal x) + 2 * b2n x.cdr + 4 * b2n (linear s l) + 8 * b2n alt + 16 * b2n x.frozen + 32 * b2n x.restored
    + 64 * b2n x.fullReadapt + 128 * b2n x.stored.isSome
  [byte (laneMode s l), byte x.cls, byte x.rung, byte (if laneSignal x then x.efLast else 0), byte x.ctle, byte fl]
    ++ leBytes 2 (if x.cdr then uInt 16 x.freqOffset else 0) ++ leBytes 4 x.windows ++ [byte x.trendMin, byte x.trendMean, 0, 0]
    ++ leBytes 8 x.lastChange ++ zeros 8

/-- LANE_ECHO_MEASURE (03 R78, R92): the lane's circuits are raised to Run while the measurement stands, through the ladder of 16 R475. A second measurement on the lane is NOT_READY (DESIGN CHOICE, log entry 102). -/
def laneEcho (q : Path) (m : Nat) (p : List Byte) (s : State) : Ans :=
  let l := q.index
  let a := fld p 16 1
  let x := lane s l
  let busy := match portOfLane s l with
    | some (_, y) => decide (y.link = .up ∨ y.link = .training)
    | none => false
  checks [(decide (a = 0 ∨ (8 ≤ a ∧ a ≤ 16)), 16), rsv p 17 7, ([0, 1, 2, 6].contains x.cls, 0)] s (fun _ =>
    if busy || x.echo.isSome then ansSt stNotReady s
    else .hold (.echo l) (modLane l (fun y => { y with echo := some ⟨if a = 0 then 12 else a, m⟩ }) s))

/-- LANE_ADAPT_CTL (03 R75, R93). -/
def laneAdaptCtl (q : Path) (p : List Byte) (s : State) : Ans :=
  let l := q.index
  let op := fld p 16 1
  checks [(decide (op ≤ 3), 16), rsv p 17 7] s (fun _ =>
    if op ≤ 2 ∧ ((lane s l).rung ≠ 0 ∨ (lane s l).moving = true) then ansSt stNotReady s
    else match op with
      | 0 => ansOk [] (modLane l (fun x => if x.cdr ∧ x.frozen = false then { x with freezeNext := true } else { x with frozen := true }) s)
      | 1 => ansOk [] (modLane l (fun x => { x with frozen := false, freezeNext := false }) s)
      | 2 => ansOk [] (modLane l (fun x => { startAdapt x with ctle := 0, fullReadapt := true, perFull := true }) s)
      | _ => ansOk [] (dropStored l s))

/-- LANE_CLASS_SET. -/
def execLaneClassSet (m : Nat) (s : State) : Host.Outcome State Fault Refusal :=
  .next (runCmd 0x0201 m (fun c t => onPath m c.code 24 [2] c t (fun q p => laneClassSet q m c p t)) s)

/-- LANE_STATUS_GET. -/
def execLaneStatusGet (m : Nat) (s : State) : Host.Outcome State Fault Refusal :=
  .next (runCmd 0x0202 m (fun c t => onPath m c.code 16 [2] c t (fun q _ => ansOk (laneStatus t q.index) t)) s)

/-- LANE_ECHO_MEASURE. -/
def execLaneEchoMeasure (m : Nat) (s : State) : Host.Outcome State Fault Refusal :=
  .next (runCmd 0x0203 m (fun c t => onPath m c.code 24 [2] c t (fun q p => laneEcho q m p t)) s)

/-- LANE_ADAPT_CTL. -/
def execLaneAdaptCtl (m : Nat) (s : State) : Host.Outcome State Fault Refusal :=
  .next (runCmd 0x0204 m (fun c t => onPath m c.code 24 [2] c t (fun q p => laneAdaptCtl q p t)) s)

end Sys2Proof.Machine
end

