-- ==== Sys2Proof/Machine/Ports.lean ====
section
/-! DEFINITION. The rows of 04: negotiation, training, alignment and link states, parking, FEC, storms, neighbour discovery, ESMC, SyncE and references, and the port commands; with the parser commands of 05. -/

namespace Sys2Proof.Machine

/-! ## Link states (04 Table 4.7) -/

/-- No lane of the port has signal energy. -/
def allQuiet (s : State) (p : Nat) (x : Port) : Bool := (portLanes p x).all (fun l => !(lane s l).signal)

/-- The lane modes whose IEEE PHYs the base page advertises: every one of Table 4.2 for the port's lane count and a lane rate up to that of the configured mode (04 R104). -/
def pagePhys (x : Port) : List Nat := [1, 2].filter (fun m => decide (m ≤ x.mode))

/-- The ability payload that the device sends (04 Table 4.5; 12 R366): VERSION, TX_FIXED, STACK, LINEAR and WIDTHS, which names the port's own width (DEDUCED, log entry 107). -/
def ownAbility (s : State) (p : Nat) (x : Port) : Nat :=
  0x100 + 64 + 32 * b2n x.stk.enable + 16 * b2n ((portLanes p x).all (linear s)) + (if x.mode = 3 then 2 ^ widthCode x.width else 0)

/-- The next pages that follow the base page with NEG 2: the OUI message page and the unformatted page (04 R104). -/
def nextPages (s : State) (p : Nat) (x : Port) : List (BitVec 48) :=
  if x.neg = 2 then
    [BitVec.ofNat 48 (0x5AC57B * 2 ^ 24 + 1 * 2 ^ 16 + 2 ^ 15 + 2 ^ 13 + 5), BitVec.ofNat 48 (ownAbility s p x * 2 ^ 16 + 1)]
  else []

/-- The pages that a port in NEGOTIATING sends now: the PHYs of its base page, NP, and the next pages. A probe sends them for one rubber, and on while a partner answers (04 R104, Table 4.7). -/
def pagesSent (s : State) (p : Nat) (x : Port) : Option (List Nat × Bool × List (BitVec 48)) :=
  let goes := match x.probeEnd with
    | some t => decide (now s < t) || !allQuiet s p x
    | none => true
  if x.link = .negotiating ∧ x.neg ≠ 0 ∧ (portLanes p x).all (laneSends s) = true ∧ goes = true then
    some (pagePhys x, decide (x.neg = 2), nextPages s p x)
  else none

/-- The partner's page set with this device's identifier counts only with NEG 2: without NP the device asks for no next pages (04 R104). -/
def partnerAbility (x : Port) (a : PartnerIn) : Option (BitVec 32) := if x.neg = 2 then a.ability else none

/-- Mode that negotiation resolves (04 R105; 12 R366); none is NO_COMMON. Both ends set the WIDTHS bit of the port's width for N-400. -/
def resolveMode (s : State) (p : Nat) (x : Port) (a : PartnerIn) : Option Nat :=
  let ab := partnerAbility x a
  let bit : Nat → Bool := fun n => (ab.getD 0).toNat.testBit n
  let w := widthCode x.width
  if x.stk.enable ∧ x.neg = 2 ∧ bit 5 = false then none
  else if x.neg = 2 ∧ (ownAbility s p x).testBit w = true ∧ bit w = true ∧ (portLanes p x).all (fun l => !noN400 s l) = true then some 3
  else if (pagePhys x).contains 2 = true ∧ a.ieee200 = true then some 2
  else if (pagePhys x).contains 1 = true ∧ a.ieee100 = true then some 1
  else none

/-- A mode is resolved: TRAINING, with lanes whose mode changed adapting anew. A mode other than the last one makes the calibration void (10 R290). -/
def resolved (p m : Nat) (s : State) : State :=
  match port s p with
  | none => s
  | some x =>
    let old := portMode x
    let s1 := modPort p (fun y => { y with resolved := m, lastMode := m, calValid := y.calValid && decide (old = m), pcs := {} }) s
    let s2 := forAll (portLanes p x) (fun l acc =>
      let a := if (lane acc l).mode = m then acc else applyFir l (laneModeSet l m acc)
      modLane l (fun y => { y with ask := {}, coeffAns := none }) a) s1
    setLink p .training s2

/-- NEGOTIATION_RESOLVED: pages have been exchanged with a partner. -/
def execNegotiationResolved (p : Nat) (a : PartnerIn) (s : State) : Host.Outcome State Fault Refusal :=
  .next (
    match port s p with
    | none => s
    | some x =>
      if pagesSent s p x = none then s
      else
        let ab := partnerAbility x a
        let s1 := modPort p (fun y => { y with basePage := a.basePage, ability := ab.getD 0, partnerN400 := ab.isSome, quiet := 0 }) s
        match resolveMode s1 p x a with
        | some m => resolved p m s1
        | none => ev 0x010E p (modPort p (fun y => { y with downCause := 5 }) s1))

/-- TRAINING_COMPLETE: both receivers report ready. -/
def execTrainingComplete (p : Nat) (s : State) : Host.Outcome State Fault Refusal :=
  .next (
    match port s p with
    | some x =>
      if x.link = .training then
        enterAligning p true (forAll (portLanes p x) (fun l acc => modLane l (fun y => { y with ask := { y.ask with ready := true } }) acc) s)
      else s
    | none => s)

/-- TRAINING_TIMEOUT. -/
def execTrainingTimeout (p : Nat) (s : State) : Host.Outcome State Fault Refusal :=
  .next (
    match port s p with
    | some x => if x.link = .training then enterNegotiating p (modPort p (fun y => { y with downCause := 4, timeouts := y.timeouts + 1 }) s) else s
    | none => s)

/-- PORT_ALIGNED: lock on every lane, agreeing commas, skew within 180 ns and a partner within the frequency limit, and no fault reported (04 R101, Table 4.7). -/
def execPortAligned (p skew : Nat) (s : State) : Host.Outcome State Fault Refusal :=
  .next (
    match port s p with
    | some x =>
      if x.link = .aligning ∧ lanesLocked s p x = true ∧ commaLocked s p x = true ∧ commasAgree s p x = true ∧ skew ≤ 180 ∧ freqOk s p x = true
      then enterUp p skew s else s
    | none => s)

/-- ALIGN_TIMEOUT: 4 ms without UP, counted from when every lane had been ready (04 R558), a trick being 1,024 ns; a deskew of locked lanes measures the skew (04 R101). A port that only a fault keeps from UP is aligned. -/
def execAlignTimeout (p : Nat) (localF remoteF : Bool) (skew : Nat) (s : State) : Host.Outcome State Fault Refusal :=
  .next (
    match port s p with
    | some x =>
      let ended := match x.alignFrom with
        | some t => decide (4000000 ≤ (now s - t) * 1024)
        | none => false
      if x.link = .aligning ∧ ended = true then
        let w := if x.width = 1 then 0 else skew
        let c := alignCause s p x localF remoteF w
        let s1 := if c = 9 then ev 0x0108 p s else s
        linkAgain p (modPort p (fun y => { y with downCause := c, aligned := decide (c = 8 ∨ c = 10), skew := if c = 1 ∨ c = 2 then y.skew else min w 65535 }) s1)
      else s
    | none => s)

/-- DOWN_CAUSE of an event that takes a port out of UP (04 Table 4.11). -/
def downCode (e : DownEvent) : Nat :=
  match e with
  | .signalLost => 1
  | .lockLost => 2
  | .alignLost => 3
  | .refLost => 6
  | .localFault => 10
  | .remoteFault => 8

/-- The condition of the event as far as the state shows it. -/
def downNow (s : State) (p : Nat) (x : Port) (e : DownEvent) : Bool :=
  match e with
  | .signalLost => (portLanes p x).any (fun l => !(lane s l).signal)
  | .lockLost => (portLanes p x).any (fun l => !(lane s l).cdr) || !commaLocked s p x
  | .refLost => (portLanes p x).any (fun l => quadLost s (l / 128))
  | .alignLost => true
  | .localFault => true
  | .remoteFault => true

/-- LINK_DOWN. -/
def execLinkDown (p : Nat) (e : DownEvent) (s : State) : Host.Outcome State Fault Refusal :=
  .next (
    match port s p with
    | some x => if x.link = .up ∧ downNow s p x e = true then linkLost p (downCode e) true s else s
    | none => s)

/-- PORT_PARK: PARK_DELAY rubbers, of 1,024 tricks each, without a signal. -/
def execPortPark (p : Nat) (s : State) : Host.Outcome State Fault Refusal :=
  .next (
    match port s p with
    | some x =>
      if x.link = .negotiating ∧ x.guard.parkDelay ≠ 0 ∧ 1024 * x.guard.parkDelay ≤ x.quiet ∧ allQuiet s p x = true then
        setLink p .parked (modPort p (fun y => { y with probe := 0 }) (lanesReq p x.guard.parkRung s))
      else s
    | none => s)

/-- A parked port leaves for NEGOTIATING; a pulse-echo measurement on its lanes stops (04 R108). -/
def unpark (p : Nat) (s : State) : State := enterNegotiating p (lanesReq p 0 s)

/-- PORT_PROBE: PROBE rubbers since parking or the last probe; the pages are sent for a rubber. -/
def execPortProbe (p : Nat) (s : State) : Host.Outcome State Fault Refusal :=
  .next (
    match port s p with
    | some x =>
      if x.link = .parked ∧ 1024 * x.guard.probe ≤ x.probe then modPort p (fun y => { y with probeEnd := some (now s + 1024) }) (unpark p s) else s
    | none => s)

/-- PARKED_SIGNAL: a lane at rung 5 detects no signal energy (04 R108). -/
def execParkedSignal (p : Nat) (s : State) : Host.Outcome State Fault Refusal :=
  .next (
    match port s p with
    | some x => if x.link = .parked ∧ (portLanes p x).any (fun l => decide ((lane s l).rung < 5)) = true then unpark p s else s
    | none => s)

/-- FEC_UNCORRECTABLE (04 R102, R109): the frame whose bytes are arriving on the port is one of those that the MAC discards. -/
def execFecUncorrectable (l : Nat) (s : State) : Host.Outcome State Fault Refusal :=
  .next (
    match portOfLane s l with
    | some (p, x) =>
      let hit := x.arriving.isSome || x.early.isSome || x.staged.any (fun f => !f.whole)
      portFault 50 p l (ev 0x010B p (modPort p (fun y => { y with rxBad := y.rxBad || hit }) s))
    | none => s)

/-! ## Storms -/

/-- STORM_ENTER; pri 8 is Annex 31B. -/
def execStormEnter (p i : Nat) (s : State) : Host.Outcome State Fault Refusal :=
  .next (
    match port s p with
    | some x =>
      if x.link = .up ∧ i ≤ 8 ∧ watched x i = true ∧ inStorm x i = false ∧ x.guard.storm ≠ 0 ∧ x.guard.storm ≤ at0 x.pausedRun i then
        portFault 51 p i (stormDiscard p (setStorm p i true s))
      else s
    | none => s)

/-- STORM_EXIT. -/
def execStormExit (p i : Nat) (s : State) : Host.Outcome State Fault Refusal :=
  .next (
    match port s p with
    | some x => if i ≤ 8 ∧ inStorm x i = true ∧ x.guard.storm ≤ at0 x.stormQuiet i then setStorm p i false s else s
    | none => s)

/-! ## Neighbour discovery and ESMC -/

/-- A frame without FCS, padded to the 60 bytes of the shortest. -/
def padded (bs : List Byte) : List Byte := bs ++ zeros (60 - bs.length)

/-- So many ns have passed since the trick count at which firmware last sent a PDU, or it has sent none since the port entered UP. -/
def pduDue (s : State) (last : Option Nat) (ns : Nat) : Bool :=
  match last with
  | some t => decide (ns ≤ (now s - t) * 1024)
  | none => true

/-- A TLV of IEEE 802.1AB. -/
def lldpTlv (typ : Nat) (v : List Byte) : List Byte := beBytes 2 (512 * typ + v.length) ++ v

/-- An LLDPDU to the nearest-bridge address: Chassis ID, Port ID, TTL, System Name and End (04 R106). The MAC address and the values of the TLVs are the free bytes f. -/
def lldpFrame (f : List Byte) : List Byte :=
  padded ([0x01, 0x80, 0xC2, 0, 0, 0x0E] ++ slice f 0 6 ++ [0x88, 0xCC]
    ++ lldpTlv 1 (slice f 6 7) ++ lldpTlv 2 (slice f 13 7) ++ lldpTlv 3 (slice f 20 2) ++ lldpTlv 5 (slice f 22 8) ++ lldpTlv 0 [])

/-- LLDP_TX: every 30 s (04 R106). -/
def execLldpTx (p : Nat) (s : State) : Host.Outcome State Fault Refusal :=
  .next (
    match port s p with
    | some x =>
      if x.link = .up ∧ x.lldp = true ∧ s.boot.fwRunning = true ∧ pduDue s x.lldpAt (30 * 10 ^ 9) = true then
        let f := drawFree 30 s
        macSend p (lldpFrame f.1) (modPort p (fun y => { y with lldpAt := some (now s) }) f.2)
      else s
    | none => s)

/-- LLDPDU_RECEIVE. A TTL of 0 ends the neighbour. -/
def execLldpduReceive (p : Nat) (pdu : List Byte) (s : State) : Host.Outcome State Fault Refusal :=
  .next (
    match port s p with
    | some x =>
      if x.link = .up ∧ x.lldp = true ∧ s.boot.fwRunning = true then
        match neighbourOf pdu (now s) with
        | some n => modPort p (fun y => { y with neighbour := if n.ttl = 0 then none else some n }) s
        | none => s
      else s
    | none => s)

/-- LLDP_TTL_EXPIRY. -/
def execLldpTtlExpiry (p : Nat) (s : State) : Host.Outcome State Fault Refusal :=
  .next (
    match port s p with
    | some x =>
      match x.neighbour with
      | some n => if n.ttl * 10 ^ 9 ≤ (now s - n.at_) * 1024 then modPort p (fun y => { y with neighbour := none }) s else s
      | none => s
    | none => s)

/-- An ESMC PDU of ITU-T G.8264 with the QL TLV and the enhanced SSM TLV of 20 bytes. The MAC address and the content of the enhanced TLV are the free bytes f. -/
def esmcFrame (event : Bool) (ql : Nat) (f : List Byte) : List Byte :=
  padded ([0x01, 0x80, 0xC2, 0, 0, 0x02] ++ slice f 0 6 ++ [0x88, 0x09, 0x0A, 0x00, 0x19, 0xA7, 0x00, 0x01]
    ++ [byte (0x10 + 8 * b2n event), 0, 0, 0] ++ [1, 0, 4, byte (ql % 16)] ++ [2, 0, 20] ++ slice f 6 17)

/-- The QL that host software has newly set, another one than before: no command of the spec sets it, so its value is free (04 R113; log entry 108). -/
def newQl (old : Nat) (b : Byte) : Nat := (old + 1 + b.toNat % 15) % 16

/-- ESMC_TX: an information PDU once a second, or the event PDU of a QL that has changed (04 R113). -/
def execEsmcTx (p : Nat) (event : Bool) (s : State) : Host.Outcome State Fault Refusal :=
  .next (
    match port s p with
    | some x =>
      if x.link = .up ∧ x.esmc = true ∧ s.boot.fwRunning = true ∧ (event || pduDue s x.esmcAt (10 ^ 9)) = true then
        let f := drawFree 24 s
        let ql := if event then newQl x.ql (f.1.getD 23 0) else x.ql
        let at_ := if event then x.esmcAt else some (now s)
        macSend p (esmcFrame event ql f.1) (modPort p (fun y => { y with ql := ql, esmcAt := at_ }) f.2)
      else s
    | none => s)

/-! ## SyncE and references -/

/-- SYNCE_OUT_RESUME: 64 tricks after the port returned to UP (04 R111). -/
def execSynceOutResume (o : Nat) (s : State) : Host.Outcome State Fault Refusal :=
  .next (
    match s.refs.out.getD o none with
    | some l =>
      if o < 2 ∧ synceGood s l = true ∧ s.refs.upAt.getD o 0 + 64 ≤ now s then
        { s with refs := { s.refs with low := s.refs.low.set o false } }
      else s
    | none => s)

/-- REFCLK_LOSS: 0 to 3 REFCLK_A to D, 4 M, 5 T. -/
def execRefclkLoss (r : Nat) (s : State) : Host.Outcome State Fault Refusal := .next (if r < 6 then refLoss r s else s)

/-- REFCLK_RETURN: lanes whose requested rung is Run leave rung 4 at the next trick boundary (03 R64; 16 R475). -/
def execRefclkReturn (r : Nat) (s : State) : Host.Outcome State Fault Refusal :=
  .next { s with refs := { s.refs with lost := s.refs.lost.filter (fun x => x != r) } }

/-! ## Port commands -/

/-- Lanes lie in another configured port. -/
def portOverlap (s : State) (p w : Nat) : Bool :=
  s.ports.any (fun e => decide (e.1 ≠ p ∧ e.1 < p + w ∧ p < e.1 + e.2.width))

/-- Class and USE_ALT that a lane has declared: those of the last LANE_CLASS_SET that waits for its boundary, else those in force. -/
def declared (s : State) (l : Nat) : Nat × Bool :=
  match s.deferred.reverse.find? (fun d => d.code == 0x0201 && (pathOf d.req).index == l) with
  | some d => (fld d.req 16 1, (fld d.req 17 1).testBit 1)
  | none => ((lane s l).cls, (lane s l).useAlt)

/-- A lane's declared class fits the mode: a usable set, and linear drive outside 100G (03 R69, R76). -/
def classFits (s : State) (mode l : Nat) : Bool :=
  let d := declared s l
  decide (d.1 = 0) ||
    ((firSelect s l d.1 mode d.2).isSome && !(decide (d.1 = 5) && (!linearOk s l || decide (mode = 1))))

/-- PORT_CONFIG (04 R95, R97, Table 4.10; 03 R61, R69; 05 R139; 16 R477). -/
def portConfig (q : Path) (p : List Byte) (s : State) : Ans :=
  let n := q.index
  let w := fld p 16 1
  let mode := fld p 17 1
  let neg := fld p 18 1
  let mf := fld p 20 2
  let resp := pathBytes { q with kind := 3 }
  checks [([0, 1, 2, 4, 8].contains w, 16), rsv p 22 10] s (fun _ =>
    if w = 0 then
      if n < laneCount s ∧ (port s n).isSome = true then ansOk resp (unconfigPort n s) else ansSt stNoResource s
    else checks [(decide (n % w = 0), 0), (decide (1 ≤ mode ∧ mode ≤ 3), 17), (decide (neg ≤ 2), 18), (decide (fld p 19 1 < 16), 19),
        (decide (mf = 0 ∨ (64 ≤ mf ∧ mf ≤ 16000)), 20)] s (fun _ =>
      let ls := (List.range w).map (fun i => n + i)
      if laneCount s < n + w ∨ portOverlap s n w = true ∨ (mode = 3 ∧ ls.any (noN400 s) = true) ∨ ls.all (classFits s mode) = false then ansSt stNoResource s
      else if atRun s (64 + groupOf n) = false ∨ entryValid s.uc.active 0 = false ∨ (s.uc.st = .committed ∧ entryValid s.uc.standby 0 = false) then ansSt stNotReady s
      else ansOk resp (configPort n w mode neg (fld p 19 1) mf (forAll ls echoStop s))))

/-- STATE of Table 4.11. -/
def linkCode (l : LinkState) : Nat :=
  match l with
  | .negotiating => 0
  | .training => 1
  | .aligning => 2
  | .up => 3
  | .dampened => 4
  | .parked => 5

/-- PORT_STATUS_GET (04 Table 4.11). -/
def portStatus (s : State) (p : Nat) : List Byte :=
  match port s p with
  | none => []
  | some x =>
    let deg := portDegraded s p x
    let fl := b2n (x.aligned && decide (x.link = .aligning ∨ x.link = .up)) + 2 * b2n x.remoteDegrade + 4 * b2n deg + 8 * b2n x.partnerN400
      + 16 * b2n (x.timers.any (fun t => decide (0 < t))) + 32 * b2n s.refs.reftLost + 64 * b2n x.storm31
    [byte (linkCode x.link), byte (if x.neg = 0 then x.mode else x.resolved), byte x.width, byte fl, byte x.storm.toNat, byte x.downCause]
      ++ leBytes 2 (x.penalty / 65536) ++ leBytes 2 x.skew ++ [0, 0] ++ evLow s 0x0109 p 0 4 ++ evLow s 0x010A p 0 8
      ++ evLow s 0x010B p 0 8 ++ evLow s 0x010C p 0 8 ++ evLow s 0x010D p 0 4 ++ evLow s 0x010E p 0 4 ++ evLow s 0x010F p 0 8
      ++ leBytes 8 x.lastChange

/-- PORT_PARTNER_GET (04 Table 4.12). -/
def portPartner (s : State) (p : Nat) : List Byte :=
  match port s p with
  | none => []
  | some x =>
    let pages := leBytes 8 x.basePage.toNat ++ leBytes 4 x.ability.toNat
    match x.neighbour with
    | some n => pages ++ [1, byte n.chassisSub, byte n.portSub, 0] ++ leBytes 2 (ttlLeft s n) ++ zeros 6 ++ slice n.chassis 0 32 ++ slice n.portId 0 32
    | none => pages ++ zeros 76

/-- PORT_GUARD_SET (04 R115, Table 4.13). -/
def portGuardSet (m : Nat) (c : Cmd) (p : List Byte) (s : State) : Ans :=
  checks [(decide (1 ≤ fld p 18 2), 18), (decide (1 ≤ fld p 20 1 ∧ fld p 20 1 ≤ 4), 20), (decide (4 ≤ fld p 21 1 ∧ fld p 21 1 ≤ 16), 21),
    (decide (1 ≤ fld p 22 2), 22), (decide (1 ≤ fld p 24 2 ∧ fld p 24 2 < fld p 22 2), 24), rsv p 26 2,
    (decide (fld p 28 4 ≤ 16777215), 28), (decide (1 ≤ fld p 32 4 ∧ fld p 32 4 ≤ 2 ^ 31), 32)] s (fun _ =>
    ansOk [] { s with deferred := s.deferred ++ [{ code := c.code, req := p, mb := m }] })

/-- PORT_GUARD_SET at its trick boundary: the storm watchdog starts anew. -/
def portGuardApply (p : List Byte) (s : State) : State :=
  modPort (pathOf p).index (fun x => { x with
    guard := { parkDelay := fld p 16 2, probe := fld p 18 2, parkRung := fld p 20 1, decayShift := fld p 21 1, suppress := fld p 22 2, reuse := fld p 24 2, storm := fld p 28 4, fecLimit := fld p 32 4 }
    storm := 0
    storm31 := false
    pausedRun := [0, 0, 0, 0, 0, 0, 0, 0, 0]
    stormQuiet := [0, 0, 0, 0, 0, 0, 0, 0, 0] }) s

/-- A lane path of SYNCE_SET that is neither all zero nor a well-formed lane path. -/
def synceBad (p : List Byte) (a : Nat) : Bool :=
  !allZero (slice p a 16) && (pathBad false (slice p a 16) || decide (fld p a 1 ≠ 2))

/-- SYNCE_SET (04 R111, R112, Table 4.14). -/
def synceSet (m : Nat) (c : Cmd) (s : State) : Ans :=
  let p := c.payload
  if p.length < 48 then ansSt stBadArg s
  else match ((p.drop 48).zipIdx).find? (fun b => b.1 != 0) with
    | some b => ansBad (48 + b.2) s
    | none =>
      match [0, 16].find? (fun a => synceBad p a) with
      | some a => ansBad a s
      | none =>
        let qs := ([0, 16].filter (fun a => !allZero (slice p a 16))).map (fun a => (a, pathOf (slice p a 16)))
        match qs.find? (fun e => target s e.2 != .here) with
        | some e => remoteCmd m c.code p e.2 s
        | none =>
          checks [(decide (fld p 32 1 < 4), 32), (decide (fld p 33 1 < 16), 33), rsv p 34 14] s (fun _ =>
            if qs.any (fun e => !unitExists s e.2) || (s.ident.half && decide (4 ≤ fld p 33 1)) then ansSt stNoResource s
            else match qs.find? (fun e => (portOfLane s e.2.index).isNone) with
              | some e => ansBad e.1 s
              | none => ansOk [] { s with deferred := s.deferred ++ [{ code := c.code, req := p, mb := m }] })

/-- PARSER_PORT_SET (05 R138). -/
def parserPortSet (m : Nat) (c : Cmd) (p : List Byte) (s : State) : Ans :=
  let e := fld p 16 1
  checks [(decide (e ≤ 15), 16), rsv p 17 7, (entryValid s.uc.active e, 16), (decide (s.uc.st ≠ .committed) || entryValid s.uc.standby e, 16)] s (fun _ =>
    ansOk [] { s with deferred := s.deferred ++ [{ code := c.code, req := p, mb := m }] })

/-- PARSER_GROUP_SET (05 R140). -/
def parserGroupSet (m : Nat) (c : Cmd) (p : List Byte) (s : State) : Ans :=
  checks [(decide (fld p 16 1 ≤ 1), 16), rsv p 17 7] s (fun _ =>
    ansOk [] { s with deferred := s.deferred ++ [{ code := c.code, req := p, mb := m }] })

/-- PORT_CONFIG. -/
def execPortConfig (m : Nat) (s : State) : Host.Outcome State Fault Refusal :=
  .next (runCmd 0x0210 m (fun c t => onPathAny m c.code 32 [2] c t (fun q p => portConfig q p t)) s)

/-- PORT_STATUS_GET. -/
def execPortStatusGet (m : Nat) (s : State) : Host.Outcome State Fault Refusal :=
  .next (runCmd 0x0211 m (fun c t => onPath m c.code 16 [3] c t (fun q _ => ansOk (portStatus t q.index) t)) s)

/-- PORT_PARTNER_GET. -/
def execPortPartnerGet (m : Nat) (s : State) : Host.Outcome State Fault Refusal :=
  .next (runCmd 0x0212 m (fun c t => onPath m c.code 16 [3] c t (fun q _ => ansOk (portPartner t q.index) t)) s)

/-- PORT_GUARD_SET. -/
def execPortGuardSet (m : Nat) (s : State) : Host.Outcome State Fault Refusal :=
  .next (runCmd 0x0213 m (fun c t => onPath m c.code 36 [3] c t (fun _ p => portGuardSet m c p t)) s)

/-- SYNCE_SET. -/
def execSynceSet (m : Nat) (s : State) : Host.Outcome State Fault Refusal :=
  .next (runCmd 0x0214 m (fun c t => synceSet m c t) s)

/-- PARSER_PORT_SET. -/
def execParserPortSet (m : Nat) (s : State) : Host.Outcome State Fault Refusal :=
  .next (runCmd 0x0220 m (fun c t => onPath m c.code 24 [3] c t (fun _ p => parserPortSet m c p t)) s)

/-- PARSER_GROUP_SET. -/
def execParserGroupSet (m : Nat) (s : State) : Host.Outcome State Fault Refusal :=
  .next (runCmd 0x0221 m (fun c t => onPath m c.code 24 [6] c t (fun _ p => parserGroupSet m c p t)) s)

end Sys2Proof.Machine
end

