-- ==== Sys2Proof/Machine/Egress.lean ====
section
/-! DEFINITION. The egress side of a frame: exception copies (07 R209; 14 R440 to R442), the egress pipeline (07 R186, R205), the rewrite of 09 R265 with its edits (07 R198), ECN mark (08 R239), IOAM (11 R340 to R342) and time fields (10 R294 to R299), and the stack header of 12 R382. -/

namespace Sys2Proof.Machine

/-! ## Exception copies -/

/-- A header that the parser found, by its identifier; identifier 0 names none. -/
def hdrAt (v : Phv) (h : Nat) : Option Nat :=
  if h ≠ 0 ∧ v.valid.toNat.testBit h = true then some (tabGetD v.offs h 0) else none

/-- The RX entry of an exception copy (14 Table 14.7). -/
def excEntry (s : State) (m : Meta) (inPort : Nat) (c : ExcCopy) (frame : List Byte) : List Byte :=
  let k := marks s m.count
  let flags := b2n c.outPort.isSome + 4 * b2n k.1 + 8 * b2n k.2.1 + 16 * b2n k.2.2
  rxHeader 1 c.cls frame.length inPort (c.outPort.getD 0xFFFF) flags (m.inTs % 16) c.disp (m.inTs / 16) m.trick.toNat ++ frame

/-- An entry that refers to a chain goes to an RX ring; a reference is taken while the ring's hold keeps it. -/
def rxCopy (r : Nat) (bs : List Byte) (head : Nat) (s : State) : State :=
  let s1 := match rxTo s r ((toSlots bs).length / 64) with
    | .held => chainRef head s
    | .written => s
    | .dropped => s
  rxPost r bs (some head) s1

/-- The metadata record of a chain is stored (08 R225). -/
def putMeta (h : Nat) (m : Meta) (s : State) : State :=
  let s1 := modChain h (fun c => { c with mta := some h }) s
  { s1 with buf := { s1.buf with metas := tabPut s1.buf.metas h m } }

/-- Metadata records that the device holds (08 R225). -/
def metaMax : Nat := 1048576

/-- A raised class is policed and its copy delivered, or kept until the frame's last byte (07 R209). Without a metadata record for it (08 R225) the copy that would wait is lost. -/
def excCopy (n f head inPort : Nat) (whole : Bool) (m : Meta) (k : Nat) (outPort : Option Nat) (disp : Nat) (s : State) : State :=
  let r := excPolice n k f s
  match r.1 with
  | .red => evAdd 0x0402 n k 1 r.2
  | .disabled => evAdd 0x0402 n k 1 r.2
  | .absent => evAdd 0x0402 n k 1 r.2
  | .firmware => evAdd 0x0401 n k 1 r.2
  | .host ring =>
    let c : ExcCopy := { cls := k, ring := ring, outPort := outPort, disp := disp }
    let s1 := evAdd 0x0401 n k 1 r.2
    if whole then rxCopy ring (excEntry s1 m inPort c (chainRead s1 head 0 (f - 4))) head s1
    else
      if (metaOf s1 head).isNone ∧ metaMax ≤ s1.buf.metas.length then s1 else
      let s2 := if (metaOf s1 head).isNone then putMeta head m s1 else s1
      chainRef head (modPort inPort (fun x => { x with arriving := x.arriving.map (fun a => if a.head = head then { a with copies := a.copies ++ [c] } else a) }) s2)

/-! ## Edits (07 R198, R199) -/

/-- Byte j of the received frame is popped. -/
def poppedAt (l : List Edit) (j : Nat) : Bool :=
  l.any (fun e => match e with
    | .pop a b => decide (a ≤ j ∧ j < b)
    | .replace _ _ => false
    | .push _ _ => false
    | .csum _ => false)

/-- Bytes pushed in front of byte i of a frame of n bytes, in the order recorded. -/
def pushAt (l : List Edit) (n i : Nat) : List Byte :=
  l.flatMap (fun e => match e with
    | .push a b => if min a n = i then b else []
    | .pop _ _ => []
    | .replace _ _ => []
    | .csum _ => [])

/-- The replacements in the order recorded, later ones over earlier ones; one on a byte that an edit before it has popped is skipped (log entry 36). -/
def replaceBytes (before l : List Edit) (bs : List Byte) : List Byte :=
  match l with
  | [] => bs
  | e :: r => replaceBytes (before ++ [e]) r (match e with
    | .replace a b =>
      let new := b.take (bs.length - a)
      if (List.range new.length).any (fun i => poppedAt before (a + i)) then bs else patch bs a new
    | .push _ _ => bs
    | .pop _ _ => bs
    | .csum _ => bs)

/-- Bytes of a frame of n bytes that its POPs remove, each counted once. -/
def removedBytes (l : List Edit) (n : Nat) : Nat := ((List.range (min n 256)).filter (poppedAt l)).length

/-- Where byte i of the received frame stands in the frame sent, when it is not popped. -/
def outIdx (l : List Edit) (n i : Nat) : Nat :=
  ((List.range i).map (fun j => (pushAt l n j).length + b2n (!poppedAt l j))).sum + (pushAt l n i).length

/-- The same, for n bytes from i that are all sent. -/
def sentAt (l : List Edit) (n i k : Nat) : Option Nat :=
  if i + k ≤ n ∧ (List.range k).all (fun j => !poppedAt l (i + j)) = true then some (outIdx l n i) else none

/-- The IPv4 header checksum of the header at h (07 Table 7.6, CSUM4). -/
def csum4 (h : Nat) (bs : List Byte) : List Byte :=
  let ihl := fld bs h 1 % 16 * 4
  if ihl < 20 ∨ bs.length < h + ihl then bs
  else
    let z := patch bs (h + 10) [0, 0]
    let sum := (List.range (ihl / 2)).foldl (fun acc i => onesAdd acc (bfld z (h + 2 * i) 2)) 0
    patch z (h + 10) (beBytes 2 (65535 - sum))

/-- A frame's bytes after its edits, checksums last. -/
def editBytes (l : List Edit) (bs : List Byte) : List Byte :=
  let n := bs.length
  let b := replaceBytes [] l bs
  let out := (b.zipIdx.flatMap (fun e => pushAt l n e.2 ++ (if poppedAt l e.2 then [] else [e.1]))) ++ pushAt l n n
  l.foldl (fun acc e => match e with
    | .csum a => (match sentAt l n a 1 with
      | some h => csum4 h acc
      | none => acc)
    | .replace _ _ => acc
    | .push _ _ => acc
    | .pop _ _ => acc) out

/-! ## ECN (08 R239) -/

/-- The header that carries the ECN field: offset, and whether it is IPv4. -/
def ecnHdr (s : State) (v : Phv) : Option (Nat × Bool) :=
  match hdrAt v s.buf.ecnHdr4 with
  | some a => some (a, true)
  | none => (hdrAt v s.buf.ecnHdr6).map (fun a => (a, false))

/-- The frame's ECN field reads 0b01 or 0b10. -/
def ecnCapable (s : State) (v : Phv) (bs : List Byte) : Bool :=
  match ecnHdr s v with
  | some (a, v4) =>
    let e := if v4 then fld bs (a + 1) 1 % 4 else bits (fld bs (a + 1) 1) 5 4
    decide (e = 1 ∨ e = 2)
  | none => false

/-- Set the field to 0b11; none when a POP removed its header. -/
def ecnApply (s : State) (v : Phv) (l : List Edit) (n : Nat) (bs : List Byte) : Option (List Byte) :=
  match ecnHdr s v with
  | none => none
  | some (a, v4) =>
    match sentAt l n a 2 with
    | none => none
    | some h =>
      let b := fld bs (h + 1) 1
      let nb := if v4 then b ||| 3 else b ||| 0x30
      let out := patch bs (h + 1) [byte nb]
      if v4 ∧ h + 12 ≤ bs.length then
        some (patch out (h + 10) (beBytes 2 (csumUpdate (bfld bs (h + 10) 2) (bfld bs h 2) (bfld out h 2))))
      else some out

/-! ## IOAM (11 R340 to R342) -/

/-- Bytes of node data for bit b of the trace type (11 Table 11.5). -/
def ioamSize (b : Nat) : Nat := if b = 8 ∨ b = 9 ∨ b = 10 then 8 else 4

/-- Node data of bit b. -/
def ioamField (s : State) (d : Desc) (p inTs ts hop : Nat) (ns : Ioam) (b : Nat) : List Byte :=
  let own := inTs / 16
  let transit := (ts - inTs) / 16
  match b with
  | 0 => byte hop :: beBytes 3 (s.telem.nodeId % 2 ^ 24)
  | 1 => beBytes 2 d.inPort ++ beBytes 2 p
  | 2 => beBytes 4 (secOf own % 2 ^ 32)
  | 3 => beBytes 4 (nsOf own)
  | 4 => beBytes 4 (if 2 ^ 31 ≤ transit then 0xFFFFFFFF else transit)
  | 5 => beBytes 4 ns.short
  | 6 => beBytes 4 d.admitDepth
  | 8 => byte hop :: beBytes 7 (s.telem.nodeId % 2 ^ 56)
  | 9 => beBytes 4 d.inPort ++ beBytes 4 p
  | 10 => beBytes 8 ns.wide
  | 11 => beBytes 4 (s.buf.potUsed + s.buf.kittyUsed + sumQueues s (fun q => q.a))
  | _ => List.replicate (ioamSize b) 0xFF

/-- The TTL or hop limit of the frame as sent, or 0xFF. -/
def hopLimit (s : State) (v : Phv) (l : List Edit) (n : Nat) (bs : List Byte) : Nat :=
  match (hdrAt v s.telem.ioam4).bind (fun a => sentAt l n (a + 8) 1) with
  | some h => fld bs h 1
  | none =>
    match (hdrAt v s.telem.ioam6).bind (fun a => sentAt l n (a + 7) 1) with
    | some h => fld bs h 1
    | none => 0xFF

/-- The IOAM step: bytes, and the code it counts. -/
def ioamApply (s : State) (x : Port) (d : Desc) (p : Nat) (m : Meta) (v : Phv) (l : List Edit) (n ts : Nat) (bs : List Byte) : List Byte × Option Nat :=
  match (if x.ioamEn then hdrAt v s.telem.ioamHdr else none) with
  | none => (bs, none)
  | some a =>
    match sentAt l n a 8 with
    | none => (bs, none)
    | some h =>
      match s.telem.ioam.find? (fun i => i.valid && decide (i.id = bfld bs h 2)) with
      | none => (bs, none)
      | some ns =>
        let w := bfld bs (h + 2) 2
        let nodeLen := bits w 15 11
        let remain := w % 128
        let typ := bfld bs (h + 4) 3
        let on := fun (b : Nat) => typ.testBit (23 - b)
        let set := (List.range 22).filter on
        let limit := min 256 n
        if on 22 || on 23 || decide (nodeLen * 4 ≠ (set.map ioamSize).sum) then (bs, some 0x0328)
        else if remain < nodeLen then
          if limit < a + 4 then (bs, some 0x0328) else (patch bs (h + 2) (beBytes 2 (w ||| 0x0400)), some 0x0327)
        else
          let r := remain - nodeLen
          if limit < a + 8 + 4 * r + 4 * nodeLen ∨ (sentAt l n a (8 + 4 * r + 4 * nodeLen)).isNone = true then (bs, some 0x0328)
          else
            let data := set.flatMap (ioamField s d p m.inTs ts (hopLimit s v l n bs) ns)
            (patch (patch bs (h + 2) (beBytes 2 (w - nodeLen))) (h + 8 + 4 * r) data, some 0x0326)

/-! ## Time fields (10 R293 to R299) -/

/-- The time unit marks a frame (10 R292, R293). -/
def ptpMark (s : State) (v : Phv) (bs : List Byte) : Bool :=
  match hdrAt v s.time.ptpHdr with
  | none => false
  | some a =>
    let b1 := fld bs (a + 1) 1
    decide (a + 2 ≤ bs.length) && decide (b1 % 16 = 2 ∧ b1 / 16 ≤ 1) && decide (fld bs a 1 % 16 ≤ 1)

/-- A correctionField after a change, saturating (10 R294). -/
def corrAdd (c : Nat) (delta : Int) : Nat :=
  let v := sInt 64 c + delta
  if c = 0x7FFFFFFFFFFFFFFF ∨ v < -(2 ^ 63) ∨ 2 ^ 63 ≤ v then 0x7FFFFFFFFFFFFFFF else uInt 64 v

/-- The correction of a marked frame (10 R294), 2^-16 ns. -/
def residence (s : State) (x : Port) (inPort inTs ts typ : Nat) : Int :=
  let r : Int := ((ts : Int) - inTs) * 4096
  let y := port s inPort
  let mld : Int := match y with
    | some z => if typ = 0 ∧ z.p2p = true then z.meanLinkDelay else 0
    | none => 0
  let asy : Int := if typ = 0 then (match y with
      | some z => z.asym
      | none => 0) else -x.asym
  r + mld + asy

/-- Adjust or clear the UDP checksum before the PTP header at offset a (10 R296). -/
def udpFix (s : State) (v : Phv) (l : List Edit) (n a : Nat) (old new : List Byte) (bs : List Byte) : List Byte :=
  if a < 8 then bs
  else match sentAt l n (a - 2) 2 with
    | none => bs
    | some u =>
      if (hdrAt v s.time.ip4Hdr).isSome then patch bs u [0, 0]
      else if (hdrAt v s.time.ip6Hdr).isSome ∧ bfld bs u 2 ≠ 0 then
        let c := csumUpdateL (bfld bs u 2) old new
        patch bs u (beBytes 2 (if c = 0 then 0xFFFF else c))
      else bs

/-- Step 4 of 09 R265 for a marked frame; none when the field lies too deep (10 R295). -/
def residenceApply (s : State) (x : Port) (d : Desc) (m : Meta) (v : Phv) (l : List Edit) (n ts : Nat) (bs : List Byte) : Option (List Byte) :=
  if d.ptp = false then some bs
  else match hdrAt v s.time.ptpHdr with
    | none => some bs
    | some a =>
      if x.tcEn = false then some (udpFix s v l n a [] [] bs)
      else if min 256 n < a + 16 then none
      else match sentAt l n a 16 with
        | none => some bs
        | some h =>
          let old := slice bs (h + 8) 8
          let new := beBytes 8 (corrAdd (beVal old) (residence s x d.inPort m.inTs ts (fld bs h 1 % 16)))
          some (udpFix s v l n a old new (patch bs (h + 8) new))

/-- The time request of a sent frame (10 R298, R299); none when the field lies too deep. -/
def requestApply (x : Port) (d : Desc) (ts : Nat) (bs : List Byte) : Option (List Byte) :=
  let o := d.ptpOff
  let c := fun (delta : Int) (b : List Byte) => patch b (o + 8) (beBytes 8 (corrAdd (bfld b (o + 8) 8) delta))
  match reqOn x d.req with
  | .none => some bs
  | .twoStep => some bs
  | .origin =>
    if 256 < o + 16 then none
    else some (c ((ts % 16 : Nat) * 4096) (patch bs (o + 34) (beBytes 6 (secOf (ts / 16)) ++ beBytes 4 (nsOf (ts / 16)))))
  | .turnaround => if 256 < o + 16 then none else some (c (((ts : Int) - d.t2) * 4096) bs)

/-! ## The stack header (12 R382) -/

/-- Last 24 bits of a DATA header. -/
def dataWord (tc colour dest : Nat) : Nat := (tc % 8) * 2 ^ 21 + (colour % 4) * 2 ^ 19 + dest % 65536

/-- The header a frame is sent with on a stack link; none when it has none. -/
def stackHdrFor (s : State) (x : Port) (d : Desc) (m : Meta) : Option (List Byte) :=
  match m.stackHdr with
  | some h => some h
  | none => m.mcastGroup.map (fun g => stackHeader s 0 x.stk.peerPath x.stk.peerLevels (dataWord d.tc d.colour (0x8000 + g % 32768)))

/-! ## From selection to the MAC -/

/-- The metadata of a descriptor. -/
def metaFor (s : State) (d : Desc) : Meta :=
  match metaOf s d.mta with
  | some m => m
  | none => { phv := { len := d.len, inPort := d.inPort }, edits := [], inTs := 0, trick := 0, count := now s, group := 0, copies := 0 }

/-- The header vector as egress receives it (07 R186). -/
def egressPhv (m : Meta) (p len : Nat) : Phv :=
  setExc 0 { m.phv with w := m.phv.w.filter (fun e => decide (e.1 < 72)), outPort := p, len := len, ladder := {}, best := 0 }

/-- The stage program of a generation: the active one, or an earlier one that packets in the device still run (02 R53; 05 R120). -/
def programOf (s : State) (gen : Nat) : Mem := if gen = s.uc.gen then s.uc.active.body else tabGetD s.uc.past gen s.uc.active.body

/-- The egress positions of a copy, with the classes raised at the end of position 11 (07 R199, R208): the pipeline's result and the edits that apply. -/
def egressPipe (p : Nat) (x : Port) (d : Desc) (m : Meta) (banks : BankIn) (s : State) : Pipe × List Edit × State :=
  let g := groupOf p
  let prior := if m.noEdits then [] else m.edits
  let start : Pipe := { phv := egressPhv m p d.len, eg := true, g := g, n := clusterOf g, f := d.len, body := programOf s m.gen, prior := prior, banks := banks }
  let r := runPipe 11 8 start s
  let bad := r.1.broken
  let all := if bad then [] else prior ++ r.1.edits
  let r1 := if bad then raiseExc 3 true r.1 r.2 else r
  let len := d.len + pushedBytes all - removedBytes all d.len
  let r2 := if x.maxFrame < len then raiseExc 4 true r1.1 r1.2 else r1
  (r2.1, all, r2.2)

/-- The bytes sent, without FCS, and what the rewrite counts: ECN mark applied, IOAM code. None when a time field lies too deep. -/
def rewrite (s : State) (p : Nat) (x : Port) (d : Desc) (m : Meta) (v : Phv) (l : List Edit) (ts : Nat) (orig : List Byte) : Option (List Byte × Bool × Option Nat) :=
  let n := orig.length
  let e0 := editBytes l orig
  let b0 := e0 ++ zeros (60 - e0.length)
  let ec := if d.ce then ecnApply s v l n b0 else none
  let b1 := ec.getD b0
  let io := ioamApply s x d p m v l n ts b1
  match residenceApply s x d m v l n ts io.1 with
  | none => none
  | some b2 => (requestApply x d ts b2).map (fun b => (b, ec.isSome, io.2))

/-- A selected frame that is not sent, with the OUTCOME of its sample (11 Table 11.7): released at once, or, while its charge waits for its length, with its last byte (09 R263). -/
def notSent (p q outcome : Nat) (d : Desc) (st : List StageEnt) (s : State) : State :=
  if d.prov then modPort p (fun y => { y with inflight := y.inflight ++ [{ queue := q, desc := d, counted := 0, wire := [], dropped := true, ts := 0, outcome := outcome, stages := st }] }) s
  else dropDesc p q d { outcome := outcome, cut := d.cut, stages := st } s

/-- A selected frame passes the egress pipeline and the rewrite (09 R264, R265); ph and ln say when and on which lane of the port its delimiter crosses. -/
def launch (p q : Nat) (d : Desc) (ph ln : Nat) (banks : BankIn) (s : State) : State :=
  match port s p with
  | none => s
  | some x =>
    let g := groupOf p
    let n := clusterOf g
    let m := metaFor s d
    let r := egressPipe p x d m banks s
    let v := r.1.phv
    let s1 := r.2.2
    let st := stageList 8 r.1
    let k := dispExc v
    let s2 := if k = 0 then s1 else excCopy n d.len d.head d.inPort (!d.prov) m k (some p) v.disp.toNat s1
    let s3 := if dispMdrop v then ev 0x030C g s2 else s2
    if dispDrop v || dispRedirect v || dispMdrop v then notSent p q (if dispRedirect v then 3 else 4) d st s3
    else
      let hdr := if x.stk.enable then stackHdrFor s3 x d m else some []
      match hdr with
      | none => notSent p q 4 d st (ev 0x0522 0 s3)
      | some h =>
        let got := match (port s3 d.inPort).bind (fun y => y.arriving) with
          | some a => if d.prov ∧ a.head = d.head then a.got else d.len
          | none => d.len
        let ts := egressTs s3 p x ln ph
        match rewrite s3 p x d m v r.2.1 ts (chainRead s3 d.head 0 (min got (d.len - 4))) with
        | none => notSent p q 4 d st (ev 0x0506 0 s3)
        | some (b, ecn, io) =>
          let s4 := if ecn then ev 0x0207 (queueUnit p q) s3 else s3
          let s5 := match io with
            | some c => ev c g s4
            | none => s4
          let s6 := if (d.req = .origin ∨ d.req = .turnaround) ∧ x.txStep = false then ev 0x0114 p s5 else s5
          let w := h ++ b
          -- the delimiter's crossing is known from here on (10 R295): a TWO_STEP frame is queued with it (10 R300)
          let s7 := if reqOn x d.req = .twoStep then tsqPush d.fromFw { ts := ts, gap := false, notSent := false, timeValid := s.time.valid, port := p, tag := d.tag } s6 else s6
          let f : Sent := { queue := q, desc := d, counted := countedLen x d.len, wire := if d.prov then w else w ++ fcsOf w, dropped := false, ts := ts, stages := st }
          modPort p (fun y => { y with inflight := y.inflight ++ [f] }) s7

end Sys2Proof.Machine
end

