-- ==== Sys2Proof/Machine/Ingress.lean ====
section
/-! DEFINITION. The ingress side of a frame: mirror and precise selection (11 R343, R345, R346), the flow key (R331), stack resolution (12 R380, R381), disposition (07 R205, R206), admission with its marks (08 R230, R239, R241; 10 R293), replication (08 R235 to R237; 01 R27, R28), and the flow update (11 R333). -/

namespace Sys2Proof.Machine

/-! ## Selection for telemetry -/

/-- One countdown of R343 and R345: whether this slot is selected, and the count after it. -/
def countdown (n cnt : Nat) : Bool × Nat := if n = 0 then (false, cnt) else if cnt = 0 then (true, n - 1) else (false, cnt - 1)

/-- PRECISE_SELECT: the slot is tracked or not (11 R343). -/
def preciseSelect (g : Nat) (s : State) : Bool × State :=
  let x := grp s g
  let c := countdown x.preciseN x.preciseCnt
  let s1 := modGrp g (fun y => { y with preciseCnt := c.2 }) s
  if c.1 = false then (false, s1)
  else if 4 ≤ x.trackers then (false, ev 0x0325 g s1)
  else (true, ev 0x0324 g (modGrp g (fun y => { y with trackers := y.trackers + 1 }) s1))

/-- The mirror engine's copy, delivered or spilled to the capture ring (11 R345, R346). -/
def mirrorCopy (p n f inTs : Nat) (data : List Byte) (s : State) : State :=
  let bs := data.take (min f 256)
  if stakeRefuses s 35 1 then ev 0x0516 0 (evAdd 0x0503 0 35 1 s)
  else match newChain 35 1 bs.length bs s with
    | none => ev 0x0516 0 s
    | some (h, s1) =>
      let k := marks s (now s)
      let spill := fun (reason : Nat) (t : State) =>
        captureOffer (captureRecord t p f inTs reason (now t) (idx t % 2 ^ 32) data) (some h) (evAdd 0x0404 n 6 1 t)
      let r := excPolice n 6 f s1
      match r.1 with
      | .red => spill 1 r.2
      | .disabled => spill 2 r.2
      | .absent => dropChain h (evAdd 0x0402 n 6 1 r.2)
      | .firmware => dropChain h (evAdd 0x0401 n 6 1 r.2)
      | .host ring =>
        let flags := 2 * b2n (decide (256 < f)) + 4 * b2n k.1 + 8 * b2n k.2.1 + 16 * b2n k.2.2
        let e := rxHeader 2 6 bs.length p 0xFFFF flags (inTs % 16) 0 (inTs / 16) (idx s) ++ bs
        let held := decide (rxTo r.2 ring ((toSlots e).length / 64) = .held)
        let s2 := rxCopy ring e h (evAdd 0x0401 n 6 1 r.2)
        -- a held entry keeps the cell, and the charge, until it is written
        if held then s2 else dropChain h s2

/-- MIRROR_COPY: every MIRROR_N-th frame of the port. -/
def mirrorSelect (p n f inTs : Nat) (data : List Byte) (s : State) : State :=
  match port s p with
  | none => s
  | some x =>
    let c := countdown x.mirrorN x.mirrorCnt
    let s1 := modPort p (fun y => { y with mirrorCnt := c.2 }) s
    if c.1 then mirrorCopy p n f inTs data (ev 0x011F p s1) else s1

/-! ## Flow key (11 R331) -/

/-- Segments of a profile: source word and width. -/
def flowSegs (s : State) (profile : Nat) : List (Nat × Nat) := (tabGetD s.telem.profiles profile []).map (fun v => (v / 32 % 128, v % 32 + 1))

/-- The 40 key bytes and KEY_BYTES of a header vector at the end of ingress. -/
def flowKey (s : State) (v : Phv) : FlowKey :=
  let k := keyOf v (flowSegs s v.profile)
  { profile := v.profile, bytes := beBytes 40 (k.2 * 2 ^ (320 - k.1)), n := cdiv k.1 8 }

/-- Low 16 bits of the frame's flow-set hash (12 R381). -/
def flowHash (s : State) (k : FlowKey) : Nat := crc32c s.telem.seed.toNat (byte k.profile :: k.bytes) % 65536

/-! ## Stack resolution (12 R380, R381) -/

/-- DEST of DISP is set, and valid. -/
def setDest (dest : Nat) (v : Phv) : Phv :=
  let d := v.disp.toNat
  { v with disp := BitVec.ofNat 32 ((d - d % 65536 + dest % 65536) ||| 2 ^ 17) }

/-- TC and COLOUR of DISP are set. -/
def setTcColour (tc colour : Nat) (v : Phv) : Phv :=
  let d := v.disp.toNat
  { v with disp := BitVec.ofNat 32 (d - bits d 22 18 * 2 ^ 18 + (colour % 4) * 2 ^ 21 + (tc % 8) * 2 ^ 18) }

/-- Unicast DEST of a port and queue (07 Table 7.3). -/
def uniDest (p q : Nat) : Nat := p * 16 + q

/-- The route of a DATA frame: the LIVE member that its hash takes. -/
def routeData (s : State) (q n hash : Nat) : Option Nat :=
  match routeSet s q n with
  | none => none
  | some set =>
    let l := liveMembers s set
    if l.isEmpty then none else l[hash % l.length]?

/-- What stack resolution leaves: DISP, the header to send with, and whether it dropped the frame. -/
structure StackRes where
  phv : Phv
  hdr : Option (List Byte) := none
  dropped : Bool := false
  deriving DecidableEq, Repr

/-- Not forwarded, counted under a stack code. -/
def stackDrop (code : Nat) (v : Phv) (s : State) : StackRes × State := ({ phv := orDisp (2 ^ 31) v, dropped := true }, ev code 0 s)

/-- The first case of Table 12.6 that matches. -/
def stackResolve (p : Nat) (hdr : Option (List Byte)) (v : Phv) (key : FlowKey) (s : State) : StackRes × State :=
  if s.stack.levels = 0 ∨ dispDrop v = true ∨ dispRedirect v = true then ({ phv := v }, s)
  else
    let hash := flowHash s key
    let x10 := wordGet v 74
    let sv := fun (_ : Unit) =>
      if x10.testBit 31 = false then ({ phv := v }, s)
      else match tabGet s.stack.members (bits x10 27 16) with
        | none => stackDrop 0x0520 v s
        | some (q, n) =>
          if q = s.stack.own ∧ n = s.stack.levels then ({ phv := setDest (x10 % 65536) v }, s)
          else match routeData s q n hash with
            | none => stackDrop 0x0520 v s
            | some out =>
              let h := stackHeader s 0 q n (dataWord (dispTc v) (dispColour v) (x10 % 65536))
              ({ phv := setDest (uniDest out (dispTc v)) v, hdr := some h }, s)
    match hdr with
    | none => sv ()
    | some h =>
      let dl := bits (fld h 0 1) 5 3 + 1
      let dst := bfld h 1 6
      let w := bfld h 13 3
      if dst ≠ s.stack.own ∨ dl ≠ s.stack.levels then
        match routeData s dst dl hash with
        | none => stackDrop 0x0520 v s
        | some out => if out = p then stackDrop 0x0521 v s else ({ phv := setDest (uniDest out (bits w 23 21)) v, hdr := some h }, s)
      else if dispDestValid v = false then ({ phv := setTcColour (bits w 23 21) (bits w 20 19) (setDest (w % 65536) v) }, s)
      else sv ()

/-! ## Admission of a frame or copy -/

/-- CUT (08 R241). -/
def cutOk (s : State) (out q inPort : Nat) : Bool :=
  match port s out, port s inPort with
  | some x, some y => x.cutThrough && (queue x q).descs.isEmpty && x.inflight.isEmpty && decide (portRate x ≤ portRate y)
  | _, _ => false

/-- Admission to a queue; a queue in storm state discards what it takes (04 R110). -/
def admitTo (out q : Nat) (d : Desc) (lossless ect : Bool) (s : State) : Option Refuse × State :=
  let r := takeIn out q d lossless ect s
  match r.1, port r.2 out with
  | none, some x =>
    if stormQueue x q then
      match (queue x q).descs.getLast? with
      | some l => (none, stormDrop out q l (modQueue out q (fun y => { y with descs := y.descs.dropLast }) r.2))
      | none => r
    else r
  | _, _ => r

/-- What admission did to a frame: copies admitted, deepest ADMIT_DEPTH among them, and a CE decision. -/
structure Admitted where
  copies : Nat := 0
  depth : Nat := 0
  ce : Bool := false
  deriving DecidableEq, Repr

/-- CE that R239 decides for a frame admitted now. -/
def ceNow (s : State) (out q : Nat) (ect : Bool) : Bool :=
  match port s out with
  | some x => let y := queue x q; !y.priv && decide (y.ecn ≠ 0) && decide (y.ecn ≤ depth y) && ect
  | none => false

/-- Depth of a queue now. -/
def depthNow (s : State) (out q : Nat) : Nat :=
  match port s out with
  | some x => depth (queue x q)
  | none => 0

/-- A descriptor of a frame for queue q of port out (08 Table 8.3). -/
def mkDesc (head mta len n inPort : Nat) (v : Phv) (ptp cut prov bad mcast : Bool) : Desc :=
  { head := head, len := len, n := n, inPort := inPort, pri := dispTc v, tc := dispTc v, colour := dispColour v, src := .pot,
    ce := false, ptp := ptp, cut := cut, bad := bad, prov := prov, mta := mta, admitDepth := 0, mcast := mcast }

/-- One copy asks for its place: it takes its reference on the chain first, and gives it back when refused. A copy of a frame that has failed its check is BAD from the start (08 R242). -/
def admitCopy (out q : Nat) (d : Desc) (lossless ect : Bool) (a : Admitted) (s : State) : Admitted × State :=
  let ce := ceNow s out q ect
  let dp := depthNow s out q
  let r := admitTo out q d lossless ect (chainRef d.head s)
  match r.1 with
  | none => ({ copies := a.copies + 1, depth := max a.depth dp, ce := a.ce || ce }, if d.bad then dropBad out q r.2 else r.2)
  | some _ => (a, modChain d.head (fun c => { c with refcnt := c.refcnt - 1 }) r.2)

/-- The decision on a frame has been made: its cells leave the stake of the requester that wrote them, the chain gets its closing owner, and the reference held while the decision was open goes; with no reference left the chain is freed (01 R26, R28; 08 R221, R222). -/
def closeChain (head : Nat) (owner : Option Nat) (s : State) : State :=
  let s1 := unstake head s
  chainUnref head (match owner with
    | some o => modChain head (fun y => { y with owner := o }) s1
    | none => s1)

/-- The flow update of station 7 (11 R331, R333). -/
def flowStation (g : Nat) (m : Meta) (a : Admitted) (exc : Bool) (s : State) : State :=
  flowUpdate g { profile := m.key.profile, key := m.key.bytes, keyBytes := m.key.n, len := m.phv.len, ts := m.inTs / 16, count := m.count,
                 dropped := decide (a.copies = 0), marked := a.ce, exc := exc, maxq := if a.copies = 0 then 0 else maxqOf a.depth } s

/-- A frame that is not admitted leaves its sample record at once (11 R344). -/
def sampleOut (m : Meta) (outcome : Nat) (s : State) : State := sampleWrite m { outcome := outcome } s

/-! ## Replication (08 R235 to R237) -/

/-- n little-endian bytes of a cluster's bucket SRAM, from byte off of bucket b. -/
def bucketFld (s : State) (n b off k : Nat) : Nat := bits ((tabGetD (cluster s n).buckets b 0).toNat) (8 * (off + k) - 1) (8 * off)

/-- The head record of a group: LIST and COUNT, when the group has one. -/
def mcastHead (s : State) (n g : Nat) : Option (Nat × Nat) :=
  if s.buf.mcastLog2 = 0 then none
  else
    let h := bucketFld s n (s.buf.mcastBase + g / 8) (8 * (g % 8)) 8
    if h.testBit 31 then some (h % 2 ^ 20, bits h 28 20 + 1) else none

/-- One entry of a list. -/
def replicateEntry (g n list i : Nat) (j : ReplJob) (v : Phv) (ptp ect : Bool) (a : Admitted) (s : State) : Admitted × State :=
  let e := bucketFld s n (list + i / 16) (4 * (i % 16)) 4
  let q := e % 32
  let out := bits e 24 16
  if e.testBit 31 = false ∨ 19 < q then (a, ev 0x030E g s)
  else if out = j.inPort ∧ e.testBit 30 = false then (a, s)
  else if (port s out).isNone then (a, ev 0x030F g s)
  else admitCopy out q (mkDesc j.head j.mta j.len j.n j.inPort v ptp (cutOk s out q j.inPort) j.prov j.bad true) j.lossless ect a s

/-- The replication engine takes the next frame of its port group (01 R27, R28). -/
def replicate (g : Nat) (s : State) : State :=
  match (grp s g).repl with
  | [] => s
  | j :: rest =>
    let s0 := modGrp g (fun x => { x with repl := rest }) s
    match metaOf s j.mta with
    | none => s0
    | some m =>
      let n := clusterOf g
      let bs := chainRead s j.head 0 (min (j.len - 4) 512)
      let ptp := ptpMark s m.phv bs
      let ect := ecnCapable s m.phv bs
      let r := match mcastHead s0 n j.group with
        | none => (({} : Admitted), ev 0x0310 g s0)
        | some (list, cnt) => (List.range cnt).foldl (fun acc i => replicateEntry g n list i j m.phv ptp ect acc.1 acc.2) ({}, s0)
      let a := r.1
      let s1 := flowStation g m a j.exc r.2
      let s2 := modMeta j.mta (fun y => { y with copies := a.copies }) s1
      let s3 := if a.copies = 0 then modMeta j.mta (fun y => { y with tracked := false }) (sampleOut m 1 s2) else s2
      closeChain j.head none s3

/-! ## Ingress from slot issue to station 7 -/

/-- R205 on a frame at the end of ingress position 19, and what follows at stations 6 and 7. -/
def disposition (g : Nat) (w : Station6) (s : State) : State :=
  let p := w.port
  let head := w.head
  let n0 := w.n
  let whole := w.whole
  let m0 := w.info
  let n := clusterOf g
  let f := m0.phv.len
  let bs := chainRead s head 0 (min (f - 4) 512)
  let sr := stackResolve p w.hdr m0.phv m0.key s
  let v0 := sr.1.phv
  let none3 := !dispDrop v0 && !dispRedirect v0 && !dispDestValid v0
  let noDest := none3 && decide (dispExc v0 ≠ 0)
  let v := if none3 && decide (dispExc v0 = 0) then orDisp (2 ^ 30) (setExc 5 v0) else v0
  let m := { m0 with phv := v, noEdits := w.broken, stackHdr := sr.1.hdr }
  let s1 := if noDest then ev 0x030D g sr.2 else sr.2
  let k := dispExc v
  let s2 := if k = 0 then s1 else excCopy n f head p whole m k none v.disp.toNat s1
  let s3 := if dispMdrop v && !sr.1.dropped then ev 0x030C g s2 else s2
  let exc := decide (k ≠ 0)
  let out := fun (code : Nat) (t : State) => closeChain head none (sampleOut m code (flowStation g m {} exc t))
  if dispDrop v || dispRedirect v || dispMdrop v || noDest then out (if dispRedirect v then 3 else 2) s3
  else
    let dest := dispDest v
    let lossless := isLossless s3 p (dispTc v)
    if dest.testBit 15 then
      -- the frame's group stands for a queue that the spec does not name: no queue counts the refusal (log entry 95)
      if metaMax ≤ s3.buf.metas.length then out 1 ((fun t => if lossless then evAdd 0x011A p (dispTc v) 1 t else t) s3) else
      let mm := { m with mcastGroup := some (dest % 32768) }
      let s4 := putMeta head mm s3
      let j : ReplJob := { head := head, mta := head, group := dest % 32768, len := f, n := n0, prov := !whole, bad := w.bad, inPort := p, pri := dispTc v, lossless := lossless, exc := exc }
      modGrp g (fun x => { x with repl := x.repl ++ [j] }) s4
    else
      let o := bits dest 12 4
      let q := dest % 16
      if (port s3 o).isNone then out 1 (ev 0x0311 g s3)
      else if metaMax ≤ s3.buf.metas.length then
        out 1 ((fun t => if lossless then evAdd 0x011A p (dispTc v) 1 t else t) (ev 0x0206 (queueUnit o q) s3))
      else
        let s4 := putMeta head { m with copies := 1 } s3
        let d := mkDesc head head f n0 p v (ptpMark s4 v bs) (cutOk s4 o q p) (!whole) w.bad false
        let r := admitCopy o q d lossless (ecnCapable s4 v bs) {} s4
        let s5 := flowStation g m r.1 exc r.2
        if r.1.copies = 0 then
          let s6 := modMeta head (fun y => { y with tracked := false }) (sampleOut m 1 s5)
          closeChain head none s6
        else closeChain head (some (groupOf o)) s5

/-- Frames that wait at station 6 go on in their order, until a multicast frame takes the replication engine again (01 R30). -/
def station6 (g : Nat) (l : List Station6) (s : State) : State :=
  match l with
  | [] => modGrp g (fun x => { x with at6 := [] }) s
  | w :: r => if (grp s g).repl.isEmpty then station6 g r (disposition g w s) else modGrp g (fun x => { x with at6 := w :: r }) s

/-- A frame reaches station 6 behind those that wait there. -/
def reach6 (g : Nat) (w : Station6) (s : State) : State :=
  if (grp s g).repl.isEmpty then disposition g w s else modGrp g (fun x => { x with at6 := x.at6 ++ [w] }) s

/-- The replication engine completes its frame, and the frames behind it go on (01 R30). -/
def replicateNext6 (g : Nat) (s : State) : State :=
  let s1 := replicate g s
  station6 g (grp s1 g).at6 s1

/-- A slot of port p: parse, stages and disposition (05 R116, R117, R126, R133, R134; 07 R186, R207). -/
def ingress (p head n0 : Nat) (x : Port) (f : Staged) (tracked : Bool) (banks : BankIn) (s : State) : State :=
  let g := groupOf p
  let n := clusterOf g
  let body := s.uc.active.body
  let v0 := parse body x.entry f.len f.data
  let w := match f.hdr with
    | some h => tabPut (tabPut (tabPut (tabPut v0.w 76 (bfld h 0 4)) 77 (bfld h 4 4)) 78 (bfld h 8 4)) 79 (bfld h 12 4)
    | none => v0.w
  let v1 := { v0 with w := w, inPort := p, len := f.len, trick := idx s % 2 ^ 32, profile := x.entry }
  let s1 := parseCounts g v1 s
  let ex := presExc v1
  let skip := decide (ex = 2) || (decide (ex = 1) && !(grp s g).limitForward)
  let start : Pipe := { phv := v1, eg := false, g := g, n := n, f := f.len, body := body, banks := banks }
  let r := if skip then ({ start with phv := orDisp (2 ^ 30) (setExc ex v1) }, s1) else runPipe 19 16 start s1
  let m : Meta := { phv := r.1.phv, key := flowKey r.2 r.1.phv, gen := s.uc.gen, edits := r.1.edits, inTs := f.ts, trick := s.trick.index, count := now s, group := g, copies := 0,
                    tracked := tracked, sample := stageList 16 r.1 }
  reach6 g { port := p, head := head, n := n0, whole := f.whole, hdr := f.hdr, info := m, broken := r.1.broken } r.2

end Sys2Proof.Machine
end

