-- ==== Sys2Proof/Machine/Frames.lean ====
section
/-! DEFINITION. The rows of frames in the buffer: SLOT_ISSUE (05 R117), REPLICATION (01 R27), FRAME_LAST_BYTE (08 R230, R242), CHAIN_FREE (08 R223) and FREE_LIST_REBUILD_END (08 R247, R250). -/

namespace Sys2Proof.Machine

/-- A slot may be issued to a staged frame (05 R117; 08 R221; 01 R32): its first bytes are there, the stake of the group has room, and the group and its cluster run. -/
def slotReady (s : State) (p : Nat) (x : Port) (f : Staged) : Bool :=
  let g := groupOf p
  let n := if f.whole then cellsOf f.len else cellsOf x.maxFrame
  (f.whole || decide (min f.len 512 ≤ f.data.length)) && decide ((requester s g).charged + n ≤ 512)
    && atRun s (64 + g) && atRun s (104 + clusterOf g) && (entryAddr s.uc.active.body x.entry).isSome

/-- The ports of a group with a frame to which a slot may be issued. -/
def wantSlots (s : State) (g : Nat) : List Nat :=
  ((groupPorts s g).filter (fun e => match e.2.staged with
    | f :: _ => slotReady s e.1 e.2 f
    | [] => false)).map (fun e => e.1)

/-- SLOT_ISSUE for the oldest staged frame of the port, when it is the port's turn (01 R32); without a free cell the frame waits. -/
def slotIssue (p : Nat) (banks : BankIn) (s : State) : State :=
  match port s p with
  | none => s
  | some x =>
    match x.staged with
    | [] => s
    | f :: rest =>
      let g := groupOf p
      if slotReady s p x f = false ∨ arbTurn (grp s g).arb (wantSlots s g) p = false then s
      else
        match newChain g (max 1 (cellsOf f.data.length)) f.len f.data (modGrp g (fun y => { y with arb := arbServe (arbWeight x) p y.arb }) s) with
        | none => s
        | some (head, s0) =>
          let arr := if f.whole then none else some { head := head, mta := head, got := f.data.length, len := f.len }
          let s1 := chainRef head (modPort p (fun y => { y with staged := rest, arriving := arr }) s0)
          let s2 := watchEvent 0x0701 p 0 f.len s1
          let t := preciseSelect g s2
          let s3 := mirrorSelect p (clusterOf g) f.len f.ts f.data t.2
          ingress p head (if f.whole then cellsOf f.len else cellsOf x.maxFrame) x f t.1 banks s3

/-- SLOT_ISSUE. -/
def execSlotIssue (p : Nat) (banks : BankIn) (s : State) : Host.Outcome State Fault Refusal := .next (slotIssue p banks s)

/-- REPLICATION. -/
def execReplication (g : Nat) (s : State) : Host.Outcome State Fault Refusal := .next (replicateNext6 g s)

/-- Counts of a frame whose last byte has arrived (01 R24; 04 R97). On a stack link its bytes include the stack header. -/
def rxCount (p len : Nat) (fcsOk big : Bool) (s : State) : State :=
  if fcsOk = false then ev 0x0105 p s
  else if big then ev 0x0106 p s
  else
    let hdr := match port s p with
      | some x => if x.stk.enable then 16 else 0
      | none => 0
    evAdd 0x0102 p 0 (len + hdr) (ev 0x0101 p s)

/-- Exception copies that waited for the last byte are delivered, or go with a bad frame. -/
def releaseCopies (p : Nat) (a : Arriving) (len : Nat) (bad : Bool) (s : State) : State :=
  a.copies.foldl (fun acc c =>
    match metaOf acc a.mta with
    | some m => chainUnref a.head (if bad then acc else rxCopy c.ring (excEntry acc m p c (chainRead acc a.head 0 (len - 4))) a.head acc)
    | none => chainUnref a.head acc) s

/-- The last byte of the frame that is arriving on a port. -/
def frameLastByte (p : Nat) (rest : List Byte) (fcsOk : Bool) (s : State) : State :=
  match port s p with
  | none => s
  | some x =>
    match x.arriving with
    | some a =>
      let len := a.got + rest.length
      let big := decide (x.maxFrame < len)
      let bad := !fcsOk || big
      let s1 := rxCount p len fcsOk big (modPort p (fun y => { y with arriving := none }) s)
      releaseCopies p a len bad (settleFrame a (rest.take (x.maxFrame - a.got)) bad s1)
    | none =>
      match x.staged.getLast? with
      | none => s
      | some f =>
        if f.whole then s
        else
          let len := f.data.length + rest.length
          let big := decide (x.maxFrame < len)
          let front := x.staged.dropLast
          let keep := fcsOk && !big && decide (64 ≤ len)
          let s1 := modPort p (fun y => { y with staged := if keep then front ++ [{ f with data := f.data ++ rest, len := len, whole := true }] else front }) s
          if fcsOk = true ∧ big = false ∧ len < 64 then s1 else rxCount p len fcsOk big s1

/-- CHAIN_FREE: a requester of Table 8.2 names a chain by the buffer address of its head cell. -/
def execChainFree (req addr : Nat) (s : State) : Host.Outcome State Fault Refusal :=
  .next (if 35 < req then s else freeRequest req addr s)

/-- Cells of a section that belong to chains. -/
def chainCells (s : State) (n : Nat) : List Nat := s.buf.chains.flatMap (fun e => e.2.cells.filter (fun c => sectOf c == n))

/-- FREE_LIST_REBUILD_END. -/
def execFreeListRebuildEnd (n : Nat) (s : State) : Host.Outcome State Fault Refusal :=
  .next (
    let x := sect s n
    if 7 < n ∨ (x.rebuilding = false ∧ x.listRebuild = false) then s
    else if x.rebuilding then modSect n (fun y => sectRelist n (chainCells s n) { y with cache := [], backlog := [], waiting := [] }) s
    else modSect n (sectRelist n (chainCells s n)) s)

end Sys2Proof.Machine
end

