-- ==== Sys2Proof/Machine/StackOps.lean ====
section
/-! DEFINITION. Operations of the stack engine: frames' headers (12 R369, R370), heartbeats (R371 to R373), peer checks (Table 12.3), election (R374), joins and episodes (R376, R390), CONTROL frames (R383), time and depth down the stack (R384 to R386), and the pace (R387 to R389). -/

namespace Sys2Proof.Machine

/-! ## Headers -/

/-- A header that R370 accepts. -/
def hdrGood (h : List Byte) : Bool :=
  let b := fld h 0 1
  let dl := bits b 5 3 + 1
  let sl := bits b 2 0 + 1
  let dst := bfld h 1 6
  let src := bfld h 7 6
  decide (b / 64 ≠ 3) && decide (pathPrefix dst dl = dst) && decide (pathPrefix src sl = src) && (decide (b / 64 ≠ 0) || decide (bits (bfld h 13 3) 18 16 = 0))

/-- TYPE, DST and its depth, SRC and its depth. -/
def hdrType (h : List Byte) : Nat := fld h 0 1 / 64
def hdrDst (h : List Byte) : Nat × Nat := (bfld h 1 6, bits (fld h 0 1) 5 3 + 1)
def hdrSrc (h : List Byte) : Nat × Nat := (bfld h 7 6, bits (fld h 0 1) 2 0 + 1)

/-- Change the stack engine. -/
def modStack (f : Stack → Stack) (s : State) : State := { s with stack := f s.stack }

/-- Change a port's stack state. -/
def modStk (p : Nat) (f : StackLink → StackLink) (s : State) : State := modPort p (fun x => { x with stk := f x.stk }) s

/-! ## Election and time (12 R374, R384) -/

/-- X is better than Y. -/
def better (x y : Best) : Bool := decide (y.prio < x.prio) || (decide (x.prio = y.prio) && decide (x.serial < y.serial))

/-- The dealerCands for group j: with their supplying port, none for the chip itself, in ascending port order. -/
def dealerCands (s : State) (j : Nat) : List (Best × Option Nat) :=
  let own : List (Best × Option Nat) := if s.stack.prio = 0 then [] else [({ prio := s.stack.prio, hops := 0, levels := s.stack.levels, serial := Config.serial.toNat, path := s.stack.own }, none)]
  own ++ s.ports.filterMap (fun e =>
    let k := e.2.stk
    let b := k.best.getD j {}
    if k.enable = true ∧ k.st = .live ∧ j < k.level ∧ now s - k.lastHb ≤ s.stack.missLimit ∧ b.prio ≠ 0 ∧ b.hops + 1 ≤ 63
    then some ({ b with hops := b.hops + 1 }, some e.1) else none)

/-- The best candidate: fewest HOPS among equals, then the chip itself or the lowest port. -/
def bestCand (l : List (Best × Option Nat)) : Option (Best × Option Nat) :=
  l.foldl (fun acc c => match acc with
    | none => some c
    | some a => if better c.1 a.1 || (!better a.1 c.1 && decide (c.1.hops < a.1.hops)) then some c else some a) none

/-- BEST of the chip's groups with the ports that supplied them. -/
def electAll (s : State) : List (Best × Option Nat) := (List.range s.stack.levels).map (fun j => (bestCand (dealerCands s j)).getD ({}, none))

/-- The upstream link: the supplier of BEST for the innermost group whose dealer is another chip. -/
def upstreamOf (l : List (Best × Option Nat)) : Option Nat :=
  (l.reverse.find? (fun b => decide (b.1.prio ≠ 0 ∧ b.1.serial ≠ Config.serial.toNat))).bind (fun b => b.2)

/-- DEALER_ELECTION at a trick boundary. A chip keeps member lists for the groups it leads (12 R376). -/
def electBoundary (s : State) : State :=
  let l := electAll s
  let t := modStack (fun k => { k with best := l.map (fun b => b.1), upstream := upstreamOf l }) s
  modStack (fun k => { k with joined := k.joined.filter (fun m => leads t m.level) }) t

/-- DIST_UPDATE at a trick boundary (12 R386). -/
def distBoundary (s : State) : State :=
  let dist := match s.stack.upstream.bind (port s) with
    | none => 0
    | some x => x.stk.dist + (x.stk.delay / 65536).toNat + s.stack.hopNs
  let deep := decide (65536 < 2 * dist)
  let s1 := modStack (fun k => { k with dist := dist, tooDeep := deep }) s
  if deep && !s.stack.tooDeep then fault 59 0 dist s1 else s1

/-! ## Joins, episodes and the pace -/

/-- Next SEQ of the stack engine. -/
def takeSeq (s : State) : Nat × State := (s.stack.nextSeq, modStack (fun k => { k with nextSeq := (k.nextSeq + 1) % 2 ^ 32 }) s)

/-- Payload of a JOIN (12 Table 12.7). -/
def joinBytes (s : State) : List Byte := beBytes 6 Config.serial.toNat ++ [byte s.stack.prio, byte s.power.pace]

/-- STACK_JOIN (12 R376): to the dealer of each group when it changed, and at a rubber boundary. -/
def joinBoundary (rubber : Bool) (s : State) : State :=
  if s.boot.fwRunning = false then s
  else
    let s1 := forAll (List.range s.stack.levels) (fun j acc =>
      let b := bestOf acc j
      if b.prio ≠ 0 ∧ leads acc j = false ∧ (rubber = true ∨ acc.stack.joinTo.getD j 0 ≠ b.serial) then
        let q := takeSeq acc
        sendControl b.path b.levels 3 q.1 (joinBytes acc) q.2
      else acc) s
    modStack (fun k => { k with joinTo := (List.range k.levels).map (fun j => (k.best.getD j {}).serial) }) s1

/-- Record an episode in the log of the last 256 (12 R390): END closes the open one of its chip and START. -/
def logEpisode (e : Episode) (s : State) : State :=
  modStack (fun k =>
    if k.episodes.any (fun x => x.path = e.path ∧ x.levels = e.levels ∧ x.start = e.start) then
      { k with episodes := k.episodes.map (fun x => if x.path = e.path ∧ x.levels = e.levels ∧ x.start = e.start then e else x) }
    else { k with episodes := (k.episodes ++ [e]).drop (k.episodes.length + 1 - 256) }) s

/-- EPISODE_SEND: to the dealer of the innermost group. -/
def sendEpisode (start fin pace : Nat) (s : State) : State :=
  let j := s.stack.levels - 1
  let b := bestOf s j
  if s.stack.levels = 0 ∨ b.prio = 0 ∨ s.boot.fwRunning = false then s
  else if leads s j then logEpisode { path := s.stack.own, levels := s.stack.levels, minPace := pace, start := start, fin := fin } s
  else
    let q := takeSeq s
    sendControl b.path b.levels 4 q.1 (beBytes 8 start ++ beBytes 8 fin ++ [byte pace] ++ zeros 7) q.2

/-- The announced pace changes; an episode opens below 8 and closes at 8 (12 R387, R390). -/
def setPace (r : Nat) (s : State) : State :=
  let s1 := modPower (fun p => { p with pace := r }) s
  match s.stack.episode with
  | none => if r < 8 ∧ s.power.pace = 8 then sendEpisode (idx s) 0 r (modStack (fun k => { k with episode := some (idx s, r) }) s1) else s1
  | some (st, m) =>
    if r = 8 then sendEpisode st (idx s) m (modStack (fun k => { k with episode := none }) s1)
    else modStack (fun k => { k with episode := some (st, min m r) }) s1

/-- A stack link is LIVE. -/
def anyLive (s : State) : Bool := s.ports.any (fun e => e.2.stk.enable && decide (e.2.stk.st = .live))

/-- The rate in effect: 1/8 under the limiter and the emergency shed, else the power manager's (16 R469, R492). -/
def issueNow (p : Power) : Nat := if p.limiter || p.emergency then 1 else p.want

/-- The limiter, the emergency shed or the power manager changed what holds. -/
def issueSync (s : State) : State := modPower (fun p => { p with issue := issueNow p }) s

/-- An ordered rate takes effect when its boundary has come (12 R387). -/
def issueBoundary (s : State) : State :=
  match s.power.decrease with
  | some (r, t) => if t ≤ now s then issueSync (modPower (fun p => { p with want := r, decrease := none }) s) else s
  | none => s

/-- A rate is ordered; the heartbeat of trick count n announces it. A decrease on a chip with a LIVE stack link takes effect two tricks after n, any other change at n (12 R387). -/
def orderIssue (r n : Nat) (s : State) : State :=
  let at_ := if r < s.power.want ∧ anyLive s = true then n + 2 else n
  let s1 := modPower (fun p => { p with decrease := some (r, at_) }) s
  issueBoundary (if s.power.limiter || s.power.emergency then s1 else setPace r s1)

/-! ## Heartbeats -/

/-- A BEST entry on the wire (12 Table 12.5). -/
def bestBytes (b : Best) : List Byte := if b.prio = 0 then zeros 16 else [byte b.prio, byte b.hops, byte b.levels, 0] ++ beBytes 6 b.serial ++ beBytes 6 b.path

/-- A BEST entry as read. -/
def bestRead (bs : List Byte) (o : Nat) : Best := { prio := fld bs o 1, hops := fld bs (o + 1) 1, levels := fld bs (o + 2) 1, serial := bfld bs (o + 4) 6, path := bfld bs (o + 10) 6 }

/-- The heartbeat of a port at cycle 0 of a trick; TX_TS is written as it leaves (12 R372, R373). -/
def heartbeatBytes (s : State) (p : Nat) (x : Port) : List Byte :=
  let k := x.stk
  let flags := b2n (dom s s.stack.dom).locked + 2 * b2n s.stack.tooDeep + 4 * b2n s.power.limiter + 8 * b2n s.stack.dupPath
  stackHeader s 1 k.peerPath k.peerLevels (idx s % 2 ^ 24) ++ beBytes 8 (idx s) ++ [byte s.power.pace, byte flags, byte s.stack.prio, 0]
    ++ beBytes 6 Config.serial.toNat ++ beBytes 2 p ++ zeros 4 ++ zeros 8 ++ beBytes 8 k.rxTs ++ beBytes 4 k.rxIndex ++ beBytes 4 s.stack.dist
    ++ (List.range 8).flatMap (fun j => bestBytes (if j < s.stack.levels then bestOf s j else {}))

/-- HEARTBEAT_SEND at cycle 0: every stack link not DOWN. Frames for ports that are not UP go. -/
def heartbeatBoundary (s : State) : State :=
  let s0 := modStack (fun k => { k with tx := k.tx.filter (fun e => portUp s e.port) }) s
  if s.stack.levels = 0 then s0
  else s.ports.foldl (fun acc e => if e.2.stk.enable = true ∧ e.2.stk.st ≠ .down then stackTx e.1 (heartbeatBytes acc e.1 e.2) acc else acc) s0

/-- The follow-suit shaper is disabled. -/
def fsOff (k : StackLink) : StackLink := { k with fs := { k.fs with enable := false, credit := 0 } }

/-- The follow-suit shaper follows a peer's PACE (12 R388). -/
def followSuit (p pace : Nat) (x : Port) (s : State) : State :=
  if 8 ≤ pace then modStk p fsOff s
  else
    let rate := portRate x * 16 * pace * 65536
    let s1 := modStk p (fun k => { k with fs := { enable := true, rate := rate, burst := 16384, credit := if k.fs.enable then k.fs.credit else 0 } }) s
    if x.stk.fs.enable then s1 else ev 0x0125 p s1

/-- Peer checks of Table 12.3 in the order of their codes; 0 when none fails. -/
def peerCause (s : State) (x : Port) (src sl serial : Nat) : Nat :=
  if src = s.stack.own ∧ sl = s.stack.levels ∧ serial ≠ Config.serial.toNat then 1
  else if (pathDiffer src sl s.stack.own s.stack.levels).isNone then 2
  else if portRate x < 800 then 3
  else if 1000 * 65536 < x.stk.delay then 4
  else 0

/-- The link state after a valid heartbeat (12 Table 12.2). -/
def linkStep (k : StackLink) (cause good level : Nat) : StackLink :=
  if cause ≠ 0 then
    let k1 := if k.st = .live then fsOff k else k
    { k1 with st := .held, cause := cause, good := 0, level := level }
  else if k.st = .discovering ∧ 3 ≤ good then { k with st := .live, cause := 0, good := good, level := level }
  else if k.st = .held ∧ 3 ≤ good then { k with st := .discovering, cause := 0, good := 0, level := level }
  else { k with good := good, level := level }

/-- The four timestamps of R384 give d and theta, each in 2^-16 ns, when RX_INDEX names one of the last 4 heartbeats sent. -/
def exchange (k : StackLink) (rxIndex t2 t3 t4 : Nat) : Option (Int × Int) :=
  (k.sentHb.find? (fun e => e.1 == rxIndex)).map (fun e =>
    let a := sInt 64 (t4 + 2 ^ 64 - t3 % 2 ^ 64)
    let b := sInt 64 (t2 + 2 ^ 64 - e.2 % 2 ^ 64)
    ((a + b) * 2048, (a - b) * 2048))

/-- A valid heartbeat is received on a stack link at time t4 (1/16 ns): header and body of 176 bytes. -/
def heartbeatIn (p : Nat) (x : Port) (h b : List Byte) (t4 : Nat) (s : State) : State :=
  let k := x.stk
  let src := (hdrSrc h).1
  let sl := (hdrSrc h).2
  let serial := bfld b 12 6
  let own := Config.serial.toNat
  let best := (List.range 8).map (fun j => bestRead b (48 + 16 * j))
  let good := if k.heard then k.good else k.good + 1
  let cause := peerCause s x src sl serial
  let level := (pathDiffer src sl s.stack.own s.stack.levels).getD 0
  let ex := exchange k (bfld b 40 4) (bfld b 32 8) (bfld b 24 8) t4
  let k1 := linkStep k cause good level
  let k2 := { k1 with peerPace := fld b 8 1, peerPath := src, peerLevels := sl, peerSerial := serial, peerLocked := (fld b 9 1).testBit 0,
                      lastHb := now s, heard := true, rxIndex := bfld b 4 4, rxTs := t4 % 2 ^ 64, best := best, dist := bfld b 44 4 }
  let k3 := match ex with
    | some (d, th) => { k2 with sumD := k2.sumD + d, sumTheta := k2.sumTheta + th, nPairs := k2.nPairs + 1 }
    | none => k2
  let s1 := ev 0x0121 p (modStk p (fun _ => k3) s)
  let dupEntry := (best.take sl).any (fun e => e.prio ≠ 0 ∧ e.path = s.stack.own ∧ e.levels = s.stack.levels ∧ e.serial ≠ own)
  let s2 := if cause = 1 ∨ dupEntry = true then fault 58 0 p (modStack (fun y => { y with dupPath := true }) s1) else s1
  let deep := (fld b 9 1).testBit 1
  let s3 := modStack (fun y => { y with joined := y.joined.map (fun m => if m.path = src then { m with tooDeep := deep } else m) }) s2
  -- a link that a check holds keeps its shaper disabled (Table 12.2; log entry 112)
  if k3.st = .held then s3 else followSuit p (fld b 8 1) { x with stk := k3 } s3

/-- A heartbeat frame without its FCS arrives (12 R370, R371). -/
def heartbeatFrame (p : Nat) (bs : List Byte) (ts : Nat) (s : State) : State :=
  match port s p with
  | none => s
  | some x =>
    if x.stk.enable = false then s
    else if hdrGood bs = false then ev 0x0523 0 s
    else if x.stk.st = .down ∨ s.stack.levels = 0 ∨ hdrType bs ≠ 1 ∨ bs.length ≠ 192 then s
    else heartbeatIn p x bs (bs.drop 16) ts s

/-- A link's misses and consecutive tricks at a boundary; DUP_PATH of the heartbeat flags stands while a link is held for it. -/
def heardBoundary (s : State) : State :=
  let s1 := { s with ports := tabMap s.ports (fun _ x => if x.stk.enable then { x with stk := { x.stk with good := if x.stk.heard then x.stk.good else 0, heard := false } } else x) }
  modStack (fun k => { k with dupPath := s.ports.any (fun e => e.2.stk.enable && decide (e.2.stk.st = .held ∧ e.2.stk.cause = 1)) }) s1

/-- STACK_LINK_MISS: MISS_LIMIT whole tricks without a valid heartbeat. -/
def linkMiss (p : Nat) (s : State) : State :=
  match port s p with
  | none => s
  | some x =>
    if x.stk.enable = true ∧ x.stk.st = .live ∧ x.stk.lastHb + s.stack.missLimit < now s then modStk p (fun k => { fsOff k with st := .discovering, good := 0 }) s
    else s

/-! ## Control frames -/

/-- A JOIN reaches this chip (12 R376): its sender is a member of each group that this chip leads and the sender belongs to. -/
def joinIn (src sl : Nat) (pl : List Byte) (s : State) : State :=
  forAll (List.range s.stack.levels) (fun j acc =>
    if leads acc j = true ∧ pathBegins src sl s.stack.own j = true then
      modStack (fun k =>
        let old := k.joined.find? (fun m => m.level = j ∧ m.path = src)
        let m : Member := { level := j, path := src, depth := sl, serial := bfld pl 0 6, since := now acc, tooDeep := match old with
          | some o => o.tooDeep
          | none => false }
        { k with joined := k.joined.filter (fun y => !decide (y.level = j ∧ y.path = src)) ++ [m] }) acc
    else acc) s

/-- A CONTROL message for firmware of this chip (12 R383, Table 12.7). -/
def controlIn (src sl : Nat) (body : List Byte) (s : State) : State :=
  let seq := bfld body 4 4
  let pl := slice body 8 (bfld body 2 2)
  match fld body 0 1 with
  | 1 =>
    match s.stack.answered.find? (fun a => a.1 == src && a.2.1 == seq) with
    | some a => sendControl src sl 2 seq a.2.2 s
    | none => enqueueRequest src sl seq pl s
  | 2 => handleResponse seq pl s
  | 3 => joinIn src sl pl s
  | 4 => logEpisode { path := src, levels := sl, minPace := fld pl 16 1, start := bfld pl 0 8, fin := bfld pl 8 8 } s
  | _ => ev 0x0523 0 s

/-- A CONTROL frame for this chip, as exception class STACK_CONTROL, with its timestamp (07 R209; 12 R383; 14 Table 14.7). -/
def controlHere (p : Nat) (bs : List Byte) (ts : Nat) (s : State) : State :=
  let n := clusterOf (groupOf p)
  let r := excPolice n 0x0D (bs.length - 16 + 4) s
  match r.1 with
  | .red => evAdd 0x0402 n 0x0D 1 r.2
  | .disabled => evAdd 0x0402 n 0x0D 1 r.2
  | .absent => evAdd 0x0402 n 0x0D 1 r.2
  | .firmware => controlIn (hdrSrc bs).1 (hdrSrc bs).2 (bs.drop 16) (evAdd 0x0401 n 0x0D 1 r.2)
  | .host ring =>
    let body := bs.drop 16
    let k := marks s (now s)
    let flags := 4 * b2n k.1 + 8 * b2n k.2.1 + 16 * b2n k.2.2
    rxPost ring (rxHeader 1 0x0D body.length p 0xFFFF flags (ts % 16) 0 (ts / 16) (idx s) ++ body) none (evAdd 0x0401 n 0x0D 1 r.2)

/-- A CONTROL frame goes on by R381. -/
def controlOn (p q n : Nat) (bs : List Byte) (s : State) : State :=
  match routeControl s q n with
  | none => ev 0x0520 0 s
  | some o => if o = p then ev 0x0521 0 s else stackTx o bs s

/-- A CONTROL frame without its FCS arrives on a port (12 R370, R371, R383). -/
def controlFrame (p : Nat) (bs : List Byte) (ts : Nat) (s : State) : State :=
  match port s p with
  | none => s
  | some x =>
    if x.stk.enable = false ∨ x.link ≠ .up then s
    else if hdrGood bs = false then ev 0x0523 0 s
    else if hdrType bs ≠ 2 then s
    else if x.stk.st ≠ .live then ev 0x0122 p s
    else
      let q := (hdrDst bs).1
      let n := (hdrDst bs).2
      if q = s.stack.own ∧ n = s.stack.levels then controlHere p bs ts s
      else if n < s.stack.levels ∧ pathPrefix s.stack.own n = q then
        let b := bestOf s n
        if leads s n then controlHere p bs ts s
        else if b.prio = 0 then ev 0x0520 0 s
        else controlOn p b.path b.levels bs s
      else controlOn p q n bs s

/-- A REQUEST without its RESPONSE for 2 hands is sent again, at most 3 times; then its command answers NOT_READY (12 R383). -/
def controlResend (seq : Nat) (s : State) : State :=
  match s.stack.out.find? (fun o => o.seq == seq) with
  | none => s
  | some o =>
    if now s < o.sent + 128 ∨ s.boot.fwRunning = false then s
    else if o.tries < 3 then
      sendControl o.dst o.levels 1 seq o.payload (modStack (fun k => { k with out := k.out.map (fun y => if y.seq = seq then { y with tries := y.tries + 1, sent := now s } else y) }) s)
    else
      let t := modStack (fun k => { k with out := k.out.filter (fun y => y.seq != seq) }) s
      match o.mb with
      | some m => answer m stNotReady 0 [] t
      | none => t

/-! ## Hands and rubbers -/

/-- A dealer's control round, once per hand (12 R386): a REQUEST to every other member of each group it leads. What it asks is a free value (log entry 113). -/
def controlRound (s : State) : State :=
  if s.boot.fwRunning = false then s
  else forAll ((List.range s.stack.levels).filter (leads s)) (fun j acc =>
    ((groupMembers s j).filter (fun m => m.1 != s.stack.own)).foldl (fun t m =>
      request none m.1 m.2 (fun _ => (Config.controlRound (idx s)).take 4080) [] [] false t) acc) s

/-- At a hand boundary: the averages of d and theta, P2P and MEAN_LINK_DELAY of LIVE links, the sample of the stack domain, and the dealer's control round (12 R385, R386). -/
def stackHand (s : State) : State :=
  let up := s.stack.upstream
  let th := match up.bind (port s) with
    | some x => if x.stk.st = .live ∧ 0 < x.stk.nPairs then some (x.stk.sumTheta / x.stk.nPairs) else none
    | none => none
  let s1 := { s with ports := tabMap s.ports (fun _ x =>
    if x.stk.enable = false then x
    else
      let y := if 0 < x.stk.nPairs then { x with stk := { x.stk with delay := x.stk.sumD / x.stk.nPairs, sumD := 0, sumTheta := 0, nPairs := 0 } } else x
      if x.stk.st = .live ∧ s.boot.fwRunning = true then
        { y with p2p := true, meanLinkDelay := if 0 < x.stk.nPairs then y.stk.delay.toNat else y.meanLinkDelay }
      else y) }
  let s2 := controlRound s1
  match th with
  | some e => if s.stack.timeOn = true ∧ s.boot.fwRunning = true then offerSample s.stack.dom 1 (e + (dom s s.stack.dom).dofs) s2 else s2
  | none => s2

end Sys2Proof.Machine
end

