-- ==== Sys2Proof/Machine/Power.lean ====
section
/-! DEFINITION. What the power manager does at a trick boundary: samples (16 R472), the thermal limits (R485), the ladder of rungs (R474 to R476, R531), the cap (R478 to R483) and the emergency shed (R492, R493); and what conversion turning off leaves (R493, R519). -/

namespace Sys2Proof.Machine

/-! ## Emergency shed -/

/-- The emergency shed begins, or a further trigger joins it (16 R492). -/
def emergencyStart (t : ShedTrigger) (s : State) : State :=
  let s1 := modPower (fun p => { p with triggers := if p.triggers.contains t then p.triggers else p.triggers ++ [t], absent := 0 }) s
  if s.power.emergency then s1
  else
    let s2 := ev 0x0531 0 (modPower (fun p => { p with emergency := true, emergencyAt := now s, emergencySeen := true, noJudge := true }) s1)
    setPace 1 (issueSync (powerIrq s.power.irqEmergency s2))

/-- The rate that the power manager has ordered. -/
def orderedRate (p : Power) : Nat :=
  match p.decrease with
  | some (r, _) => r
  | none => p.want

/-- The limiter or the emergency shed no longer holds: the announced and the effective rate return (16 R469, R493). -/
def holdOver (s : State) : State :=
  let s1 := issueSync s
  if s1.power.limiter ∨ s1.power.emergency then s1 else setPace (orderedRate s1.power) s1

/-- The emergency shed ends (16 R493). -/
def emergencyStop (s : State) : State :=
  holdOver (powerIrq s.power.irqEmergency (modPower (fun p => { p with emergency := false, triggers := [], absent := 0, shedOcts := [], limiterHigh := 0, exhausted := 0 }) s))

/-- A trigger is present at the last sample. A trigger of PWR_FAIL_N counts as present when it comes. -/
def triggerOn (s : State) (t : ShedTrigger) : Bool :=
  match t with
  | .vinLow => decide (s.power.vin < s.boot.vinWarn + 1000)
  | .pwrFail => false
  | .inputLimit => decide (36000 ≤ s.power.iin)
  | .thermal => decide (1520 ≤ s.power.tj)

/-! ## Samples and temperature -/

/-- The power sample of a trick (16 R472), and the counts of consecutive tricks that R469, R470, R493 look at. -/
def powerSample (i : TrickIn) (s : State) : State :=
  modPower (fun p =>
    let uw := i.vin * i.iin
    let e := uw * 1024 + p.energyFrac
    { p with
      vin := i.vin
      iin := i.iin
      rails := i.rails
      energy := p.energy + BitVec.ofNat 64 (e / 1000000)
      energyFrac := e % 1000000
      rubberEnergy := p.rubberEnergy + uw * 1024
      last4 := (uw :: p.last4).take 4
      vins := (i.vin :: p.vins).take 64
      limiterLow := if i.iin < 36000 then p.limiterLow + 1 else 0
      limiterHigh := if 39000 ≤ i.iin ∧ p.issue = 1 then p.limiterHigh + 1 else 0
      exhausted := if 39000 ≤ i.iin ∧ p.issue = 1 ∧ 64 ≤ p.limiterHigh ∧ p.shedList.all (fun o => p.shedOcts.contains o) = true then p.exhausted + 1 else 0 }) s

/-- The highest of the sensors and its number, the lowest on a tie. -/
def hottest (l : List Int) : Nat × Int :=
  (l.zipIdx).foldl (fun b e => if b.2 < e.1 then (e.2, e.1) else b) (0, l.headD 0)

/-- The thermal actions of a trick (16 Table 16.5), but for the trip: TJ in 1/16 degree. -/
def thermalAct (temps : List Int) (s : State) : State :=
  if temps.isEmpty then s
  else
    let h := hottest temps
    let was := s.power.tj
    let s1 := modPower (fun p => { p with sensor := h.1, tj := h.2, therm := decide (1680 ≤ h.2), hotRubber := p.hotRubber || decide (1600 ≤ h.2) }) s
    let s2 :=
      if 1600 ≤ h.2 ∧ was < 1600 then
        fault 62 0 (uInt 32 h.2) (powerIrq (s.power.irqTherm && !s.power.thermSeen) (modPower (fun p => { p with thermSeen := true }) s1))
      else if 1600 ≤ h.2 then powerIrq (s.power.irqTherm && !s.power.thermSeen) (modPower (fun p => { p with thermSeen := true }) s1)
      else s1
    if 1840 ≤ h.2 then
      let s3 := if (fltInst s2 62 0).severe then s2 else makeSevere 62 0 s2
      if was < 1840 ∨ s.power.emergency = false then emergencyStart .thermal s3 else s3
    else s2

/-- Absence of the triggers, in tricks (16 R493). -/
def absentCount (s : State) : State :=
  if s.power.emergency = false then s
  else if s.power.triggers.any (triggerOn s) then modPower (fun p => { p with absent := 0 }) s
  else modPower (fun p => { p with absent := p.absent + 1 }) s

/-! ## Clock -/

/-- The voltage that the power manager sets on rail 0, 1 or 2, in mV (16 R483, R486). -/
def railTarget (s : State) (rail : Nat) : Nat := Config.voltage rail s.power.ageCol s.power.railsSprint

/-- The core leaves sprint at this boundary; the rails follow one hand later (16 R483; 02 R54). -/
def leaveSprint (s : State) : State :=
  { modPower (fun p => { p with plan := .rails (now s + 64) }) s with trick := { s.trick with sprint := false } }

/-- What forbids sprint: the limiter, the emergency shed, FIXED_FREQ, 100 degrees (16 R469, R485, R492; 02 R55). -/
def sprintForbidden (s : State) : Bool :=
  s.power.limiter || s.power.emergency || s.trick.fixedFreq || decide (1600 ≤ s.power.tj)

/-- Sprint is left, or an entry under way is given up, at a boundary. -/
def clockBoundary (s : State) : State :=
  if sprintForbidden s = false then s
  else if s.trick.sprint then leaveSprint s
  else match s.power.plan with
    | .enter _ => modPower (fun p => { p with plan := .rails (now s + 64) }) s
    | _ => s

/-- A clock or rail change that is due is made (16 R483). -/
def clockChange (s : State) : State :=
  match s.power.plan with
  | .enter t =>
    if t ≤ now s ∧ sprintForbidden s = false then { modPower (fun p => { p with plan := .none, sinceStep := 0 }) s with trick := { s.trick with sprint := true } } else s
  | .rails t => if t ≤ now s then modPower (fun p => { p with plan := .none, railsSprint := false }) s else s
  | .none => s

/-! ## Shedding -/

/-- The first octet of the shed list that is not shed. -/
def nextShed (p : Power) : Option Nat := p.shedList.find? (fun o => !p.shedOcts.contains o)

/-- An octet is shed; its lanes move at the boundary, its links go down there (16 R484). -/
def shedOctet (o : Nat) (s : State) : State := modPower (fun p => { p with shedOcts := p.shedOcts ++ [o] }) s

/-! ## The cap -/

/-- The mean of the last 4 tricks exceeds cap_eff, or TJ is at 105 degrees or more (16 R480). -/
def overCap (s : State) : Bool :=
  (decide (s.power.last4.length = 4) && decide (4 * (capEff s * 1000) < s.power.last4.sum)) || decide (1680 ≤ s.power.tj)

/-- One step down (16 R479, R480). An entry into sprint that is under way is given up as sprint is left. -/
def stepDown (s : State) : State :=
  let s1 := modPower (fun p => { p with sinceStep := 0 }) s
  if s.trick.sprint then leaveSprint s1
  else if (match s.power.plan with
    | .enter _ => true
    | .rails _ | .none => false) then modPower (fun p => { p with plan := .rails (now s + 64) }) s1
  else if 1 < orderedRate s.power then orderIssue (orderedRate s.power - 1) (now s) s1
  else match nextShed s.power with
    | some o => shedOctet o s1
    | none => s

/-- The step-down rule at a trick boundary. -/
def capTrick (s : State) : State :=
  let s1 := modPower (fun p => { p with sinceStep := if p.decrease.isSome then 0 else p.sinceStep + 1 }) s
  if s.power.emergency = false ∧ 4 ≤ s1.power.sinceStep ∧ overCap s = true then stepDown s1 else s1

/-- The conditions of sprint entry (16 R483). -/
def maySprint (s : State) : Bool :=
  s.power.sprintEn && !s.trick.fixedActive && !s.trick.fixedFreq && decide (s.power.issue = 8) && s.power.shedOcts.isEmpty
    && !s.power.limiter && !s.power.hotRubber && !s.trick.sprint && decide (s.power.plan = .none)
    && decide (s.power.rubberEnergy + s.power.headroom * 1000 * 1048576000 ≤ capEff s * 1048576000)

/-- One step up (16 R481, R483). -/
def stepUp (s : State) : State :=
  match s.power.shedOcts.reverse with
  | _ :: r => modPower (fun p => { p with shedOcts := r.reverse, sinceStep := 0 }) s
  | [] =>
    if orderedRate s.power < 8 then orderIssue (orderedRate s.power + 1) (now s) (modPower (fun p => { p with sinceStep := 0 }) s)
    else if maySprint s then modPower (fun p => { p with railsSprint := true, plan := .enter (now s + 64) }) s
    else s

/-- The verdict on the rubber just closed: 0 within the cap, 1 over it, 2 unreachable (16 R482). -/
def capVerdict (s : State) : Nat :=
  if capEff s * 1048576000 < s.power.rubberEnergy then (if s.power.floorAll then 2 else 1) else 0

/-- The response of PWR_CAP_SET. -/
def capResp (s : State) : List Byte := leBytes 8 (rubberNow s) ++ [byte s.power.issue, byte (shedCount s)] ++ zeros 6

/-- A PWR_CAP_SET that waits is judged by the rubber just closed, once that rubber was whole (16 R496). -/
def capAnswer (v m : Nat) (s : State) : State :=
  match (mbox s m).cmd with
  | none => s
  | some c =>
    match c.wait with
    | .cap (n + 1) => modCmd m (fun c => { c with wait := .cap n }) s
    | .cap 0 => if v = 0 then answer m stOk 0 (capResp s) s else if v = 2 then answer m stCapUnreachable 0 (capResp s) s else s
    | _ => s

/-- The rubber closes: mean, verdict, step up, answers, and the age column (16 R472, R481, R482, R486, R496). -/
def capRubber (s : State) : State :=
  let mean := s.power.rubberEnergy / 1048576000
  let v := capVerdict s
  let s1 := modPower (fun p => { p with rubberMean := mean }) s
  let judged := !s.power.emergency && !s.power.noJudge
  let s2 :=
    if judged = false then s1
    else if v = 2 then
      ev 0x0533 0 (fault 61 0 (mean / 1000) (powerIrq (s.power.irqCap && !s.power.unreachable) (modPower (fun p => { p with unreachable := true }) s1)))
    else if v = 1 then ev 0x0532 0 s1
    else if s.power.rubberEnergy + s.power.hyst * 1000 * 1048576000 ≤ capEff s * 1048576000 ∧ s.power.hotRubber = false ∧ s.power.limiter = false then stepUp s1
    else s1
  let s3 := forAll (List.range 32) (capAnswer (if judged then v else 1)) s2
  modPower (fun p => { p with
    rubberEnergy := 0
    hotRubber := decide (1600 ≤ p.tj)
    noJudge := p.emergency
    ageCol := p.colNext.getD p.ageCol
    colNext := none }) s3

/-! ## The ladder -/

/-- What a table cluster starts with when it leaves rung 5 (16 R476): everything reads zero. -/
def clusterFresh (n : Nat) (s : State) : State :=
  modCluster n (fun c => { c with buckets := [], counters := [], meters := [], swept := List.replicate 64 0, cmdQ := [], cmdWait := [], learnQ := [], ageQ := [], notif := [], retWait := [], reinsert := [], learnHold := [], rr := 0, ager := 0, agerAt := 0, slotsUsed := 0, excDue := true }) s

/-- State that a domain finds when it leaves a rung (16 R476; 08 R247). -/
def domFresh (d cur : Nat) (s : State) : State :=
  if 96 ≤ d ∧ d < 104 then (if 4 ≤ cur then modSect (d - 96) (fun x => { x with rebuilding := true }) s else s)
  else if cur < 5 then s
  else if 64 ≤ d ∧ d < 96 then modGrp (d - 64) (fun g => { limitForward := g.limitForward, preciseN := g.preciseN }) s
  else if 104 ≤ d ∧ d < 108 then clusterFresh (d - 104) s
  else if d = 108 then forAll (List.range 32) (fun g acc => modGrp g (fun x => { x with slice := {} }) acc) s
  else if d = 111 then { s with chans := [] }
  else if d = 112 then { s with ciph := { s.ciph with slots := [] } }
  else s

/-- A domain other than an octet moves to the rung that holds for it (16 R474, R475). -/
def domStep (d : Nat) (s : State) : State :=
  let t := domTarget s d
  let cur := (pdom s d).held
  if fusedOff s d ∨ t = cur then s
  else
    let s1 := modDomP d (fun x => { x with held := t, moving := true }) s
    if t < cur then domFresh d cur s1 else s1

/-- A lane below rung 5, or on its way there, moves to the rung that holds for it; links go down with cause 7, without the penalty when shedding does it (03 R82, R83; 16 R484, R492). -/
def laneStep (l : Nat) (s : State) : State :=
  let x := lane s l
  let t := laneTarget s l
  if t = x.rung then s
  else if x.rung < t then
    let shed := s.power.emergency || s.power.shedOcts.contains (l / 8) || quadLost s (l / 128)
    laneEnter l t (if x.rung = 0 then laneLinkDown l 7 (!shed) s else s)
  else if x.rung < 5 ∨ octetRung s (l / 8) < 5 then laneExit l t s
  else s

/-- An octet wants to leave rung 5. -/
def octetRises (s : State) (o : Nat) : Bool := decide (octetRung s o = 5) && decide (octTarget s o < 5)

/-- The lanes of an octet start to leave rung 5. -/
def octetStart (o : Nat) (s : State) : State :=
  forAll (List.range 8) (fun i acc =>
    let l := 8 * o + i
    let t := laneTarget s l
    if t < 5 then laneExit l t acc else acc) s

/-- The next batch of octets leaves rung 5 when none ramps: at most eight, in ascending order (18 R531). -/
def rampStart (s : State) : State :=
  let want := (List.range (octetCount s)).filter (octetRises s)
  if s.power.ramping.isEmpty then
    forAll (want.take 8) octetStart (modPower (fun p => { p with ramping := want.take 8 }) s)
  else s

/-- The ladder at a trick boundary: every lane, then octets that leave rung 5, then the other domains. -/
def ladder (s : State) : State :=
  let s1 := forAll (List.range (laneCount s)) laneStep s
  forAll ((List.range 49).map (· + 64)) domStep (rampStart s1)

/-! ## Conversion off -/

/-- Conversion turns off: everything but flash and what lies outside the device is lost (16 R493, Table 16.5; 18 R519). -/
def powerOff (trip : Bool) (s : State) : State :=
  let b : Boot := {
    slots := tabMap s.boot.slots (fun _ x => { x with failed := false })
    copies := s.boot.copies
    copyBlank := s.boot.copyBlank
    perst := s.boot.perst
    tripped := trip }
  let p : Power := { log := s.power.log, logRo := s.power.logRo, logSpares := s.power.logSpares, stateSpares := s.power.stateSpares, stateRo := s.power.stateRo }
  { ident := s.ident
    refs := { lost := s.refs.lost }
    time := { cal := s.time.cal }
    power := p
    boot := b
    hostMem := s.hostMem
    freeCount := s.freeCount
    pending := s.pending }

end Sys2Proof.Machine
end

