-- ==== Sys2Proof/Machine/PowerCmds.lean ====
section
/-! DEFINITION. The power rows (16 R469, R470, R475, R483, R485, R492, R493; 18 R531) and the power commands (16 R495 to R498). -/

namespace Sys2Proof.Machine

/-- The power manager, the limiter and the sensors run: from the 4 ms row of a cold start (18 Table 18.1). -/
def pmRuns (s : State) : Bool := powered s

/-! ## Rows -/

/-- LIMITER_ENGAGE: the rate drops to 1/8 at once, and the heartbeat announces it (16 R469; 12 R389). -/
def execLimiterEngage (iin : Nat) (s : State) : Host.Outcome State Fault Refusal :=
  .next (
    if pmRuns s = false ∨ iin < 40000 ∨ s.power.limiter = true then s
    else
      let s1 := ev 0x0530 0 (modPower (fun p => { p with limiter := true, limiterSeen := true, limiterLow := 0 }) s)
      setPace 1 (issueSync (powerIrq s.power.irqLimiter s1)))

/-- LIMITER_RELEASE: after 64 consecutive tricks below 36 A. -/
def execLimiterRelease (s : State) : Host.Outcome State Fault Refusal :=
  .next (
    if s.power.limiter = true ∧ 64 ≤ s.power.limiterLow then holdOver (modPower (fun p => { p with limiter := false }) s) else s)

/-- INPUT_LIMIT_SHED: the next listed octet, one in a trick; 64 tricks after the last, the emergency shed and the input-limit fault (16 R470). -/
def execInputLimitShed (s : State) : Host.Outcome State Fault Refusal :=
  .next (
    if s.power.limiterHigh < 64 ∨ s.power.emergency = true then s
    else match nextShed s.power with
      | some o => if s.power.shedAt = now s + 1 then s else shedOctet o (modPower (fun p => { p with shedAt := now s + 1 }) s)
      | none => if 64 ≤ s.power.exhausted then fault 60 0 s.power.iin (emergencyStart .inputLimit s) else s)

/-- EMERGENCY_SHED. -/
def execEmergencyShed (t : ShedTrigger) (s : State) : Host.Outcome State Fault Refusal :=
  .next (if pmRuns s = false ∨ (t = .pwrFail ∧ scanHolds s = true) then s else emergencyStart t s)

/-- EMERGENCY_SHED_END: the triggers have been absent for 16 rubbers. -/
def execEmergencyShedEnd (s : State) : Host.Outcome State Fault Refusal :=
  .next (if s.power.emergency = true ∧ 16384 ≤ s.power.absent then emergencyStop s else s)

/-- THERMAL_TRIP at 125 degrees. -/
def execThermalTrip (tj : Int) (s : State) : Host.Outcome State Fault Refusal :=
  .next (if pmRuns s = true ∧ 2000 ≤ tj then powerOff true s else s)

/-- VIN_LOSS: below 9 V. -/
def execVinLoss (vin : Nat) (s : State) : Host.Outcome State Fault Refusal :=
  .next (if vin < 9000 then powerOff false s else s)

/-- SPRINT_CLOCK_CHANGE: at the boundary of the hand that ends, or later. -/
def execSprintClockChange (s : State) : Host.Outcome State Fault Refusal := .next (clockChange s)

/-- An octet's ramp is over. -/
def rampDone (o : Nat) (s : State) : State := modPower (fun p => { p with ramping := p.ramping.filter (fun i => i != o) }) s

/-- A domain's exit is complete; a cluster that lost its state fills its exception meters (16 R475; 07 R209). -/
def domReady (d : Nat) (s : State) : State :=
  let s1 := modDomP d (fun x => { x with moving := false }) s
  if 104 ≤ d ∧ d < 108 ∧ (pdom s d).held = 0 ∧ (cluster s (d - 104)).excDue = true then excMetersInit (d - 104) s1 else s1

/-- RUNG_EXIT_COMPLETE. -/
def execRungExitComplete (u : RungUnit) (s : State) : Host.Outcome State Fault Refusal :=
  .next (
    match u with
    | .lane l =>
      let x := lane s l
      if laneCount s ≤ l ∨ x.moving = false then s
      else
        let s1 := rampDone (l / 8) s
        if x.rung = 0 then laneRunning l s1 else modLane l (fun y => { y with moving := false }) s1
    | .domain d => if d < 64 then rampDone d s else if d < 113 ∧ (pdom s d).moving = true then domReady d s else s)

/-- RUNG_ENTRY_COMPLETE. -/
def execRungEntryComplete (u : RungUnit) (s : State) : Host.Outcome State Fault Refusal :=
  .next (
    match u with
    | .lane l => if l < laneCount s ∧ (lane s l).moving = true ∧ (lane s l).rung ≠ 0 then modLane l (fun y => { y with moving := false }) s else s
    | .domain d => if 64 ≤ d ∧ d < 113 ∧ (pdom s d).moving = true ∧ (pdom s d).held ≠ 0 then modDomP d (fun x => { x with moving := false }) s else s)

/-- OCTET_RAMP_BATCH: the ramp of the last batch is over, the next one starts (18 R531). -/
def execOctetRampBatch (s : State) : Host.Outcome State Fault Refusal :=
  .next (rampStart (modPower (fun p => { p with ramping := [] }) s))

/-! ## Commands -/

/-- PWR_CAP_SET (16 R496): settings at the next boundary, judged after a whole rubber. -/
def pwrCapSet (m : Nat) (c : Cmd) (p : List Byte) (s : State) : Ans :=
  let cap := fld p 16 4
  checks [(decide (cap = 0 ∨ (100 ≤ cap ∧ cap ≤ 1200)), 16), (decide (fld p 20 1 < 2), 20), (decide (fld p 21 1 ≤ 5), 21), rsv p 26 6] s
    (fun _ => .hold (.cap 1) (schedule m c p s))

/-- PWR_CAP_SET at its trick boundary. -/
def pwrCapApply (p : List Byte) (s : State) : State :=
  let dflt := fun (v d : Nat) => if v = 0 then d else v
  modPower (fun w => { w with
    cap := fld p 16 4
    sprintEn := (fld p 20 1).testBit 0
    shedRung := dflt (fld p 21 1) 4
    headroom := dflt (fld p 22 2) 150
    hyst := dflt (fld p 24 2) 25 }) s

/-- The octets of a PWR_SHED_SET. -/
def shedOrder (p : List Byte) : List Nat := (List.range (min (fld p 16 1) 64)).map (fun i => fld p (24 + i) 1)

/-- PWR_SHED_SET (16 R497). -/
def pwrShedSet (m : Nat) (c : Cmd) (p : List Byte) (s : State) : Ans :=
  let n := fld p 16 1
  let l := shedOrder p
  let entry := fun (i : Nat) =>
    (if i < n then decide (fld p (24 + i) 1 ≤ 63) && !(l.take i).contains (fld p (24 + i) 1) else decide (fld p (24 + i) 1 = 0), 24 + i)
  checks ([(decide (n ≤ 64), 16), rsv p 17 7] ++ (List.range 64).map entry) s (fun _ =>
    if l.any (fun o => decide (octetCount s ≤ o)) then ansSt stNoResource s
    else if s.power.shedOcts.isEmpty = false then ansSt stNotReady s
    else ansOk [] (schedule m c p s))

/-- PWR_SHED_SET at its trick boundary. -/
def pwrShedApply (p : List Byte) (s : State) : State := modPower (fun w => { w with shedList := shedOrder p }) s

/-- PWR_DOMAIN_SET (16 R498). -/
def pwrDomainSet (p : List Byte) (s : State) : Ans :=
  let d := fld p 16 1
  let r := fld p 17 1
  checks [([108, 109, 111, 112].contains d, 16), (decide (r ≤ (if d = 109 then 3 else 5)), 17), rsv p 18 6] s (fun _ =>
    if rungRefused s d r then ansSt stNotReady s
    else
      let t := modDomP d (fun x => { x with req := r }) s
      ansOk (rungResp t (domTarget t d)) t)

/-- PWR_STATUS_GET (16 Table 16.16). -/
def pwrStatus (s : State) : List Byte :=
  let w := s.power
  let rail := fun (k : Nat) =>
    let v := w.rails.getD k (0, 0)
    leBytes 2 v.1 ++ [0, 0] ++ leBytes 4 v.2
  leBytes 4 (pwrStat s) ++ leBytes 2 (uInt 16 w.tj) ++ [0, 0] ++ leBytes 4 w.vin ++ leBytes 4 w.iin ++ leBytes 8 w.energy.toNat
    ++ leBytes 4 w.rubberMean ++ leBytes 4 (capEff s / 1000) ++ (List.range 8).flatMap rail
    ++ (List.range 114).map (fun d => byte (heldRung s d)) ++ zeros 6
    ++ evLow s 0x0530 0 0 4 ++ evLow s 0x0531 0 0 4 ++ evLow s 0x0532 0 0 4 ++ evLow s 0x0533 0 0 4 ++ evLow s 0x0534 0 0 4 ++ evLow s 0x0535 0 0 4

/-- PWR_AGE_LOG_GET (16 Table 16.14): the log stands in rising SEQ. -/
def ageLogGet (s : State) (first : Nat) : List Byte :=
  let l := (s.power.log.filter (fun r => decide (first ≤ r.seq))).take 14
  [byte l.length] ++ zeros 7 ++ l.flatMap ageBytes

/-- PWR_CAP_SET. -/
def execPwrCapSet (m : Nat) (s : State) : Host.Outcome State Fault Refusal :=
  .next (runCmd 0x0901 m (fun c t => onPath m c.code 32 [1] c t (fun _ p => pwrCapSet m c p t)) s)

/-- PWR_SHED_SET. -/
def execPwrShedSet (m : Nat) (s : State) : Host.Outcome State Fault Refusal :=
  .next (runCmd 0x0902 m (fun c t => onPath m c.code 88 [1] c t (fun _ p => pwrShedSet m c p t)) s)

/-- PWR_DOMAIN_SET. -/
def execPwrDomainSet (m : Nat) (s : State) : Host.Outcome State Fault Refusal :=
  .next (runCmd 0x0903 m (fun c t => onPath m c.code 24 [1] c t (fun _ p => pwrDomainSet p t)) s)

/-- PWR_STATUS_GET. -/
def execPwrStatusGet (m : Nat) (s : State) : Host.Outcome State Fault Refusal :=
  .next (runCmd 0x0904 m (fun c t => onPath m c.code 16 [1] c t (fun _ _ => ansOk (pwrStatus t) t)) s)

/-- PWR_AGE_LOG_GET. -/
def execPwrAgeLogGet (m : Nat) (s : State) : Host.Outcome State Fault Refusal :=
  .next (runCmd 0x0905 m (fun c t => onPath m c.code 24 [1] c t (fun _ p => ansOk (ageLogGet t (fld p 16 8)) t)) s)

end Sys2Proof.Machine
end

