-- ==== Sys2Proof/Machine/Own.lean ====
section
/-! DEFINITION. Frames that the device itself puts into its queues: frames of host rings (14 R436, R437) and of firmware (10 R298). They are not parsed, update no flow record and are lossy. -/

namespace Sys2Proof.Machine

/-- IN_PORT of a frame that came through no port (14 R436). -/
def noPort : Nat := 0x1FF

/-- What a sent frame asks for: its queue, priority, time request with TAG, PTP_OFF and T2, egress profile, and whether it is firmware's. -/
structure OwnReq where
  out : Nat
  q : Nat
  pri : Nat
  req : TimeReq := .none
  tag : Nat := 0
  ptpOff : Nat := 0
  t2 : Nat := 0
  profile : Nat := 0
  fw : Bool := false
  deriving DecidableEq, Repr

/-- The frame's bytes without FCS, padded to 60 (14 R436). -/
def padFrame (bs : List Byte) : List Byte := bs ++ zeros (60 - bs.length)

/-- Header vector of a sent frame: no header is valid (14 R437). -/
def ownPhv (s : State) (r : OwnReq) (len : Nat) : Phv :=
  setTcColour r.pri 0 (setDest (uniDest r.out r.q) { inPort := noPort, len := len, trick := idx s % 2 ^ 32, profile := r.profile })

/-- A frame of requester `who` (33 rings, 32 firmware) takes cells and asks for its place: none while its stake, or an empty buffer, refuses the cells (14 R436; 08 R221). -/
def ownFrame (who : Nat) (r : OwnReq) (bs : List Byte) (s : State) : Option (Option Refuse × State) :=
  let body := padFrame bs
  let f := body.length + 4
  let n := cellsOf f
  if stakeRefuses s who n then none
  else match newChain who n f body s with
    | none => none
    | some (h, s1) =>
      let s2 := chainRef h s1
      if metaMax ≤ s2.buf.metas.length then some (some .descFull, chainUnref h (ev 0x0206 (queueUnit r.out r.q) s2))
      else
        let v := ownPhv s r f
        let m : Meta := { phv := v, edits := [], inTs := 0, gen := s.uc.gen, trick := s.trick.index, count := now s, group := groupOf r.out, copies := 1 }
        let s3 := putMeta h m s2
        let d : Desc := { mkDesc h h f n noPort v false false false false false with foreign := true, req := r.req, tag := r.tag, ptpOff := r.ptpOff, t2 := r.t2, fromFw := r.fw }
        let a := admitTo r.out r.q d false false (chainRef h s3)
        match a.1 with
        | none => some (none, closeChain h (some (groupOf r.out)) a.2)
        | some why => some (some why, chainUnref h (modChain h (fun c => { c with refcnt := c.refcnt - 1 }) a.2))

end Sys2Proof.Machine
end

