-- ==== Sys2Proof/Machine/Ptp.lean ====
section
/-! DEFINITION. Firmware's PTP instances, one for each domain (10 R292, Table 10.4): screening and authentication of the messages received (R313, R314), the boundary and ordinary clock with BMCA and the two delay mechanisms, and the messages sent (R298, R315). What IEEE 1588-2019 fixes behind Table 10.4 is log entry 92. -/

namespace Sys2Proof.Machine

/-- Firmware runs a PTP instance for the domain (10 R303; 18 R535, R536). -/
def ptpRuns (s : State) (x : Nat) : Bool :=
  s.boot.fwRunning && decide (x < 2) && (s.boot.cold || ((dom s x).listSeen && (dom s x).authSeen))

/-! ## Screening and authentication -/

/-- Announce, Sync, Follow_Up and Delay_Resp are screened (10 R313). -/
def ptpScreened (t : Nat) : Bool := decide (t = 0 ∨ t = 8 ∨ t = 9 ∨ t = 11)

/-- Outcome of the checks that need no key: an ICV is to be computed with a key slot, or the message's fate is known. -/
inductive PtpCheck where
  | ok | notAcceptable | authFail
  | icv (slot : Nat)
  deriving DecidableEq, Repr

/-- The key slot that a keyID selects. -/
def authSlot (d : Domain) (keyId : Nat) : Option Nat :=
  if keyId = d.keyId0 then some d.slot0 else if keyId = d.keyId1 then some d.slot1 else none

/-- The ICV of a message with a key slot: AES-256-CMAC or AES-256-GMAC (10 R314). -/
def icvOf (s : State) (d : Domain) (slot : Nat) (iv : BitVec 96) (bs : List Byte) : Option (List Byte) :=
  ((tabGetD s.ciph.slots slot {}).key).map (fun k => if d.gmac then gmacBytes k iv bs else cmacBytes k bs)

/-- List check first, then the TLV (10 R313, R314). -/
def ptpCheck (s : State) (m : PtpIn) : PtpCheck :=
  let d := dom s m.domain
  if ptpScreened m.msgType = true ∧ d.masters ≠ [] ∧ d.masters.any (masterOk m.clockId m.portNum m.port) = false then .notAcceptable
  else if d.rxRequired = false then .ok
  else match m.tlv with
    | none => .authFail
    | some t =>
      if t.delayed = true ∨ t.spp ≠ d.spp then .authFail
      else match authSlot d t.keyId with
        | none => .authFail
        | some k => .icv k

/-- The ICV of a message is the one that the key slot gives. -/
def icvGood (s : State) (m : PtpIn) (slot : Nat) : Bool :=
  match m.tlv with
  | some t => decide (icvOf s (dom s m.domain) slot m.iv m.covered = some t.icv)
  | none => false

/-! ## The boundary and ordinary clock -/

/-- Change what the PTP instance of a domain keeps. -/
def modPtp (x : Nat) (f : PtpClock → PtpClock) (s : State) : State := modDom x (fun d => { d with ptp := f d.ptp }) s

/-- Change what the peer delay mechanism keeps on a port. -/
def modPdelay (p : Nat) (f : PeerDelay → PeerDelay) (s : State) : State := modPort p (fun x => { x with pdelay := f x.pdelay }) s

/-- A time of device time (1/16 ns) in the counter of domain x, 2^-16 ns. -/
def domTime (s : State) (x ts : Nat) : Int := (ts : Int) * 4096 + ((dom s x).ctr - t40 s) / 2 ^ 24

/-- TAG of a message that firmware sends with a time request: messageType, domain, sequenceId. -/
def ptpTag (x t seq : Nat) : Nat := t % 4 * 2 ^ 14 + x % 2 * 2 ^ 13 + seq % 2 ^ 13

/-- The entry that firmware's timestamp queue holds for a message sent, and the queue without it (10 R300). -/
def takeStamp (p tag : Nat) (s : State) : Option TsqEntry × State :=
  let hit := fun (e : TsqEntry) => decide (e.port = p ∧ e.tag = tag)
  match s.time.fwTsq.find? hit with
  | some e => (if e.notSent then none else some e, modTime (fun t => { t with fwTsq := t.fwTsq.eraseP hit }) s)
  | none => (none, s)

/-- Master a is better than master b: BMCA's comparison, with the port identity to break a tie. -/
def betterMaster (a b : Nat × Nat × Nat × Nat) : Bool :=
  decide (a.1 < b.1 ∨ (a.1 = b.1 ∧ (a.2.1 < b.2.1 ∨ (a.2.1 = b.2.1 ∧ (a.2.2.1 < b.2.2.1 ∨ (a.2.2.1 = b.2.2.1 ∧ a.2.2.2 ≤ b.2.2.2))))))

/-- An Announce: its sender becomes the master when there is none, when it is the master, or when it is better. -/
def ptpAnnounce (m : PtpIn) (s : State) : State :=
  let a := (m.quality, m.clockId, m.portNum, m.port)
  match (dom s m.domain).ptp.master with
  | none => modPtp m.domain (fun c => { c with master := some a }) s
  | some b => if b.2 = a.2 ∨ betterMaster a b = true then modPtp m.domain (fun c => { c with master := some a }) s else s

/-- The message comes from the master of its domain. -/
def fromMaster (s : State) (m : PtpIn) : Bool := decide ((dom s m.domain).ptp.master.map (fun b => b.2) = some (m.clockId, m.portNum, m.port))

/-- A Sync whose origin time is known: arrival minus departure, less the corrections and ASYM, and from it, less the path delay, the sample (10 R303). -/
def ptpSync (m : PtpIn) (arrival origin corr : Int) (s : State) : State :=
  match port s m.port with
  | none => s
  | some x =>
    let toSlave := arrival - origin - corr - x.asym
    let path : Int := if x.pdelay.runs then (x.meanLinkDelay : Int) else (dom s m.domain).ptp.pathDelay
    offerSample m.domain 1 (toSlave - path) (modPtp m.domain (fun c => { c with toSlave := some toSlave, sync := none }) s)

/-- A Delay_Resp that answers firmware's Delay_Req: the mean path delay of the two directions. -/
def ptpDelayResp (m : PtpIn) (s : State) : State :=
  match port s m.port, (dom s m.domain).ptp.toSlave with
  | some x, some d =>
    let r := takeStamp m.port (ptpTag m.domain 1 m.seq) s
    match r.1 with
    | some e => modPtp m.domain (fun c => { c with pathDelay := (d + ((m.body : Int) - domTime s m.domain e.ts - m.corr + x.asym)) / 2 }) r.2
    | none => r.2
  | _, _ => s

/-- The peer delay mechanism has measured a port: firmware writes MEAN_LINK_DELAY (10 R322). -/
def peerMeasured (p : Nat) (d : Int) (s : State) : State := modPort p (fun x => { x with meanLinkDelay := (d / 2).toNat }) s

/-- A Pdelay_Resp that answers firmware's Pdelay_Req. -/
def ptpPdelayResp (m : PtpIn) (ts : Nat) (s : State) : State :=
  let r := takeStamp m.port (ptpTag m.domain 2 m.seq) s
  match r.1 with
  | none => r.2
  | some e =>
    let t1 : Int := e.ts * 4096
    let t4 : Int := ts * 4096
    if m.twoStep then modPdelay m.port (fun c => { c with resp := some (m.seq, m.body, t4, t1, m.corr) }) r.2
    else peerMeasured m.port (t4 - t1 - m.corr) r.2

/-- The Pdelay_Resp_Follow_Up of a two-step Pdelay_Resp. -/
def ptpPdelayFollow (m : PtpIn) (s : State) : State :=
  match (port s m.port).bind (fun x => x.pdelay.resp) with
  | some (seq, t2, t4, t1, corr) =>
    if seq = m.seq then peerMeasured m.port (t4 - t1 - ((m.body : Int) - t2) - corr - m.corr) (modPdelay m.port (fun c => { c with resp := none }) s) else s
  | none => s

/-- What a message that passed the checks does, by its messageType; ts is its ingress timestamp. -/
def ptpAct (m : PtpIn) (ts : Nat) (s : State) : State :=
  match m.msgType with
  | 0 =>
    if fromMaster s m = false then s
    else if m.twoStep then modPtp m.domain (fun c => { c with sync := some (m.seq, domTime s m.domain ts, m.corr) }) s
    else ptpSync m (domTime s m.domain ts) m.body m.corr s
  | 1 => modPtp m.domain (fun c => { c with reqTs := ts }) s
  | 2 => modPdelay m.port (fun c => { c with reqTs := ts }) s
  | 3 => if m.mine then ptpPdelayResp m ts s else s
  | 8 =>
    match (dom s m.domain).ptp.sync with
    | some (seq, arrival, corr) => if fromMaster s m = true ∧ seq = m.seq then ptpSync m arrival m.body (corr + m.corr) s else s
    | none => s
  | 9 => if m.mine && fromMaster s m then ptpDelayResp m s else s
  | 10 => if m.mine then ptpPdelayFollow m s else s
  | 11 => ptpAnnounce m s
  | _ => s

/-- A message has passed its checks. -/
def ptpAccept (m : PtpIn) (ts : Nat) (s : State) : State :=
  ptpAct m ts (modTime (fun t => { t with accepted := tabMod t.accepted m.domain 0 (fun v => v + 1) }) s)

/-- A message with the MAC engine in firmware's hands: the checks, then what it does. -/
def ptpJudge (m : PtpIn) (ts : Nat) (s : State) : State :=
  match ptpCheck s m with
  | .notAcceptable => ev 0x011C m.port s
  | .authFail => ev 0x011D m.port s
  | .ok => ptpAccept m ts s
  | .icv k => if icvGood s m k then ptpAccept m ts s else ev 0x011D m.port s

/-- Host software or the BMC holds the MAC engine (13 R420). -/
def engineTaken (s : State) : Bool := decide (s.ciph.owner = 1 ∨ s.ciph.owner = 2)

/-- A message received: one whose ICV is to be computed waits while another holds the MAC engine (10 R314; 13 R420). -/
def ptpReceive (m : PtpIn) (ts : Nat) (s : State) : State :=
  match ptpCheck s m with
  | .icv _ =>
    if engineTaken s then
      modTime (fun t => { t with ptpWait := t.ptpWait ++ [(m, now s, ts)] }) { s with ciph := { s.ciph with waiting := true } }
    else withEngine true (ptpJudge m ts) s
  | _ => ptpJudge m ts s

/-- Messages that wait for the MAC engine, at a boundary: all are judged once firmware may take it; while another holds it, one that has waited more than one hand is discarded (10 R314). -/
def ptpRetry (s : State) : State :=
  if s.time.ptpWait = [] then s
  else if engineTaken s then
    let old := fun (e : PtpIn × Nat × Nat) => decide (64 < now s - e.2.1)
    (s.time.ptpWait.filter old).foldl (fun a e => ev 0x011E e.1.port a) (modTime (fun t => { t with ptpWait := t.ptpWait.filter (fun e => !old e) }) s)
  else withEngine true (fun a => s.time.ptpWait.foldl (fun b e => ptpJudge e.1 e.2.2 b) a) (modTime (fun t => { t with ptpWait := [] }) s)

/-- PTP_MESSAGE_RECEIVE. -/
def execPtpMessageReceive (m : PtpIn) (s : State) : Host.Outcome State Fault Refusal :=
  .next (
    match port s m.port with
    | none => s
    | some x => if x.link ≠ .up ∨ ptpRuns s m.domain = false then s else ptpReceive m (ingressTs s m.port x m.ln m.ph) s)

/-! ## Messages sent -/

/-- AUTHENTICATION TLV before its ICV: type 0x8009, 22 bytes, SPP, indicator 0, keyID. -/
def authTlv (spp keyId : Nat) : List Byte := beBytes 2 0x8009 ++ beBytes 2 22 ++ [byte spp, 0] ++ beBytes 4 keyId

/-- A message of a domain with TX: messageLength grows by the TLV, and the ICV covers it with correctionField taken as zero (10 R314, R315). Under GMAC, whose IV the spec does not give for a message sent, the ICV is free; with an empty slot it is free too. -/
def ptpSigned (d : Domain) (msg : List Byte) (s : State) : List Byte × State :=
  let key := if d.txKey = 0 then d.keyId0 else d.keyId1
  let slot := if d.txKey = 0 then d.slot0 else d.slot1
  let b := patch msg 2 (beBytes 2 (msg.length + 26)) ++ authTlv d.spp key
  match (if d.gmac then none else icvOf s d slot 0 (patch b 8 (zeros 8))) with
  | some icv => (b ++ icv, s)
  | none => let f := drawFree 16 s; (b ++ f.1, f.2)

/-- Time request of a message: Sync as TX_STEP of the port permits, two-step on a domain with TX; Pdelay_Resp, whose turnaround edits only what its ICV excludes, as TX_STEP permits; the other event messages two-step; general messages none (10 R298, R315). -/
def ptpReq (d : Domain) (x : Port) (t : Nat) : TimeReq :=
  match t with
  | 0 => if x.txStep && !d.tx then .origin else .twoStep
  | 1 => .twoStep
  | 2 => .twoStep
  | 3 => if x.txStep then .turnaround else .twoStep
  | _ => .none

/-- Destination of a PTP message over Ethernet. -/
def ptpDst (t : Nat) : List Byte := if 2 ≤ t ∧ t ≤ 3 ∨ t = 10 then [0x01, 0x80, 0xC2, 0, 0, 0x0E] else [0x01, 0x1B, 0x19, 0, 0, 0]

/-- A PTP timestamp of 10 bytes for a time in 1/16 ns, and the rest for correctionField in 2^-16 ns. -/
def ptpStamp (ts : Int) : List Byte × Int :=
  let n := (ts / 16).toNat
  (beBytes 6 (secOf n) ++ beBytes 4 (nsOf n), ts % 16 * 4096)

/-- A timestamp is written into a message that firmware originates, with its sixteenths in correctionField. -/
def ptpStampIn (ts : Int) (msg : List Byte) : List Byte :=
  let r := ptpStamp ts
  patch (patch msg 34 r.1) 8 (beBytes 8 (uInt 64 (sInt 64 (bfld msg 8 8) + r.2)))

/-- The time that firmware puts into a message: of a Follow_Up when its Sync left, of a Delay_Resp when the Delay_Req came, of a two-step Pdelay_Resp and its Follow_Up when the Pdelay_Req came and the Pdelay_Resp left. -/
def ptpFill (x p t : Nat) (y : Port) (msg : List Byte) (s : State) : List Byte × State :=
  let seq := bfld msg 30 2
  let own := fun (ts : Nat) => domTime s x ts / 4096
  let sent := fun (k : Nat) (conv : Nat → Int) =>
    let r := takeStamp p (ptpTag x k seq) s
    match r.1 with
    | some e => (ptpStampIn (conv e.ts) msg, r.2)
    | none => (msg, r.2)
  if msg.length < 44 then (msg, s)
  else match t with
    | 8 => sent 0 own
    | 9 => (ptpStampIn (own (dom s x).ptp.reqTs) msg, s)
    | 3 => (if y.txStep then msg else ptpStampIn y.pdelay.reqTs msg, s)
    | 10 => sent 3 (fun ts => ts)
    | _ => (msg, s)

/-- Firmware sends a message of a domain on an UP port: the message goes to queue Q15 of the port. A Pdelay_Req starts the peer delay mechanism there. -/
def ptpSend (x p t : Nat) (y : Port) (msg : List Byte) (s : State) : State :=
  let d := dom s x
  let m := ptpFill x p t y msg s
  let r := if d.tx then ptpSigned d m.1 m.2 else m
  let bs := ptpDst t ++ y.srcMac ++ [0x88, 0xF7] ++ r.1
  let s1 := modTime (fun u => { u with lastPtpTx := some (p, r.1) }) r.2
  let s2 := if t = 2 then modPdelay p (fun c => { c with runs := true }) s1 else s1
  match ownFrame 32 { out := p, q := 15, pri := 7, req := ptpReq d y t, ptpOff := 14, tag := ptpTag x t (bfld msg 30 2), t2 := y.pdelay.reqTs, fw := true } bs s2 with
  | some o => o.2
  | none => evAdd 0x0503 0 32 1 s2

/-- PTP_MESSAGE_TX. -/
def execPtpMessageTx (x p t : Nat) (msg : List Byte) (s : State) : Host.Outcome State Fault Refusal :=
  .next (
    match port s p with
    | none => s
    | some y => if y.link ≠ .up ∨ ptpRuns s x = false ∨ msg.length < 34 then s else ptpSend x p t y msg s)

end Sys2Proof.Machine
end

