-- ==== Sys2Proof/Machine/SchedCmds.lean ====
section
/-! DEFINITION. The scheduling commands (09 R278 to R282, R268). -/

namespace Sys2Proof.Machine

/-- Settings of a group in SCHED_PORT_SET: TSA, INNER and BW. -/
def groupByte (p : List Byte) (g : Nat) : Nat := fld p (32 + 2 * g) 1
def groupBw (p : List Byte) (g : Nat) : Nat := fld p (33 + 2 * g) 1

/-- The BW rule of R270: offset of the first group at fault. -/
def bwFault (p : List Byte) : Option Nat :=
  let strict := (List.range 8).find? (fun g => !(groupByte p g).testBit 0 && decide (groupBw p g ≠ 0))
  let ets := (List.range 8).filter (fun g => (groupByte p g).testBit 0)
  match strict, ets with
  | some g, _ => some (33 + 2 * g)
  | none, [] => none
  | none, g :: _ => if (ets.map (groupBw p)).sum = 100 then none else some (33 + 2 * g)

/-- SCHED_PORT_SET (09 R279). -/
def schedPortSet (m : Nat) (c : Cmd) (p : List Byte) (s : State) : Ans :=
  let gs := (List.range 8).map (fun g => (decide (groupByte p g < 4), 32 + 2 * g))
  checks ([(decide (fld p 16 1 < 2), 16), rsv p 30 2] ++ gs) s (fun _ =>
    match bwFault p with
    | some off => ansBad off s
    | none => checks [rsv p 48 8] s (fun _ => ansOk [] (schedule m c p s)))

/-- SCHED_PORT_SET at its trick boundary, with the announcements of R272 and R274. -/
def schedPortSetApply (p : List Byte) (s : State) : State :=
  let n := (pathOf p).index
  let q := fun (a : Nat) => if fld p a 2 = 0 then 65535 else fld p a 2
  let s1 := modPort n (fun x => { x with
    trump := (fld p 16 1).testBit 0
    pfcTx := BitVec.ofNat 8 (fld p 17 1)
    pfcRx := BitVec.ofNat 8 (fld p 18 1)
    overhead := sInt 8 (fld p 19 1)
    srcMac := slice p 20 6
    pfcQuanta := q 26
    pauseQuanta := q 28
    sgroups := (List.range 8).foldl (fun t g => tabMod t g {} (fun y => { y with ets := (groupByte p g).testBit 0, dwrr := (groupByte p g).testBit 1, bw := groupBw p g })) x.sgroups }) s
  announce n (idleDeficits n s1)

/-- SCHED_QUEUE_SET (09 R280). -/
def schedQueueSet (m : Nat) (c : Cmd) (p : List Byte) (s : State) : Ans :=
  let r := fld p 18 1
  checks [(decide (fld p 16 1 ≤ 7), 16), (decide (fld p 17 1 ≠ 0), 17), (decide (r ≤ 7 ∨ r = 255), 18), rsv p 19 5] s (fun _ => ansOk [] (schedule m c p s))

/-- SCHED_QUEUE_SET at its trick boundary: a queue moved to another group starts with DEFICIT 0 (09 R278). -/
def schedQueueSetApply (p : List Byte) (s : State) : State :=
  let t := pathOf p
  idleDeficits t.index (modQueue t.index (queueNo t) (fun y => { y with
    deficit := if y.group = fld p 16 1 then y.deficit else 0
    group := fld p 16 1
    weight := fld p 17 1
    rxPri := fld p 18 1 }) s)

/-- The LEVEL that a path may carry (09 R281). -/
def levelOk (q : Path) (l : Nat) : Bool := decide (l ≤ 8) && (decide (q.kind = 3) || decide (l = 0))

/-- SHAPER_SET (09 R281). -/
def shaperSet (m : Nat) (c : Cmd) (q : Path) (p : List Byte) (s : State) : Ans :=
  let b := fld p 28 4
  checks [(levelOk q (fld p 16 1), 16), (decide (fld p 17 1 < 4), 17), rsv p 18 2, (decide (fld p 20 8 < 2 ^ 40), 20), (decide (64 ≤ b ∧ b ≤ 16777215), 28)] s
    (fun _ => ansOk [] (schedule m c p s))

/-- SHAPER_SET at its trick boundary (09 R268). -/
def shaperSetApply (p : List Byte) (s : State) : State :=
  let t := pathOf p
  let l := fld p 16 1
  let f := setShaper ((fld p 17 1).testBit 0) ((fld p 17 1).testBit 1) (fld p 20 8) (fld p 28 4)
  if t.kind ≠ 3 then modQueue t.index (queueNo t) (fun y => { y with shaper := f y.shaper }) s
  else if l = 0 then modPort t.index (fun x => { x with shaper := f x.shaper }) s
  else modPort t.index (fun x => { x with sgroups := tabMod x.sgroups (l - 1) {} (fun y => { y with shaper := f y.shaper }) }) s

/-- SHAPER_GET. -/
def shaperGet (q : Path) (p : List Byte) (s : State) : Ans :=
  let l := fld p 16 1
  match port s q.index with
  | none => ansSt stNoResource s
  | some x =>
    checks [(levelOk q l, 16), rsv p 17 7] s (fun _ =>
      let h := if q.kind ≠ 3 then (queue x (queueNo q)).shaper else if l = 0 then x.shaper else (sgroup x (l - 1)).shaper
      ansOk (leBytes 8 h.rate ++ leBytes 4 h.burst ++ [byte (b2n h.enable), 0, 0, 0] ++ leBytes 8 (uInt 64 h.credit) ++ leBytes 8 (now s)) s)

/-- SCHED_STATUS_GET (09 R282, Table 9.7). -/
def schedStatus (q : Path) (s : State) : Ans :=
  match port s q.index with
  | none => ansSt stNoResource s
  | some x =>
    let n := q.index
    let paused := ((List.range 8).map (fun i => b2n (decide (0 < at0 x.timers i)) * 2 ^ i)).sum
    let flags := b2n (decide (0 < at0 x.timers 8)) + 2 * b2n (pfcOverPause x) + 4 * b2n (noPausePath x) + 8 * b2n x.trump
    ansOk ([byte paused, byte flags, 0, 0] ++ leBytes 4 (inflightBytes x) ++ evLow s 0x0110 n 0 8 ++ evLow s 0x0111 n 0 8
      ++ (List.range 8).flatMap (fun i => evLow s 0x0118 n i 4) ++ evLow s 0x0112 n 0 8 ++ evLow s 0x0113 n 0 8
      ++ (List.range 8).flatMap (fun i => evLow s 0x0119 n i 4)) s

/-- SCHED_PORT_SET. -/
def execSchedPortSet (m : Nat) (s : State) : Host.Outcome State Fault Refusal :=
  .next (runCmd 0x0501 m (fun c t => onPath m c.code 56 [3] c t (fun _ p => schedPortSet m c p t)) s)

/-- SCHED_QUEUE_SET. -/
def execSchedQueueSet (m : Nat) (s : State) : Host.Outcome State Fault Refusal :=
  .next (runCmd 0x0502 m (fun c t => onPath m c.code 24 [4, 5] c t (fun _ p => schedQueueSet m c p t)) s)

/-- SHAPER_SET. -/
def execShaperSet (m : Nat) (s : State) : Host.Outcome State Fault Refusal :=
  .next (runCmd 0x0503 m (fun c t => onPath m c.code 32 [3, 4, 5] c t (fun q p => shaperSet m c q p t)) s)

/-- SHAPER_GET. -/
def execShaperGet (m : Nat) (s : State) : Host.Outcome State Fault Refusal :=
  .next (runCmd 0x0504 m (fun c t => onPath m c.code 24 [3, 4, 5] c t (fun q p => shaperGet q p t)) s)

/-- SCHED_STATUS_GET. -/
def execSchedStatusGet (m : Nat) (s : State) : Host.Outcome State Fault Refusal :=
  .next (runCmd 0x0505 m (fun c t => onPath m c.code 16 [3] c t (fun q _ => schedStatus q t)) s)

end Sys2Proof.Machine
end

