-- ==== Sys2Proof/Machine/Stack.lean ====
section
/-! DEFINITION. The rows of stacks: heartbeats, misses, members and control frames (12 R371, R376, R383), the ordered issue rate (R387) and the stack commands (R392 to R394). -/

namespace Sys2Proof.Machine

/-- A port that is UP and a stack link. -/
def stackPort (s : State) (p : Nat) : Bool :=
  match port s p with
  | some x => decide (x.link = .up) && x.stk.enable
  | none => false

/-- A whole frame with a good FCS arrives on a stack link, counted, with the timestamp that the perturbation registers may delay (10 R294; 17 R518). -/
def stackRx (p : Nat) (bs : List Byte) (at_ : Crossing) (f : Nat → List Byte → Nat → State → State) (s : State) : State :=
  match port s p with
  | none => s
  | some x =>
    let dly := if s.flt.tpOn.enable then tabGetD s.flt.tpOn.rxDelay p 0 else 0
    f p bs (ingressTs s p x at_.ln at_.ph + 16 * dly) (rxCount p (bs.length + 4 - 16) true false s)

/-- HEARTBEAT_RECEIVE: header and body, with a good FCS. -/
def execHeartbeatReceive (p : Nat) (bs : List Byte) (at_ : Crossing) (s : State) : Host.Outcome State Fault Refusal :=
  .next (if stackPort s p then stackRx p bs at_ heartbeatFrame s else s)

/-- STACK_LINK_MISS. -/
def execStackLinkMiss (p : Nat) (s : State) : Host.Outcome State Fault Refusal := .next (linkMiss p s)

/-- STACK_MEMBER_EXPIRY: 4 rubbers without a JOIN. -/
def execStackMemberExpiry (j q : Nat) (s : State) : Host.Outcome State Fault Refusal :=
  .next (
    if s.boot.fwRunning then modStack (fun k => { k with joined := k.joined.filter (fun m => !decide (m.level = j ∧ m.path = q ∧ m.since + 4096 ≤ now s)) }) s
    else s)

/-- CONTROL_FRAME_RECEIVE: header and body, with a good FCS. -/
def execControlFrameReceive (p : Nat) (f : ControlFrame) (s : State) : Host.Outcome State Fault Refusal :=
  .next (if stackPort s p then stackRx p f.bytes f.at_ controlFrame s else s)

/-- CONTROL_RESEND. -/
def execControlResend (seq : Nat) (s : State) : Host.Outcome State Fault Refusal := .next (controlResend seq s)

/-- ISSUE_RATE_CHANGE: firmware orders a rate of 1 to 8 eighths. -/
def execIssueRateChange (r : Nat) (s : State) : Host.Outcome State Fault Refusal :=
  .next (if 1 ≤ r ∧ r ≤ 8 ∧ s.boot.fwRunning = true then orderIssue r (now s + 1) s else s)

/-! ## Commands -/

/-- STACK_CONFIG (12 R393). -/
def stackConfig (m : Nat) (c : Cmd) (p : List Byte) (s : State) : Ans :=
  let l := fld p 16 1
  let miss := fld p 19 1
  let hop := fld p 20 2
  let own := fld p 24 6
  checks [(decide (l ≤ 8), 16), (decide (fld p 18 1 < 4), 18), (decide (miss = 0 ∨ (2 ≤ miss ∧ miss ≤ 16)), 19), (decide (hop = 0 ∨ (100 ≤ hop ∧ hop ≤ 4000)), 20),
          rsv p 22 2, (decide (pathPrefix own l = own), 24), rsv p 30 2] s (fun _ =>
    if (l ≠ s.stack.levels ∨ own ≠ s.stack.own) ∧ anyLive s = true then ansSt stNotReady s
    else ansOk [] (schedule m c p s))

/-- STACK_CONFIG at its trick boundary: LEVELS 0 takes the links DOWN; a stack that is enabled starts its counters at zero and its links anew (12 R392, R393). -/
def stackConfigApply (p : List Byte) (s : State) : State :=
  let l := fld p 16 1
  let was := s.stack.levels
  let s1 := modStack (fun k => { k with
    levels := l
    prio := fld p 17 1
    timeOn := (fld p 18 1).testBit 0
    dom := fld p 18 1 / 2 % 2
    missLimit := if fld p 19 1 = 0 then 4 else fld p 19 1
    hopNs := if fld p 20 2 = 0 then 600 else fld p 20 2
    own := fld p 24 6 }) s
  let links := (s.ports.filter (fun e => e.2.stk.enable)).map (fun e => e.1)
  if l = 0 then modStack (fun k => { k with best := [], upstream := none, dist := 0, tooDeep := false, joined := [], joinTo := [] }) (forAll links stackDown s1)
  else if was = 0 then forAll links stackUp (evZeroStack s1)
  else s1

/-- Configured rate of a port, Gb/s (04 Table 4.1). -/
def cfgRate (x : Port) : Nat := x.width * (if x.mode = 1 then 100 else if x.mode = 2 then 200 else 400)

/-- STACK_LINK_SET (12 R394). -/
def stackLinkSet (m : Nat) (c : Cmd) (q : Path) (p : List Byte) (s : State) : Ans :=
  match port s q.index with
  | none => ansSt stNoResource s
  | some x =>
    checks [(decide (800 ≤ cfgRate x ∧ x.neg ≠ 1), 0), (decide (fld p 16 1 < 2), 16), (decide (fld p 17 1 ≤ 15), 17), rsv p 18 6] s
      (fun _ => ansOk [] (schedule m c p s))

/-- STACK_LINK_SET at its trick boundary (12 Table 12.2). -/
def stackLinkSetApply (p : List Byte) (s : State) : State :=
  let n := (pathOf p).index
  let on := (fld p 16 1).testBit 0
  match port s n with
  | none => s
  | some x =>
    let s1 := modStk n (fun k => { k with enable := on, linkSet := fld p 17 1 }) s
    if on = false then (if x.stk.enable then stackDown n s1 else s1)
    else if x.stk.enable then s1 else stackUp n s1

/-- STACK_ROUTE_SET (12 R394). -/
def stackRouteSet (m : Nat) (c : Cmd) (p : List Byte) (s : State) : Ans :=
  let l := fld p 16 1
  let set := fld p 18 1
  checks [(decide (1 ≤ l ∧ l ≤ 8), 16), (decide (fld p 17 1 ≤ 63), 17), (decide (set ≤ 15 ∨ set = 255), 18), rsv p 19 5] s
    (fun _ => ansOk [] (schedule m c p s))

/-- STACK_ROUTE_SET at its trick boundary. -/
def stackRouteSetApply (p : List Byte) (s : State) : State :=
  let k := fld p 16 1 * 64 + fld p 17 1
  modStack (fun y => { y with routes := if fld p 18 1 = 255 then tabErase y.routes k else tabPut y.routes k (fld p 18 1) }) s

/-- STACK_MEMBER_SET (12 R394). -/
def stackMemberSet (m : Nat) (c : Cmd) (p : List Byte) (s : State) : Ans :=
  let l := fld p 18 1
  checks [(decide (fld p 16 2 ≤ 4095), 16), (decide (l ≤ 8), 18), rsv p 19 1, (decide (pathPrefix (fld p 20 6) l = fld p 20 6), 20), rsv p 26 6] s
    (fun _ => ansOk [] (schedule m c p s))

/-- STACK_MEMBER_SET at its trick boundary. -/
def stackMemberSetApply (p : List Byte) (s : State) : State :=
  let i := fld p 16 2
  let l := fld p 18 1
  modStack (fun y => { y with members := if l = 0 then tabErase y.members i else tabPut y.members i (fld p 20 6, l) }) s

/-- A BEST entry in a response, little-endian (00 R18). -/
def bestLe (b : Best) : List Byte := if b.prio = 0 then zeros 16 else [byte b.prio, byte b.hops, byte b.levels, 0] ++ leBytes 6 b.serial ++ leBytes 6 b.path

/-- STACK_STATUS_GET (12 Table 12.10). -/
def stackStatus (s : State) : Ans :=
  let k := s.stack
  let led := (List.range k.levels).filter (leads s)
  let flags := b2n k.tooDeep + 2 * b2n k.dupPath + 4 * b2n (decide (0 < k.levels) && leads s 0) + 8 * b2n (dom s k.dom).locked
  ansOk ([byte k.levels, byte flags] ++ leBytes 2 (k.upstream.getD 0xFFFF) ++ leBytes 4 k.dist ++ leBytes 6 k.own ++ zeros 2
    ++ (List.range 8).flatMap (fun j => bestLe (bestOf s j)) ++ evLow s 0x0520 0 0 8 ++ evLow s 0x0521 0 0 8 ++ evLow s 0x0522 0 0 8
    ++ evLow s 0x0523 0 0 8 ++ leBytes 4 ((led.map (fun j => (groupMembers s j).length)).sum) ++ zeros 4) s

/-- Code of a stack link state. -/
def slinkCode (x : SLink) : Nat :=
  match x with
  | .down => 0
  | .discovering => 1
  | .live => 2
  | .held => 3

/-- STACK_LINK_STATUS_GET (12 Table 12.11). -/
def stackLinkStatus (q : Path) (s : State) : Ans :=
  match port s q.index with
  | none => ansSt stNoResource s
  | some x =>
    let k := x.stk
    let n := q.index
    ansOk ([byte (slinkCode k.st), byte k.cause, byte k.level, byte k.peerPace] ++ leBytes 6 k.peerPath ++ leBytes 6 k.peerSerial ++ leBytes 8 (uInt 64 k.delay)
      ++ evLow s 0x0120 n 0 8 ++ evLow s 0x0121 n 0 8 ++ evLow s 0x0122 n 0 8 ++ evLow s 0x0123 n 0 4 ++ evLow s 0x0124 n 0 4 ++ evLow s 0x0125 n 0 4 ++ zeros 4) s

/-- An episode record of STACK_EPISODES_GET. -/
def episodeBytes (e : Option Episode) : List Byte :=
  match e with
  | some y => leBytes 6 y.path ++ [byte y.levels, byte y.minPace] ++ leBytes 8 y.start ++ leBytes 8 y.fin ++ zeros 8
  | none => zeros 32

/-- STACK_EPISODES_GET: 16 records from START, the oldest first. -/
def stackEpisodes (p : List Byte) (s : State) : Ans :=
  checks [rsv p 17 7] s (fun _ =>
    ansOk ((List.range 16).flatMap (fun i => episodeBytes (s.stack.episodes[fld p 16 1 + i]?))) s)

/-- STACK_CONFIG. -/
def execStackConfig (m : Nat) (s : State) : Host.Outcome State Fault Refusal :=
  .next (runCmd 0x0801 m (fun c t => onPath m c.code 32 [1] c t (fun _ p => stackConfig m c p t)) s)

/-- STACK_LINK_SET. -/
def execStackLinkSet (m : Nat) (s : State) : Host.Outcome State Fault Refusal :=
  .next (runCmd 0x0802 m (fun c t => onPath m c.code 24 [3] c t (fun q p => stackLinkSet m c q p t)) s)

/-- STACK_ROUTE_SET. -/
def execStackRouteSet (m : Nat) (s : State) : Host.Outcome State Fault Refusal :=
  .next (runCmd 0x0803 m (fun c t => onPath m c.code 24 [1] c t (fun _ p => stackRouteSet m c p t)) s)

/-- STACK_MEMBER_SET. -/
def execStackMemberSet (m : Nat) (s : State) : Host.Outcome State Fault Refusal :=
  .next (runCmd 0x0804 m (fun c t => onPath m c.code 32 [1] c t (fun _ p => stackMemberSet m c p t)) s)

/-- STACK_STATUS_GET. -/
def execStackStatusGet (m : Nat) (s : State) : Host.Outcome State Fault Refusal :=
  .next (runCmd 0x0805 m (fun c t => onPath m c.code 16 [1] c t (fun _ _ => stackStatus t)) s)

/-- STACK_LINK_STATUS_GET. -/
def execStackLinkStatusGet (m : Nat) (s : State) : Host.Outcome State Fault Refusal :=
  .next (runCmd 0x0806 m (fun c t => onPath m c.code 16 [3] c t (fun q _ => stackLinkStatus q t)) s)

/-- STACK_EPISODES_GET. -/
def execStackEpisodesGet (m : Nat) (s : State) : Host.Outcome State Fault Refusal :=
  .next (runCmd 0x0807 m (fun c t => onPath m c.code 24 [1] c t (fun _ p => stackEpisodes p t)) s)

end Sys2Proof.Machine
end

