-- ==== Sys2Proof/Machine/TelemCmds.lean ====
section
/-! DEFINITION. The telemetry commands (11 R356 to R363). -/

namespace Sys2Proof.Machine

/-! ## TELEM_MEM_SET -/

/-- Bytes of the host window (14 R425). -/
def windowBytes : Nat := 48 * 2 ^ 30

/-- The four areas a request describes: enabled, base, bytes, offset of its base field (11 Table 11.2). -/
def memAreas (p : List Byte) : List (Bool × Nat × Nat × Nat) :=
  let f := fld p 16 1
  [(f.testBit 0, fld p 24 8, 4096 + 2 ^ 31, 24),
   (f.testBit 1, fld p 32 8, fld p 20 2 * 2 ^ 20, 32),
   (f.testBit 2, fld p 40 8, 4096 + 256 * 2 ^ fld p 17 1, 40),
   (f.testBit 3, fld p 48 8, 4096 + 256 * 2 ^ fld p 18 1, 48)]

/-- The same areas as they stand. -/
def memNow (t : Telem) : List (Bool × Nat × Nat) :=
  [(t.flowEn, t.flowBase, 4096 + 2 ^ 31), (t.dumpEn, t.dumpBase, t.dumpSlots * 2 ^ 20),
   (t.sampleEn, t.sampleBase, 4096 + 256 * 2 ^ t.sampleLog2), (t.captureEn, t.captureBase, 4096 + 256 * 2 ^ t.captureLog2)]

/-- Two areas share a byte. -/
def areasMeet (a b : Bool × Nat × Nat × Nat) : Bool :=
  a.1 && b.1 && decide (a.2.1 < b.2.1 + b.2.2.1) && decide (b.2.1 < a.2.1 + a.2.2.1)

/-- The checks of R329 on bases: multiple of 2 MiB, inside the window, apart from the areas before it. -/
def memChecks (p : List Byte) : List (Bool × Nat) :=
  let l := memAreas p
  (l.map (fun a => (decide (a.2.1 % 2 ^ 21 = 0 ∧ a.2.1 + a.2.2.1 ≤ windowBytes), a.2.2.2)))
    ++ (l.zipIdx.map (fun e => ((l.take e.2).all (fun b => !areasMeet e.1 b), e.1.2.2.2)))

/-- A ring area that becomes enabled starts anew; PROD and CONS in its page are written 0 (11 R357). -/
def areaStart (was on : Bool) (base : Nat) (s : State) : State :=
  if on && !was then devWrite (base + 64) (zeros 8) (devWrite base (zeros 8) s) else s

/-- TELEM_MEM_SET at its trick boundary. -/
def telemMemSetApply (p : List Byte) (s : State) : State :=
  let f := fld p 16 1
  let t := s.telem
  let fresh := fun (was : Bool) (k : Nat) (x : TRing) => if f.testBit k && !was then ({} : TRing) else x
  let s1 := modTelem (fun y => { y with
    flowEn := f.testBit 0
    dumpEn := f.testBit 1
    sampleEn := f.testBit 2
    captureEn := f.testBit 3
    captureWrap := f.testBit 4
    sampleLog2 := fld p 17 1
    captureLog2 := fld p 18 1
    dumpSlots := fld p 20 2
    flowBase := fld p 24 8
    dumpBase := fld p 32 8
    sampleBase := fld p 40 8
    captureBase := fld p 48 8
    flow := fresh t.flowEn 0 t.flow
    sample := fresh t.sampleEn 2 t.sample
    capture := fresh t.captureEn 3 t.capture
    dumpNo := if f.testBit 1 && !t.dumpEn then 0 else t.dumpNo
    dump := if f.testBit 1 then t.dump else none }) s
  areaStart t.captureEn (f.testBit 3) (fld p 48 8) (areaStart t.sampleEn (f.testBit 2) (fld p 40 8) (areaStart t.flowEn (f.testBit 0) (fld p 24 8) s1))

/-- Telemetry with the settings that wait for the next boundary. -/
def telemView (s : State) : Telem :=
  ((s.deferred.filter (fun d => d.code == 0x0701)).foldl (fun acc d => telemMemSetApply d.req acc) s).telem

/-- TELEM_MEM_SET (11 R357). -/
def telemMemSet (m : Nat) (c : Cmd) (p : List Byte) (s : State) : Ans :=
  let sl := fld p 17 1
  let cl := fld p 18 1
  let n := fld p 20 2
  checks ([(decide (fld p 16 1 < 32), 16), (decide (10 ≤ sl ∧ sl ≤ 20), 17), (decide (10 ≤ cl ∧ cl ≤ 22), 18), rsv p 19 1,
           (decide (2 ≤ n ∧ n ≤ 256), 20), rsv p 22 2] ++ memChecks p) s (fun _ =>
    let moved := (List.zip (memNow (telemView s)) (memAreas p)).any (fun e => e.1.1 && e.2.1 && (e.1.2.1 != e.2.2.1 || e.1.2.2 != e.2.2.2.1))
    if moved then ansSt stNotReady s else ansOk [] (schedule m c p s))

/-! ## Flow settings -/

/-- FLOW_GLOBAL_SET (11 R358). -/
def flowGlobalSet (m : Nat) (c : Cmd) (p : List Byte) (s : State) : Ans :=
  let ok := fun (v : Nat) => decide (1 ≤ v ∧ v ≤ 4194304)
  checks [(ok (fld p 20 4), 20), (ok (fld p 24 4), 24), rsv p 28 4] s (fun _ =>
    if fld p 16 4 ≠ s.telem.seed.toNat ∧ flowAnyValid s = true then ansSt stNotReady s else ansOk [] (schedule m c p s))

/-- FLOW_GLOBAL_SET at its trick boundary. -/
def flowGlobalSetApply (p : List Byte) (s : State) : State :=
  modTelem (fun t => { t with seed := BitVec.ofNat 32 (fld p 16 4), idle := fld p 20 4, active := fld p 24 4 }) s

/-- The segments of FLOW_PROFILE_SET up to SRC 127 (11 R359; 07 Table 7.4). -/
def profileSegs (p : List Byte) : List Nat :=
  ((List.range 10).map (fun i => fld p (18 + 2 * i) 2)).takeWhile (fun v => v / 32 % 128 != 127)

/-- FLOW_PROFILE_SET (11 R359). -/
def flowProfileSet (m : Nat) (c : Cmd) (p : List Byte) (s : State) : Ans :=
  let segs := profileSegs p
  let each := segs.zipIdx.map (fun e => (decide (e.1 / 32 % 128 ≤ 88), 18 + 2 * e.2))
  let high := (List.range 10).map (fun i => (decide (fld p (18 + 2 * i) 2 < 4096), 18 + 2 * i))
  let total := (segs.map (fun v => v % 32 + 1)).sum
  checks ([(decide (fld p 16 1 ≤ 63), 16), rsv p 17 1] ++ high ++ each ++ [(decide (total ≤ 320), 18), rsv p 38 2]) s
    (fun _ => ansOk [] (schedule m c p s))

/-- FLOW_PROFILE_SET at its trick boundary. -/
def flowProfileSetApply (p : List Byte) (s : State) : State :=
  modTelem (fun t => { t with profiles := tabPut t.profiles (fld p 16 1) (profileSegs p) }) s

/-! ## DUMP_SET -/

/-- Item j of a DUMP_SET request. -/
def dumpItem (p : List Byte) (j : Nat) : DumpItem :=
  { kind := fld p (24 + 16 * j) 1, sel := fld p (25 + 16 * j) 1, code := fld p (26 + 16 * j) 2, first := fld p (28 + 16 * j) 4, run := fld p (32 + 16 * j) 4 }

/-- Units of an item's run in the largest ordering code, and here; SEL as it must be. None: an unknown kind or a reserved code. -/
def itemUnits (s : State) (d : DumpItem) : Option (Nat × Nat × Bool) :=
  if d.kind = 1 then some (1048576, 1048576, decide (d.sel ≤ 3))
  else if d.kind = 2 then (evRange d.code).map (fun r => (r.1, evUnitsHere s d.code, decide (r.2.1 ≤ d.sel ∧ d.sel ≤ r.2.2)))
  else if d.kind = 3 then some (1024, 1024, decide (d.sel = 0))
  else none

/-- Checks of item j. -/
def itemChecks (s : State) (p : List Byte) (j : Nat) : List (Bool × Nat) :=
  let d := dumpItem p j
  let o := 24 + 16 * j
  if d.kind = 0 then [(decide (d.sel = 0), o + 1), (decide (d.code = 0), o + 2), rsv p (o + 12) 4]
  else match itemUnits s d with
    | none => [(false, if d.kind = 2 then o + 2 else o)]
    | some (n, _, sel) => [(sel, o + 1), (decide (d.kind = 2 ∨ d.code = 0), o + 2), (decide (1 ≤ d.run), o + 8), (decide (d.first + d.run ≤ n), o + 4), rsv p (o + 12) 4]

/-- An item names a unit that is fused off (00 R4). -/
def itemFused (s : State) (d : DumpItem) : Bool :=
  match itemUnits s d with
  | none => false
  | some (_, here, _) => if d.kind = 1 then decide (clusterCount s ≤ d.sel) else decide (here < d.first + d.run)

/-- The staged list up to its first KIND 0 item. -/
def stagedItems (t : Tab DumpItem) : List DumpItem :=
  ((List.range 256).map (fun i => tabGetD t i {})).takeWhile (fun d => d.kind != 0)

/-- DUMP_SET (11 R360). -/
def dumpSet (p : List Byte) (s : State) : Ans :=
  let start := fld p 16 2
  let n := fld p 18 1
  let f := fld p 19 1
  checks ([(decide (start ≤ 255 ∧ start + n ≤ 256), 16), (decide (f < 4), 19), rsv p 20 4] ++ (List.range n).flatMap (itemChecks s p)) s (fun _ =>
    if (List.range n).any (fun j => itemFused s (dumpItem p j)) then ansSt stNoResource s
    else
      let t0 : Tab DumpItem := if f.testBit 1 then [] else s.telem.staged
      let t1 := (List.range n).foldl (fun t j => tabPut t (start + j) (dumpItem p j)) t0
      if f.testBit 0 then
        let items := stagedItems t1
        let size := (items.map itemBytes).sum
        if 1048512 < size then ansSt stNoResource s
        else
          let h := ((idx s + 1) / 64 + 1) * 64
          ansOk (leBytes 8 h ++ leBytes 4 size ++ zeros 4) (modTelem (fun t => { t with staged := t1, next := t.next ++ [(items, h)], commits := t.commits + 1 }) s)
      else ansOk [] (modTelem (fun t => { t with staged := t1 }) s))

/-! ## WATCH_SET, SAMPLE_SET, IOAM_SET -/

/-- WATCH_SET (11 R361). -/
def watchSet (m : Nat) (c : Cmd) (p : List Byte) (s : State) : Ans :=
  let mode := fld p 20 1
  match watchRange (fld p 18 2) with
  | none => checks [(decide (fld p 16 2 ≤ 1023), 16)] s (fun _ => ansBad 18 s)
  | some (units, par, level) =>
    let ok := decide (mode = 0) || (if level then decide (mode = 1 ∨ mode = 2) else decide (mode = 3))
    checks [(decide (fld p 16 2 ≤ 1023), 16), (ok, 20), (decide (fld p 21 1 ≤ par), 21), (decide (fld p 22 2 < units), 22)] s
      (fun _ => if watchFused s (fld p 18 2) (fld p 22 2) then ansSt stNoResource s else ansOk [] (schedule m c p s))

/-- WATCH_SET at its trick boundary. -/
def watchSetApply (p : List Byte) (s : State) : State :=
  modTelem (fun t => { t with watch := tabPut t.watch (fld p 16 2) { code := fld p 18 2, unit := fld p 22 2, param := fld p 21 1, mode := fld p 20 1, thresh := fld p 24 8, value := 0 } }) s

/-- SAMPLE_SET (11 R362). -/
def sampleSet (m : Nat) (c : Cmd) (p : List Byte) (s : State) : Ans :=
  checks [(decide (fld p 16 4 ≤ 16777216), 16), rsv p 20 4] s (fun _ => ansOk [] (schedule m c p s))

/-- SAMPLE_SET at its trick boundary. -/
def sampleSetApply (p : List Byte) (s : State) : State :=
  let q := pathOf p
  let n := fld p 16 4
  if q.kind = 3 then modPort q.index (fun x => { x with mirrorN := n, mirrorCnt := n - 1 }) s
  else modGrp q.index (fun x => { x with preciseN := n, preciseCnt := n - 1 }) s

/-- Namespace j of an IOAM_SET request. -/
def ioamNs (p : List Byte) (j : Nat) : Ioam :=
  { id := fld p (32 + 16 * j) 2, valid := (fld p (34 + 16 * j) 1).testBit 0, short := fld p (36 + 16 * j) 4, wide := fld p (40 + 16 * j) 8 }

/-- IOAM_SET (11 R363). -/
def ioamSet (m : Nat) (c : Cmd) (q : Path) (p : List Byte) (s : State) : Ans :=
  if q.kind = 3 then ansOk [] (schedule m c p s)
  else
    let ns := (List.range 4).map (ioamNs p)
    let each := (List.range 4).flatMap (fun j =>
      let y := ioamNs p j
      [(!(y.valid && (ns.take j).any (fun z => z.valid && decide (z.id = y.id))), 32 + 16 * j), (decide (fld p (34 + 16 * j) 1 < 2), 34 + 16 * j), rsv p (35 + 16 * j) 1])
    checks ([rsv p 16 1, (decide (fld p 17 1 ≤ 63), 17), (decide (fld p 18 1 ≤ 63), 18), (decide (fld p 19 1 ≤ 63), 19), rsv p 20 4, rsv p 31 1] ++ each) s
      (fun _ => ansOk [] (schedule m c p s))

/-- IOAM_SET at its trick boundary. -/
def ioamSetApply (p : List Byte) (s : State) : State :=
  let q := pathOf p
  if q.kind = 3 then modPort q.index (fun x => { x with ioamEn := (fld p 16 1).testBit 0 }) s
  else modTelem (fun t => { t with ioamHdr := fld p 17 1, ioam4 := fld p 18 1, ioam6 := fld p 19 1, nodeId := fld p 24 7, ioam := (List.range 4).map (ioamNs p) }) s

/-- TELEM_MEM_SET. -/
def execTelemMemSet (m : Nat) (s : State) : Host.Outcome State Fault Refusal :=
  .next (runCmd 0x0701 m (fun c t => onPath m c.code 56 [1] c t (fun _ p => telemMemSet m c p t)) s)

/-- FLOW_GLOBAL_SET. -/
def execFlowGlobalSet (m : Nat) (s : State) : Host.Outcome State Fault Refusal :=
  .next (runCmd 0x0702 m (fun c t => onPath m c.code 32 [1] c t (fun _ p => flowGlobalSet m c p t)) s)

/-- FLOW_PROFILE_SET. -/
def execFlowProfileSet (m : Nat) (s : State) : Host.Outcome State Fault Refusal :=
  .next (runCmd 0x0703 m (fun c t => onPath m c.code 40 [1] c t (fun _ p => flowProfileSet m c p t)) s)

/-- DUMP_SET. Its length follows COUNT. -/
def execDumpSet (m : Nat) (s : State) : Host.Outcome State Fault Refusal :=
  .next (runCmd 0x0704 m (fun c t =>
    let n := fld c.payload 18 1
    if 48 < n then onPath m c.code 24 [1] { c with payload := c.payload.take 24 } t (fun _ _ => ansBad 18 t)
    else onPath m c.code (24 + 16 * n) [1] c t (fun _ p => dumpSet p t)) s)

/-- WATCH_SET. -/
def execWatchSet (m : Nat) (s : State) : Host.Outcome State Fault Refusal :=
  .next (runCmd 0x0705 m (fun c t => onPath m c.code 32 [1] c t (fun _ p => watchSet m c p t)) s)

/-- SAMPLE_SET. -/
def execSampleSet (m : Nat) (s : State) : Host.Outcome State Fault Refusal :=
  .next (runCmd 0x0706 m (fun c t => onPath m c.code 24 [3, 6] c t (fun _ p => sampleSet m c p t)) s)

/-- IOAM_SET. -/
def execIoamSet (m : Nat) (s : State) : Host.Outcome State Fault Refusal :=
  .next (runCmd 0x0707 m (fun c t => onPath m c.code 96 [1, 3] c t (fun q p => ioamSet m c q p t)) s)

end Sys2Proof.Machine
end

