-- ==== Sys2Proof/Machine/TimeCmds.lean ====
section
/-! DEFINITION. The time commands (10 R320 to R325). -/

namespace Sys2Proof.Machine

/-- TIME_SET (10 R321): time is set at the next boundary, and the boundary after it answers. -/
def timeSet (m : Nat) (c : Cmd) (p : List Byte) (s : State) : Ans :=
  checks [(decide (fld p 16 1 < 4), 16), rsv p 17 1, (decide (fld p 20 4 < 10 ^ 9), 20), rsv p 30 2] s
    (fun _ => .hold .boundary (schedule m c p s))

/-- TIME_SET at its trick boundary; its response carries the index of the boundary after this one. -/
def timeSetApply (m : Nat) (p : List Byte) (s : State) : State :=
  modCmd m (fun c => { c with wait := .ticks (now s + 1) }) (applyTimeSet (fld p 16 1) (fld p 18 2) (fld p 20 4) (fld p 24 6) s)

/-- Key of a port's calibration in flash: first lane and width (10 R291). -/
def calKey (n w : Nat) : Nat := n * 16 + w

/-- A residual adjustment lies within its range. -/
def adjOk (v : Int) : Bool := decide (-16000 ≤ v ∧ v ≤ 16000)

/-- TIME_PORT_SET (10 R322, R291; 17 R510). -/
def timePortSet (m : Nat) (c : Cmd) (q : Path) (p : List Byte) (s : State) : Ans :=
  let rx := sInt 16 (fld p 20 2)
  let tx := sInt 16 (fld p 22 2)
  let fl := fld p 16 1
  checks [(decide (fl < 32), 16), rsv p 17 3, (adjOk rx, 20), (adjOk tx, 22)] s (fun _ =>
    match port s q.index with
    | none => ansSt stNoResource s
    | some x =>
      let s1 := schedule m c p s
      if fl.testBit 3 then
        if s.power.stateRo then ansSt stNoResource s
        else if 256 ≤ s.power.logWait.length + s.power.stateWait.length then ansOk [] (ev 0x0534 0 s1)
        else ansOk [] (modPower (fun w => { w with stateWait := w.stateWait ++ [(calKey q.index x.width, rx, tx, sInt 64 (fld p 24 8), fl.testBit 4)] }) s1)
      else ansOk [] s1)

/-- TIME_PORT_SET at its trick boundary. Where firmware runs the peer delay mechanism, MEAN_LINK_DELAY stays its own measurement (10 R322). -/
def timePortSetApply (p : List Byte) (s : State) : State :=
  let fl := fld p 16 1
  modPort (pathOf p).index (fun x => { x with
    tcEn := fl.testBit 0
    p2p := fl.testBit 1
    txStep := fl.testBit 2
    persist := fl.testBit 3
    calValid := fl.testBit 4
    rxAdj := sInt 16 (fld p 20 2)
    txAdj := sInt 16 (fld p 22 2)
    asym := sInt 64 (fld p 24 8)
    meanLinkDelay := if x.pdelay.runs then x.meanLinkDelay else fld p 32 8 }) s

/-- TIME_DOMAIN_SET (10 R323). -/
def timeDomainSet (m : Nat) (c : Cmd) (p : List Byte) (s : State) : Ans :=
  let src := fld p 17 1
  let lim := fld p 32 4
  let loss := fld p 44 4
  checks [(decide (fld p 16 1 ≤ 1), 16), (decide (src ≤ 4), 17), (decide (src ≠ 3 ∨ fld p 18 1 ≤ 7), 18), (decide (fld p 19 1 < 2), 19), rsv p 21 3,
          (decide (fld p 24 4 < 2 ^ 24), 24), (decide (fld p 28 4 < 2 ^ 24), 28), (decide (1 ≤ lim ∧ lim ≤ 500000), 32),
          (decide (fld p 40 4 ≠ 0), 40), (decide (1 ≤ loss ∧ loss ≤ 16777215), 44), rsv p 52 4] s
    (fun _ => ansOk [] (schedule m c p s))

/-- TIME_DOMAIN_SET at its trick boundary: a new SOURCE clears acc, LOCKED and EVER_LOCKED; else acc is clipped (10 R306, R307). The correction in effect stays within FREQ_LIMIT (10 R284). -/
def timeDomainSetApply (p : List Byte) (s : State) : State :=
  let src := fld p 17 1
  let lim := fld p 32 4
  modDom (fld p 16 1) (fun d =>
    let b := { d with
      source := src
      pin := fld p 18 1
      stepAllow := (fld p 19 1).testBit 0
      ptpDomain := fld p 20 1
      kp := fld p 24 4
      ki := fld p 28 4
      freqLimit := lim
      stepThresh := fld p 36 4
      lockThresh := fld p 40 4
      lossTimeout := fld p 44 4
      pinDelay := sInt 32 (fld p 48 4) }
    let cut := clampI (-(lim : Int) * 65536) ((lim : Int) * 65536)
    if src ≠ d.source then { b with acc := 0, f := cut d.f, locked := false, everLocked := false, good := 0 }
    else { b with acc := cut d.acc, f := cut d.f }) s

/-- TIME_GLOBAL_SET (10 R324). -/
def timeGlobalSet (m : Nat) (c : Cmd) (p : List Byte) (s : State) : Ans :=
  let r := fld p 24 4
  checks [(decide (fld p 16 1 ≤ 63), 16), (decide (fld p 17 1 ≤ 63), 17), (decide (fld p 18 1 ≤ 63), 18), (decide (fld p 19 1 < 4), 19),
          (decide (1 ≤ r ∧ r ≤ 100000), 24), rsv p 28 4] s
    (fun _ => ansOk [] (schedule m c p s))

/-- TIME_GLOBAL_SET at its trick boundary. -/
def timeGlobalSetApply (p : List Byte) (s : State) : State :=
  modTime (fun t => { t with
    ptpHdr := fld p 16 1
    ip4Hdr := fld p 17 1
    ip6Hdr := fld p 18 1
    switchAuto := (fld p 19 1).testBit 0
    stepFollow := (fld p 19 1).testBit 1
    splitThresh := fld p 20 4
    slewRate := fld p 24 4 }) s

/-- TIME_SELECT (10 Table 10.10). -/
def timeSelect (m : Nat) (c : Cmd) (p : List Byte) (s : State) : Ans :=
  let x := fld p 16 1
  checks [(decide (x ≤ 1), 16), (decide (fld p 17 1 < 2), 17), rsv p 18 6] s (fun _ =>
    if (fld p 17 1).testBit 0 = false ∧ ((dom s x).locked = false ∨ s.time.split = true) then ansSt stNotReady s
    else ansOk [] (schedule m c p s))

/-- TIME_SELECT at its trick boundary; the current domain is no switch. -/
def timeSelectApply (p : List Byte) (s : State) : State := if fld p 16 1 = s.time.cur then s else switchDom (fld p 16 1) s

/-- The part of TIME_STATUS_GET for one domain (10 Table 10.23). -/
def domStatus (s : State) (x : Nat) : List Byte :=
  let d := dom s x
  leBytes 8 (uInt 64 d.dofs) ++ leBytes 8 (uInt 64 d.lastE) ++ leBytes 8 (uInt 64 d.f) ++ leBytes 8 (uInt 64 d.acc)
    ++ evLow s 0x050B 0 x 4 ++ evLow s 0x050C 0 x 4 ++ evLow s 0x050A 0 x 4
    ++ leBytes 4 (b2n d.locked + 2 * b2n d.srcLost + 4 * b2n d.everLocked + 256 * d.source)

/-- TIME_STATUS_GET (10 Tables 10.23, 10.24). -/
def timeStatus (q : Path) (s : State) : Ans :=
  if q.kind = 1 then
    ansOk (leBytes 4 (timeStat s) ++ evLow s 0x0508 0 0 4 ++ leBytes 8 (uInt 64 (s.time.d / 2 ^ 24)) ++ evLow s 0x0507 0 0 4
      ++ evLow s 0x0506 0 0 4 ++ zeros 8 ++ domStatus s 0 ++ domStatus s 1) s
  else
    match port s q.index with
    | none => ansSt stNoResource s
    | some x =>
      let n := q.index
      ansOk ([byte (b2n x.tcEn + 2 * b2n x.p2p + 4 * b2n x.txStep + 8 * b2n x.persist + 16 * b2n x.calValid)] ++ zeros 7 ++ leBytes 8 x.meanLinkDelay
        ++ evLow s 0x0114 n 0 4 ++ evLow s 0x011C n 0 4 ++ evLow s 0x011D n 0 4 ++ evLow s 0x011E n 0 4) s

/-- TIME_MASTER_LIST_SET (10 R313, Table 10.25). An ingress port that is fused off is NO_RESOURCE (00 R4). -/
def timeMasterListSet (m : Nat) (c : Cmd) (p : List Byte) (s : State) : Ans :=
  let n := fld p 17 1
  let es := (List.range n).flatMap (fun j =>
    let i := fld p (42 + 16 * j) 2
    [(decide (i ≤ 511 ∨ i = 0xFFFF), 42 + 16 * j), rsv p (44 + 16 * j) 4])
  let fused := (List.range n).any (fun j => decide (laneCount s ≤ fld p (42 + 16 * j) 2 ∧ fld p (42 + 16 * j) 2 ≤ 511))
  checks ([(decide (fld p 16 1 ≤ 1), 16), rsv p 18 14] ++ es) s
    (fun _ => if fused then ansSt stNoResource s else ansOk [] (modDom (fld p 16 1) (fun d => { d with listSeen := true }) (schedule m c p s)))

/-- TIME_MASTER_LIST_SET at its trick boundary. The clockIdentity stands in the order of PTP's octets. BMCA lets go of a master that no longer remains (10 R313). -/
def timeMasterListSetApply (p : List Byte) (s : State) : State :=
  let l := (List.range (fld p 17 1)).map (fun j => (fld p (32 + 16 * j) 8, fld p (40 + 16 * j) 2, fld p (42 + 16 * j) 2))
  modDom (fld p 16 1) (fun d => { d with
    masters := l
    ptp := if l ≠ [] ∧ d.ptp.master.any (fun b => !l.any (masterOk b.2.1 b.2.2.1 b.2.2.2)) = true then { d.ptp with master := none } else d.ptp }) s

/-- TIME_AUTH_SET (10 R325). -/
def timeAuthSet (m : Nat) (c : Cmd) (p : List Byte) (s : State) : Ans :=
  checks [(decide (fld p 16 1 ≤ 1), 16), (decide (fld p 17 1 < 4), 17), (decide (fld p 19 1 ≤ 1), 19), (decide (fld p 28 1 ≤ 15), 28),
          (decide (fld p 29 1 ≤ 15), 29), (decide (fld p 30 1 ≤ 1), 30), rsv p 31 1] s
    (fun _ => ansOk [] (modDom (fld p 16 1) (fun d => { d with authSeen := true }) (schedule m c p s)))

/-- TIME_AUTH_SET at its trick boundary. -/
def timeAuthSetApply (p : List Byte) (s : State) : State :=
  modDom (fld p 16 1) (fun d => { d with
    rxRequired := (fld p 17 1).testBit 0
    tx := (fld p 17 1).testBit 1
    spp := fld p 18 1
    gmac := (fld p 19 1).testBit 0
    keyId0 := fld p 20 4
    keyId1 := fld p 24 4
    slot0 := fld p 28 1
    slot1 := fld p 29 1
    txKey := fld p 30 1 }) s

/-- TIME_SET. -/
def execTimeSet (m : Nat) (s : State) : Host.Outcome State Fault Refusal :=
  .next (runCmd 0x0601 m (fun c t => onPath m c.code 32 [1] c t (fun _ p => timeSet m c p t)) s)

/-- TIME_PORT_SET. -/
def execTimePortSet (m : Nat) (s : State) : Host.Outcome State Fault Refusal :=
  .next (runCmd 0x0602 m (fun c t => onPath m c.code 40 [3] c t (fun q p => timePortSet m c q p t)) s)

/-- TIME_DOMAIN_SET. -/
def execTimeDomainSet (m : Nat) (s : State) : Host.Outcome State Fault Refusal :=
  .next (runCmd 0x0603 m (fun c t => onPath m c.code 56 [1] c t (fun _ p => timeDomainSet m c p t)) s)

/-- TIME_GLOBAL_SET. -/
def execTimeGlobalSet (m : Nat) (s : State) : Host.Outcome State Fault Refusal :=
  .next (runCmd 0x0604 m (fun c t => onPath m c.code 32 [1] c t (fun _ p => timeGlobalSet m c p t)) s)

/-- TIME_SELECT. -/
def execTimeSelect (m : Nat) (s : State) : Host.Outcome State Fault Refusal :=
  .next (runCmd 0x0605 m (fun c t => onPath m c.code 24 [1] c t (fun _ p => timeSelect m c p t)) s)

/-- TIME_STATUS_GET. -/
def execTimeStatusGet (m : Nat) (s : State) : Host.Outcome State Fault Refusal :=
  .next (runCmd 0x0606 m (fun c t => onPath m c.code 16 [1, 3] c t (fun q _ => timeStatus q t)) s)

/-- TIME_MASTER_LIST_SET. Its length follows COUNT. -/
def execTimeMasterListSet (m : Nat) (s : State) : Host.Outcome State Fault Refusal :=
  .next (runCmd 0x0607 m (fun c t =>
    let n := fld c.payload 17 1
    if 32 < n then onPath m c.code 32 [1] { c with payload := c.payload.take 32 } t (fun _ _ => ansBad 17 t)
    else onPath m c.code (32 + 16 * n) [1] c t (fun _ p => timeMasterListSet m c p t)) s)

/-- TIME_AUTH_SET. -/
def execTimeAuthSet (m : Nat) (s : State) : Host.Outcome State Fault Refusal :=
  .next (runCmd 0x0608 m (fun c t => onPath m c.code 32 [1] c t (fun _ p => timeAuthSet m c p t)) s)

end Sys2Proof.Machine
end

