-- ==== Sys2Proof/Machine/Boundary.lean ====
section
/-! DEFINITION. TRICK_BOUNDARY (02): the length of the trick that ends, the boundary's index, phase and generator state (R43 to R49, R557), the settings that were scheduled for it, and the jobs of Table 2.2 with all that the chapters tie to a trick, hand or rubber boundary. -/

namespace Sys2Proof.Machine

/-! ## The length of a trick -/

/-- Shortest trick in core cycles (02 R48). -/
def trickMin (s : State) : Nat := if s.trick.sprint then 1919 else 1599

/-- T that the generator samples k core cycles after the last boundary (02 R43, R44; 10 R283). -/
def sampledT (s : State) (rate k : Nat) : Nat :=
  if s.time.running then ns40 (t40Cycles s ((s.time.frac + k * rate) / 2 ^ 40)) else tNs s

/-- The first cycle whose sampled T has reached a time; one below the range for earlier, one above it for later. -/
def firstCycle (s : State) (rate target lo : Nat) : Nat :=
  if target ≤ sampledT s rate (lo - 1) then lo - 1
  else if target ≤ sampledT s rate lo then lo
  else if target ≤ sampledT s rate (lo + 1) then lo + 1
  else if target ≤ sampledT s rate (lo + 2) then lo + 2
  else lo + 3

/-- The phase error is at least one core cycle late, or early, in 1/16 ns: 0.64 ns, or 8/15 ns in sprint. -/
def phaseLate (s : State) (e : Int) : Bool := if s.trick.sprint then decide (128 ≤ e * 15) else decide (1024 ≤ e * 100)
def phaseEarly (s : State) (e : Int) : Bool := phaseLate s (-e)

/-- The move of R557 toward zero phase error. -/
def slewMove (s : State) : Int := if phaseLate s s.trick.phase then -1 else if phaseEarly s s.trick.phase then 1 else 0

/-- Cycles of the trick that ends, and whether its boundary is clamped (02 Table 2.1, R557). -/
def trickPlan (s : State) (rate : Nat) : Nat × Bool :=
  let lo := trickMin s
  let fit := fun (n : Nat) (d : Int) => ((clampI lo (lo + 2) ((n : Int) + d)).toNat, decide (n < lo) || decide (lo + 2 < n))
  match s.trick.gen with
  | .free => (lo + 1, false)
  | .locked => fit (firstCycle s rate (((tNs s + 512) / 1024 + 1) * 1024) lo) 0
  | .slewing => fit (firstCycle s rate (tNs s + 1024) lo) (slewMove s)

/-- The value that trick jitter draws, and the cycles by which the trick changes (17 R518). -/
def jitter (s : State) : BitVec 16 × Int :=
  if s.flt.tpOn.enable then
    let v := lfsrShift 16 s.flt.lfsr
    (v, ((v.toNat * (2 * s.flt.tpOn.jitter + 1) / 65536 : Nat) : Int) - s.flt.tpOn.jitter)
  else (s.flt.lfsr, 0)

/-- Device time runs on through the n core cycles of the trick, and with it the pulses being driven. -/
def runTrick (rate n : Nat) (s : State) : State :=
  if s.time.running then
    let t := s.time.frac + n * rate
    modTime (fun u => { u with frac := t % 2 ^ 40, pins := tabMap u.pins (fun _ x => pinRun (n * rate / 2 ^ 24) x) }) (runTime (t / 2 ^ 40) s)
  else s

/-- The trick of n cycles ends and the trick count rises (02 R45, Table 2.8). FAULT_N is low through the trick that begins when an instance of class PIN or CONTAIN became severe in the one that ends (17 R505). -/
def countTrick (n : Nat) (v : BitVec 16) (s : State) : State :=
  { s with
    trick := { s.trick with count := s.trick.count + 1, lenLast := n, lenMax := max s.trick.lenMax n }
    telem := { s.telem with cycles := s.telem.cycles + n }
    flt := { s.flt with
      lfsr := v
      pulsing := s.flt.pulseNext
      pulseNext := false
      pulseCnt := if s.flt.pulseNext && !s.flt.pulsing then s.flt.pulseCnt + 1 else s.flt.pulseCnt } }

/-! ## The emitted boundary -/

/-- The trick interrupt source, when an enable is set (02 Table 2.6). -/
def trickIrq (on : Bool) (s : State) : State := if on then irqEvent 112 s else s

/-- The generator's state after an emitted boundary (02 Table 2.1). The table has no row for a LOCKED boundary whose phase error reaches a core cycle without being clamped, which trick jitter can make: the generator stays LOCKED (DESIGN CHOICE, log entry 97). -/
def genNext (s : State) (e : Int) (clamped : Bool) : GenState :=
  match s.trick.gen with
  | .free => .free
  | .locked => if clamped then .slewing else .locked
  | .slewing => if clamped || phaseLate s e || phaseEarly s e then .slewing else .locked

/-- Index, phase error and state of the emitted boundary (02 R44, R47, R49, R557). The first boundary after a step sees whether the index advanced. -/
def emit (clamped : Bool) (s : State) : State :=
  let i := (tNs s + 512) / 1024
  let e : Int := t40 s / 2 ^ 36 - (i : Int) * 16384
  let b : BitVec 64 := BitVec.ofNat 64 i
  let t := s.trick
  let s1 : State := { s with trick := { t with
    index := b
    phase := if t.gen = .free then 0 else e
    gen := genNext s e clamped
    clamped := t.clamped || clamped
    stepBack := t.stepBack || (t.stepNow && decide (b.toNat ≤ t.index.toNat)) } }
  trickIrq (clamped && !t.clamped && t.irqStep) s1

/-- The marks of records whose span holds the trick that begins: first after a step, emitted in SLEWING (11 R328), or run in it (02 R49). -/
def markTrick (gen : GenState) (s : State) : State :=
  { s with trick := { s.trick with
    lastStepped := if s.trick.stepNow then now s + 1 else s.trick.lastStepped
    lastSlewing := if gen = .slewing ∨ s.trick.gen = .slewing then now s + 1 else s.trick.lastSlewing
    stepNow := false } }

/-- A step that happened at this boundary, or time that became valid or invalid, moves the generator (02 Table 2.1, R49). The trick that begins is the one in which the step fell. -/
def stepGen (s : State) : State :=
  if s.time.valid = false then
    { s with trick := { s.trick with gen := .free, stepNow := false, lastInvalid := now s + 1 } }
  else if s.trick.stepNow then
    trickIrq (!s.trick.stepped && s.trick.irqStep)
      { s with trick := { s.trick with gen := .slewing, stepped := true, lastStepped := now s + 1, lastSlewing := now s + 1 } }
  else s

/-- Last cycle of each per-trick job of Table 2.2, in its row order; the dump is spread through the hand and has none. -/
def jobEnds : List (Option Nat) :=
  [some 0, some 0, some 0, some 0, some 511, some 1023, some 1023, some 1535, some 1528, some 63, none, some 0]

/-- Core cycles by which job j runs past the end of a trick of n cycles; it began late by what the run before left (02 R52). -/
def jobOver (s : State) (n j : Nat) : Nat :=
  match jobEnds.getD j none with
  | some e => e + tabGetD s.trick.carry j 0 + 1 - n
  | none => 0

/-- Jobs that had not finished when the boundary was emitted: by the length of the trick that ended (trick jitter), or by the boundary's own report of a hardware fault. Each counts once and is reported to the fault block; its next run begins late by the overrun (02 R52). Table 2.2 has 12 rows. -/
def lateJobs (l : List Nat) (s : State) : State :=
  let n := s.trick.lenLast
  let s1 := forAll ((List.range 12).filter (fun j => l.contains j || decide (0 < jobOver s n j))) (fun j acc =>
    fault 56 0 j (ev 0x0518 0 { acc with trick := { acc.trick with overrun := true, overrunCnt := satInc acc.trick.overrunCnt } })) s
  { s1 with trick := { s1.trick with carry := ((List.range 12).map (fun j => (j, jobOver s n j))).filter (fun e => decide (0 < e.2)) } }

/-! ## Settings of commands -/

/-- What each scheduled setting does at its boundary, by the code of its command: mailbox, payload. -/
def settings : List (Nat × (Nat → List Byte → State → State)) :=
  [(0x0201, fun _ p => laneClassApply p),
   (0x0213, fun _ p => portGuardApply p),
   (0x0214, fun _ p => synceApply p),
   (0x0220, fun _ p => modPort (pathOf p).index (fun x => { x with entry := fld p 16 1 })),
   (0x0221, fun _ p => modGrp (pathOf p).index (fun g => { g with limitForward := decide (fld p 16 1 = 1) })),
   (0x0301, fun _ p => tableCreateApply p),
   (0x0302, fun _ p => tableLadderApply p),
   (0x0305, fun _ p => meterSetApply p),
   (0x0307, fun _ p => excSetApply p),
   (0x0401, fun _ p => queueSetApply p),
   (0x0402, fun _ p => portBufSetApply p),
   (0x0403, fun _ p => bufGlobalSetApply p),
   (0x0404, fun _ p => bufSectionSetApply p),
   (0x0405, fun m p => mcastSetApply m p),
   (0x0501, fun _ p => schedPortSetApply p),
   (0x0502, fun _ p => schedQueueSetApply p),
   (0x0503, fun _ p => shaperSetApply p),
   (0x0601, fun m p => timeSetApply m p),
   (0x0602, fun _ p => timePortSetApply p),
   (0x0603, fun _ p => timeDomainSetApply p),
   (0x0604, fun _ p => timeGlobalSetApply p),
   (0x0605, fun _ p => timeSelectApply p),
   (0x0607, fun _ p => timeMasterListSetApply p),
   (0x0608, fun _ p => timeAuthSetApply p)] ++
  [(0x0701, fun _ p => telemMemSetApply p),
   (0x0702, fun _ p => flowGlobalSetApply p),
   (0x0703, fun _ p => flowProfileSetApply p),
   (0x0705, fun _ p => watchSetApply p),
   (0x0706, fun _ p => sampleSetApply p),
   (0x0707, fun _ p => ioamSetApply p),
   (0x0801, fun _ p => stackConfigApply p),
   (0x0802, fun _ p => stackLinkSetApply p),
   (0x0803, fun _ p => stackRouteSetApply p),
   (0x0804, fun _ p => stackMemberSetApply p),
   (0x0901, fun _ p => pwrCapApply p),
   (0x0902, fun _ p => pwrShedApply p),
   (0x0A01, fun _ p => fltSourceApply p),
   (0x0A03, fun _ p => fltClearApply p),
   (0x0A06, fun _ _ => testLockApply)]

/-- One setting takes effect. -/
def settle1 (d : Deferred) (s : State) : State :=
  match settings.find? (fun e => e.1 == d.code) with
  | some e => e.2 d.mb d.req s
  | none => s

/-- Settings in the order of their commit points (13 R404). Fault windows close after clears and settings, and injections are raised after that (17 R501, R502, R516). -/
def settingsApply (s : State) : State :=
  let l := s.deferred
  let s1 := l.foldl (fun acc d => settle1 d acc) { s with deferred := [] }
  injectAll ((l.filter (fun d => d.code == 0x0C01)).map (fun d => d.req)) (closeWindows s1)

/-- Perturbation registers take effect; the jitter register is seeded as ENABLE sets (17 R517, R518). -/
def perturbApply (s : State) : State :=
  { s with flt := { s.flt with
    tpOn := s.flt.tp
    lfsr := if s.flt.tp.enable && !s.flt.tpOn.enable then 0xACE1 else s.flt.lfsr } }

/-- The answers that this boundary gives: a commit's switch (13 R417), a time set at the last boundary (10 R321), a multicast list whose tricks have passed (08 R238). -/
def boundaryAnswer (m : Nat) (s : State) : State :=
  match (mbox s m).cmd with
  | none => s
  | some c =>
    match c.wait with
    | .boundary => if c.code = 0x0B05 ∨ c.code = 0x0B06 then answer m stOk 0 (leBytes 8 (idx s) ++ [byte (b2n s.uc.rollback)] ++ zeros 7) s else s
    | .ticks t => if t ≤ now s then answer m stOk 0 (if c.code = 0x0601 then leBytes 8 (idx s) else c.resp) s else s
    | _ => s

/-! ## Time -/

/-- The servo of each domain, the split comparison, DOM_OFS and the timing pins (10 R305, R307, R310, R316). -/
def timeBoundary (s : State) : State :=
  let s1 := servoDomain 1 (servoDomain 0 s)
  let s2 := recordOfs (splitCheck s1)
  stepGen (pinsBoundary s2.trick.stepNow s2)

/-! ## Ports and lanes -/

/-- FEC corrections of the trick that ends, on lanes of configured ports (04 R102, R109). -/
def fecCount (l : List (Nat × Nat × Nat)) (s : State) : State :=
  l.foldl (fun acc e =>
    match portOfLane acc e.1 with
    | some (p, _) => modLane e.1 (fun y => { y with symHand := y.symHand + e.2.2 }) (evAdd 0x010C p 0 e.2.2 (evAdd 0x010A p 0 e.2.1 acc))
    | none => acc) s

/-- At a hand boundary each lane's corrected symbols are compared with FEC_LIMIT, and the next hand's count begins (04 R109). -/
def fecHand (s : State) : State :=
  let s1 := s.ports.foldl (fun acc e =>
    forAll (portLanes e.1 e.2) (fun l a =>
      let hot := decide (e.2.guard.fecLimit < (lane a l).symHand)
      let a1 := modLane l (fun y => { y with fecOver := hot }) a
      if hot then portFault 49 e.1 l a1 else a1) acc) s
  { s1 with lanes := tabMap s1.lanes (fun _ y => { y with symHand := 0 }) }

/-- Pause counts of a port at a boundary (04 R110; 09 Table 9.6). -/
def pauseTick (p : Nat) (x : Port) (s : State) : State :=
  let s1 := forAll (List.range 8) (fun i acc => if 0 < at0 x.timers i then evAdd 0x0119 p i 1 acc else acc) s
  modPort p (fun y => { y with
    pausedRun := (List.range 9).map (fun i => if 0 < at0 y.timers i then at0 y.pausedRun i + 1 else 0)
    stormQuiet := (List.range 9).map (fun i => if inStorm y i then at0 y.stormQuiet i + 1 else 0) }) s1

/-- A port's hold begins at the boundary after it left UP; a HOLD of 0 flushes here (08 R243). -/
def holdTick (p : Nat) (s : State) : State :=
  match port s p with
  | none => s
  | some x =>
    if x.holdArm = false then s
    else if x.holdSet = 0 then holdFlush p s
    else modPort p (fun y => { y with holdArm := false, hold := some (now s + y.holdSet) }) s

/-- The decay of the penalty, and the release of a DAMPENED port (04 R107, Table 4.7; 17 R504). -/
def portRubber (p : Nat) (x : Port) (s : State) : State :=
  let pen := x.penalty - x.penalty / 2 ^ x.guard.decayShift
  let s1 := modPort p (fun y => { y with penalty := pen }) s
  if x.link = .dampened ∧ pen / 65536 < x.guard.reuse ∧ contained s p = false then linkAgain p s1 else s1

/-- Everything a port does at a boundary: pauses, the counts of tricks without a signal and since parking, the rubber's work, and the filling its PCS sends. -/
def portTick (rubber : Bool) (p : Nat) (s : State) : State :=
  match port s p with
  | none => s
  | some x =>
    let s1 := modPort p (fun y => { y with
      quiet := if y.link = .negotiating ∧ allQuiet s p x = true then y.quiet + 1 else 0
      probe := if y.link = .parked then y.probe + 1 else 0 }) (pauseTick p x s)
    pcsTick p (if rubber then portRubber p x s1 else s1)

/-- The shaper-credit job in the port groups at Run: every enabled shaper of each port, and the follow-suit shaper of a stack link (09 R267; 12 R388). -/
def shaperRefill (s : State) : State :=
  { s with ports := tabMap s.ports (fun p x =>
      if heldRung s (64 + groupOf p) ≠ 0 then x
      else { x with
        queues := tabMap x.queues (fun _ q => { q with shaper := refill q.shaper })
        sgroups := tabMap x.sgroups (fun _ g => { g with shaper := refill g.shaper })
        shaper := refill x.shaper
        stk := { x.stk with fs := refill x.stk.fs } }) }

/-! ## Power -/

/-- FIXED_FREQ_ACTIVE from this boundary on (02 R55): once sprint has been left, it follows FIXED_FREQ. -/
def fixedTick (s : State) : State := { s with trick := { s.trick with fixedActive := s.trick.fixedFreq && !s.trick.sprint } }

/-- What the power manager does before the trick's sample: rates and clock changes that are due, the judgement of a closed rubber, a step down, and the ladder (16 R475, R479 to R484; 02 R54, R55). -/
def powerTick (rubber : Bool) (s : State) : State :=
  let s1 := fixedTick (clockBoundary (clockChange (issueBoundary s)))
  let s2 := capTrick (if rubber then capRubber s1 else s1)
  ladder (modPower (fun p => { p with floorAll := (rubber || p.floorAll) && atFloor s2 }) s2)

/-- The sample of the trick that begins, with the thermal actions (16 R472, R485, R493). A chip colder than -5 degrees waits before its rails rise further (18 R532). -/
def sampleTick (i : TrickIn) (s : State) : State :=
  let s1 := absentCount (thermalAct i.temps (powerSample i s))
  let s2 := if s1.boot.phase = .rails ∧ i.temps.any (fun t => decide (t < -80)) = true then modBoot (fun b => { b with tempWait := true }) s1 else s1
  if i.temps.any (fun t => decide (2000 ≤ t)) then powerOff true s2 else s2

/-! ## Telemetry and the host -/

/-- The flow and telemetry engine and the LPDDR5X controller are at Run (16 Table 16.3). -/
def telemRuns (s : State) : Bool := decide (heldRung s 108 = 0) && decide (heldRung s 109 = 0)

/-- A hand boundary opens a dump; with the engine below Run only its span ends (11 R352). -/
def dumpTick (s : State) : State :=
  if telemRuns s then dumpOpen s else modTelem (fun t => { t with cycles := 0, prevHand := now s }) s

/-- CONS of each enabled ring area is read (11 R330). -/
def consRead (s : State) : State :=
  modTelem (fun t => { t with
    flow := if t.flowEn then tCons s t.flowBase flowLog2 t.flow else t.flow
    sample := if t.sampleEn then tCons s t.sampleBase t.sampleLog2 t.sample else t.sample
    capture := if t.captureEn then tCons s t.captureBase t.captureLog2 t.capture else t.capture }) s

/-- The telemetry jobs of a trick: rings, the overflow records at a hand, idle scan, eviction, the write FIFO and the dump (11 R330, R336 to R338, R347, R352). -/
def telemTick (hand : Bool) (s : State) : State :=
  if telemRuns s = false then s
  else
    let gs := tabKeys s.groups
    let s1 := consRead s
    let s2 := if hand then forAll gs overflowQueue s1 else s1
    dumpWrite (fifoDrain (flowEviction (forAll gs idleScan s2)))

/-- The stack engine at a boundary: misses, election, DIST, JOIN messages, and one heartbeat on each stack link (12 R372, R374, R376, R385, R386). -/
def stackTick (hand rubber : Bool) (s : State) : State :=
  let s1 := heardBoundary s
  let s2 := if hand then stackHand s1 else s1
  heartbeatBoundary (joinBoundary rubber (distBoundary (electBoundary s2)))

/-- The wait of a DMA channel for a hand boundary is over (15 R455). -/
def dmaHand (s : State) : State :=
  { s with chans := tabMap s.chans (fun _ c => if c.wait = some .hand then { c with wait := some (.tricks 0) } else c) }

/-- AGE of every mailbox that is not IDLE (13 Table 13.5). -/
def mailboxAge (s : State) : State :=
  { s with mboxes := tabMap s.mboxes (fun _ x => if x.st = .idle then x else { x with age := min 65535 (x.age + 1) }) }

/-- The lease of the MAC engine, counted while firmware waits; firmware gives it back after 16 tricks (13 R420). -/
def ciphTick (s : State) : State :=
  let c := s.ciph
  if c.owner = 3 then { s with ciph := if 15 ≤ c.held then engineFree c else { c with held := c.held + 1 } }
  else if c.owner ≠ 0 ∧ c.waiting = true then { s with ciph := { c with held := c.held + 1 } }
  else s

/-- Work of a hand boundary outside telemetry, the stack and time: FEC, mailboxes, patches, deferred records, DMA waits and the interrupt. -/
def handTick (s : State) : State :=
  let s1 := patchBoundary (mailboxAge (fecHand s))
  trickIrq s1.trick.irqHand (dmaHand (if s1.boot.fwRunning then recordStore false s1 else s1))

/-- A test challenge is void from a rubber boundary on (17 R514); the interrupt. -/
def rubberTick (s : State) : State :=
  trickIrq s.trick.irqRubber (watchRubber { s with flt := { s.flt with challenge := none } })

/-! ## The boundary -/

/-- Stalls of the table banks and skips of the rate matchers in the trick that ends: counted, and an event of TABLE_BANK for each stalled cycle (06 R149; 12 R368). -/
def linkCounts (i : TrickIn) (s : State) : State :=
  let s1 := i.stalled.foldl (fun acc e =>
    if e.1 < clusterCount acc then forAll (List.range e.2.2) (fun _ t => fault 52 e.1 e.2.1 (evAdd 0x0405 e.1 0 1 t)) acc else acc) s
  i.skips.foldl (fun acc e =>
    match port acc e.1 with
    | some x => if x.stk.enable && decide (x.link = .up) then evAdd 0x0124 e.1 0 e.2.2 (evAdd 0x0123 e.1 0 e.2.1 acc) else acc
    | none => acc) s1

/-- The trick that runs ends and the next boundary is emitted. -/
def closeTrick (i : TrickIn) (s : State) : State :=
  let pl := trickPlan s i.rate
  let j := jitter s
  let n := ((pl.1 : Int) + j.2).toNat
  emit pl.2 (countTrick n j.1 (runTrick i.rate n (watchCycles n i.passed (linkCounts i (rowsCorrected i.corrected (fecCount i.fec s))))))

/-- Cycle 0: the holds of ports that have left UP since the last boundary, settings, answers, the microcode bank, the write slots of the trick, time. -/
def cycleZero (i : TrickIn) (s : State) : State :=
  let s1 := perturbApply (settingsApply (lateJobs i.late (forAll (tabKeys s.ports) holdTick s)))
  let s2 := slotsTick (ucBoundary s1)
  timeBoundary (forAll (tabKeys s2.mboxes) boundaryAnswer s2)

/-- The jobs of the trick that begins. -/
def trickJobs (hand rubber : Bool) (i : TrickIn) (s : State) : State :=
  let s1 := if rubber then rubberTick s else s
  let s2 := if hand then handTick s1 else s1
  let s3 := powerTick rubber s2
  let s4 := forAll (tabKeys s3.ports) (portTick rubber) s3
  let s5 := meterSweep (shaperRefill (stackTick hand rubber s4))
  let s6 := ptpRetry (ciphTick (telemTick hand s5))
  sampleTick i (forAll (tabKeys s6.irq.vecs) vecTimeout s6)

/-- The whole boundary. A hand or rubber boundary is one whose hand or rubber number differs from that of the boundary before (02 R46). A dump holds the counters as they stood before any of the boundary's work. -/
def boundary (i : TrickIn) (s : State) : State :=
  let s1 := closeTrick i s
  let hand := decide (s1.trick.index >>> 6 ≠ s.trick.index >>> 6)
  let rubber := decide (s1.trick.index >>> 10 ≠ s.trick.index >>> 10)
  let s2 := markTrick s.trick.gen (if hand then dumpTick s1 else s1)
  trickJobs hand rubber i (cycleZero i s2)

/-- TRICK_BOUNDARY: once the time PLL has locked (18 Table 18.1). -/
def execTrickBoundary (i : TrickIn) (s : State) : Host.Outcome State Fault Refusal :=
  .next (if powered s then boundary i s else s)

end Sys2Proof.Machine
end

