-- ==== Sys2Proof/Machine/CiphCmds.lean ====
section
/-! DEFINITION. The MAC engine (13 R418 to R421, Table 13.22). -/

namespace Sys2Proof.Machine

/-- Code of a requester in OWNER. -/
def ownerCode (who : Who) : Nat :=
  match who with
  | .host => 1
  | .bmc => 2
  | .fw => 3

/-- Change the MAC engine. -/
def modCiph (f : Ciph → Ciph) (s : State) : State := { s with ciph := f s.ciph }

/-- A write to a register of the engine that only the holder of the lock may write (13 R421). -/
def asHolder (who : Who) (a : Nat) (f : State → State) (s : State) : State :=
  if reaches s who = false then s
  else if s.ciph.owner = ownerCode who then f s
  else regError a s

/-- TAKE while the engine is free makes the requester its owner; firmware that finds it held by another waits (13 R420). -/
def ciphTake (who : Who) (s : State) : State :=
  if s.ciph.owner = 0 then modCiph (fun c => { c with owner := ownerCode who, held := 0 }) s
  else if who = .fw ∧ s.ciph.owner ≠ 3 then modCiph (fun c => { c with waiting := true }) s
  else s

/-- RELEASE by the owner: firmware takes the engine when it waits (13 R420). The key registers are zeroed (R419). -/
def ciphRelease (who : Who) (s : State) : State :=
  if s.ciph.owner ≠ ownerCode who then s
  else modCiph (fun c => { c with owner := if c.waiting then 3 else 0, waiting := false, held := 0, keyReg := 0 }) s

/-- Before FW_RUNNING a write to CIPH_LOCK keeps the previous value and is an access error (18 R522). -/
def lockWrite (who : Who) (f : State → State) (s : State) : State :=
  if reaches s who = false then s
  else if s.boot.fwRunning = false then regError 0x60000 s
  else f s

/-- CIPH_TAKE. -/
def execCiphTake (who : Who) (s : State) : Host.Outcome State Fault Refusal := .next (lockWrite who (ciphTake who) s)

/-- CIPH_RELEASE. -/
def execCiphRelease (who : Who) (s : State) : Host.Outcome State Fault Refusal := .next (lockWrite who (ciphRelease who) s)

/-- CIPH_LEASE_EXPIRY: host software or the BMC has held the engine for LEASE tricks with WAITING set, and the lock is broken (13 R420). -/
def execCiphLeaseExpiry (s : State) : Host.Outcome State Fault Refusal :=
  .next (
    if s.ciph.waiting = false ∨ s.ciph.held < s.ciph.lease ∨ (s.ciph.owner ≠ 1 ∧ s.ciph.owner ≠ 2) then s
    else modCiph (fun c => { c with
      owner := 3
      waiting := false
      held := 0
      brokenHost := c.brokenHost || decide (c.owner = 1)
      brokenBmc := c.brokenBmc || decide (c.owner = 2)
      error := if c.busy then 4 else c.error
      busy := false
      done := false
      tag := 0
      keyReg := 0 }) s)

/-- The tag of the message that the registers name (13 R412, R418). -/
def ciphTag (s : State) (key : BitVec 256) : BitVec 128 :=
  let c := s.ciph
  let msg := devRead s (c.src.toNat / 64 * 64) c.len.toNat
  BitVec.ofNat 128 (leVal (if c.gmac then gmacBytes key (c.ivHi ++ c.ivLo) msg else cmacBytes key msg))

/-- GO on an idle engine (13 Table 13.22): an operation that cannot run ends at once with its error and a zero tag. -/
def ciphStart (who : Who) (s : State) : State :=
  let c := s.ciph
  let x := tabGetD c.slots c.slot {}
  let err := fun (e : Nat) => modCiph (fun y => { y with error := e, done := false, tag := 0 }) s
  match x.key with
  | none => err 1
  | some k =>
    if who ≠ .fw ∧ x.owner ≠ ownerCode who then err 2
    else if windowLen < c.src.toNat / 64 * 64 + c.len.toNat then err 3
    else modCiph (fun y => { y with error := 0, done := false, busy := true, tag := ciphTag s k }) s

/-- A write to CIPH_CTL. -/
def ciphCtl (who : Who) (v : Nat) (s : State) : State :=
  let s1 := modCiph (fun c => { c with slot := bits v 7 4, gmac := v.testBit 0 }) s
  if v.testBit 8 = false then s1
  else if s.ciph.busy then modCiph (fun c => { c with error := 6 }) s1
  else ciphStart who s1

/-- CIPH_GO: a write to CIPH_CTL with GO set. -/
def execCiphGo (who : Who) (value : BitVec 32) (s : State) : Host.Outcome State Fault Refusal :=
  .next (asHolder who 0x60008 (ciphCtl who (value.toNat ||| 256)) s)

/-- CIPH_DONE: the operation that runs has read its message; below Run the engine does not advance. -/
def execCiphDone (s : State) : Host.Outcome State Fault Refusal :=
  .next (if s.ciph.busy = true ∧ atRun s 112 = true then modCiph (fun c => { c with busy := false, done := true }) s else s)

/-- A load of the key registers into a slot (13 R419). -/
def ciphKeyLoad (who : Who) (slot : Nat) (s : State) : State :=
  let x := tabGetD s.ciph.slots slot {}
  if x.owner = 0 ∨ x.owner = ownerCode who then
    modCiph (fun c => { c with slots := tabPut c.slots slot { owner := ownerCode who, key := some c.keyReg }, keyReg := 0 }) s
  else modCiph (fun c => { c with error := 5, keyReg := 0 }) s

/-- A clear of a slot by its owner (13 R419). -/
def ciphKeyClear (who : Who) (slot : Nat) (s : State) : State :=
  if (tabGetD s.ciph.slots slot {}).owner = ownerCode who then modCiph (fun c => { c with slots := tabErase c.slots slot }) s else s

/-- CIPH_KEY_LOAD: a write to CIPH_KEY_CTL with LOAD alone. -/
def execCiphKeyLoad (who : Who) (slot : Nat) (s : State) : Host.Outcome State Fault Refusal :=
  .next (asHolder who 0x60080 (ciphKeyLoad who (slot % 16)) s)

/-- CIPH_KEY_CLEAR: a write to CIPH_KEY_CTL with CLEAR. -/
def execCiphKeyClear (who : Who) (slot : Nat) (s : State) : Host.Outcome State Fault Refusal :=
  .next (asHolder who 0x60080 (ciphKeyClear who (slot % 16)) s)

/-- CIPH_SLOT_STAT. -/
def ciphSlotStat (s : State) : Nat := ((List.range 16).map (fun i => (tabGetD s.ciph.slots i {}).owner * 4 ^ i)).sum

end Sys2Proof.Machine
end

