-- ==== Sys2Proof/Machine/Rings.lean ====
section
/-! DEFINITION. Host rings: enabling, SQ entries, completions, holds (14 R428 to R445), and the interrupt rows (R446, R447). -/

namespace Sys2Proof.Machine

/-- BAR0 offset of a register of ring r (14 R444). -/
def ringReg (r off : Nat) : Nat := 0x100000 + 0x1000 * r + off

/-- A number for a TYPE (14 Table 14.8). -/
def typeNo (t : RingType) : Nat :=
  match t with
  | .none => 0
  | .sq => 1
  | .cq => 2
  | .rx => 3

/-- TYPE of a number. -/
def typeOf (n : Nat) : RingType :=
  match n % 4 with
  | 0 => .none
  | 1 => .sq
  | 2 => .cq
  | _ => .rx

/-! ## SQ entries -/

/-- A read of n bytes of host memory at a completes with an error: it touches the line at the address given. -/
def readFails (err : Option Nat) (a n : Nat) : Bool :=
  match err with
  | some e => decide (0 < n ∧ a / 64 ≤ e / 64 ∧ e / 64 ≤ (a + n - 1) / 64)
  | none => false

/-- The entry whose first slot has index i is posted (14 R430). -/
def posted (s : State) (x : Ring) (i : Nat) : Bool := (memRead s.hostMem (slotAddr x i)).toNat.testBit 7 != wrapBit x i

/-- Greatest ENTRY_LEN of a ring (14 Table 14.4). -/
def entryMax (x : Ring) : Nat := min 16384 (32 * ringSize x)

/-- Check 3 of Table 14.5: reserved bits, TYPE, lengths against TYPE, PTP_OFF. -/
def badEntry (h : List Byte) : Bool :=
  let typ := fld h 0 1 % 16
  let time := fld h 1 1
  let elen := fld h 2 2
  let flen := fld h 4 2
  let off := fld h 12 2
  decide (bits (fld h 0 1) 6 4 ≠ 0) || decide (typ ≠ 1 ∧ typ ≠ 2) || decide (4 ≤ time) || decide (8 ≤ fld h 10 1) || decide (2 ≤ fld h 11 1)
    || decide (0x2000 ≤ fld h 8 2) || decide (64 ≤ fld h 14 1) || decide (fld h 15 1 ≠ 0) || decide (fld h 20 4 ≠ 0)
    || (decide (time < 2) && decide (off ≠ 0)) || (decide (time ≠ 3) && decide (fld h 24 8 ≠ 0))
    || (decide (typ = 1) && decide (elen < 32 + flen)) || (decide (typ = 2) && (decide (elen ≠ 64) || !allZero (slice h 40 24)))
    || (decide (2 ≤ time) && decide (flen < off + 44))

/-- Egress port that DEST names. -/
def sqPort (h : List Byte) : Nat := bits (fld h 8 2) 12 4

/-- Checks 3 to 6 of Table 14.5 in their order; the first failure's status. -/
def entryStatus (s : State) (h : List Byte) : Option Nat :=
  let p := sqPort h
  let flen := fld h 4 2
  let tooLong := match port s p with
    | some x => decide (x.maxFrame < flen + 4)
    | none => false
  if badEntry h then some 0x10
  else if decide (flen < 14) || tooLong then some 0x12
  else if laneCount s ≤ p then some 0x08
  else match port s p with
    | none => some 0x13
    | some _ => none

/-- SQ completion entry (14 Table 14.6); CTL lacks its PHASE. -/
def sqCompletion (r st detail i : Nat) (h : List Byte) (p trick : Nat) : List Byte :=
  [1, byte r] ++ leBytes 2 st ++ leBytes 4 detail ++ leBytes 4 i ++ leBytes 2 (fld h 6 2) ++ leBytes 2 p ++ leBytes 4 (fld h 16 4)
    ++ zeros 4 ++ leBytes 8 trick ++ zeros 32

/-- A completion of an SQ goes to its CQ, or waits while the CQ holds 32 (14 R439). -/
def sqComplete (r : Nat) (bs : List Byte) (s : State) : State :=
  let cq := (ring s r).cq
  if cqRoom s cq (.sq r) then cqPost cq (.sq r) bs s
  else cqStall cq (.sq r) (modRing r (fun x => { x with stalled := some bs }) s)

/-- A stopping SQ is OFF once the entry in hand is complete (14 R445). -/
def sqSettle (r : Nat) (s : State) : State :=
  modRing r (fun x => if x.st = .stopping ∧ x.wait = none ∧ x.stalled = none then { x with st := .off } else x) s

/-- The entry in hand is complete: C advances past its slots, and its completion carries the status; SILENT keeps an OK quiet. -/
def sqFinish (r : Nat) (i slots : Nat) (h : List Byte) (st detail p trick : Nat) (s : State) : State :=
  let s1 := modRing r (fun x => { x with c := ringStep x x.c slots, entries := x.entries + 1, wait := none }) s
  sqSettle r (if st = 0 ∧ (fld h 11 1).testBit 0 = true then s1 else sqComplete r (sqCompletion r st detail i h p trick) s1)

/-- A failure of checks 1 and 2: the ring halts, C stays, and its interrupt source has an event (14 R435, R446). -/
def sqHalt (r i : Nat) (h : List Byte) (st : Nat) (s : State) : State :=
  ringIrq r (sqComplete r (sqCompletion r st 0 i h 0xFFFF 0) (modRing r (fun x => { x with st := .halted, haltCause := st % 256 }) s))

/-- Time request of TIME (10 Table 10.5). -/
def sqTime (h : List Byte) : TimeReq :=
  match fld h 1 1 % 4 with
  | 0 => .none
  | 1 => .twoStep
  | 2 => .origin
  | _ => .turnaround

/-- A valid entry's frame asks for its cells and for admission (14 R436, R437); while the stake refuses the cells the scan waits. -/
def sqSend (r i slots : Nat) (h frame : List Byte) (again : Bool) (s : State) : State :=
  let p := sqPort h
  let o : OwnReq := { out := p, q := fld h 8 2 % 16, pri := fld h 10 1 % 8, req := sqTime h, tag := fld h 6 2, ptpOff := fld h 12 2, t2 := fld h 24 8, profile := fld h 14 1 % 64 }
  match ownFrame 33 o frame s with
  | some (none, t) => sqFinish r i slots h 0 0 p (idx s) t
  | some (some why, t) => sqFinish r i slots h 0x14 (refuseCode why) p (idx s) t
  | none =>
    if again then s
    else evAdd 0x0503 0 33 1 (modRing r (fun x => { x with wait := some { index := i, slots := slots, hdr := h, frame := frame } }) s)

/-- Handle the posted entry at C (14 R435, Table 14.5). -/
def sqEntry (err : Option Nat) (r : Nat) (s : State) : State :=
  let x := ring s r
  let i := x.c
  let h := ringRead s x i 1
  if readFails err (slotAddr x i) 64 then sqHalt r i (zeros 64) 0x0A s
  else
    let elen := fld h 2 2
    if elen % 64 ≠ 0 ∨ elen = 0 ∨ entryMax x < elen then sqHalt r i h 0x11 s
    else
      let k := elen / 64
      match entryStatus s h with
      | some st => sqFinish r i k h st 0 (if st = 0x13 then sqPort h else 0xFFFF) 0 s
      | none =>
        let flen := fld h 4 2
        let inline := decide (fld h 0 1 % 16 = 1)
        let fails := if inline then (List.range k).any (fun j => readFails err (slotAddr x (i + j)) 64) else readFails err (fld h 32 8) flen
        if fails then sqFinish r i k h 0x0A 0 (sqPort h) 0 s
        else sqSend r i k h (if inline then slice (ringRead s x i k) 32 flen else hostRead s (fld h 32 8) flen) false s

/-- The scan of 14 R433: entries one after another while the ring runs and the entry at C is posted. It stops while an entry waits for cells or a completion for room. -/
def sqScan (err : Option Nat) (r : Nat) (fuel : Nat) (s : State) : State :=
  match fuel with
  | 0 => modRing r (fun x => { x with rung := true }) s
  | n + 1 =>
    let x := ring s r
    if x.st ≠ .run ∨ x.wait.isSome = true ∨ x.stalled.isSome = true then s
    else if readFails err (slotAddr x x.c) 64 = false ∧ posted s x x.c = false then s
    else sqScan err r n (sqEntry err r s)

/-- A doorbell's scan, with the index write-back at its end (14 R432, R433). A doorbell that finds the scan waiting, or the engine below Run, is kept. -/
def sqRun (err : Option Nat) (r : Nat) (s : State) : State :=
  let x := ring s r
  if x.typ ≠ .sq ∨ x.st ≠ .run then s
  else if x.wait.isSome = true ∨ x.stalled.isSome = true ∨ atRun s 111 = false then modRing r (fun y => { y with rung := true }) s
  else
    let t := sqScan err r (4 * ringSize x) (modRing r (fun y => { y with rung := false }) s)
    if (ring t r).c = x.c then t else ringWriteBack r (ring t r).c t

/-- A wait of an SQ's scan has ended: what the scan left off goes on. -/
def sqResume (r : Nat) (s : State) : State :=
  let x := ring s r
  let s1 := ringWriteBack r x.c s
  if x.typ = .sq ∧ x.st = .run ∧ x.wait = none ∧ x.stalled = none then sqRun none r s1 else s1

/-- SQ_DOORBELL: host software has stored its entries, and writes RING_DB. -/
def execSqDoorbell (r : Nat) (host : List (Nat × Byte)) (err : Option Nat) (s : State) : Host.Outcome State Fault Refusal :=
  .next (
    let s1 := hostStores host s
    if 64 ≤ r ∨ reaches s .host = false then s1 else sqRun err r s1)

/-- SQ_STAKE_WAIT_END: the stake of requester 33 takes the cells, and the entry goes on. -/
def execSqStakeWaitEnd (r : Nat) (s : State) : Host.Outcome State Fault Refusal :=
  .next (
    match (ring s r).wait with
    | some w => if atRun s 111 = false then s else
        let t := sqSend r w.index w.slots w.hdr w.frame true s
        if (ring t r).wait.isSome then t else sqResume r t
    | none => if (ring s r).rung then sqRun none r s else s)

/-! ## Enabling -/

/-- A CQ is named by an enabled SQ, or by a channel that is not STOPPED (14 R445). -/
def cqNamed (s : State) (r : Nat) : Bool :=
  s.rings.any (fun e => decide (e.2.typ = .sq) && decide (e.2.st ≠ .off) && decide (e.2.cq = r))
    || s.chans.any (fun e => decide (e.2.st ≠ .stopped) && decide (e.2.cq = r))

/-- Held entries of an RX ring that goes OFF are dropped and counted, with the references they hold (14 R445, R441). -/
def rxDropHold (r : Nat) (s : State) : State :=
  let l := (ring s r).hold
  let s1 := modRing r (fun x => { x with hold := [], drops := l.foldl (fun acc _ => satInc acc) x.drops }) s
  (l.filterMap (fun h => h.2)).foldl (fun acc h => chainUnref h acc) s1

/-- ENABLE written as 0 (14 R445). -/
def ringOff (r : Nat) (s : State) : State :=
  let x := ring s r
  match x.st with
  | .off | .stopping => s
  | .halted => modRing r (fun y => { y with st := .off, enable := false }) s
  | .run =>
    match x.typ with
    | .sq => sqSettle r (modRing r (fun y => { y with st := .stopping, enable := false }) s)
    | .rx => rxDropHold r (modRing r (fun y => { y with st := .off, enable := false }) s)
    | .cq => if x.hold.isEmpty = false ∨ cqNamed s r = true then regError (ringReg r 8) s else modRing r (fun y => { y with st := .off, enable := false }) s
    | .none => s

/-- ENABLE written as 1 while the ring is OFF: both indices 0, STATE RUN (14 R445). -/
def ringOn (r : Nat) (s : State) : State :=
  modRing r (fun y => { y with
    enable := true
    st := .run
    p := 0
    c := 0
    haltCause := 0
    entries := 0
    rung := false }) s

/-- LOG2 is in range for a TYPE (14 R428). -/
def log2Ok (t : RingType) (n : Nat) : Bool := decide (n ≤ 16) && (if t = .rx then decide (9 ≤ n) else decide (6 ≤ n))

/-- A write of RING_CFG (14 R444, R445; 00 R20): each field that its map refuses keeps its previous value, and ENABLE is refused with fields that no ring may have, or before firmware runs (18 R522). -/
def ringCfgWrite (r v : Nat) (s : State) : State :=
  let x := ring s r
  let en := v.testBit 31
  let typ := typeOf (bits v 30 29)
  let log2 := bits v 28 24
  let cq := bits v 13 8
  let s0 := modRing r (fun y => { y with irq := v.testBit 0 }) s
  if x.st ≠ .off then
    let s1 := if en then s0 else ringOff r s0
    if typ ≠ x.typ ∨ log2 ≠ x.log2 ∨ cq ≠ x.cq then regError (ringReg r 8) s1 else s1
  else
    let typOk := !(en && decide (typ = .none))
    let typ2 := if typOk then typ else x.typ
    let logOk := log2Ok typ2 log2
    let log2b := if logOk then log2 else x.log2
    let cqOk := decide (typ2 ≠ .sq) || decide ((ring s cq).typ = .cq)
    let cq2 := if cqOk then cq else x.cq
    let s1 := modRing r (fun y => { y with typ := typ2, log2 := log2b, cq := cq2 }) s0
    let mayOn := s.boot.fwRunning && typOk && log2Ok typ2 log2b && (decide (typ2 ≠ .sq) || decide ((ring s cq2).typ = .cq))
    let s2 := if en && mayOn then ringOn r s1 else s1
    if typOk && logOk && cqOk && (!en || mayOn) then s2 else regError (ringReg r 8) s2

/-- RING_ENABLE: a write of RING_CFG with ENABLE 1. -/
def execRingEnable (r : Nat) (value : BitVec 32) (s : State) : Host.Outcome State Fault Refusal :=
  .next (if 64 ≤ r ∨ reaches s .host = false then s else ringCfgWrite r (value.toNat ||| 2 ^ 31) s)

/-- RING_DISABLE: a write of RING_CFG with ENABLE 0. -/
def execRingDisable (r : Nat) (value : BitVec 32) (s : State) : Host.Outcome State Fault Refusal :=
  .next (if 64 ≤ r ∨ reaches s .host = false then s else ringCfgWrite r (value.toNat % 2 ^ 31) s)

/-! ## Consumers and holds -/

/-- Host software's C lies between P − 2^n and P (14 R432). -/
def hostIdxOk (x : Ring) (v : Nat) : Bool :=
  decide (v < 2 * ringSize x) && decide ((x.p + 2 * ringSize x - v) % (2 * ringSize x) ≤ ringSize x)

/-- A write of RING_HOST_IDX. -/
def ringHostIdx (r v : Nat) (s : State) : State :=
  let x := ring s r
  if x.typ ≠ .cq ∧ x.typ ≠ .rx then s
  else if hostIdxOk x v then modRing r (fun y => { y with c := v }) s
  else modRing r (fun y => { y with idxErr := satInc y.idxErr }) s

/-- RING_HOST_IDX_WRITE. -/
def execRingHostIdxWrite (r value : Nat) (s : State) : Host.Outcome State Fault Refusal :=
  .next (if 64 ≤ r ∨ reaches s .host = false then s else ringHostIdx r (value % 2 ^ 17) s)

/-- Held completions move into the ring while it has room. -/
def cqDrain (r : Nat) (fuel : Nat) (s : State) : State :=
  match fuel with
  | 0 => s
  | n + 1 =>
    let x := ring s r
    match x.hold with
    | [] => s
    | (bs, _) :: rest => if ringFits x 1 then cqDrain r n (cqWrite r bs (modRing r (fun y => { y with hold := rest }) s)) else s

/-- The SQs that wait the longest write their completions, in the order in which these became final, while the CQ has a place and up to a DMA channel, which DMA_STALL_END serves; with the SQs served. -/
def cqServe (r : Nat) (fuel : Nat) (s : State) : List Nat × State :=
  match fuel with
  | 0 => ([], s)
  | n + 1 =>
    match (cqWaiting s r).head? with
    | some (.sq q) =>
      match (ring s q).stalled with
      | some bs =>
        if cqSpace s r then
          let t := cqServe r n (sqSettle q (cqPost r (.sq q) bs (modRing q (fun y => { y with stalled := none }) s)))
          (q :: t.1, t.2)
        else ([], s)
      | none => ([], s)
    | _ => ([], s)

/-- Waiting completions are written; only then do their sources go on, so that no newer completion passes one that was final (14 R439). -/
def cqWake (r : Nat) (s : State) : State :=
  let t := cqServe r 64 s
  t.1.foldl (fun acc q => sqResume q acc) t.2

/-- CQ_HOLD_DRAIN: the ring has room for held completions again (14 R439). -/
def execCqHoldDrain (r : Nat) (s : State) : Host.Outcome State Fault Refusal :=
  .next (
    let x := ring s r
    if x.typ ≠ .cq ∨ x.st ≠ .run ∨ ringFits x 1 = false then s else cqWake r (cqDrain r 32 s))

/-- Held entries of an RX ring move into the ring while they fit; the reference of each frame copy goes as its entry is written (14 R441, R442). -/
def rxDrain (r : Nat) (fuel : Nat) (s : State) : State :=
  match fuel with
  | 0 => s
  | n + 1 =>
    let x := ring s r
    match x.hold with
    | [] => s
    | (bs, h) :: rest =>
      if ringFits x (bs.length / 64) then
        let s1 := ringPost r bs (modRing r (fun y => { y with hold := rest }) s)
        rxDrain r n (match h with
          | some c => chainUnref c s1
          | none => s1)
      else s

/-- RX_HOLD_DRAIN. -/
def execRxHoldDrain (r : Nat) (s : State) : Host.Outcome State Fault Refusal :=
  .next (
    let x := ring s r
    if x.typ ≠ .rx ∨ x.st ≠ .run then s else rxDrain r 32 s)

/-- RING_CFG as it reads. -/
def ringCfg (x : Ring) : Nat := b2n x.enable * 2 ^ 31 + typeNo x.typ * 2 ^ 29 + x.log2 * 2 ^ 24 + x.cq * 2 ^ 8 + b2n x.irq

/-- RING_STAT as it reads. -/
def ringStat (x : Ring) : Nat :=
  let st := match x.st with
    | .off => 0
    | .run => 1
    | .halted => 2
    | .stopping => 3
  st * 2 ^ 30 + x.haltCause * 2 ^ 16 + x.hold.length % 64

/-- RING_DEV_IDX: C of an SQ, P of a CQ or RX ring (14 R432). -/
def ringDevIdx (x : Ring) : Nat :=
  match x.typ with
  | .sq => x.c
  | .none => 0
  | _ => x.p

/-! ## Interrupts -/

/-- IRQ_MOD_TIMEOUT. -/
def execIrqModTimeout (v : Nat) (s : State) : Host.Outcome State Fault Refusal :=
  .next (if 128 ≤ v then s else vecTimeout v s)

/-- A vector is unmasked: a message that its PBA bit holds is sent (14 R447). -/
def unmaskVec (v : Nat) (s : State) : State :=
  { s with irq := { s.irq with vecs := tabMod s.irq.vecs v {} (fun x =>
      if x.pba then { x with masked := false, pba := false, sent := x.sent + 1 } else { x with masked := false }) } }

/-- MSIX_UNMASK. -/
def execMsixUnmask (v : Nat) (s : State) : Host.Outcome State Fault Refusal :=
  .next (if 128 ≤ v ∨ reaches s .host = false then s else unmaskVec v s)

end Sys2Proof.Machine
end

