-- ==== Sys2Proof/Machine/Dma.lean ====
section
/-! DEFINITION. DMA channels: address spaces, instructions and their checks, records, and the channel rows (15). -/

namespace Sys2Proof.Machine

/-- A channel. -/
def chan (s : State) (k : Nat) : Chan := tabGetD s.chans k {}

/-- Change a channel. -/
def modChan (k : Nat) (f : Chan → Chan) (s : State) : State := { s with chans := tabMod s.chans k {} f }

/-- BAR0 offset of a register of a channel (15 R467). -/
def chanReg (k off : Nat) : Nat := 0x80000 + 0x100 * k + off

/-! ## Spaces (15 Table 15.1) -/

/-- Offset inside a cluster's part of the table space. -/
def tabOff (a : Nat) : Nat := a % 0x10000000

/-- n bytes from a lie in one assigned stretch of the table space (06 Table 6.7). -/
def tabAssigned (a n : Nat) : Bool :=
  let o := tabOff a
  if 0x50000000 ≤ a then false
  else if 0x40000000 ≤ a then decide (o + n ≤ 0x4000000)
  else decide (o + n ≤ 0x8800000) || (decide (0xC000000 ≤ o) && decide (o + n ≤ 0xD000000))

/-- n bytes from a lie in a space and meet no hole (15 R448). -/
def inSpace (sp a n : Nat) : Bool :=
  match sp with
  | 0 => decide (a + n ≤ 2 ^ 43)
  | 1 => decide (a + n ≤ windowLen)
  | 2 => tabAssigned a n
  | 3 => decide (a + n ≤ 0x14000000)
  | _ => false

/-- An operand reaches TC2 or TC3 on the N2048-H (00 R4). -/
def reachesAbsent (s : State) (sp a : Nat) : Bool := s.ident.half && decide (sp = 2) && decide (0x20000000 ≤ a ∧ a < 0x40000000)

/-- A write to n bytes from a is refused: the stable view, or BUFFER (15 Table 15.6). -/
def readOnly (sp a n : Nat) : Bool :=
  decide (sp = 3) || (decide (sp = 2) && decide (a < 0x40000000) && decide (tabOff a < 0x8000000) && decide (0x4000000 < tabOff a + n))

/-- A 64-byte line of the table space. -/
def tabLine (s : State) (a : Nat) : List Byte :=
  let n := if 0x40000000 ≤ a then 0 else a / 0x10000000
  let o := tabOff a
  let c := cluster s n
  if o < 0x4000000 then bucketBytes s n (o / 64) false
  else if o < 0x8000000 then bucketBytes s n ((o - 0x4000000) / 64) true
  else if o < 0x8800000 then (List.range 2).flatMap (fun i => meterBytes (meter c ((o - 0x8000000) / 32 + i)))
  else (List.range 4).flatMap (fun i =>
    let v := tabGetD c.counters ((o - 0xC000000) / 16 + i) (0, 0)
    leBytes 8 v.1.toNat ++ leBytes 8 v.2.toNat)

/-- A 64-byte line written to the table space: a bucket is queued, meters and counters are replaced whole (06 R174; 07 R204; 11 R348). -/
def tabLineWrite (k a : Nat) (bs : List Byte) (s : State) : State :=
  let o := tabOff a
  if o < 0x4000000 then
    let ns := if 0x40000000 ≤ a then List.range (clusterCount s) else [a / 0x10000000]
    forAll ns (fun n acc => sendBucket n (o / 64) (BitVec.ofNat 512 (leVal bs)) (some k) acc) s
  else if o < 0x8800000 then
    forAll (List.range 2) (fun i acc => modCluster (a / 0x10000000) (fun c => { c with meters := tabPut c.meters ((o - 0x8000000) / 32 + i) (meterOf (slice bs (32 * i) 32)) }) acc) s
  else
    forAll (List.range 4) (fun i acc => modCluster (a / 0x10000000) (fun c => { c with counters := tabPut c.counters ((o - 0xC000000) / 16 + i) (BitVec.ofNat 64 (fld bs (16 * i) 8), BitVec.ofNat 64 (fld bs (16 * i + 8) 8)) }) acc) s

/-- n bytes of a space from a, whole lines. -/
def spaceRead (s : State) (k sp a n : Nat) : List Byte :=
  match sp with
  | 0 => hostRead s ((chan s k).hostBase + a) n
  | 1 => devRead s a n
  | 2 => (List.range (n / 64)).flatMap (fun i => tabLine s (a + 64 * i))
  | _ => bufRead s a n

/-- Whole lines written to a space from a. -/
def spaceWrite (k sp a : Nat) (bs : List Byte) (s : State) : State :=
  match sp with
  | 0 => hostWrite ((chan s k).hostBase + a) bs s
  | 1 => devWrite a bs s
  | 2 => forAll (List.range (bs.length / 64)) (fun i acc => tabLineWrite k (a + 64 * i) (slice bs (64 * i) 64) acc) s
  | _ => s

/-- Writes have been issued: their responses are delayed while the perturbation says so (17 R518). -/
def wrote (k : Nat) (s : State) : State :=
  let t := s.flt.tpOn
  if t.enable ∧ t.dmaCh.toNat.testBit k = true then modChan k (fun c => { c with writesAt := max c.writesAt (now s + cdiv t.dmaDelay 1024) }) s else s

/-- Every write that the channel has issued has returned its response (15 R455, R460): none is delayed, and none waits on a table engine's queue. -/
def drained (s : State) (k : Nat) : Bool :=
  decide ((chan s k).writesAt ≤ now s) && s.clusters.all (fun e => (e.2.cmdQ ++ e.2.cmdWait).all (fun o =>
    match o with
    | .bucket _ _ c => c != some k
    | _ => true))

/-! ## Records (15 Table 15.7) -/

/-- A record without PHASE, CRC and TRICK, which it takes when it is committed. -/
def dmaRecord (k st detail pc src dst bytes user spaces : Nat) : List Byte :=
  [2, byte k] ++ leBytes 2 st ++ leBytes 4 detail ++ leBytes 8 pc ++ leBytes 8 src ++ leBytes 8 dst ++ leBytes 8 bytes
    ++ zeros 4 ++ leBytes 4 user ++ zeros 8 ++ [byte spaces] ++ zeros 7

/-- A record is placed in its CQ or in the CQ's hold: it is committed (15 R461). Its interrupt event comes when it is written (14 R447). -/
def dmaCommit (k : Nat) (bs : List Byte) (s : State) : State :=
  let c := chan s k
  let b := patch (patch bs 40 (leBytes 4 c.crcOut.toNat)) 48 (leBytes 8 (idx s))
  cqPost c.cq (.dma k) b (modChan k (fun x => { x with lastStatus := fld bs 2 2 % 256 }) s)

/-- A channel finds the CQ's hold full: it is STALLED, and one wait counts (15 R461). -/
def dmaStall (k : Nat) (s : State) : State :=
  if (chan s k).st = .stalled then s
  else cqStall (chan s k).cq (.dma k) (modChan k (fun c => { c with st := .stalled, stalls := satInc c.stalls }) s)

/-- Records that are due are committed while the writes are drained and the CQ takes them; the last of a run stops the channel (15 Table 15.8). -/
def dmaFlush (k : Nat) (fuel : Nat) (s : State) : State :=
  let c := chan s k
  match c.due with
  | [] => s
  | b :: rest =>
    if drained s k = false then s
    else if cqRoom s c.cq (.dma k) = false then dmaStall k s
    else
      let s1 := dmaCommit k b (modChan k (fun x => { x with
        due := rest
        dueEnds := if rest.isEmpty then false else x.dueEnds
        st := if rest.isEmpty ∧ x.dueEnds = true then .stopped else .running }) s)
      match fuel with
      | 0 => s1
      | n + 1 => dmaFlush k n s1

/-- Records become due. -/
def dmaDue (k : Nat) (l : List (List Byte)) (ends : Bool) (s : State) : State :=
  dmaFlush k l.length (modChan k (fun c => { c with due := c.due ++ l, dueEnds := ends }) s)

/-! ## Instructions (15 R451 to R455) -/

/-- Fields of an instruction. -/
structure DmaIns where
  opc : Nat
  flags : Nat
  ss : Nat
  sd : Nat
  len : Nat
  src : Nat
  dst : Nat
  lo : Nat
  hi : Nat
  deriving DecidableEq, Repr

/-- The 16 bytes of an instruction as its fields (15 Table 15.3). -/
def dmaIns (b : List Byte) : DmaIns :=
  let v := leVal (slice b 0 16)
  { opc := bits v 7 0
    flags := bits v 11 8
    ss := bits v 14 12
    sd := bits v 17 15
    len := bits v 41 18
    src := bits v 84 42
    dst := bits v 127 85
    lo := v % 2 ^ 64
    hi := v / 2 ^ 64 }

/-- The opcodes of Table 15.2. -/
def dmaOpcodes : List Nat := [0, 1, 2, 3, 4, 8, 9, 10, 11]

/-- Check 3 of Table 15.6. -/
def dmaBad (i : DmaIns) : Bool :=
  match i.opc with
  | 0 => decide (512 ≤ i.lo) || decide (i.hi ≠ 0)
  | 1 => decide (i.flags ≠ 0) || decide (4 ≤ i.ss) || decide (4 ≤ i.sd) || decide (i.len = 0)
  | 2 => decide (4 ≤ i.flags) || decide (4 ≤ i.ss) || decide (4 ≤ i.sd) || decide (i.len = 0)
  | 3 => decide (i.flags ≠ 0) || decide (i.ss ≠ 0) || decide (4 ≤ i.sd) || decide (i.len = 0) || decide (2 ^ 32 ≤ i.src)
  | 4 => decide (2 ≤ i.flags) || decide (4 ≤ i.ss) || decide (4 ≤ i.sd) || decide (i.len = 0)
  | 8 => decide (bits i.lo 15 10 ≠ 0) || decide (2 ^ 40 ≤ i.lo) || decide (i.hi % 16 ≠ 0)
  | 9 => decide (bits i.lo 31 12 ≠ 0) || decide (i.hi ≠ 0) || decide (4 ≤ i.flags) || (decide (i.flags = 1) && decide (bits i.lo 63 32 ≠ 0))
  | 10 => decide (bits i.lo 15 10 ≠ 0) || decide (bits i.lo 31 21 ≠ 0) || decide (2 ^ 32 ≤ i.hi)
  | 11 => decide (i.hi ≠ 0) || decide (bits i.lo 63 8 % 16 ≠ 0)
  | _ => true

/-- The instruction takes a SRC operand. -/
def hasSrc (i : DmaIns) : Bool := decide (i.opc ≠ 3)

/-- The instruction writes its DST. -/
def writesDst (i : DmaIns) : Bool := decide (i.opc ≠ 4)

/-- Bytes of DST: STORE adds a line. -/
def dstLen (i : DmaIns) : Nat := if i.opc = 2 ∧ i.flags.testBit 1 = true then i.len + 64 else i.len

/-- Checks 4 to 8 of Table 15.6 on a data instruction. -/
def dmaDataCheck (s : State) (i : DmaIns) : Option Nat :=
  if (hasSrc i = true ∧ i.src % 64 ≠ 0) ∨ i.dst % 64 ≠ 0 ∨ i.len % 64 ≠ 0 then some 0x01
  else if (hasSrc i = true ∧ inSpace i.ss i.src i.len = false) ∨ inSpace i.sd i.dst (dstLen i) = false then some 0x07
  else if (hasSrc i = true ∧ reachesAbsent s i.ss i.src = true) ∨ reachesAbsent s i.sd i.dst = true then some 0x08
  else if writesDst i = true ∧ readOnly i.sd i.dst (dstLen i) = true then some 0x09
  else if i.opc ≤ 2 ∧ i.ss = i.sd ∧ i.src < i.dst ∧ i.dst < i.src + i.len then some 0x02
  else none

/-- SPACES of a record. -/
def dmaSpaces (i : DmaIns) : Nat := if 1 ≤ i.opc ∧ i.opc ≤ 4 then i.ss + 16 * i.sd else 0

/-- The channel's program space. -/
def progSpace (c : Chan) : Nat := if c.devmem then 1 else 0

/-- The instruction at DMA_PC, or the status of a fetch that fails (15 Table 15.6, checks 1 and 2). -/
def dmaFetch (s : State) (k : Nat) (err : Option Nat) : Nat ⊕ DmaIns :=
  let c := chan s k
  if inSpace (progSpace c) c.pc 16 = false then .inl 0x07
  else if err = some 0 then .inl (if c.devmem then 0x0B else 0x0A)
  else .inr (dmaIns (spaceRead s k (progSpace c) c.pc 16))

/-- A failing instruction writes its record and ends the run; DMA_PC stays (15 R458). -/
def dmaFail (k st : Nat) (i : Option DmaIns) (s : State) : State :=
  dmaDue k [dmaRecord k st 0 (chan s k).pc 0 0 0 0 ((i.map dmaSpaces).getD 0)] true s

/-- The program goes on at an address. -/
def dmaPc (k pc : Nat) (s : State) : State := modChan k (fun c => { c with pc := pc % 2 ^ 64 }) s

/-- The next instruction. -/
def dmaNext (k : Nat) (s : State) : State := dmaPc k ((chan s k).pc + 16) s

/-! ## Data instructions -/

/-- An error on a line of an operand: the line's number and whether it is the source's. Table space and cells answer with zero bytes, not with an error (15 R450), and writes to device memory do not fail. -/
def dmaLineError (i : DmaIns) (err : Option Nat) : Option (Nat × Bool) :=
  match err with
  | none => none
  | some 0 => none
  | some (e + 1) =>
    let line := e / 2
    let isSrc := decide (e % 2 = 0)
    let sp := if isSrc then i.ss else i.sd
    let reads := isSrc || decide (i.opc = 4)
    if (isSrc = true ∧ hasSrc i = false) ∨ (if isSrc then i.len else dstLen i) / 64 ≤ line then none
    else if sp = 0 ∨ (sp = 1 ∧ reads = true) then some (line, isSrc)
    else none

/-- The bytes that a data instruction writes to DST. -/
def dmaData (s : State) (k : Nat) (i : DmaIns) : List Byte :=
  if i.opc = 3 then (List.range (i.len / 4)).flatMap (fun _ => leBytes 4 i.src) else spaceRead s k i.ss i.src i.len

/-- The line of STORE: the CRC and zeros (15 R453). -/
def crcLine (v : BitVec 32) : List Byte := leBytes 4 v.toNat ++ zeros 60

/-- Offset of the first byte in which two lines differ. -/
def firstDiff (a b : List Byte) : Option Nat := ((List.zipWith (fun x y => x == y) a b).zipIdx.find? (fun e => !e.1)).map (fun e => e.2)

/-- The records of a COMPARE over its first n lines, one for each differing line (15 R456). -/
def compareRecords (s : State) (k : Nat) (i : DmaIns) (n : Nat) : List (List Byte) :=
  (List.range n).filterMap (fun j =>
    (firstDiff (spaceRead s k i.ss (i.src + 64 * j) 64) (spaceRead s k i.sd (i.dst + 64 * j) 64)).map (fun d =>
      dmaRecord k 0x03 d (chan s k).pc (i.src + 64 * j) (i.dst + 64 * j) (64 * j) 0 (dmaSpaces i)))

/-- Bytes moved, filled or compared. -/
def dmaCount (k n : Nat) (s : State) : State := modChan k (fun c => { c with bytes := c.bytes + BitVec.ofNat 64 n }) s

/-- An instruction is stopped by an error on a line: a record with the line's address, and the run ends (15 R459). -/
def dmaStop (k : Nat) (i : DmaIns) (line : Nat) (isSrc : Bool) (before : List (List Byte)) (s : State) : State :=
  let sp := if isSrc then i.ss else i.sd
  let a := (if isSrc then i.src else i.dst) + 64 * line
  let s1 := if sp = 1 then fault 55 0 (a / 64) s else s
  let r := dmaRecord k (if sp = 1 then 0x0B else 0x0A) 0 (chan s k).pc (if isSrc then a else 0) (if isSrc then 0 else a) (min (64 * line) i.len) 0 (dmaSpaces i)
  dmaDue k (before ++ [r]) true (dmaCount k (min (64 * line) i.len) s1)

/-- MOVE, MOVE_CRC and FILL over all their lines. -/
def dmaCopy (k : Nat) (i : DmaIns) (s : State) : State :=
  let bs := dmaData s k i
  let c := chan s k
  let crc := if i.opc = 2 then crc32c (if i.flags.testBit 0 then c.crc.toNat else 0xFFFFFFFF) bs else 0
  let s1 := if i.opc = 2 then modChan k (fun x => { x with crc := BitVec.ofNat 32 crc, crcOut := BitVec.ofNat 32 crc ^^^ BitVec.allOnes 32 }) s else s
  let s2 := spaceWrite k i.sd i.dst bs s1
  let s3 := if i.opc = 2 ∧ i.flags.testBit 1 = true then spaceWrite k i.sd (i.dst + i.len) (crcLine (chan s2 k).crcOut) s2 else s2
  dmaNext k (wrote k (dmaCount k i.len s3))

/-- The same, stopped by an error on a line: the lines before it are done. -/
def dmaCopyPart (k : Nat) (i : DmaIns) (line : Nat) (isSrc : Bool) (s : State) : State :=
  let bs := (dmaData s k i).take (64 * line)
  dmaStop k i line isSrc [] (wrote k (spaceWrite k i.sd i.dst bs s))

/-- COMPARE (15 R456). -/
def dmaCompare (k : Nat) (i : DmaIns) (e : Option (Nat × Bool)) (s : State) : State :=
  let n := match e with
    | some (l, _) => l
    | none => i.len / 64
  let rs := compareRecords s k i n
  if i.flags.testBit 0 then
    match e with
    | some (l, isSrc) => dmaStop k i l isSrc rs s
    | none =>
      let s1 := dmaNext k (dmaCount k i.len s)
      if rs.isEmpty then s1 else dmaDue k rs false s1
  else match rs with
    | r :: _ => dmaDue k [r] true (dmaCount k (fld r 32 8) s)
    | [] => match e with
      | some (l, isSrc) => dmaStop k i l isSrc [] s
      | none => dmaNext k (dmaCount k i.len s)

/-- A data instruction that passed its checks. -/
def dmaDataRun (k : Nat) (i : DmaIns) (err : Option Nat) (s : State) : State :=
  let e := dmaLineError i err
  if i.opc = 4 then dmaCompare k i e s
  else match e with
    | some (l, isSrc) => dmaCopyPart k i l isSrc s
    | none => dmaCopy k i s

/-! ## Control instructions (15 R455) -/

/-- END: FINISH 0 parks the channel, which has read the word after any doorbell that it remembered (15 R464); FINISH 1 ends the run with a record. -/
def dmaEndRun (k : Nat) (i : DmaIns) (s : State) : State :=
  if i.lo.testBit 8 then dmaDue k [dmaRecord k 0 1 (chan s k).pc 0 0 0 0 0] true s
  else modChan k (fun c => { c with st := .parked, doorbell := false }) s

/-- LOOP. -/
def dmaLoopRun (k : Nat) (i : DmaIns) (s : State) : State :=
  let count := bits i.lo 39 16
  let n := bits i.lo 9 8
  if count = 0 then dmaPc k i.hi s
  else
    let c := chan s k
    let v := (if at0 c.ctr n = 0 then count else at0 c.ctr n) - 1
    let s1 := modChan k (fun x => { x with ctr := x.ctr.set n v }) s
    if v = 0 then dmaNext k s1 else dmaPc k i.hi s1

/-- A channel's wait is over (15 R455): KIND 2 clears the flags it waited for. -/
def dmaWaitMet (k : Nat) (w : DmaWait) (s : State) : Option State :=
  match w with
  | .tricks n => if n ≤ now s then some s else none
  | .hand => none
  | .flags m => if (chan s k).flags &&& m = m then some (modChan k (fun c => { c with flags := c.flags &&& ~~~m }) s) else none
  | .writes => if drained s k then some s else none

/-- WAIT: a condition that holds already does not hold the channel. -/
def dmaWaitRun (k : Nat) (i : DmaIns) (s : State) : State :=
  let arg := bits i.lo 63 32
  let w := match i.flags with
    | 0 => DmaWait.tricks (now s + arg)
    | 1 => .hand
    | 2 => .flags (BitVec.ofNat 32 arg)
    | _ => .writes
  match dmaWaitMet k w s with
  | some t => dmaNext k t
  | none => modChan k (fun c => { c with st := .waiting, wait := some w }) s

/-- SIGNAL: POST sets flags of the target channel, RECORD writes a record. -/
def dmaSignalRun (k : Nat) (i : DmaIns) (s : State) : State :=
  let s1 := if i.lo.testBit 9 then modChan (bits i.lo 20 16) (fun c => { c with flags := c.flags ||| BitVec.ofNat 32 i.hi }) s else s
  let r := dmaRecord k 0 0 (chan s k).pc 0 0 0 (bits i.lo 63 32) 0
  let s2 := dmaNext k s1
  if i.lo.testBit 8 then dmaDue k [r] false s2 else s2

/-- An instruction that passed check 3. -/
def dmaDo (k : Nat) (i : DmaIns) (err : Option Nat) (s : State) : State :=
  match i.opc with
  | 0 => dmaEndRun k i s
  | 8 => dmaLoopRun k i s
  | 9 => dmaWaitRun k i s
  | 10 => dmaSignalRun k i s
  | 11 => dmaPc k (bits i.lo 63 8) s
  | _ => match dmaDataCheck s i with
    | some st => dmaFail k st (some i) s
    | none => dmaDataRun k i err s

/-- A channel serves its next instruction: it is RUNNING, its engine at Run, and no record is due. -/
def dmaReady (s : State) (k : Nat) : Bool :=
  decide (k < 32) && decide ((chan s k).st = .running) && (chan s k).due.isEmpty && atRun s 111

/-- The row of an opcode: the instruction at DMA_PC is fetched, and runs if it is the row's. A fetch that fails and an unknown opcode end the run whatever the row (15 Table 15.6). -/
def dmaRow (k opc : Nat) (err : Option Nat) (s : State) : State :=
  if dmaReady s k = false then s
  else match dmaFetch s k err with
    | .inl st => dmaFail k st none (if st = 0x0B then fault 55 0 ((chan s k).pc / 64) s else s)
    | .inr i =>
      if dmaOpcodes.contains i.opc = false then dmaFail k 0x06 (some i) s
      else if i.opc ≠ opc then s
      else if dmaBad i then dmaFail k 0x06 (some i) s
      else dmaDo k i err s

/-! ## Channel registers (15 R462 to R466) -/

/-- A write by host software to a register of a channel: those of firmware's channels 28 to 31 refuse it (15 R466). -/
def asChanHost (k off : Nat) (f : State → State) (s : State) : State :=
  if 32 ≤ k ∨ reaches s .host = false then s
  else if 28 ≤ k then regError (chanReg k off) s
  else f s

/-- CQ names a ring enabled with TYPE CQ. -/
def cqNames (s : State) (r : Nat) : Bool := decide ((ring s r).typ = .cq) && decide ((ring s r).st = .run)

/-- START (15 Table 15.8); before FW_RUNNING it is refused (18 R522). -/
def dmaStart (k : Nat) (s : State) : State :=
  if s.boot.fwRunning = false then regError (chanReg k 0x10) s
  else if (chan s k).st ≠ .stopped then s
  else if cqNames s (chan s k).cq = false then modChan k (fun c => { c with cqBad := true }) s
  else modChan k (fun c => { c with
    st := .running
    ctr := [0, 0, 0, 0]
    crc := BitVec.allOnes 32
    bytes := 0
    abortResult := 0
    wait := none
    due := []
    dueEnds := false }) s

/-- ABORT (15 Table 15.8): no further reads or writes, and an ABORTED record that carries the instruction in hand. -/
def dmaAbort (k : Nat) (s : State) : State :=
  let c := chan s k
  if c.st = .stopped then modChan k (fun x => { x with abortResult := 5 }) s
  else dmaDue k [dmaRecord k 0x04 0 c.pc 0 0 0 0 0] true (modChan k (fun x => { x with st := .running, wait := none, due := [], abortResult := 4 }) s)

/-- A doorbell: a PARKED channel reads its END again and runs when the word is no longer the END that parked it; otherwise the doorbell is remembered (15 R464). -/
def dmaDoorbell (k : Nat) (s : State) : State :=
  if (chan s k).st ≠ .parked then modChan k (fun c => { c with doorbell := true }) s
  else match dmaFetch s k none with
    | .inr i => if i.opc = 0 ∧ i.lo.testBit 8 = false then s else modChan k (fun c => { c with st := .running }) s
    | .inl _ => modChan k (fun c => { c with st := .running }) s

/-- DMA_START: host software has stored a program, and writes START. -/
def execDmaStart (k : Nat) (host : List (Nat × Byte)) (s : State) : Host.Outcome State Fault Refusal :=
  .next (asChanHost k 0x10 (dmaStart k) (hostStores host s))

/-- DMA_ABORT. -/
def execDmaAbort (k : Nat) (s : State) : Host.Outcome State Fault Refusal := .next (asChanHost k 0x10 (dmaAbort k) s)

/-- DMA_DOORBELL: host software has stored bytes, and writes DOORBELL. -/
def execDmaDoorbell (k : Nat) (host : List (Nat × Byte)) (s : State) : Host.Outcome State Fault Refusal :=
  .next (asChanHost k 0x10 (dmaDoorbell k) (hostStores host s))

/-- DMA_END. -/
def execDmaEnd (k : Nat) (err : Option Nat) (s : State) : Host.Outcome State Fault Refusal := .next (dmaRow k 0 err s)

/-- DMA_MOVE. -/
def execDmaMove (k : Nat) (err : Option Nat) (s : State) : Host.Outcome State Fault Refusal := .next (dmaRow k 1 err s)

/-- DMA_MOVE_CRC. -/
def execDmaMoveCrc (k : Nat) (err : Option Nat) (s : State) : Host.Outcome State Fault Refusal := .next (dmaRow k 2 err s)

/-- DMA_FILL. -/
def execDmaFill (k : Nat) (err : Option Nat) (s : State) : Host.Outcome State Fault Refusal := .next (dmaRow k 3 err s)

/-- DMA_COMPARE. -/
def execDmaCompare (k : Nat) (err : Option Nat) (s : State) : Host.Outcome State Fault Refusal := .next (dmaRow k 4 err s)

/-- DMA_LOOP. -/
def execDmaLoop (k : Nat) (err : Option Nat) (s : State) : Host.Outcome State Fault Refusal := .next (dmaRow k 8 err s)

/-- DMA_WAIT. -/
def execDmaWait (k : Nat) (err : Option Nat) (s : State) : Host.Outcome State Fault Refusal := .next (dmaRow k 9 err s)

/-- DMA_WAIT_END: the condition of a WAITING channel is met. -/
def execDmaWaitEnd (k : Nat) (s : State) : Host.Outcome State Fault Refusal :=
  .next (
    let c := chan s k
    match c.wait with
    | some w =>
      if c.st ≠ .waiting ∨ atRun s 111 = false then s
      else match dmaWaitMet k w s with
        | some t => dmaNext k (modChan k (fun x => { x with st := .running, wait := none }) t)
        | none => s
    | none => s)

/-- DMA_SIGNAL. -/
def execDmaSignal (k : Nat) (err : Option Nat) (s : State) : Host.Outcome State Fault Refusal := .next (dmaRow k 10 err s)

/-- DMA_JUMP. -/
def execDmaJump (k : Nat) (err : Option Nat) (s : State) : Host.Outcome State Fault Refusal := .next (dmaRow k 11 err s)

/-- DMA_STALL_END: records that are due go on into the CQ, now that the writes are drained or the hold has room, and after them the completions of SQs that waited behind. -/
def execDmaStallEnd (k : Nat) (s : State) : Host.Outcome State Fault Refusal :=
  .next (if (chan s k).due.isEmpty then s else cqWake (chan s k).cq (dmaFlush k (chan s k).due.length s))

/-- State number of DMA_STAT. -/
def dmaStNo (x : DmaState) : Nat :=
  match x with
  | .stopped => 0
  | .running => 1
  | .waiting => 2
  | .parked => 3
  | .stalled => 4

/-- DMA_STAT as it reads. -/
def dmaStat (c : Chan) : Nat := dmaStNo c.st * 2 ^ 28 + c.abortResult * 2 ^ 24 + c.lastStatus * 2 ^ 16 + b2n c.cqBad

end Sys2Proof.Machine
end

