-- ==== Sys2Proof/Machine/Pause.lean ====
section
/-! DEFINITION. The rows of pause: received PFC and Annex 31B frames (09 R276; 04 R110), their timers, the refresh of a standing request (09 R272, R274), and the end of a port's hold (08 R243). -/

namespace Sys2Proof.Machine

/-- A received MAC control frame of 64 bytes, which is never forwarded. -/
def macRx (p : Nat) (s : State) : State := evAdd 0x0102 p 0 64 (ev 0x0101 p s)

/-- A pause of priority i is received, 8 being Annex 31B: in storm state it is ignored and keeps the storm going, else it loads the timer. -/
def loadPause (p i time : Nat) (s : State) : State :=
  modPort p (fun x =>
    if pauseIgnored x i then { x with stormQuiet := x.stormQuiet.set i 0 }
    else { x with timers := x.timers.set i time, pausedRun := if time = 0 then x.pausedRun.set i 0 else x.pausedRun }) s

/-- A PFC bit acts: its priority is honoured, and neither it nor the whole port is in storm state (04 R110). -/
def pfcActs (x : Port) (i : Nat) : Bool := x.pfcRx.toNat.testBit i && !pauseIgnored x i

/-- A PFC frame acts on a port that is UP (09 R276). -/
def pfcIn (p : Nat) (x : Port) (vec : Nat) (times : List Nat) (s : State) : State :=
  let set := (List.range 16).filter (fun i => vec.testBit i)
  let part := set.isEmpty || set.any (fun i => decide (8 ≤ i) || !pfcActs x i)
  let s2 := if part then ev 0x0113 p s else s
  forAll (set.filter (fun i => decide (i < 8))) (fun i acc =>
    if x.pfcRx.toNat.testBit i then
      let a := loadPause p i (at0 times i) acc
      if pfcActs x i then evAdd 0x0118 p i 1 a else a
    else acc) s2

/-- An Annex 31B frame acts on a port that is UP (09 R276). -/
def pauseIn (p : Nat) (x : Port) (time : Nat) (s : State) : State :=
  if x.pauseRx = false then ev 0x0113 p s
  else loadPause p 8 time (if x.storm31 then ev 0x0113 p s else ev 0x0112 p s)

/-- PFC_RECEIVE. -/
def execPfcReceive (p : Nat) (vec : BitVec 16) (times : List Nat) (s : State) : Host.Outcome State Fault Refusal :=
  .next (
    match port s p with
    | some x => if x.link ≠ .up then s else pfcIn p x vec.toNat times (macRx p s)
    | none => s)

/-- PAUSE_RECEIVE. -/
def execPauseReceive (p time : Nat) (s : State) : Host.Outcome State Fault Refusal :=
  .next (
    match port s p with
    | some x => if x.link ≠ .up then s else pauseIn p x time (macRx p s)
    | none => s)

/-- PAUSE_TIMER_EXPIRY; pri 8 is Annex 31B. The pause was not renewed in time. -/
def execPauseTimerExpiry (p i : Nat) (s : State) : Host.Outcome State Fault Refusal :=
  .next (
    match port s p with
    | some x => if i ≤ 8 ∧ 0 < at0 x.timers i then modPort p (fun y => { y with timers := y.timers.set i 0, pausedRun := y.pausedRun.set i 0 }) s else s
    | none => s)

/-- PFC_REFRESH; pri 8 is Annex 31B. -/
def execPfcRefresh (p i : Nat) (s : State) : Host.Outcome State Fault Refusal :=
  .next (
    match port s p with
    | some x =>
      if x.link ≠ .up ∨ 8 < i ∨ x.advert.toNat.testBit i = false then s
      else if i = 8 then pushMacCtl p { annex31 := true, vec := 0, quanta := [x.pauseQuanta] } s
      else pushMacCtl p { annex31 := false, vec := 1#8 <<< i, quanta := (List.range 8).map (fun k => if k = i then x.pfcQuanta else 0) } s
    | none => s)

/-- QUEUE_HOLD_EXPIRY: HOLD tricks of the trick count have passed since the boundary that started the hold. -/
def execQueueHoldExpiry (p : Nat) (s : State) : Host.Outcome State Fault Refusal :=
  .next (
    match port s p with
    | some x =>
      match x.hold with
      | some t => if t ≤ now s ∧ x.link ≠ .up then holdFlush p s else s
      | none => s
    | none => s)

end Sys2Proof.Machine
end

