-- ==== Sys2Proof/Machine/FrameRx.lean ====
section
/-! DEFINITION. FRAME_RECEIVE: stations 1 and 2 (01 R24, R32; 04 R97), MAC control frames (09 R276) and frames on stack links (12 R367, R370, R371). -/

namespace Sys2Proof.Machine

/-- Bytes of a port that wait in staging. -/
def stagedBytes (x : Port) : Nat := (x.staged.map (fun f => f.data.length)).sum

/-- A frame enters the port's share of staging, or is discarded whole while the share is full (01 R32). The share is judged as the frame's first byte arrives: a frame that found room then is kept whole, though its later bytes pass the share (DESIGN CHOICE, log entry 96). -/
def stage (p : Nat) (x : Port) (f : Staged) (s : State) : State :=
  if 4096 * x.width ≤ stagedBytes x then ev 0x0107 p s
  else modPort p (fun y => { y with staged := y.staged ++ [f] }) s

/-- A whole MAC control frame is consumed: PFC, Annex 31B, or an opcode that no port enables (09 R276). -/
def macControlIn (p : Nat) (x : Port) (bs : List Byte) (s : State) : State :=
  match bfld bs 14 2 with
  | 0x0101 => pfcIn p x (bfld bs 16 2) ((List.range 8).map (fun i => bfld bs (18 + 2 * i) 2)) s
  | 0x0001 => pauseIn p x (bfld bs 16 2) s
  | _ => ev 0x0113 p s

/-- A whole frame without header, FCS included, has arrived with timestamp ts. -/
def wholeFrame (p : Nat) (x : Port) (hdr : Option (List Byte)) (data : List Byte) (fcsOk : Bool) (ts : Nat) (s : State) : State :=
  let len := data.length
  let big := decide (x.maxFrame < len)
  if fcsOk = false ∨ big = true then rxCount p len fcsOk big s
  else if len < 64 then s
  else if bfld data 12 2 = 0x8808 then macControlIn p x data (rxCount p len true false s)
  else
    let t := stage p x { data := data, len := len, whole := true, ts := ts, hdr := hdr } s
    if 4096 * x.width ≤ stagedBytes x then t else rxCount p len true false t

/-- The first bytes of a frame that is judged only when its last byte has come. -/
def hold (p : Nat) (data : List Byte) (ts : Nat) (s : State) : State := modPort p (fun y => { y with early := some (data, ts) }) s

/-- The first bytes of a frame of len bytes have arrived; the rest comes with FRAME_LAST_BYTE. -/
def partFrame (p : Nat) (x : Port) (hdr : Option (List Byte)) (data : List Byte) (len ts : Nat) (s : State) : State :=
  stage p x { data := data, len := len, whole := false, ts := ts, hdr := hdr } s

/-- The own path begins with DST, which therefore names a group of this chip (12 R370). -/
def ownGroup (s : State) (h : List Byte) : Bool :=
  decide ((hdrDst h).2 < s.stack.levels) && decide (pathPrefix s.stack.own (hdrDst h).2 = (hdrDst h).1)

/-- A DATA frame that a stack link accepts (12 R370, R371). -/
def dataTaken (s : State) (x : Port) (h : List Byte) : Bool :=
  hdrGood h && decide (hdrType h = 0) && decide (x.stk.st = .live) && !ownGroup s h

/-- A whole frame on a stack link: the FCS is over header and body; then the header decides, and leaves the frame (12 R367, R370, R371). -/
def stackWhole (p : Nat) (x : Port) (data : List Byte) (fcsOk : Bool) (ts : Nat) (s : State) : State :=
  let h := slice data 0 16
  let body := data.drop 16
  let frame := data.take (data.length - 4)
  let t := rxCount p body.length true false s
  if fcsOk = false ∨ x.maxFrame < body.length ∨ body.length < 64 ∨ dataTaken s x h = true then
    wholeFrame p x (if dataTaken s x h then some h else none) body fcsOk ts s
  else if hdrGood h = false then ev 0x0523 0 t
  else match hdrType h with
    | 1 => heartbeatFrame p frame ts t
    | 2 => controlFrame p frame ts t
    | _ => if x.stk.st ≠ .live then ev 0x0122 p t else ev 0x0520 0 t

/-- The bytes of a frame of len bytes arrive on a port, all of them or the first. -/
def frameIn (p : Nat) (x : Port) (data : List Byte) (len : Nat) (last fcsOk : Bool) (ts : Nat) (s : State) : State :=
  if x.stk.enable then
    let h := slice data 0 16
    let dly := if s.flt.tpOn.enable then tabGetD s.flt.tpOn.rxDelay p 0 else 0
    let at_ := ts + 16 * dly
    if last then stackWhole p x data fcsOk at_ s
    else if 30 ≤ data.length ∧ dataTaken s x h = true ∧ bfld data 28 2 ≠ 0x8808 then partFrame p x (some h) (data.drop 16) (len - 16) at_ s
    else hold p data at_ s
  else if last then wholeFrame p x none data fcsOk ts s
  else if 14 ≤ data.length ∧ bfld data 12 2 ≠ 0x8808 then partFrame p x none data len ts s
  else hold p data ts s

/-- FRAME_RECEIVE. `data` holds the bytes that have arrived, with the FCS when `last`; one frame at a time arrives on a port. -/
def execFrameReceive (p len : Nat) (data : List Byte) (last fcsOk : Bool) (at_ : Crossing) (s : State) : Host.Outcome State Fault Refusal :=
  .next (
    match port s p with
    | none => s
    | some x =>
      if x.link ≠ .up ∨ x.arriving.isSome = true ∨ x.early.isSome = true ∨ x.staged.any (fun f => !f.whole) = true
        ∨ (last = false ∧ len ≤ data.length) then s
      else frameIn p x data len last fcsOk (ingressTs s p x at_.ln at_.ph) s)

/-- FRAME_LAST_BYTE: a frame in which the FEC could not correct a codeword is bad (04 R102). -/
def execFrameLastByte (p : Nat) (rest : List Byte) (fcsOk : Bool) (s : State) : Host.Outcome State Fault Refusal :=
  .next (
    match port s p with
    | none => s
    | some x =>
      let ok := fcsOk && !x.rxBad
      let t := modPort p (fun y => { y with rxBad := false, early := none }) s
      match x.early with
      | none => frameLastByte p rest ok t
      | some (data, ts) =>
        if x.stk.enable then stackWhole p x (data ++ rest) ok ts t else wholeFrame p x none (data ++ rest) ok ts t)

end Sys2Proof.Machine
end

