-- ==== Sys2Proof/Machine/Mailbox.lean ====
section
/-! DEFINITION. The mailbox rows: writes of the message area, doorbells, aborts and completion (13 Table 13.7, R396 to R405). -/

namespace Sys2Proof.Machine

/-- BAR0 offset of a byte of a mailbox (13 R396). -/
def mbAddr (m off : Nat) : Nat := 0x10000 + 0x400 * m + off

/-- The owner writes bytes of the message area, off counting from the start of the mailbox. -/
def mbStore (m off : Nat) (data : List Byte) (s : State) : State :=
  let bs := data.take (0x400 - off)
  let x := mbox s m
  if off < 0x40 ∨ bs.isEmpty then s
  else match x.st with
    | .pending => modMbox m (fun y => { y with writeBusy := true }) s
    | .done => modMbox m (fun y => { y with area := memWriteL [] (off - 0x40) bs, written := true, st := .idle, age := 0 }) s
    | .idle => modMbox m (fun y => { y with area := memWriteL y.area (off - 0x40) bs, written := true }) s

/-- The owner rings the doorbell. -/
def mbRing (m : Nat) (s : State) : State :=
  let x := mbox s m
  if x.st = .pending then modMbox m (fun y => { y with doorbellBusy := true }) s
  else if x.written = false then modMbox m (fun y => { y with staleDoorbell := true }) s
  else
    let s1 := acceptMb m s
    -- before FW_RUNNING hardware writes the response at once (18 R522)
    match (mbox s1 m).cmd with
    | some c => if s1.boot.fwRunning = false ∧ c.wait = .answered then completeNow m s1 else s1
    | none => s1

/-- A command has not reached its commit point (13 R403, R405). -/
def beforeCommit (w : Wait) : Bool :=
  match w with
  | .exec | .outside | .echo _ => true
  | _ => false

/-- The owner asks for an abort (13 R405). -/
def mbStop (m : Nat) (s : State) : State :=
  let x := mbox s m
  match x.st, x.cmd with
  | .idle, _ => s
  | .done, _ => modMbox m (fun y => { y with abortResult := 6 }) s
  | .pending, none => s
  | .pending, some c =>
    if beforeCommit c.wait then
      let s1 := match c.wait with
        | .echo l => echoEnd l s
        | _ => s
      completeNow m (answer m stAborted 0 [] (modMbox m (fun y => { y with abortResult := 5 }) s1))
    else modMbox m (fun y => { y with abortResult := 6 }) s

/-- A write to a mailbox by someone other than its owner is discarded and counted (13 R396). -/
def asOwner (who : Who) (m off : Nat) (s : State) (f : State → State) : State :=
  if reaches s who = false then s else if mbOwner m = who then f s else regError (mbAddr m off) s

/-- MB_MESSAGE_WRITE. A host access is 32 or 64 bits wide and aligned (00 R21); I3C and firmware write any bytes. -/
def execMbMessageWrite (who : Who) (m off : Nat) (data : List Byte) (s : State) : Host.Outcome State Fault Refusal :=
  .next (
    if 32 ≤ m ∨ reaches s who = false then s
    else if who = .host ∧ ((data.length ≠ 4 ∧ data.length ≠ 8) ∨ off % data.length ≠ 0) then regError (mbAddr m off) s
    else asOwner who m off s (mbStore m off data))

/-- MB_DOORBELL. -/
def execMbDoorbell (who : Who) (m : Nat) (s : State) : Host.Outcome State Fault Refusal :=
  .next (if 32 ≤ m then s else asOwner who m 0 s (mbRing m))

/-- MB_ABORT. -/
def execMbAbort (who : Who) (m : Nat) (s : State) : Host.Outcome State Fault Refusal :=
  .next (if 32 ≤ m then s else asOwner who m 16 s (mbStop m))

/-- COMMAND_COMPLETE: the response that stands ready is written, not before a delay of 17 R518 is over. -/
def execCommandComplete (m : Nat) (s : State) : Host.Outcome State Fault Refusal :=
  .next (
    match (mbox s m).cmd with
    | some c => if (mbox s m).st = .pending ∧ c.wait = .answered ∧ c.notBefore ≤ now s then completeNow m s else s
    | none => s)

end Sys2Proof.Machine
end

