-- ==== Sys2Proof/Machine/RegMap.lean ====
section
/-! DEFINITION. The register map of BAR0: which register holds an offset, who may reach it (14 Table 14.2), and what a register reads as (02, 10, 13 to 17). -/

namespace Sys2Proof.Machine

/-- A register of the blocks of Tables 13.3, 14.8, 15.9, 10.17 by its offset in the block: its base and size in bytes. -/
def blockSpan (eights fours : List Nat) (o : Nat) : Option (Nat × Nat) :=
  if eights.contains (o / 8 * 8) then some (o / 8 * 8, 8)
  else if fours.contains (o / 4 * 4) then some (o / 4 * 4, 4)
  else none

/-- The same, moved to where the block lies. -/
def spanAt (base : Nat) (x : Option (Nat × Nat)) : Option (Nat × Nat) := x.map (fun e => (base + e.1, e.2))

/-- Identity, global and interrupt registers (14 Table 14.3). -/
def identSpan (a : Nat) : Option (Nat × Nat) :=
  if 0x100 ≤ a ∧ a < 0x300 then some (a / 4 * 4, 4)
  else if 0x400 ≤ a ∧ a < 0x600 then some (a / 4 * 4, 4)
  else if 0x8000 ≤ a ∧ a < 0x8800 then some (a / 4 * 4, 4)
  else blockSpan [0x8, 0x10, 0x20, 0x600, 0x608, 0x9000, 0x9008] [0, 4, 0x18, 0x28, 0x30] a

/-- Time registers (10). -/
def timeSpan (o : Nat) : Option (Nat × Nat) :=
  if 0x200 ≤ o ∧ o < 0x440 then
    let b := 0x200 + (o - 0x200) / 0x40 * 0x40
    spanAt b (blockSpan [0x8, 0x10, 0x20] [0, 0x18, 0x28, 0x30] (o - b))
  else blockSpan [0, 8, 0x18, 0x20, 0x28, 0x100, 0x108] [0x10, 0x14, 0x110, 0x114] o

/-- Registers of the fault block (17). -/
def fltSpan (o : Nat) : Option (Nat × Nat) := blockSpan [0x20, 0x28, 0x30, 0x38, 0x40, 0x48, 0x50, 0x58] [0, 4, 0x60] o

/-- Registers of the MAC engine (13 Table 13.22). -/
def ciphSpan (o : Nat) : Option (Nat × Nat) :=
  blockSpan [0x10, 0x20, 0x40, 0x48, 0x60, 0x68, 0x70, 0x78] [0, 8, 0x18, 0x28, 0x30, 0x80, 0x88, 0x90] o

/-- Registers of a channel (15 Table 15.9). -/
def chanSpan (o : Nat) : Option (Nat × Nat) := blockSpan [0, 0x10, 0x20, 0x38, 0x40, 0x50] [8, 0x18, 0x28, 0x30, 0x48, 0x58] o

/-- Registers of a ring (14 Table 14.8). -/
def ringSpan (o : Nat) : Option (Nat × Nat) := blockSpan [0, 0x28, 0x38] [8, 0x10, 0x18, 0x20, 0x30, 0x40, 0x48, 0x50, 0x58] o

/-- Perturbation registers (17 Table 17.11). -/
def perturbSpan (o : Nat) : Option (Nat × Nat) :=
  if (0x10000 ≤ o ∧ o < 0x11000) ∨ (0x20000 ≤ o ∧ o < 0x21000) ∨ (0x30000 ≤ o ∧ o < 0x30500) then some (o / 8 * 8, 8)
  else blockSpan [0x10, 0x18] [0, 8] o

/-- The register that holds a BAR0 offset, with its size in bytes; none where Table 14.2 assigns nothing (14 R427). -/
def regSpan (a : Nat) : Option (Nat × Nat) :=
  if a < 0x10000 then identSpan a
  else if a < 0x18000 then some (a / 8 * 8, 8)
  else if a < 0x20000 then none
  else if a < 0x30000 then spanAt 0x20000 (timeSpan (a - 0x20000))
  else if a < 0x40000 then spanAt 0x30000 (blockSpan [0, 8] [0x10, 0x14, 0x18, 0x1C, 0x20] (a - 0x30000))
  else if a < 0x50000 then spanAt 0x40000 (fltSpan (a - 0x40000))
  else if a < 0x60000 then spanAt 0x50000 (blockSpan [0x10] [0, 4, 8, 0x18, 0x1C] (a - 0x50000))
  else if a < 0x70000 then spanAt 0x60000 (ciphSpan (a - 0x60000))
  else if a < 0x80000 then none
  else if a < 0x82000 then
    let b := a / 0x100 * 0x100
    spanAt b (chanSpan (a - b))
  else if a < 0x100000 then none
  else if a < 0x140000 then
    let b := a / 0x1000 * 0x1000
    spanAt b (ringSpan (a - b))
  else if a < 0x400000 then none
  else if a < 0x400028 then blockSpan [] [0x400000, 0x400008, 0x400010, 0x400018, 0x400020] a
  else if a < 0x800000 then none
  else if a < 0xD00000 then some (a / 8 * 8, 8)
  else if a < 0x1000000 then none
  else if a < 0x4000000 then spanAt 0x1000000 (perturbSpan (a - 0x1000000))
  else none

/-- The BMC reaches the offset (14 Table 14.2): of the first region only the identity registers, of the mailboxes its own. -/
def bmcReach (a : Nat) : Bool :=
  if a < 0x10000 then decide (a < 0x18)
  else if a < 0x20000 then decide (0x14000 ≤ a ∧ a < 0x16000)
  else if a < 0x80000 then true
  else decide (0x400000 ≤ a ∧ a < 0xD00000)

/-- The offset can be reached by a requester. -/
def regReach (who : Who) (a : Nat) : Bool :=
  match who with
  | .bmc => bmcReach a
  | _ => true

/-! ## What registers read as -/

/-- IRQ_MAP of a source. -/
def irqMapReg (s : State) (n : Nat) : Nat :=
  match tabGet s.irq.map n with
  | some (en, v) => b2n en * 2 ^ 31 + v % 128
  | none => 0

/-- A word of the MSI-X table. -/
def msixReg (s : State) (o : Nat) : Nat :=
  let x := vec s (o / 16)
  match o % 16 / 4 with
  | 0 => x.addr.toNat % 2 ^ 32
  | 1 => x.addr.toNat / 2 ^ 32
  | 2 => x.data.toNat
  | _ => b2n x.masked

/-- The pending bits of 64 vectors from n. -/
def pbaReg (s : State) (n : Nat) : Nat := ((List.range 64).map (fun i => if (vec s (n + i)).pba then 2 ^ i else 0)).sum

/-- Registers of the first region. -/
def identReg (s : State) (a : Nat) : Nat :=
  if 0x100 ≤ a ∧ a < 0x300 then irqMapReg s ((a - 0x100) / 4)
  else if 0x400 ≤ a ∧ a < 0x600 then
    let x := vec s ((a - 0x400) / 4)
    (x.count % 65536) * 65536 + x.tricks % 65536
  else if 0x8000 ≤ a ∧ a < 0x8800 then msixReg s (a - 0x8000)
  else match a with
    | 0 => devId s
    | 4 => devRev s
    | 8 => fwVersion s
    | 0x10 => ucVersion s
    | 0x18 => b2n s.link.cxl * 4 + b2n s.boot.fwRunning * 2 + b2n s.boot.ready
    | 0x20 => (s.link.aptBase * 2 ^ 30) % 2 ^ 64
    | 0x28 => b2n s.link.evtValid * 256 + s.link.evtRing % 64
    | 0x30 => s.link.aptErr.toNat
    | 0x600 => s.irq.cause.toNat % 2 ^ 64
    | 0x608 => s.irq.cause.toNat / 2 ^ 64
    | 0x9000 => pbaReg s 0
    | 0x9008 => pbaReg s 64
    | _ => 0

/-- State number of MB_STAT. -/
def mbStNo (x : MbState) : Nat :=
  match x with
  | .idle => 0
  | .pending => 1
  | .done => 2

/-- Registers and message area of a mailbox (13 Table 13.3). -/
def mbReg (x : Mailbox) (o : Nat) : Nat :=
  if 0x40 ≤ o then leVal (memReadN x.area (o - 0x40) 8)
  else match o with
    | 8 => x.seq.toNat * 2 ^ 32 + mbStNo x.st * 2 ^ 28 + x.abortResult * 2 ^ 24 + b2n x.writeBusy * 2 ^ 23 + b2n x.doorbellBusy * 2 ^ 22
        + b2n x.staleDoorbell * 2 ^ 21 + b2n x.written * 2 ^ 20 + (if x.st = .idle then 0 else x.age % 65536)
    | 0x18 => b2n x.irqDone
    | _ => 0

/-- Registers of a pin block but for its captures (10 Tables 10.16, 10.17). -/
def pinReg (x : Pin) (o : Nat) : Nat :=
  match o with
  | 0 => b2n x.armed * 2 ^ 31 + b2n x.missed * 2 ^ 30 + (x.sub % 16) * 256 + (x.edge % 4) * 16 + b2n x.polarity * 8 + (x.modeNext.getD x.mode) % 8
  | 8 => x.start.toNat
  | 0x10 => pinPeriod x
  | 0x18 => x.width.toNat
  | 0x30 => x.fifo.length % 32
  | _ => 0

/-- Registers of the time unit that a read leaves unchanged. -/
def timeReg (s : State) (o : Nat) : Nat :=
  if 0x200 ≤ o then pinReg (pin s ((o - 0x200) / 0x40)) ((o - 0x200) % 0x40)
  else match o with
    | 0x10 => timeStat s
    | 0x14 => b2n s.time.irqSwitch * 16 + b2n s.time.irqHoldover * 8 + b2n s.time.irqSplit * 4 + b2n s.time.irqTpio * 2 + b2n s.time.irqTsq
    | 0x18 => uInt 64 (s.time.d / 2 ^ 24)
    | 0x110 => s.time.tsq.length % 8192
    | 0x114 => s.time.tsqDrop.toNat
    | _ => 0

/-- State number of TRICK_STAT. -/
def genNo (g : GenState) : Nat :=
  match g with
  | .free => 0
  | .locked => 1
  | .slewing => 2

/-- TRICK_STAT (02 Table 2.5). -/
def trickStat (s : State) : Nat :=
  let t := s.trick
  genNo t.gen * 2 ^ 30 + b2n t.sprint * 2 ^ 29 + b2n t.fixedActive * 2 ^ 28 + b2n s.time.holdover * 2 ^ 27 + b2n t.overrun * 128
    + b2n t.clamped * 64 + b2n t.stepBack * 32 + b2n t.stepped * 16

/-- Registers of the trick generator (02). -/
def trickReg (s : State) (o : Nat) : Nat :=
  let t := s.trick
  match o with
  | 0 => t.index.toNat
  | 8 => t.count.toNat
  | 0x10 => trickStat s
  | 0x14 => b2n t.irqStep * 8 + b2n t.irqRubber * 4 + b2n t.irqHand * 2 + b2n t.fixedFreq
  | 0x18 => if t.gen = .free then 0 else uInt 32 t.phase
  | 0x1C => (t.lenMax % 4096) * 65536 + t.lenLast % 4096
  | 0x20 => t.overrunCnt.toNat
  | _ => 0

/-- Summary bits of 64 sources from n: any instance for which f holds. -/
def fltBits (s : State) (n : Nat) (f : FltInst → Bool) : Nat :=
  ((List.range 64).map (fun b => if s.flt.inst.any (fun e => decide (e.1 / 1024 = n + b) && f e.2) then 2 ^ b else 0)).sum

/-- Registers of the fault block (17 Tables 17.4 to 17.8). -/
def fltReg (s : State) (o : Nat) : Nat :=
  let f := s.flt
  if 0x20 ≤ o ∧ o < 0x40 then fltBits s ((o - 0x20) * 8) (fun i => i.sticky)
  else if 0x40 ≤ o ∧ o < 0x60 then fltBits s ((o - 0x40) * 8) (fun i => i.severe)
  else match o with
    | 0 => b2n (faultPin s) * 2 ^ 31 + b2n f.pulsing * 2 ^ 30 + b2n f.unlocked * 2 ^ 29 + min (severeCount s) 0xFFFF
    | 4 => b2n f.irqFirst * 4 + b2n f.irqSevere * 2 + b2n f.assertPin
    | 0x60 => f.pulseCnt.toNat
    | _ => 0

/-- Registers of the power manager (16 Tables 16.8 to 16.13). -/
def pwrReg (s : State) (o : Nat) : Nat :=
  let p := s.power
  match o with
  | 0 => pwrStat s
  | 4 => b2n p.irqAge * 16 + b2n p.irqTherm * 8 + b2n p.irqEmergency * 4 + b2n p.irqLimiter * 2 + b2n p.irqCap
  | 8 => (p.iin % 65536) * 65536 + p.vin % 65536
  | 0x10 => p.energy.toNat
  | 0x18 => p.rubberMean % 2 ^ 32
  | 0x1C => pwrTemp s
  | _ => 0

/-- Registers of the MAC engine as a requester reads them (13 Table 13.22, R421). -/
def ciphReg (who : Who) (s : State) (o : Nat) : Nat :=
  let c := s.ciph
  let tag := if c.owner = ownerCode who ∧ c.done = true then c.tag.toNat else 0
  match o with
  | 0 => c.owner * 2 ^ 30 + b2n c.waiting * 8 + b2n (match who with
      | .host => c.brokenHost
      | .bmc => c.brokenBmc
      | .fw => false) * 4
  | 8 => c.slot * 16 + b2n c.gmac
  | 0x10 => c.src.toNat
  | 0x18 => c.len.toNat
  | 0x20 => c.ivLo.toNat
  | 0x28 => c.ivHi.toNat
  | 0x30 => c.error * 16 + b2n c.done * 2 + b2n c.busy
  | 0x40 => tag % 2 ^ 64
  | 0x48 => tag / 2 ^ 64
  | 0x88 => ciphSlotStat s
  | 0x90 => c.lease
  | _ => 0

/-- Registers of a channel (15 Table 15.9). -/
def chanReadReg (c : Chan) (o : Nat) : Nat :=
  match o with
  | 0 => c.pc
  | 8 => c.cq * 65536 + b2n c.irq * 2 + b2n c.devmem
  | 0x18 => dmaStat c
  | 0x20 => c.hostBase
  | 0x28 => c.flags.toNat
  | 0x30 => c.flags.toNat
  | 0x38 => at0 c.ctr 1 * 2 ^ 32 + at0 c.ctr 0
  | 0x40 => at0 c.ctr 3 * 2 ^ 32 + at0 c.ctr 2
  | 0x48 => c.crcOut.toNat
  | 0x50 => c.bytes.toNat
  | 0x58 => c.stalls.toNat
  | _ => 0

/-- Registers of a ring (14 Table 14.8). -/
def ringReadReg (x : Ring) (o : Nat) : Nat :=
  match o with
  | 0 => x.base.toNat
  | 8 => ringCfg x
  | 0x18 => ringDevIdx x
  | 0x20 => if x.typ = .cq ∨ x.typ = .rx then x.c else 0
  | 0x28 => x.wb.toNat
  | 0x30 => ringStat x
  | 0x38 => x.entries.toNat
  | 0x40 => x.errors.toNat
  | 0x48 => x.stalls.toNat
  | 0x50 => x.drops.toNat
  | 0x58 => x.idxErr.toNat
  | _ => 0

/-- A table window. -/
def win (s : State) (w : Nat) : Window := tabGetD s.wins w {}

/-- Cluster that window w reads. -/
def winCluster (w : Nat) : Nat := if w = 4 then 0 else w

/-- The cluster of a window exists (00 R4). -/
def winHere (s : State) (w : Nat) : Bool := decide (winCluster w < clusterCount s)

/-- TBL_WIN_CTL (06 Table 6.8). -/
def winReg (x : Window) : Nat := b2n x.discard * 2 ^ 17 + b2n x.buf.isSome * 2 ^ 16 + b2n x.stable * 256 + x.page % 64

/-- Eight bytes of a view that an offset of the windows reaches (06 R176). -/
def winData (s : State) (o : Nat) : Nat :=
  let w := o / 0x100000
  let x := win s w
  let a := (x.page % 64) * 0x100000 + o % 0x100000
  if winHere s w then fld (bucketBytes s (winCluster w) (a / 64) x.stable) (a % 64) 8 else 0

/-- Perturbation registers as written (17 Table 17.11); they read zero while the device is locked (R515). -/
def perturbReg (s : State) (o : Nat) : Nat :=
  let t := s.flt.tp
  if s.flt.unlocked = false then 0
  else if 0x30000 ≤ o then (tabGetD t.qhold ((o - 0x30000) / 8) 0).toNat
  else if 0x20000 ≤ o then uInt 32 (tabGetD t.tsRx ((o - 0x20000) / 8) 0) * 2 ^ 32 + uInt 32 (tabGetD t.tsTx ((o - 0x20000) / 8) 0)
  else if 0x10000 ≤ o then tabGetD t.rxDelay ((o - 0x10000) / 8) 0
  else match o with
    | 0 => b2n t.enable
    | 8 => t.jitter
    | 0x10 => t.dmaCh.toNat * 2 ^ 32 + t.dmaDelay
    | 0x18 => t.mbs.toNat * 2 ^ 32 + t.mbDelay
    | _ => 0

/-- What the register at base a reads as, apart from what its read does. -/
def regValue (who : Who) (s : State) (a : Nat) : Nat :=
  if a < 0x10000 then identReg s a
  else if a < 0x20000 then mbReg (mbox s ((a - 0x10000) / 0x400)) ((a - 0x10000) % 0x400)
  else if a < 0x30000 then timeReg s (a - 0x20000)
  else if a < 0x40000 then trickReg s (a - 0x30000)
  else if a < 0x50000 then fltReg s (a - 0x40000)
  else if a < 0x60000 then pwrReg s (a - 0x50000)
  else if a < 0x80000 then ciphReg who s (a - 0x60000)
  else if a < 0x100000 then chanReadReg (chan s ((a - 0x80000) / 0x100)) (a % 0x100)
  else if a < 0x400000 then ringReadReg (ring s ((a - 0x100000) / 0x1000)) (a % 0x1000)
  else if a < 0x800000 then winReg (win s ((a - 0x400000) / 8))
  else if a < 0x1000000 then winData s (a - 0x800000)
  else perturbReg s (a - 0x1000000)

end Sys2Proof.Machine
end

