-- ==== Sys2Proof/Machine/RegOps.lean ====
section
/-! DEFINITION. Reads and writes of registers by host software and the BMC: access codes (00 R19 to R21), latches (02 R57; 10 R286, R302, R317; 16 R473), and what each write does. -/

namespace Sys2Proof.Machine

/-- Number of a requester in latches. -/
def whoNo (who : Who) : Nat :=
  match who with
  | .host => 0
  | .bmc => 1
  | .fw => 2

/-- n bytes of a register's value from byte off. -/
def partOf (v off n : Nat) : Nat := (v >>> (8 * off)) % 2 ^ (8 * n)

/-! ## Reads with an effect -/

/-- TIME_NOW_LO and TIME_NOW_HI (10 R286): the low half of the first latches both for the requester. -/
def readTimeNow (who : Who) (hi : Bool) (off n ph : Nat) (s : State) : Nat × State :=
  let w := whoNo who
  if hi then (partOf (tabGetD s.time.latHi w 0).toNat off n, s)
  else if off = 4 then (partOf (tabGetD s.time.latLo w 0).toNat 4 n, s)
  else
    let t := timeNow s ph
    (partOf t.1 0 n, modTime (fun u => { u with latLo := tabPut u.latLo w (BitVec.ofNat 64 t.1), latHi := tabPut u.latHi w (BitVec.ofNat 64 t.2) }) s)

/-- A register whose low half latches its high half (02 R57): the value read, and the latch after it. A 32-bit read of the high half by a requester that holds no latch returns the half as it stands (DESIGN CHOICE, log entry 99). -/
def readHalf (cur : Nat) (lat : Tab (BitVec 32)) (w off n : Nat) : Nat × Tab (BitVec 32) :=
  if n = 8 then (cur, lat)
  else if off = 0 then (cur % 2 ^ 32, tabPut lat w (BitVec.ofNat 32 (cur / 2 ^ 32)))
  else match tabGet lat w with
    | some h => (h.toNat, tabErase lat w)
    | none => (cur / 2 ^ 32, lat)

/-- Lower half of a timestamp entry (10 Table 10.6). -/
def tsqLo (e : TsqEntry) : Nat := (secOf (e.ts / 16) % 2 ^ 32) * 2 ^ 32 + nsOf (e.ts / 16) * 4

/-- Upper half (10 Table 10.7) but for VALID. -/
def tsqHi (e : TsqEntry) : Nat :=
  b2n e.gap * 2 ^ 62 + b2n e.notSent * 2 ^ 61 + b2n e.timeValid * 2 ^ 60 + (e.port % 512) * 2 ^ 48 + (secOf (e.ts / 16) / 2 ^ 32) * 2 ^ 32
    + (e.ts % 16) * 2 ^ 16 + e.tag % 65536

/-- TSQ_ENTRY_LO latches the head entry, or zeros (10 R302); the high half of an entry that is latched reads from the latch. -/
def readTsqLo (who : Who) (off n : Nat) (s : State) : Nat × State :=
  let w := whoNo who
  let e := match tabGet s.time.tsqLatch w with
    | some x => if off = 4 then x else s.time.tsq.head?
    | none => s.time.tsq.head?
  (partOf ((e.map tsqLo).getD 0) off n, modTime (fun t => { t with tsqLatch := tabPut t.tsqLatch w e }) s)

/-- TSQ_ENTRY_HI returns the upper half of the latched entry, else of the head, and removes it (10 R302). VALID says that an entry was removed. -/
def readTsqHi (who : Who) (off n : Nat) (s : State) : Nat × State :=
  let w := whoNo who
  let head := s.time.tsq.head?
  let e := match tabGet s.time.tsqLatch w with
    | some x => x
    | none => head
  let took := e.isSome && decide (e = head)
  let s1 := modTime (fun t => { t with tsqLatch := tabErase t.tsqLatch w, tsq := if took then t.tsq.drop 1 else t.tsq }) s
  (partOf ((e.map tsqHi).getD 0 + b2n took * 2 ^ 63) off n, s1)

/-- TPIO_CAP latches the head capture (10 R317). -/
def readCap (who : Who) (k off n : Nat) (s : State) : Nat × State :=
  let w := whoNo who
  let x := pin s k
  let e := match tabGet x.latch w with
    | some c => if off = 4 then c else x.fifo.head?
    | none => x.fifo.head?
  (partOf ((e.map (fun c => c.t)).getD 0) off n, modPin k (fun y => { y with latch := tabPut y.latch w e }) s)

/-- TPIO_CAP_X returns the rest of the latched capture, else of the head, and removes it. -/
def readCapX (who : Who) (k : Nat) (s : State) : Nat × State :=
  let w := whoNo who
  let x := pin s k
  let head := x.fifo.head?
  let e := match tabGet x.latch w with
    | some c => c
    | none => head
  let took := e.isSome && decide (e = head)
  let v := match e with
    | some c => b2n c.gap * 2 ^ 30 + b2n c.rising * 2 ^ 29 + c.sub % 16
    | none => 0
  (v + b2n took * 2 ^ 31, modPin k (fun y => { y with latch := tabErase y.latch w, fifo := if took then y.fifo.drop 1 else y.fifo }) s)

/-- The read-clear fields of the register at base a are cleared; of IRQ_CAUSE the half that was read (00 R19). -/
def clearRead (a off n : Nat) (s : State) : State :=
  if a = 0x30 then { s with link := { s.link with aptErr := 0 } }
  else if a = 0x600 ∨ a = 0x608 then
    let m := (2 ^ (8 * n) - 1) <<< (8 * off + (if a = 0x608 then 64 else 0))
    { s with irq := { s.irq with cause := s.irq.cause &&& ~~~ BitVec.ofNat 128 m } }
  else if a = 0x20114 then modTime (fun t => { t with tsqDrop := 0 }) s
  else if a = 0x3001C then { s with trick := { s.trick with lenMax := 0 } }
  else if a = 0x30020 then { s with trick := { s.trick with overrunCnt := 0 } }
  else if a = 0x40060 then { s with flt := { s.flt with pulseCnt := 0 } }
  else if 0x80000 ≤ a ∧ a < 0x82000 ∧ a % 0x100 = 0x58 then modChan ((a - 0x80000) / 0x100) (fun c => { c with stalls := 0 }) s
  else if 0x100000 ≤ a ∧ a < 0x140000 then
    let r := (a - 0x100000) / 0x1000
    match a % 0x1000 with
    | 0x40 => modRing r (fun x => { x with errors := 0 }) s
    | 0x48 => modRing r (fun x => { x with stalls := 0 }) s
    | 0x50 => modRing r (fun x => { x with drops := 0 }) s
    | 0x58 => modRing r (fun x => { x with idxErr := 0 }) s
    | _ => s
  else s

/-- A read of n bytes from byte off of the register at base a. -/
def readReg (who : Who) (a off n ph : Nat) (s : State) : Nat × State :=
  let w := whoNo who
  if a = 0x20000 then readTimeNow who false off n ph s
  else if a = 0x20008 then readTimeNow who true off n ph s
  else if a = 0x20100 then readTsqLo who off n s
  else if a = 0x20108 then readTsqHi who off n s
  else if 0x20200 ≤ a ∧ a < 0x20440 ∧ (a - 0x20200) % 0x40 = 0x20 then readCap who ((a - 0x20200) / 0x40) off n s
  else if 0x20200 ≤ a ∧ a < 0x20440 ∧ (a - 0x20200) % 0x40 = 0x28 then readCapX who ((a - 0x20200) / 0x40) s
  else if a = 0x30000 then
    let r := readHalf (idx s) s.trick.latIndex w off n
    (r.1, { s with trick := { s.trick with latIndex := r.2 } })
  else if a = 0x30008 then
    let r := readHalf (now s) s.trick.latCount w off n
    (r.1, { s with trick := { s.trick with latCount := r.2 } })
  else if a = 0x50010 then
    let r := readHalf s.power.energy.toNat s.power.energyLat w off n
    (r.1, modPower (fun p => { p with energyLat := r.2 }) s)
  else (partOf (regValue who s a) off n, clearRead a off n s)

/-- A 32-bit or 64-bit read inside one register, or of an offset that nothing holds: zero, and counted (14 R427). -/
def readPart (who : Who) (a n ph : Nat) (s : State) : Nat × State :=
  if regReach who a = false then (0, regError a s)
  else match regSpan a with
    | some (b, _) => readReg who b (a - b) n ph s
    | none => (0, regError a s)

/-- The register at a is 8 bytes wide. -/
def isWide (a : Nat) : Bool :=
  match regSpan a with
  | some (_, sz) => decide (sz = 8)
  | none => false

/-- A read access of BAR0 (00 R21; 14 R427): its data and the state after it. -/
def regRead (who : Who) (addr width ph : Nat) (s : State) : Nat × State :=
  let n := width / 8
  if (width ≠ 32 ∧ width ≠ 64) ∨ addr % n ≠ 0 then (2 ^ 64 - 1, regError addr s)
  else if n = 8 ∧ (isWide addr = false) then
    let r := readPart who addr 4 ph s
    let t := readPart who (addr + 4) 4 ph r.2
    (r.1 + t.1 * 2 ^ 32, t.2)
  else readPart who addr n ph s

/-- Size of BAR0. -/
def barSize : Nat := 0x4000000

/-- A read by a requester, which receives the data. -/
def busRead (who : Who) (addr width ph : Nat) (s : State) : State :=
  if reaches s who = false ∨ barSize ≤ addr then s
  else
    let r := regRead who addr width ph s
    { r.2 with bus := { rdata := tabPut r.2.bus.rdata (whoNo who) (BitVec.ofNat 64 r.1) } }

/-! ## Writes -/

/-- A field's new value: the bits that the write covers (00 R19). -/
def mix (old v m : Nat) : Nat := (old &&& (m ^^^ (2 ^ 64 - 1))) ||| (v &&& m)

/-- Writes to the first region, from byte off of the register. -/
def identPut (a off v m : Nat) (s : State) : State :=
  if 0x100 ≤ a ∧ a < 0x300 then
    let k := (a - 0x100) / 4
    let x := mix (irqMapReg s k) v m
    { s with irq := { s.irq with map := tabPut s.irq.map k (x.testBit 31, x % 128) } }
  else if 0x400 ≤ a ∧ a < 0x600 then
    let k := (a - 0x400) / 4
    let x := mix (identReg s a) v m
    { s with irq := { s.irq with vecs := tabMod s.irq.vecs k {} (fun y => { y with count := bits x 31 16, tricks := x % 65536 }) } }
  else if 0x8000 ≤ a ∧ a < 0x8800 then
    let k := (a - 0x8000) / 16
    let x := mix (identReg s a) v m
    let put := fun (f : Vector → Vector) => { s with irq := { s.irq with vecs := tabMod s.irq.vecs k {} f } }
    match a % 16 / 4 with
    | 0 => put (fun y => { y with addr := BitVec.ofNat 64 (y.addr.toNat / 2 ^ 32 * 2 ^ 32 + x % 2 ^ 32 / 4 * 4) })
    | 1 => put (fun y => { y with addr := BitVec.ofNat 64 (y.addr.toNat % 2 ^ 32 + x % 2 ^ 32 * 2 ^ 32) })
    | 2 => put (fun y => { y with data := BitVec.ofNat 32 x })
    | _ => if x.testBit 0 then put (fun y => { y with masked := true }) else unmaskVec k s
  else if a = 0x20 then
    let x := mix (identReg s a) v m / 2 ^ 30
    if s.link.bar2 ≠ 0 ∧ x % s.link.bar2 ≠ 0 then regError (a + off) s else { s with link := { s.link with aptBase := x } }
  else if a = 0x28 then
    let x := mix (identReg s a) v m
    { s with link := { s.link with evtValid := x.testBit 8, evtRing := x % 64 } }
  else s

/-- Writes to a mailbox's registers and message area (13 Tables 13.3 to 13.7a): 4 or 8 bytes from byte off of the register at offset o. -/
def mbPut (who : Who) (k o off n v m : Nat) (s : State) : State :=
  let x := v &&& m
  let own := fun (f : State → State) => asOwner who k (o + off) s f
  if 0x40 ≤ o then own (mbStore k (o + off) (leBytes n (x >>> (8 * off))))
  else match o with
    | 0 => own (fun t => if x.testBit 0 then mbRing k t else t)
    | 8 => own (modMbox k (fun y => { y with writeBusy := y.writeBusy && !x.testBit 23, doorbellBusy := y.doorbellBusy && !x.testBit 22, staleDoorbell := y.staleDoorbell && !x.testBit 21 }))
    | 0x10 => own (fun t => if x.testBit 0 then mbStop k t else t)
    | 0x18 => own (fun t => if m.testBit 0 then modMbox k (fun y => { y with irqDone := x.testBit 0 }) t else t)
    | _ => own (fun t => t)

/-- A write of TPIO_CTL (10 R316, Table 10.16): a MODE that the pin may not take keeps the previous one. -/
def pinCtl (k v m : Nat) (s : State) : State :=
  let x := pin s k
  let y := mix (pinReg x 0) v m
  let s1 := modPin k (fun z => { z with missed := z.missed && !(v &&& m).testBit 30, sub := bits y 11 8, edge := bits y 5 4, polarity := y.testBit 3 }) s
  let mode := y % 8
  if m % 8 = 0 then s1
  else if 5 ≤ mode ∨ (k = 8 ∧ 2 ≤ mode) ∨ ((mode = 3 ∨ mode = 4) ∧ trainOk x mode = false) then regError (0x20200 + 0x40 * k) s1
  else modPin k (fun z => { z with modeNext := some mode }) s1

/-- Writes to a pin block. -/
def pinPut (k o v m : Nat) (s : State) : State :=
  let x := mix (pinReg (pin s k) o) v m
  match o with
  | 0 => pinCtl k v m s
  | 8 => modPin k (fun y => { y with start := BitVec.ofNat 64 x }) s
  | 0x10 => modPin k (fun y => { y with period := BitVec.ofNat 64 (x % 2 ^ 48) }) s
  | 0x18 => modPin k (fun y => { y with width := BitVec.ofNat 32 x }) s
  | _ => s

/-- A write of TIME_SAMPLE_A or B: a sample only when it is 64 bits wide (10 Table 10.14). -/
def timeSample (d off n v : Nat) (s : State) : State :=
  if n = 8 then offerSample d 4 (sInt 64 v) s else regError (0x20020 + 8 * d + off) s

/-- Writes to the time unit. -/
def timePut (o off n v m : Nat) (s : State) : State :=
  let x := v &&& m
  if 0x200 ≤ o then pinPut ((o - 0x200) / 0x40) ((o - 0x200) % 0x40) v m s
  else match o with
    | 0x10 => modTime (fun t => { t with freqClamp := t.freqClamp && !x.testBit 11, splitSeen := t.splitSeen && !x.testBit 10, stepped := t.stepped && !x.testBit 9 }) s
    | 0x14 =>
      let y := mix (timeReg s 0x14) v m
      modTime (fun t => { t with irqSwitch := y.testBit 4, irqHoldover := y.testBit 3, irqSplit := y.testBit 2, irqTpio := y.testBit 1, irqTsq := y.testBit 0 }) s
    | 0x20 => timeSample 0 off n v s
    | 0x28 => timeSample 1 off n v s
    | _ => s

/-- A write of TRICK_CFG.FIXED_FREQ (02 R55): active at once unless the device is in sprint. -/
def fixedFreq (on : Bool) (s : State) : State :=
  { s with trick := { s.trick with fixedFreq := on, fixedActive := if on then s.trick.fixedActive || !s.trick.sprint else s.trick.fixedActive } }

/-- Writes to the trick generator. -/
def trickPut (o v m : Nat) (s : State) : State :=
  let x := v &&& m
  match o with
  | 0x10 => { s with trick := { s.trick with overrun := s.trick.overrun && !x.testBit 7, clamped := s.trick.clamped && !x.testBit 6, stepBack := s.trick.stepBack && !x.testBit 5, stepped := s.trick.stepped && !x.testBit 4 } }
  | 0x14 =>
    let y := mix (trickReg s 0x14) v m
    fixedFreq (y.testBit 0) { s with trick := { s.trick with irqStep := y.testBit 3, irqRubber := y.testBit 2, irqHand := y.testBit 1 } }
  | _ => s

/-- Writes to the fault block (17 R512). -/
def fltPut (o v m : Nat) (s : State) : State :=
  let x := v &&& m
  if 0x20 ≤ o ∧ o < 0x40 then fltClearWhere (fun n _ => n / 64 == (o - 0x20) / 8 && x.testBit (n % 64)) true false s
  else if 0x40 ≤ o ∧ o < 0x60 then fltClearWhere (fun n _ => n / 64 == (o - 0x40) / 8 && x.testBit (n % 64)) false true s
  else if o = 4 then
    let y := mix (fltReg s 4) v m
    { s with flt := { s.flt with irqFirst := y.testBit 2, irqSevere := y.testBit 1, assertPin := y.testBit 0 } }
  else s

/-- Writes to the power manager (16 R494). -/
def pwrPut (o v m : Nat) (s : State) : State :=
  let x := v &&& m
  match o with
  | 0 => modPower (fun p => { p with unreachable := p.unreachable && !x.testBit 7, limiterSeen := p.limiterSeen && !x.testBit 6, emergencySeen := p.emergencySeen && !x.testBit 5, thermSeen := p.thermSeen && !x.testBit 4 }) s
  | 4 =>
    let y := mix (pwrReg s 4) v m
    modPower (fun p => { p with irqAge := y.testBit 4, irqTherm := y.testBit 3, irqEmergency := y.testBit 2, irqLimiter := y.testBit 1, irqCap := y.testBit 0 }) s
  | _ => s

/-- A write of CIPH_LOCK: BROKEN clears by a 1, then RELEASE, then TAKE (13 R420). -/
def ciphLock (who : Who) (x : Nat) (s : State) : State :=
  let s1 := if x.testBit 2 then modCiph (fun c =>
    match who with
    | .host => { c with brokenHost := false }
    | .bmc => { c with brokenBmc := false }
    | .fw => c) s else s
  let s2 := if x.testBit 1 then ciphRelease who s1 else s1
  if x.testBit 0 then ciphTake who s2 else s2

/-- Writes to the MAC engine (13 Table 13.22, R421). -/
def ciphPut (who : Who) (o off v m : Nat) (s : State) : State :=
  let x := v &&& m
  let a := 0x60000 + o + off
  let y := mix (ciphReg who s o) v m
  let hold := fun (f : Ciph → Ciph) => asHolder who a (modCiph f) s
  if 0x60 ≤ o ∧ o < 0x80 then
    hold (fun c => { c with keyReg := BitVec.ofNat 256 (patchBits c.keyReg.toNat (8 * (o - 0x60)) x m) })
  else match o with
    | 0 => lockWrite who (ciphLock who x) s
    | 8 => asHolder who a (ciphCtl who y) s
    | 0x10 => hold (fun c => { c with src := BitVec.ofNat 64 y })
    | 0x18 => hold (fun c => { c with len := BitVec.ofNat 32 y })
    | 0x20 => hold (fun c => { c with ivLo := BitVec.ofNat 64 y })
    | 0x28 => hold (fun c => { c with ivHi := BitVec.ofNat 32 y })
    | 0x80 => asHolder who a (fun t => if x.testBit 5 then ciphKeyClear who (x % 16) t else if x.testBit 4 then ciphKeyLoad who (x % 16) t else t) s
    | 0x90 => if who ≠ .host ∨ y % 65536 = 0 then regError a s else modCiph (fun c => { c with lease := y % 65536 }) s
    | _ => s
where
  /-- Replace 64 bits from bit p, as far as the write covers them. -/
  patchBits (old p x m : Nat) : Nat :=
    let cur := (old >>> p) % 2 ^ 64
    old - cur * 2 ^ p + mix cur x m * 2 ^ p

/-- A write to a channel's registers by host software or firmware (15 R466). -/
def asChan (who : Who) (k off : Nat) (f : State → State) (s : State) : State :=
  if who = .fw then f s else asChanHost k off f s

/-- Writes to a channel (15 Table 15.9). -/
def chanPut (who : Who) (k o off v m : Nat) (s : State) : State :=
  let c := chan s k
  let x := v &&& m
  let y := mix (chanReadReg c o) v m
  let set := fun (f : Chan → Chan) => asChan who k (o + off) (fun t => if c.st = .stopped then modChan k f t else regError (chanReg k (o + off)) t) s
  match o with
  | 0 => set (fun z => { z with pc := y / 16 * 16 })
  | 8 => set (fun z => { z with cq := bits y 21 16, irq := y.testBit 1, devmem := y.testBit 0 })
  | 0x10 => asChan who k (o + off) (fun t =>
      let t1 := if x.testBit 0 then dmaStart k t else t
      let t2 := if x.testBit 1 then dmaDoorbell k t1 else t1
      if x.testBit 2 then dmaAbort k t2 else t2) s
  | 0x18 => asChan who k (o + off) (fun t => if x.testBit 0 then modChan k (fun z => { z with cqBad := false }) t else t) s
  | 0x20 => set (fun z => { z with hostBase := y / 4096 * 4096 })
  | 0x28 => asChan who k (o + off) (modChan k (fun z => { z with flags := z.flags ||| BitVec.ofNat 32 x })) s
  | 0x30 => asChan who k (o + off) (modChan k (fun z => { z with flags := z.flags &&& ~~~ BitVec.ofNat 32 x })) s
  | _ => asChan who k (o + off) (fun t => t) s

/-- Writes to a ring (14 Table 14.8, R444). -/
def ringPut (r o off v m : Nat) (s : State) : State :=
  let x := ring s r
  let y := mix (ringReadReg x o) v m
  match o with
  | 0 => if x.st = .off then modRing r (fun z => { z with base := BitVec.ofNat 64 (y / 4096 * 4096) }) s else regError (ringReg r off) s
  | 8 => ringCfgWrite r y s
  | 0x10 => if (v &&& m).testBit 0 then sqRun none r s else s
  | 0x20 => ringHostIdx r (v % 2 ^ 17) s
  | 0x28 => modRing r (fun z => { z with wb := BitVec.ofNat 64 (y / 8 * 8) }) s
  | _ => s

/-- A write of TBL_WIN_CTL (06 Table 6.8): PAGE and VIEW discard a pending buffer. -/
def winCtl (w v m : Nat) (s : State) : State :=
  let x := win s w
  let y := mix (winReg x) v m
  let drop := x.buf.isSome
  if winHere s w = false then s else
  { s with wins := tabPut s.wins w { page := y % 64, stable := y.testBit 8, discard := (x.discard && !(v &&& m).testBit 17) || drop, buf := none } }

/-- A bucket buffer is queued: to the window's cluster, or from window 4 to every present cluster (06 R174, R176). -/
def winSend (w b : Nat) (v : BitVec 512) (s : State) : State :=
  forAll (if w = 4 then List.range (clusterCount s) else [w]) (fun n acc => sendBucket n b v none acc) s

/-- A write of n bytes through a table window (06 R176). -/
def winPut (a n v : Nat) (s : State) : State :=
  let o := a - 0x800000
  let w := o / 0x100000
  let x := win s w
  let p := x.page * 0x100000 + o % 0x100000
  let b := p / 64
  let i := p % 64
  if winHere s w = false then s
  else if x.stable then regError a s
  else
    let old := match x.buf with
      | some (c, t) => if c = b then t else bucketRaw (cluster s (winCluster w)) b
      | none => bucketRaw (cluster s (winCluster w)) b
    let other := match x.buf with
      | some (c, _) => decide (c ≠ b)
      | none => false
    let t : BitVec 512 := BitVec.ofNat 512 (leVal (patch (leBytes 64 old.toNat) i (leBytes n v)))
    let done := decide (56 ≤ i)
    let s1 := { s with wins := tabPut s.wins w { x with discard := x.discard || other, buf := if done then none else some (b, t) } }
    if done then winSend w b t s1 else s1

/-- Writes to the perturbation registers: into effect at the next boundary (17 R515, R517). -/
def perturbPut (o off v m : Nat) (s : State) : State :=
  let y := mix (perturbReg s o) v m
  let set := fun (f : Perturb → Perturb) => { s with flt := { s.flt with tp := f s.flt.tp } }
  if s.flt.unlocked = false then regError (0x1000000 + o + off) s
  else if 0x30000 ≤ o ∧ 20 * laneCount s ≤ (o - 0x30000) / 8 * 64 then s
  else if 0x30000 ≤ o then set (fun t => { t with qhold := tabPut t.qhold ((o - 0x30000) / 8) (BitVec.ofNat 64 y) })
  else if 0x10000 ≤ o ∧ laneCount s ≤ o % 0x10000 / 8 then s
  else if 0x20000 ≤ o then
    let p := (o - 0x20000) / 8
    set (fun t => { t with tsRx := tabPut t.tsRx p (sInt 32 (y / 2 ^ 32)), tsTx := tabPut t.tsTx p (sInt 32 y) })
  else if 0x10000 ≤ o then set (fun t => { t with rxDelay := tabPut t.rxDelay ((o - 0x10000) / 8) (y % 2 ^ 14) })
  else match o with
    | 0 => set (fun t => { t with enable := y.testBit 0 })
    | 8 => set (fun t => { t with jitter := y % 256 })
    | 0x10 => set (fun t => { t with dmaCh := BitVec.ofNat 32 (y / 2 ^ 32), dmaDelay := y % 65536 })
    | 0x18 => set (fun t => { t with mbs := BitVec.ofNat 32 (y / 2 ^ 32), mbDelay := y % 65536 })
    | _ => s

/-- A write of n bytes at byte off of the register at base a, its data moved to their place in the register. -/
def writeReg (who : Who) (a off n v : Nat) (s : State) : State :=
  let m := (2 ^ (8 * n) - 1) <<< (8 * off)
  let x := (v % 2 ^ (8 * n)) <<< (8 * off)
  if a < 0x10000 then identPut a off x m s
  else if a < 0x20000 then mbPut who ((a - 0x10000) / 0x400) ((a - 0x10000) % 0x400) off n x m s
  else if a < 0x30000 then timePut (a - 0x20000) off n x m s
  else if a < 0x40000 then trickPut (a - 0x30000) x m s
  else if a < 0x50000 then fltPut (a - 0x40000) x m s
  else if a < 0x60000 then pwrPut (a - 0x50000) x m s
  else if a < 0x80000 then ciphPut who (a - 0x60000) off x m s
  else if a < 0x100000 then chanPut who ((a - 0x80000) / 0x100) (a % 0x100) off x m s
  else if a < 0x400000 then ringPut ((a - 0x100000) / 0x1000) (a % 0x1000) off x m s
  else if a < 0x800000 then winCtl ((a - 0x400000) / 8) x m s
  else if a < 0x1000000 then winPut (a + off) n v s
  else perturbPut (a - 0x1000000) off x m s

/-- A 32-bit or 64-bit write inside one register; where nothing is assigned, or the requester may not reach, it is discarded and counted (14 R427; 19 Table 19.8). -/
def writePart (who : Who) (a n v : Nat) (s : State) : State :=
  if regReach who a = false then regError a s
  else match regSpan a with
    | some (b, _) => writeReg who b (a - b) n v s
    | none => regError a s

/-- A write access of BAR0 (00 R21). -/
def regWrite (who : Who) (addr width v : Nat) (s : State) : State :=
  let n := width / 8
  if (width ≠ 32 ∧ width ≠ 64) ∨ addr % n ≠ 0 then regError addr s
  else if n = 8 ∧ (isWide addr = false) then writePart who (addr + 4) 4 (v / 2 ^ 32) (writePart who addr 4 (v % 2 ^ 32) s)
  else writePart who addr n v s

/-- A write by a requester. -/
def busWrite (who : Who) (addr width v : Nat) (s : State) : State :=
  if reaches s who = false ∨ barSize ≤ addr then s else regWrite who addr width v s

end Sys2Proof.Machine
end

