-- ==== Sys2Proof/Machine/Package.lean ====
section
/-! DEFINITION. The I3C target and the test access port (19 R549, R550, R555, R556). -/

namespace Sys2Proof.Machine

/-- Change the pins' state. -/
def modPins (f : Pins → Pins) (s : State) : State := { s with pins := f s.pins }

/-! ## Private transfers (19 Table 19.8) -/

/-- A transfer of n bytes at an offset is a register access: 4 or 8 bytes, naturally aligned. -/
def regShape (o n : Nat) : Bool := decide (n = 4 ∨ n = 8) && decide (o % n = 0)

/-- BAR0 offset of an offset in the page window. -/
def pageAddr (s : State) (o : Nat) : Nat := s.pins.i3cPage * 0x8000 + (o - 0x8000)

/-- Mailbox of an offset below 0x2000. -/
def i3cMb (o : Nat) : Nat := 16 + o / 0x400

/-- Bytes all ones. -/
def onesBytes (n : Nat) : List Byte := List.replicate n (byte 255)

/-- A read of BAR0 by the BMC, as bytes. -/
def i3cBarRead (a n ph : Nat) (s : State) : List Byte × State :=
  let r := regRead .bmc a (8 * n) ph s
  (leBytes n r.1, r.2)

/-- A read of n bytes at offset o: the bytes, and the state after it. -/
def i3cRead (o n ph : Nat) (s : State) : List Byte × State :=
  if o < 0x2000 then
    if 0x40 ≤ o % 0x400 then (memReadN (mbox s (i3cMb o)).area (o % 0x400 - 0x40) n, s)
    else if regShape o n then i3cBarRead (0x14000 + o) n ph s
    else (onesBytes n, regError (0x14000 + o) s)
  else if 0x8000 ≤ o then
    if regShape o n then i3cBarRead (pageAddr s o) n ph s else (onesBytes n, regError (pageAddr s o) s)
  else if 0x7FF8 ≤ o then
    if regShape o n then (leBytes n (s.pins.i3cPage / 256 ^ (o - 0x7FF8)), s) else (onesBytes n, regError (0x14000 + o) s)
  else (zeros n, s)

/-- A write of bytes at offset o. -/
def i3cWrite (o : Nat) (bs : List Byte) (s : State) : State :=
  let n := bs.length
  if o < 0x2000 then
    if 0x40 ≤ o % 0x400 then mbStore (i3cMb o) (o % 0x400) bs s
    else if regShape o n then regWrite .bmc (0x14000 + o) (8 * n) (leVal bs) s
    else regError (0x14000 + o) s
  else if 0x8000 ≤ o then
    if regShape o n then regWrite .bmc (pageAddr s o) (8 * n) (leVal bs) s else regError (pageAddr s o) s
  else if 0x7FF8 ≤ o then
    if regShape o n = false then regError (0x14000 + o) s
    else if o = 0x7FF8 then modPins (fun p => { p with i3cPage := leVal bs % 2048 }) s
    else s
  else s

/-- The place where the next transfer without an offset goes on. -/
def i3cMove (o : Nat) (s : State) : State := modPins (fun p => { p with i3cPtr := o % 0x10000 }) s

/-- I3C_PRIVATE_TRANSFER: the offset, then bytes written and bytes read from there on (13 R396; 19 R550), within the lengths of MWL and MRL. -/
def execI3cPrivateTransfer (t : I3cIn) (s : State) : Host.Outcome State Fault Refusal :=
  .next (
    if powered s = false then s
    else
      let o := t.offset.getD s.pins.i3cPtr % 0x10000
      let wr := t.wr.take (s.pins.mwl - 2)
      let s1 := if wr.isEmpty then s else i3cWrite o wr s
      let o1 := o + wr.length
      let n := min t.rd s.pins.mrl
      if n = 0 then i3cMove o1 s1
      else
        let r := i3cRead (o1 % 0x10000) n t.ph s1
        modPins (fun p => { p with i3cOut := r.1 }) (i3cMove (o1 + n) r.2))

/-! ## Common command codes (19 R549) -/

/-- The provisional ID: the fused serial number in its low 32 bits. -/
def i3cPid : List Byte := beBytes 2 Config.i3cPidHigh.toNat ++ beBytes 4 (Config.serial.toNat % 2 ^ 32)

/-- BCR reports no in-band interrupts. -/
def i3cBcrVal : BitVec 8 := Config.i3cBcr &&& 0xF9

/-- The target acknowledges a CCC and answers with bytes. -/
def cccAck (bs : List Byte) (s : State) : State := modPins (fun p => { p with i3cAck := true, i3cOut := bs }) s

/-- It does not. -/
def cccNack (s : State) : State := modPins (fun p => { p with i3cAck := false, i3cOut := [] }) s

/-- A CCC that is directed to the target's dynamic address. -/
def cccDirect (f : State → State) (s : State) : State := if s.pins.i3cAddr.isSome then f s else cccNack s

/-- A length that SETMRL or SETMWL sets, at most 1,026. -/
def cccLen (arg : List Byte) : Nat := min 1026 (bfld arg 0 2)

/-- The static address (19 R549). -/
def i3cStatic : Nat := 0x4C

/-- What the target does on a CCC. ENTDAA carries the address assigned, SETDASA the static and the dynamic address. -/
def cccDo (code : Nat) (arg : List Byte) (s : State) : State :=
  match code with
  | 0x07 => if s.pins.i3cAddr.isSome then cccNack s else cccAck (i3cPid ++ [i3cBcrVal, Config.i3cDcr]) (modPins (fun p => { p with i3cAddr := some (fld arg 0 1 % 128) }) s)
  | 0x87 => if s.pins.i3cAddr.isSome ∨ fld arg 0 1 ≠ i3cStatic then cccNack s else cccAck [] (modPins (fun p => { p with i3cAddr := some (fld arg 1 1 % 128) }) s)
  | 0x06 => cccAck [] (modPins (fun p => { p with i3cAddr := none }) s)
  | 0x8D => cccDirect (cccAck i3cPid) s
  | 0x8E => cccDirect (cccAck [i3cBcrVal]) s
  | 0x8F => cccDirect (cccAck [Config.i3cDcr]) s
  | 0x90 => cccDirect (fun t =>
      let r := drawFree 2 t
      cccAck (r.1.map (fun b => b &&& 0xF0)) r.2) s
  | 0x8C => cccDirect (cccAck (beBytes 2 s.pins.mrl)) s
  | 0x8B => cccDirect (cccAck (beBytes 2 s.pins.mwl)) s
  | 0x0A => cccAck [] (modPins (fun p => { p with mrl := cccLen arg }) s)
  | 0x8A => cccDirect (fun t => cccAck [] (modPins (fun p => { p with mrl := cccLen arg }) t)) s
  | 0x09 => cccAck [] (modPins (fun p => { p with mwl := cccLen arg }) s)
  | 0x89 => cccDirect (fun t => cccAck [] (modPins (fun p => { p with mwl := cccLen arg }) t)) s
  | _ => cccNack s

/-- I3C_CCC. -/
def execI3cCcc (code : Nat) (arg : List Byte) (s : State) : Host.Outcome State Fault Refusal :=
  .next (if powered s then cccDo code arg s else s)

/-! ## Boundary scan (19 R555, R556) -/

/-- IDCODE (19 R555). -/
def idcode (s : State) : BitVec 32 :=
  BitVec.ofNat 32 ((s.ident.stepping % 16) * 2 ^ 28 + (if s.ident.half then 0x2049 else 0x2048) * 2 ^ 12 + 0x599 * 2 + 1)

/-- The test access port takes an instruction while the device is on, and its data register captures. -/
def scanTo (j : JtagInstr) (dr : BitVec 32) (s : State) : State :=
  if s.boot.phase = .off then s else modPins (fun p => { p with jtag := j, dr := dr }) s

/-- What a covered output drives whose own level is v and whose boundary cell is b: nothing under HIGHZ (19 R556). -/
def landLevel (s : State) (v : Bool) (b : Nat) : Option Bool :=
  match s.pins.jtag with
  | .extest | .clamp => some (s.pins.boundary.toNat.testBit b)
  | .highz => none
  | _ => some v

/-- JTAG_BYPASS: the bypass register captures 0. -/
def execJtagBypass (s : State) : Host.Outcome State Fault Refusal := .next (scanTo .bypass 0 s)

/-- JTAG_IDCODE. -/
def execJtagIdcode (s : State) : Host.Outcome State Fault Refusal := .next (scanTo .idcode (idcode s) s)

/-- JTAG_SAMPLE_PRELOAD: the levels at the lands are captured, and the boundary register is loaded. -/
def execJtagSamplePreload (pins load : BitVec 32) (s : State) : Host.Outcome State Fault Refusal :=
  .next (if s.boot.phase = .off then s else modPins (fun p => { p with boundary := load }) (scanTo .sample pins s))

/-- JTAG_EXTEST: the covered outputs follow the boundary register. -/
def execJtagExtest (s : State) : Host.Outcome State Fault Refusal := .next (scanTo .extest s.pins.boundary s)

/-- JTAG_CLAMP: the outputs hold the boundary register, with the bypass register selected. -/
def execJtagClamp (s : State) : Host.Outcome State Fault Refusal := .next (scanTo .clamp 0 s)

/-- JTAG_HIGHZ: the covered outputs are in high impedance, with the bypass register selected. -/
def execJtagHighz (s : State) : Host.Outcome State Fault Refusal := .next (scanTo .highz 0 s)

end Sys2Proof.Machine
end

