-- ==== Sys2Proof/Machine/Regs.lean ====
section
/-! DEFINITION. The register rows. Widths are in bits. What a read returns goes to the requester's bus. -/

namespace Sys2Proof.Machine

/-- REGISTER_WRITE. -/
def execRegisterWrite (who : Who) (addr width : Nat) (value : BitVec 64) (s : State) : Host.Outcome State Fault Refusal :=
  .next (busWrite who addr width value.toNat s)

/-- RC_REGISTER_READ: a read; fields that clear on a read are cleared (00 R19). -/
def execRcRegisterRead (who : Who) (addr width : Nat) (s : State) : Host.Outcome State Fault Refusal :=
  .next (busRead who addr width 0 s)

/-- TRICK_COUNTER_LATCH_READ: a read of TRICK_INDEX or TRICK_COUNT (02 R57). -/
def execTrickCounterLatchRead (who : Who) (addr width : Nat) (s : State) : Host.Outcome State Fault Refusal :=
  .next (if 0x30000 ≤ addr ∧ addr < 0x30010 then busRead who addr width 0 s else s)

/-- FIXED_FREQ_SET: a write of TRICK_CFG that leaves its other fields (02 R55). -/
def execFixedFreqSet (who : Who) (on : Bool) (s : State) : Host.Outcome State Fault Refusal :=
  .next (if reaches s who then fixedFreq on s else s)

/-- TIME_NOW_READ: a read of TIME_NOW_LO or TIME_NOW_HI, ph sixteenths of a ns after the last boundary (10 R286). -/
def execTimeNowRead (who : Who) (addr width ph : Nat) (s : State) : Host.Outcome State Fault Refusal :=
  .next (if 0x20000 ≤ addr ∧ addr < 0x20010 then busRead who addr width ph s else s)

/-- TSQ_ENTRY_LATCH: a read of TSQ_ENTRY_LO (10 R302). -/
def execTsqEntryLatch (who : Who) (width : Nat) (s : State) : Host.Outcome State Fault Refusal :=
  .next (busRead who 0x20100 width 0 s)

/-- TSQ_ENTRY_POP: a read of TSQ_ENTRY_HI (10 R302). -/
def execTsqEntryPop (who : Who) (width : Nat) (s : State) : Host.Outcome State Fault Refusal :=
  .next (busRead who 0x20108 width 0 s)

/-- TIME_SAMPLE_WRITE: a write of TIME_SAMPLE_A or B (10 R303). -/
def execTimeSampleWrite (who : Who) (d width : Nat) (value : BitVec 64) (s : State) : Host.Outcome State Fault Refusal :=
  .next (if d < 2 then busWrite who (0x20020 + 8 * d) width value.toNat s else s)

/-- TPIO_MODE_WRITE: a write of TPIO_CTL (10 R316). -/
def execTpioModeWrite (who : Who) (k : Nat) (value : BitVec 32) (s : State) : Host.Outcome State Fault Refusal :=
  .next (if k < 9 then busWrite who (0x20200 + 0x40 * k) 32 value.toNat s else s)

/-- TPIO_CAP_LATCH: a read of TPIO_CAP (10 R317). -/
def execTpioCapLatch (who : Who) (k : Nat) (s : State) : Host.Outcome State Fault Refusal :=
  .next (if k < 9 then busRead who (0x20220 + 0x40 * k) 64 0 s else s)

/-- TPIO_CAP_POP: a read of TPIO_CAP_X. -/
def execTpioCapPop (who : Who) (k : Nat) (s : State) : Host.Outcome State Fault Refusal :=
  .next (if k < 9 then busRead who (0x20228 + 0x40 * k) 32 0 s else s)

/-- PWR_ENERGY_READ: a read of PWR_ENERGY (16 R473). -/
def execPwrEnergyRead (who : Who) (addr width : Nat) (s : State) : Host.Outcome State Fault Refusal :=
  .next (if 0x50010 ≤ addr ∧ addr < 0x50018 then busRead who addr width 0 s else s)

/-- TABLE_WINDOW_WRITE: a write through a table window (06 R176). -/
def execTableWindowWrite (who : Who) (addr width : Nat) (value : BitVec 64) (s : State) : Host.Outcome State Fault Refusal :=
  .next (if 0x800000 ≤ addr ∧ addr < 0xD00000 then busWrite who addr width value.toNat s else s)

/-- TBL_WIN_CTL_WRITE (06 Table 6.8). -/
def execTblWinCtlWrite (who : Who) (w : Nat) (value : BitVec 32) (s : State) : Host.Outcome State Fault Refusal :=
  .next (if w < 5 then busWrite who (0x400000 + 8 * w) 32 value.toNat s else s)

/-- A read that is no register access: bad width or alignment, an offset that nothing holds, or one that the requester does not reach (00 R21; 14 R427). -/
def readBad (who : Who) (addr width : Nat) : Bool :=
  (decide (width ≠ 32) && decide (width ≠ 64)) || decide (addr % (width / 8) ≠ 0) || !regReach who addr || (regSpan addr).isNone
    || (decide (width = 64) && !isWide addr && (regSpan (addr + 4)).isNone)

/-- REGISTER_READ_ERROR. -/
def execRegisterReadError (who : Who) (addr width : Nat) (s : State) : Host.Outcome State Fault Refusal :=
  .next (if readBad who addr width then busRead who addr width 0 s else s)

end Sys2Proof.Machine
end

