-- ==== Sys2Proof/Machine/Select.lean ====
section
/-! DEFINITION. The scheduler of a port (09 R257 to R261, R269) and the end of a transmission (01 R29). -/

namespace Sys2Proof.Machine

/-! ## Eligibility (09 R259) -/

/-- A shaper lets a candidate through. -/
def shaperOk (h : Shaper) : Bool := !h.enable || decide (0 ≤ h.credit)

/-- A queue held by the perturbation registers in effect (17 R518). -/
def testHeld (s : State) (p q : Nat) : Bool :=
  let u := queueUnit p q
  s.flt.tpOn.enable && (tabGetD s.flt.tpOn.qhold (u / 64) 0).toNat.testBit (u % 64)

/-- A queue is paused (09 R276). -/
def queuePaused (x : Port) (q : Nat) : Bool :=
  let r := (queue x q).rxPri
  decide (0 < at0 x.timers 8) || (decide (r < 8) && decide (0 < at0 x.timers r))

/-- A queue is eligible. -/
def queueOk (s : State) (p : Nat) (x : Port) (q : Nat) : Bool :=
  let y := queue x q
  (match y.descs with
    | d :: _ => (!d.prov || d.cut) && !d.bad
    | [] => false) && !queuePaused x q && !testHeld s p q && shaperOk y.shaper && !y.owed

/-- A group is eligible. -/
def groupOk (s : State) (p : Nat) (x : Port) (g : Nat) : Bool :=
  (groupQueues x g).any (queueOk s p x) && shaperOk (sgroup x g).shaper

/-- READY (09 R261). -/
def portReady (x : Port) : Bool := decide (inflightBytes x < 8192 * x.width)

/-- Ranks 3 and 4 may go: port shaper and follow-suit shaper (09 R259; 12 R388). -/
def portOpen (x : Port) : Bool := shaperOk x.shaper && shaperOk x.stk.fs

/-- Traffic of ranks 2 to 4 may leave: a stack link sends it only while LIVE (12 R371). -/
def linkOpen (x : Port) : Bool := !x.stk.enable || decide (x.stk.st = .live)

/-! ## DWRR (09 R269, R270) -/

/-- The first of the members, in rotation from rot, that a test takes. -/
def rotPick (l : List Nat) (rot : Nat) (ok : Nat → Bool) : Option Nat :=
  match (l.filter (fun m => decide (rot ≤ m))).find? ok with
  | some m => some m
  | none => l.find? ok

/-- Rounds of quanta until a deficit is above zero. -/
def roundsFor (deficit : Int) (quantum : Nat) : Nat := ((-deficit) / quantum + 1).toNat

/-- A DWRR set: the member taken and the rounds of quanta that its eligible members received. -/
def dwrrPick (l : List Nat) (rot : Nat) (ok : Nat → Bool) (deficit : Nat → Int) (quantum : Nat → Nat) : Option (Nat × Nat) :=
  match rotPick l rot (fun m => ok m && decide (0 < deficit m)) with
  | some m => some (m, 0)
  | none =>
    let els := l.filter (fun m => ok m && decide (0 < quantum m))
    match (els.map (fun m => roundsFor (deficit m) (quantum m))).min? with
    | none => none
    | some k => (rotPick l rot (fun m => ok m && decide (0 < deficit m + k * quantum m))).map (fun m => (m, k))

/-- The queue that a group serves, and the port after the group's DWRR. -/
def pickQueue (s : State) (p : Nat) (x : Port) (g : Nat) : Option (Nat × Port) :=
  let l := groupQueues x g
  if (sgroup x g).dwrr = false then
    (([15, 14, 13, 12, 11, 10, 9, 8, 7, 6, 5, 4, 3, 2, 1, 0, 19, 18, 17, 16].filter (fun q => l.contains q)).find? (queueOk s p x)).map (fun q => (q, x))
  else
    (dwrrPick l (sgroup x g).rot (queueOk s p x) (fun q => (queue x q).deficit) (fun q => (queue x q).weight * 256)).map (fun r =>
      (r.1, { x with
        queues := tabMap x.queues (fun q y => if l.contains q ∧ queueOk s p x q = true then { y with deficit := y.deficit + r.2 * (y.weight * 256) } else y)
        sgroups := tabMod x.sgroups g {} (fun y => { y with rot := r.1 + 1 }) }))

/-- The group of rank 3 or 4 that is served, and the port after the groups' DWRR. -/
def pickGroup (s : State) (p : Nat) (x : Port) : Option (Nat × Port) :=
  match [7, 6, 5, 4, 3, 2, 1, 0].find? (fun g => !(sgroup x g).ets && groupOk s p x g) with
  | some g => some (g, x)
  | none =>
    let l := (List.range 8).filter (fun g => (sgroup x g).ets)
    let ok := groupOk s p x
    (dwrrPick l x.rotGroup ok (fun g => (sgroup x g).deficit) (fun g => (sgroup x g).bw * 1024)).map (fun r =>
      (r.1, { x with
        sgroups := tabMap x.sgroups (fun g y => if y.ets ∧ ok g = true then { y with deficit := y.deficit + r.2 * (y.bw * 1024) } else y)
        rotGroup := r.1 + 1 }))

/-- The queue that ranks 2 to 4 give, and the port after its rotations (09 R258). -/
def pickFrame (s : State) (p : Nat) (x : Port) : Option (Nat × Port) :=
  if portReady x = false ∨ linkOpen x = false then none
  else if x.trump ∧ queueOk s p x 15 = true then some (15, x)
  else if portOpen x = false then none
  else match pickGroup s p x with
    | some (g, y) => pickQueue s p y g
    | none => none

/-! ## Rank 1 -/

/-- A MAC control frame of 64 bytes without its FCS (09 R273). -/
def macCtlBytes (x : Port) (c : MacCtl) : List Byte :=
  let body := if c.annex31 then beBytes 2 1 ++ beBytes 2 (at0 c.quanta 0)
    else beBytes 2 0x0101 ++ beBytes 2 c.vec.toNat ++ (List.range 8).flatMap (fun i => beBytes 2 (at0 c.quanta i))
  slice ([0x01, 0x80, 0xC2, 0x00, 0x00, 0x01] ++ x.srcMac ++ beBytes 2 0x8808 ++ body) 0 60

/-- The header of a MAC control frame on a stack link: a DATA frame to the peer (12 R367, R369; log entry 111). -/
def macCtlHeader (s : State) (x : Port) : List Byte :=
  let v := Config.macCtlSuit.toNat
  stackHeader s 0 x.stk.peerPath x.stk.peerLevels (dataWord (bits v 20 18) (bits v 17 16) (bits v 15 0))

/-- A frame of the stack engine as it leaves: TRICK is the sender's at transmission, in its own frames; a heartbeat gets its TX_TS and is remembered for pairing (12 R369, R372, R384). -/
def stackOut (p ts : Nat) (bs : List Byte) (s : State) : List Byte × State :=
  let own := decide (bfld bs 7 6 = s.stack.own)
  let b := if own then patch bs 13 (beBytes 3 (idx s % 2 ^ 24)) else bs
  if fld bs 0 1 / 64 = 1 then
    (patch b (16 + 24) (beBytes 8 (ts % 2 ^ 64)),
     ev 0x0120 p (modPort p (fun y => { y with stk := { y.stk with sentHb := ((bfld bs 20 4, ts) :: y.stk.sentHb).take 4 } }) s))
  else (b, s)

/-- The frame of the stack engine that port p sends next: a heartbeat, else, while the link is LIVE, the oldest CONTROL frame (12 R371, R372; log entry 111). -/
def stackNext (s : State) (p : Nat) (x : Port) : Option CtlTx :=
  let l := s.stack.tx.filter (fun e => e.port == p)
  match l.find? (fun e => fld e.bytes 0 1 / 64 == 1) with
  | some e => some e
  | none => if x.stk.st = .live then l.head? else none

/-- The MAC control frame that port p sends next: a stack link sends DATA frames only while LIVE (12 R371). -/
def macCtlNext (x : Port) : Option (MacCtl × List MacCtl) :=
  match x.macCtl with
  | c :: r => if linkOpen x then some (c, r) else none
  | [] => none

/-- Rank 1 (09 R258; 12 R367, R372): a MAC control frame, then a frame of the stack engine. Rank 1 is charged nowhere. -/
def rankOne (p ph ln : Nat) (x : Port) (s : State) : Option State :=
  match macCtlNext x with
  | some (c, r) =>
    let hdr := if x.stk.enable then macCtlHeader s x else []
    some (ev (if c.annex31 then 0x0111 else 0x0110) p (macSend p (hdr ++ macCtlBytes x c) (modPort p (fun y => { y with macCtl := r }) s)))
  | none =>
    match stackNext s p x with
    | none => none
    | some e =>
      let s1 := { s with stack := { s.stack with tx := s.stack.tx.erase e } }
      let r := stackOut p (egressTs s p x ln ph) e.bytes s1
      some (macSend p r.1 r.2)

/-! ## Selection -/

/-- The head of queue q is selected: charged, taken from the queue, and launched (09 R262 to R264). -/
def selectHead (p q ph ln : Nat) (banks : BankIn) (s : State) : State :=
  match port s p with
  | none => s
  | some x =>
    match (queue x q).descs with
    | [] => s
    | d :: rest =>
      let s1 := modQueue p q (fun y => { y with descs := rest, owed := y.owed || d.prov }) s
      let s2 := if d.prov then s1 else chargeSel p q (countedLen x d.len) s1
      dropBad p q (launch p q d ph ln banks (idleDeficits p s2))

/-- The port's candidate is of rank 1 or 2. -/
def urgent (s : State) (p : Nat) (x : Port) : Bool :=
  decide (x.link = .up) && ((macCtlNext x).isSome || (stackNext s p x).isSome || (portReady x && linkOpen x && x.trump && queueOk s p x 15))

/-- The port has a candidate of rank 3 or 4. -/
def ordinary (s : State) (p : Nat) (x : Port) : Bool := decide (x.link = .up) && !urgent s p x && (pickFrame s p x).isSome

/-- The scheduler of the port group comes to port p (09 R260): candidates of rank 1 or 2 first, then the rotation weighted as the ingress arbiter's. -/
def selTurn (s : State) (p : Nat) (x : Port) : Bool :=
  let l := groupPorts s (groupOf p)
  urgent s p x || (!l.any (fun e => urgent s e.1 e.2) && arbTurn (grp s (groupOf p)).sel ((l.filter (fun e => ordinary s e.1 e.2)).map (fun e => e.1)) p)

/-- SCHEDULER_SELECT. -/
def execSchedulerSelect (p : Nat) (at_ : Crossing) (banks : BankIn) (s : State) : Host.Outcome State Fault Refusal :=
  .next (
    match port s p with
    | some x =>
      if x.link ≠ .up ∨ selTurn s p x = false then s
      else match rankOne p at_.ph at_.ln x s with
        | some t => t
        | none =>
          match pickFrame s p x with
          | some (q, y) =>
            let s1 := modPort p (fun _ => y) s
            let s2 := if urgent s p x then s1 else modGrp (groupOf p) (fun z => { z with sel := arbServe (arbWeight x) p z.sel }) s1
            selectHead p q at_.ph at_.ln banks s2
          | none => s
    | none => s)

/-- The valued watch of a frame sent (11 Table 11.10). -/
def watchSent (p : Nat) (f : Sent) (s : State) : State :=
  match metaOf s f.desc.mta with
  | some m => if f.desc.foreign then s else watchEvent 0x0703 p 0 ((f.ts - m.inTs) / 16) s
  | none => s

/-- A transmission ends: counts and the release of its descriptor (01 R29; 08 R232). One that was ended (08 R242) counts nothing, and for a TWO_STEP frame leaves the entry that says so (10 R300; log entry 93). -/
def sentEnd (p : Nat) (f : Sent) (s : State) : State :=
  let d := f.desc
  let u := queueUnit p f.queue
  let s1 := wireOut p f.wire (modPort p (fun y => { y with inflight := y.inflight.erase f }) s)
  if d.bad then dropDesc p f.queue d { outcome := 7, cut := d.cut, stages := f.stages } s1
  else
    let n := f.wire.length
    let s2 := evAdd 0x0104 p 0 n (ev 0x0103 p (evAdd 0x020B u 0 n (ev 0x020A u s1)))
    let s3 := if d.cut then ev 0x0208 u s2 else s2
    releaseDesc p f.queue d { outcome := 0, egress := some f.ts, cut := d.cut, stages := f.stages } (watchSent p f s3)

/-- TRANSMIT_END: the frame that the port has been sending longest, once its last byte is known. -/
def execTransmitEnd (p : Nat) (s : State) : Host.Outcome State Fault Refusal :=
  .next (
    match port s p with
    | some x =>
      match x.inflight.find? (fun f => !f.dropped) with
      | some f => if f.desc.prov then s else sentEnd p f s
      | none => s
    | none => s)

end Sys2Proof.Machine
end

