-- ==== Sys2Proof/Machine/TimeRows.lean ====
section
/-! DEFINITION. Events of the time unit: loss of a source (10 R306, R311), edges on PPS_IN and the timing pins (R304, R317 to R319), and the end of a switchover slew (R308). -/

namespace Sys2Proof.Machine

/-- The other domain. -/
def otherDom (x : Nat) : Nat := if x = 0 then 1 else 0

/-- The first case of Table 10.10 on the loss of the current domain's source. -/
def lossSelect (x : Nat) (s : State) : State :=
  if x ≠ s.time.cur then s
  else if s.time.switchAuto ∧ (dom s (otherDom x)).locked = true ∧ s.time.split = false then switchDom (otherDom x) s
  else enterHoldover s

/-- A domain is declared SRC_LOST (10 R306). With PTP as its source BMCA lets the silent master go (log entry 92). -/
def srcLost (x : Nat) (s : State) : State :=
  let d := dom s x
  if 2 ≤ x ∨ d.srcLost = true ∨ d.since < d.lossTimeout then s
  else lossSelect x (modDom x (fun y => { y with
    srcLost := true, locked := false, good := 0, f := y.acc
    ptp := if y.source = 1 then { y.ptp with master := none, sync := none, toSlave := none } else y.ptp }) s)

/-- TIME_DOMAIN_SRC_LOST. -/
def execTimeDomainSrcLost (x : Nat) (s : State) : Host.Outcome State Fault Refusal := .next (srcLost x s)

/-- An edge at the land of a pin, or of PPS_IN as block 8: a rising edge of a servo source makes a sample, a TPIO pin only in capture mode, and an edge that EDGE selects is captured (10 R303, R304, R317). A pulse shorter than 4 ns is rejected whole (19 R548). -/
def pinEdge (n : Nat) (rising : Bool) (ph : Nat) (narrow : Bool) (s : State) : State :=
  if 9 ≤ n ∨ narrow = true ∨ scanHolds s = true ∨ s.time.running = false ∨ (n < 8 ∧ (pin s n).mode ≠ 1) then s
  else
    let s1 := if rising then edgeSamples (if n = 8 then 2 else 3) n ph s else s
    if edgeOn (pin s n) rising then pinCapture n rising ph s1 else s1

/-- PPS_EDGE: a rising edge on PPS_IN. -/
def execPpsEdge (ph : Nat) (narrow : Bool) (s : State) : Host.Outcome State Fault Refusal := .next (pinEdge 8 true ph narrow s)

/-- TPIO_CAPTURE: an edge on a pin in capture mode; the falling edge of PPS_IN comes here too, as block 8. -/
def execTpioCapture (n : Nat) (rising : Bool) (ph : Nat) (narrow : Bool) (s : State) : Host.Outcome State Fault Refusal :=
  .next (pinEdge n rising ph narrow s)

/-- Device time ph sixteenths after the boundary, in 2^-16 ns. -/
def t16At (s : State) (ph : Nat) : Nat := (t40At s ph / 2 ^ 24).toNat

/-- TPIO_ONE_SHOT_FIRE: device time has reached START + SUB/16. -/
def execTpioOneShotFire (n ph : Nat) (s : State) : Host.Outcome State Fault Refusal :=
  .next (
    let x := pin s n
    if n < 8 ∧ x.mode = 2 ∧ x.armed = true ∧ x.sStart * 4096 ≤ t16At s ph then
      modPin n (fun y => pinFire ph { y with armed := false }) s
    else s)

/-- TPIO_PERIODIC_EDGE: the next edge of the series is due. -/
def execTpioPeriodicEdge (n ph : Nat) (s : State) : Host.Outcome State Fault Refusal :=
  .next (
    let x := pin s n
    if n < 8 ∧ (x.mode = 3 ∨ x.mode = 4) ∧ x.armed = true ∧ x.due ≤ t16At s ph then
      modPin n (fun y => pinFire ph { y with due := y.due + y.sPeriod }) s
    else s)

/-! ## Slew -/

/-- SWITCHOVER_SLEW_END: D has come to 0 within the trick; the remainder goes (10 R308). It acts once no more than one trick of slew is left. -/
def execSwitchoverSlewEnd (s : State) : Host.Outcome State Fault Refusal :=
  .next (if s.time.running ∧ s.time.d.natAbs ≤ (slewStep s * 1024).natAbs then modTime (fun t => { t with d := 0 }) s else s)

end Sys2Proof.Machine
end

