-- ==== Sys2Proof/Machine/Dispatch.lean ====
section
/-! DEFINITION. The meaning of each command: one arm per row of the table of operations. -/

namespace Sys2Proof.Machine

/-- The effect of a command on everything but the queue. -/
def exec (i : Instr) (s : State) : Host.Outcome State Fault Refusal :=
  match i with
  | .trickBoundary i_ => Sys2Proof.Machine.execTrickBoundary i_ s
  | .sprintClockChange => Sys2Proof.Machine.execSprintClockChange s
  | .frameReceive port len data last fcsOk at_ => Sys2Proof.Machine.execFrameReceive port len data last fcsOk at_ s
  | .pfcReceive port vec times => Sys2Proof.Machine.execPfcReceive port vec times s
  | .pauseReceive port time => Sys2Proof.Machine.execPauseReceive port time s
  | .pauseTimerExpiry port pri => Sys2Proof.Machine.execPauseTimerExpiry port pri s
  | .slotIssue port banks => Sys2Proof.Machine.execSlotIssue port banks s
  | .pfcRefresh port pri => Sys2Proof.Machine.execPfcRefresh port pri s
  | .replication group => Sys2Proof.Machine.execReplication group s
  | .frameLastByte port rest fcsOk => Sys2Proof.Machine.execFrameLastByte port rest fcsOk s
  | .schedulerSelect port at_ banks => Sys2Proof.Machine.execSchedulerSelect port at_ banks s
  | .transmitEnd port => Sys2Proof.Machine.execTransmitEnd port s
  | .chainFree req addr => Sys2Proof.Machine.execChainFree req addr s
  | .queueHoldExpiry port => Sys2Proof.Machine.execQueueHoldExpiry port s
  | .freeListRebuildEnd sec => Sys2Proof.Machine.execFreeListRebuildEnd sec s
  | .learnExecute tc => Sys2Proof.Machine.execLearnExecute tc s
  | .tableEngineOp tc => Sys2Proof.Machine.execTableEngineOp tc s
  | .agerVisit tc => Sys2Proof.Machine.execAgerVisit tc s
  | .ageDeleteExecute tc => Sys2Proof.Machine.execAgeDeleteExecute tc s
  | .notificationForward tc => Sys2Proof.Machine.execNotificationForward tc s
  | .rowRepair f => Sys2Proof.Machine.execRowRepair f s
  | .eyeWindowEnd lane hist a => Sys2Proof.Machine.execEyeWindowEnd lane hist a s
  | .laneCdrLock lane offset => Sys2Proof.Machine.execLaneCdrLock lane offset s
  | .laneSignalLoss lane signal => Sys2Proof.Machine.execLaneSignalLoss lane signal s
  | .echoMeasureEnd lane e => Sys2Proof.Machine.execEchoMeasureEnd lane e s
  | .negotiationResolved port p => Sys2Proof.Machine.execNegotiationResolved port p s
  | .trainingComplete port => Sys2Proof.Machine.execTrainingComplete port s
  | .trainingTimeout port => Sys2Proof.Machine.execTrainingTimeout port s
  | .portAligned port skew => Sys2Proof.Machine.execPortAligned port skew s
  | .alignTimeout port localFault remoteFault skew => Sys2Proof.Machine.execAlignTimeout port localFault remoteFault skew s
  | .linkDown port e => Sys2Proof.Machine.execLinkDown port e s
  | .portPark port => Sys2Proof.Machine.execPortPark port s
  | .portProbe port => Sys2Proof.Machine.execPortProbe port s
  | .parkedSignal port => Sys2Proof.Machine.execParkedSignal port s
  | .fecUncorrectable lane => Sys2Proof.Machine.execFecUncorrectable lane s
  | .stormEnter port pri => Sys2Proof.Machine.execStormEnter port pri s
  | .stormExit port pri => Sys2Proof.Machine.execStormExit port pri s
  | .lldpTx port => Sys2Proof.Machine.execLldpTx port s
  | .lldpduReceive port pdu => Sys2Proof.Machine.execLldpduReceive port pdu s
  | .lldpTtlExpiry port => Sys2Proof.Machine.execLldpTtlExpiry port s
  | .esmcTx port event => Sys2Proof.Machine.execEsmcTx port event s
  | .synceOutResume out => Sys2Proof.Machine.execSynceOutResume out s
  | .refclkLoss ref => Sys2Proof.Machine.execRefclkLoss ref s
  | .refclkReturn ref => Sys2Proof.Machine.execRefclkReturn ref s
  | .timeDomainSrcLost dom => Sys2Proof.Machine.execTimeDomainSrcLost dom s
  | .ppsEdge ph narrow => Sys2Proof.Machine.execPpsEdge ph narrow s
  | .tpioCapture pin rising ph narrow => Sys2Proof.Machine.execTpioCapture pin rising ph narrow s
  | .tpioOneShotFire pin ph => Sys2Proof.Machine.execTpioOneShotFire pin ph s
  | .tpioPeriodicEdge pin ph => Sys2Proof.Machine.execTpioPeriodicEdge pin ph s
  | .ptpMessageReceive m => Sys2Proof.Machine.execPtpMessageReceive m s
  | .heartbeatReceive port frame at_ => Sys2Proof.Machine.execHeartbeatReceive port frame at_ s
  | .stackLinkMiss port => Sys2Proof.Machine.execStackLinkMiss port s
  | .stackMemberExpiry level path => Sys2Proof.Machine.execStackMemberExpiry level path s
  | .controlFrameReceive port frame => Sys2Proof.Machine.execControlFrameReceive port frame s
  | .controlResend seq => Sys2Proof.Machine.execControlResend seq s
  | .issueRateChange rate => Sys2Proof.Machine.execIssueRateChange rate s
  | .limiterEngage iin => Sys2Proof.Machine.execLimiterEngage iin s
  | .limiterRelease => Sys2Proof.Machine.execLimiterRelease s
  | .inputLimitShed => Sys2Proof.Machine.execInputLimitShed s
  | .emergencyShed t => Sys2Proof.Machine.execEmergencyShed t s
  | .emergencyShedEnd => Sys2Proof.Machine.execEmergencyShedEnd s
  | .thermalTrip tj => Sys2Proof.Machine.execThermalTrip tj s
  | .vinLoss vin => Sys2Proof.Machine.execVinLoss vin s
  | .rungExitComplete u => Sys2Proof.Machine.execRungExitComplete u s
  | .octetRampBatch => Sys2Proof.Machine.execOctetRampBatch s
  | .flashStore erase => Sys2Proof.Machine.execFlashStore erase s
  | .trendPeriodClose counts => Sys2Proof.Machine.execTrendPeriodClose counts s
  | .irqModTimeout v => Sys2Proof.Machine.execIrqModTimeout v s
  | .msixUnmask v => Sys2Proof.Machine.execMsixUnmask v s
  | .conversionStart vin => Sys2Proof.Machine.execConversionStart vin s
  | .bootRomStart => Sys2Proof.Machine.execBootRomStart s
  | .fwStartTimeout => Sys2Proof.Machine.execFwStartTimeout s
  | .readyRise failing => Sys2Proof.Machine.execReadyRise failing s
  | .hostLinkTrain link => Sys2Proof.Machine.execHostLinkTrain link s
  | .perstAssert us => Sys2Proof.Machine.execPerstAssert us s
  | .perstDeassert => Sys2Proof.Machine.execPerstDeassert s
  | .fwWatchdogExpiry => Sys2Proof.Machine.execFwWatchdogExpiry s
  | .hostPowerState d0 => Sys2Proof.Machine.execHostPowerState d0 s
  | .hostDevmemAccess addr wr rd bad => Sys2Proof.Machine.execHostDevmemAccess addr wr rd bad s
  | .mbMessageWrite who mb off data => Sys2Proof.Machine.execMbMessageWrite who mb off data s
  | .mbDoorbell who mb => Sys2Proof.Machine.execMbDoorbell who mb s
  | .mbAbort who mb => Sys2Proof.Machine.execMbAbort who mb s
  | .commandComplete mb => Sys2Proof.Machine.execCommandComplete mb s
  | .laneClassSet mb => Sys2Proof.Machine.execLaneClassSet mb s
  | .laneStatusGet mb => Sys2Proof.Machine.execLaneStatusGet mb s
  | .laneEchoMeasure mb => Sys2Proof.Machine.execLaneEchoMeasure mb s
  | .laneAdaptCtl mb => Sys2Proof.Machine.execLaneAdaptCtl mb s
  | .portConfig mb => Sys2Proof.Machine.execPortConfig mb s
  | .portStatusGet mb => Sys2Proof.Machine.execPortStatusGet mb s
  | .portPartnerGet mb => Sys2Proof.Machine.execPortPartnerGet mb s
  | .portGuardSet mb => Sys2Proof.Machine.execPortGuardSet mb s
  | .synceSet mb => Sys2Proof.Machine.execSynceSet mb s
  | .parserPortSet mb => Sys2Proof.Machine.execParserPortSet mb s
  | .parserGroupSet mb => Sys2Proof.Machine.execParserGroupSet mb s
  | .tableCreate mb => Sys2Proof.Machine.execTableCreate mb s
  | .tableLadderSet mb => Sys2Proof.Machine.execTableLadderSet mb s
  | .tableOp mb => Sys2Proof.Machine.execTableOp mb s
  | .tableStatusGet mb => Sys2Proof.Machine.execTableStatusGet mb s
  | .meterSet mb => Sys2Proof.Machine.execMeterSet mb s
  | .meterGet mb => Sys2Proof.Machine.execMeterGet mb s
  | .excSet mb => Sys2Proof.Machine.execExcSet mb s
  | .queueSet mb => Sys2Proof.Machine.execQueueSet mb s
  | .portBufSet mb => Sys2Proof.Machine.execPortBufSet mb s
  | .bufGlobalSet mb => Sys2Proof.Machine.execBufGlobalSet mb s
  | .bufSectionSet mb => Sys2Proof.Machine.execBufSectionSet mb s
  | .mcastSet mb => Sys2Proof.Machine.execMcastSet mb s
  | .bufStatusGet mb => Sys2Proof.Machine.execBufStatusGet mb s
  | .queueStatusGet mb => Sys2Proof.Machine.execQueueStatusGet mb s
  | .portBufStatusGet mb => Sys2Proof.Machine.execPortBufStatusGet mb s
  | .schedPortSet mb => Sys2Proof.Machine.execSchedPortSet mb s
  | .schedQueueSet mb => Sys2Proof.Machine.execSchedQueueSet mb s
  | .shaperSet mb => Sys2Proof.Machine.execShaperSet mb s
  | .shaperGet mb => Sys2Proof.Machine.execShaperGet mb s
  | .schedStatusGet mb => Sys2Proof.Machine.execSchedStatusGet mb s
  | .timeSet mb => Sys2Proof.Machine.execTimeSet mb s
  | .timePortSet mb => Sys2Proof.Machine.execTimePortSet mb s
  | .timeDomainSet mb => Sys2Proof.Machine.execTimeDomainSet mb s
  | .timeGlobalSet mb => Sys2Proof.Machine.execTimeGlobalSet mb s
  | .timeSelect mb => Sys2Proof.Machine.execTimeSelect mb s
  | .timeStatusGet mb => Sys2Proof.Machine.execTimeStatusGet mb s
  | .timeMasterListSet mb => Sys2Proof.Machine.execTimeMasterListSet mb s
  | .timeAuthSet mb => Sys2Proof.Machine.execTimeAuthSet mb s
  | .telemMemSet mb => Sys2Proof.Machine.execTelemMemSet mb s
  | .flowGlobalSet mb => Sys2Proof.Machine.execFlowGlobalSet mb s
  | .flowProfileSet mb => Sys2Proof.Machine.execFlowProfileSet mb s
  | .dumpSet mb => Sys2Proof.Machine.execDumpSet mb s
  | .watchSet mb => Sys2Proof.Machine.execWatchSet mb s
  | .sampleSet mb => Sys2Proof.Machine.execSampleSet mb s
  | .ioamSet mb => Sys2Proof.Machine.execIoamSet mb s
  | .stackConfig mb => Sys2Proof.Machine.execStackConfig mb s
  | .stackLinkSet mb => Sys2Proof.Machine.execStackLinkSet mb s
  | .stackRouteSet mb => Sys2Proof.Machine.execStackRouteSet mb s
  | .stackMemberSet mb => Sys2Proof.Machine.execStackMemberSet mb s
  | .stackStatusGet mb => Sys2Proof.Machine.execStackStatusGet mb s
  | .stackLinkStatusGet mb => Sys2Proof.Machine.execStackLinkStatusGet mb s
  | .stackEpisodesGet mb => Sys2Proof.Machine.execStackEpisodesGet mb s
  | .deviceInfoGet mb => Sys2Proof.Machine.execDeviceInfoGet mb s
  | .unitStatusGet mb => Sys2Proof.Machine.execUnitStatusGet mb s
  | .unitCountersGet mb => Sys2Proof.Machine.execUnitCountersGet mb s
  | .unitRungSet mb => Sys2Proof.Machine.execUnitRungSet mb s
  | .unitFaultGet mb => Sys2Proof.Machine.execUnitFaultGet mb s
  | .imageWrite mb => Sys2Proof.Machine.execImageWrite mb s
  | .imageStatusGet mb => Sys2Proof.Machine.execImageStatusGet mb s
  | .fwPatchApply mb => Sys2Proof.Machine.execFwPatchApply mb s
  | .ucStage mb => Sys2Proof.Machine.execUcStage mb s
  | .ucStagingEnd => Sys2Proof.Machine.execUcStagingEnd s
  | .ucCommit mb => Sys2Proof.Machine.execUcCommit mb s
  | .ucRollback mb => Sys2Proof.Machine.execUcRollback mb s
  | .pwrCapSet mb => Sys2Proof.Machine.execPwrCapSet mb s
  | .pwrShedSet mb => Sys2Proof.Machine.execPwrShedSet mb s
  | .pwrDomainSet mb => Sys2Proof.Machine.execPwrDomainSet mb s
  | .pwrStatusGet mb => Sys2Proof.Machine.execPwrStatusGet mb s
  | .pwrAgeLogGet mb => Sys2Proof.Machine.execPwrAgeLogGet mb s
  | .fltSourceSet mb => Sys2Proof.Machine.execFltSourceSet mb s
  | .fltStatusGet mb => Sys2Proof.Machine.execFltStatusGet mb s
  | .fltClear mb => Sys2Proof.Machine.execFltClear mb s
  | .fltTestChallengeGet mb => Sys2Proof.Machine.execFltTestChallengeGet mb s
  | .fltTestUnlock mb => Sys2Proof.Machine.execFltTestUnlock mb s
  | .fltTestLock mb => Sys2Proof.Machine.execFltTestLock mb s
  | .testFaultInject mb => Sys2Proof.Machine.execTestFaultInject mb s
  | .boardTableWrite mb => Sys2Proof.Machine.execBoardTableWrite mb s
  | .boardTableGet mb => Sys2Proof.Machine.execBoardTableGet mb s
  | .registerWrite who addr width value => Sys2Proof.Machine.execRegisterWrite who addr width value s
  | .rcRegisterRead who addr width => Sys2Proof.Machine.execRcRegisterRead who addr width s
  | .trickCounterLatchRead who addr width => Sys2Proof.Machine.execTrickCounterLatchRead who addr width s
  | .fixedFreqSet who on => Sys2Proof.Machine.execFixedFreqSet who on s
  | .timeNowRead who addr width ph => Sys2Proof.Machine.execTimeNowRead who addr width ph s
  | .tsqEntryLatch who width => Sys2Proof.Machine.execTsqEntryLatch who width s
  | .tsqEntryPop who width => Sys2Proof.Machine.execTsqEntryPop who width s
  | .timeSampleWrite who dom width value => Sys2Proof.Machine.execTimeSampleWrite who dom width value s
  | .tpioModeWrite who pin value => Sys2Proof.Machine.execTpioModeWrite who pin value s
  | .tpioCapLatch who pin => Sys2Proof.Machine.execTpioCapLatch who pin s
  | .tpioCapPop who pin => Sys2Proof.Machine.execTpioCapPop who pin s
  | .pwrEnergyRead who addr width => Sys2Proof.Machine.execPwrEnergyRead who addr width s
  | .tableWindowWrite who addr width value => Sys2Proof.Machine.execTableWindowWrite who addr width value s
  | .tblWinCtlWrite who win value => Sys2Proof.Machine.execTblWinCtlWrite who win value s
  | .fltStickyClear who k value => Sys2Proof.Machine.execFltStickyClear who k value s
  | .fltSevereClear who k value => Sys2Proof.Machine.execFltSevereClear who k value s
  | .ciphTake who => Sys2Proof.Machine.execCiphTake who s
  | .ciphRelease who => Sys2Proof.Machine.execCiphRelease who s
  | .ciphLeaseExpiry => Sys2Proof.Machine.execCiphLeaseExpiry s
  | .ciphGo who value => Sys2Proof.Machine.execCiphGo who value s
  | .ciphDone => Sys2Proof.Machine.execCiphDone s
  | .ciphKeyLoad who slot => Sys2Proof.Machine.execCiphKeyLoad who slot s
  | .ciphKeyClear who slot => Sys2Proof.Machine.execCiphKeyClear who slot s
  | .ringEnable ring value => Sys2Proof.Machine.execRingEnable ring value s
  | .ringDisable ring value => Sys2Proof.Machine.execRingDisable ring value s
  | .sqDoorbell ring host err => Sys2Proof.Machine.execSqDoorbell ring host err s
  | .sqStakeWaitEnd ring => Sys2Proof.Machine.execSqStakeWaitEnd ring s
  | .ringHostIdxWrite ring value => Sys2Proof.Machine.execRingHostIdxWrite ring value s
  | .cqHoldDrain ring => Sys2Proof.Machine.execCqHoldDrain ring s
  | .rxHoldDrain ring => Sys2Proof.Machine.execRxHoldDrain ring s
  | .dmaStart ch host => Sys2Proof.Machine.execDmaStart ch host s
  | .dmaAbort ch => Sys2Proof.Machine.execDmaAbort ch s
  | .dmaDoorbell ch host => Sys2Proof.Machine.execDmaDoorbell ch host s
  | .dmaEnd ch err => Sys2Proof.Machine.execDmaEnd ch err s
  | .dmaMove ch err => Sys2Proof.Machine.execDmaMove ch err s
  | .dmaMoveCrc ch err => Sys2Proof.Machine.execDmaMoveCrc ch err s
  | .dmaFill ch err => Sys2Proof.Machine.execDmaFill ch err s
  | .dmaCompare ch err => Sys2Proof.Machine.execDmaCompare ch err s
  | .dmaLoop ch err => Sys2Proof.Machine.execDmaLoop ch err s
  | .dmaWait ch err => Sys2Proof.Machine.execDmaWait ch err s
  | .dmaWaitEnd ch => Sys2Proof.Machine.execDmaWaitEnd ch s
  | .dmaSignal ch err => Sys2Proof.Machine.execDmaSignal ch err s
  | .dmaJump ch err => Sys2Proof.Machine.execDmaJump ch err s
  | .dmaStallEnd ch => Sys2Proof.Machine.execDmaStallEnd ch s
  | .i3cPrivateTransfer t => Sys2Proof.Machine.execI3cPrivateTransfer t s
  | .i3cCcc code arg => Sys2Proof.Machine.execI3cCcc code arg s
  | .jtagBypass => Sys2Proof.Machine.execJtagBypass s
  | .jtagIdcode => Sys2Proof.Machine.execJtagIdcode s
  | .jtagSamplePreload pins load => Sys2Proof.Machine.execJtagSamplePreload pins load s
  | .jtagExtest => Sys2Proof.Machine.execJtagExtest s
  | .jtagClamp => Sys2Proof.Machine.execJtagClamp s
  | .jtagHighz => Sys2Proof.Machine.execJtagHighz s
  | .commaReceive lane rx => Sys2Proof.Machine.execCommaReceive lane rx s
  | .trainingCoeffRequest lane r => Sys2Proof.Machine.execTrainingCoeffRequest lane r s
  | .ptpMessageTx dom port msgType msg => Sys2Proof.Machine.execPtpMessageTx dom port msgType msg s
  | .switchoverSlewEnd => Sys2Proof.Machine.execSwitchoverSlewEnd s
  | .rungEntryComplete u => Sys2Proof.Machine.execRungEntryComplete u s
  | .flashStoreEnd ok => Sys2Proof.Machine.execFlashStoreEnd ok s
  | .fwRunningSet => Sys2Proof.Machine.execFwRunningSet s
  | .timePllLock => Sys2Proof.Machine.execTimePllLock s
  | .startTemperatureReached tmin => Sys2Proof.Machine.execStartTemperatureReached tmin s
  | .registerReadError who addr width => Sys2Proof.Machine.execRegisterReadError who addr width s

end Sys2Proof.Machine
end

