-- ==== Sys2Proof/Safety.lean ====
section
/-! DEFINITION. What counts as a safe run, the invariant that statements use, and the words in which they speak of commands in mailboxes. -/

namespace Sys2Proof.Safety

open Sys2Proof.Machine

/-- A step that goes on. -/
def goesOn (s : State) : Prop := ∃ t, step s = .next t

/-- Device memory, host memory and the shared buffer's cells are in canonical form: addresses rising, no byte zero. -/
def memoriesWf (s : State) : Bool :=
  memWf s.devMem && memWf s.hostMem && memWf s.buf.mem

/-- A request of a code with payload p stands in mailbox m, and firmware, or the boot ROM in recovery, executes it next (13 R404; 18 R525). -/
def waiting (m code : Nat) (p : List Byte) (s : State) : Bool :=
  match (mbox s m).cmd with
  | some c =>
    decide (c.code = code) && decide (c.payload = p) && decide (c.wait = .exec) && myTurn s m code && s.boot.patchAt.isNone
      && (s.boot.fwRunning || decide (s.boot.phase = .recovery))
  | none => false

/-- A payload holds at least len bytes, zero beyond them, and its path names a unit of this chip of one of some KINDs (13 R402, R408). -/
def addressedAny (s : State) (p : List Byte) (len : Nat) (kinds : List Nat) : Bool :=
  decide (16 ≤ p.length) && decide (len ≤ p.length) && (p.drop len).all (fun b => decide (b = 0)) && !pathBad false p
    && kinds.contains (pathOf p).kind && decide (target s (pathOf p) = .here)

/-- The same, of a unit that exists (00 R13). -/
def addressed (s : State) (p : List Byte) (len : Nat) (kinds : List Nat) : Bool :=
  addressedAny s p len kinds && unitExists s (pathOf p)

/-- The command in mailbox m is answered OK with a response payload. -/
def answered (m : Nat) (r : List Byte) (s : State) : State := answer m stOk 0 r s

/-- The command in mailbox m waits for an outside event. -/
def held (m : Nat) (w : Wait) (s : State) : State := modCmd m (fun c => { c with wait := w }) s

/-- A setting joins those that the next trick boundary makes. -/
def scheduled (m code : Nat) (p : List Byte) (s : State) : State :=
  { s with deferred := s.deferred ++ [{ code := code, req := p, mb := m }] }

/-- Between two states nothing but lane l differs. -/
def onlyLane (l : Nat) (s t : State) : Prop := t = { s with lanes := t.lanes } ∧ ∀ k, k ≠ l → lane t k = lane s k

/-- Between two states nothing but port p differs. -/
def onlyPort (p : Nat) (s t : State) : Prop := t = { s with ports := t.ports } ∧ ∀ k, k ≠ p → port t k = port s k

/-- A requester received a value. -/
def received (who : Who) (v : Nat) (s : State) : State :=
  { s with bus := { rdata := tabPut s.bus.rdata (whoNo who) (BitVec.ofNat 64 v) } }

/-- Entries that a ring holds or that wait for it are one slot long, but for those of a running RX ring; the indices of a CQ or RX ring that is not OFF are in range, and no more slots are in use than the ring has (14 R429, R431). -/
def ringOk (x : Ring) : Prop :=
  (∀ e ∈ x.hold, e.1.length = 64 ∨ (x.typ = .rx ∧ x.st = .run)) ∧ (∀ b, x.stalled = some b → b.length = 64) ∧
  (x.st ≠ .off → (x.typ = .cq ∨ x.typ = .rx) → x.p < 2 * ringSize x ∧ x.c < 2 * ringSize x ∧ ringUsed x ≤ ringSize x)

/-- Every ring is so, and every record that is due is one slot long. -/
def ringsOk (s : State) : Prop := (∀ r, ringOk (ring s r)) ∧ ∀ k, ∀ b ∈ (chan s k).due, b.length = 64

/-- The rows of the rings and of the DMA channels. -/
def ringRow (i : Instr) : Bool :=
  match i with
  | .ringEnable _ _ | .ringDisable _ _ | .sqDoorbell _ _ _ | .sqStakeWaitEnd _ | .ringHostIdxWrite _ _ | .cqHoldDrain _ | .rxHoldDrain _ => true
  | .dmaStart _ _ | .dmaAbort _ | .dmaDoorbell _ _ | .dmaEnd _ _ | .dmaMove _ _ | .dmaMoveCrc _ _ | .dmaFill _ _ | .dmaCompare _ _ => true
  | .dmaLoop _ _ | .dmaWait _ _ | .dmaWaitEnd _ | .dmaSignal _ _ | .dmaJump _ _ | .dmaStallEnd _ => true
  | _ => false

end Sys2Proof.Safety
end

