-- ==== Sys2Proof/WellFormed.lean ====
section
/-! DEFINITION. When a command's operands name something that the block has: ranges of the units of 00 Table 0.2, of mailboxes, rings, channels, vectors and pins. A command that is not well formed still has a meaning: it finds no unit and changes nothing, or is answered as a bad register access. -/

namespace Sys2Proof

/-- The mailbox that a command names. -/
def mailboxOf (i : Instr) : Option Nat :=
  match i with
  | .mbMessageWrite _ m _ _ | .mbDoorbell _ m | .mbAbort _ m | .commandComplete m => some m
  | .laneClassSet m | .laneStatusGet m | .laneEchoMeasure m | .laneAdaptCtl m => some m
  | .portConfig m | .portStatusGet m | .portPartnerGet m | .portGuardSet m | .synceSet m => some m
  | .parserPortSet m | .parserGroupSet m => some m
  | .tableCreate m | .tableLadderSet m | .tableOp m | .tableStatusGet m => some m
  | .meterSet m | .meterGet m | .excSet m => some m
  | .queueSet m | .portBufSet m | .bufGlobalSet m | .bufSectionSet m | .mcastSet m => some m
  | .bufStatusGet m | .queueStatusGet m | .portBufStatusGet m => some m
  | .schedPortSet m | .schedQueueSet m | .shaperSet m | .shaperGet m | .schedStatusGet m => some m
  | .timeSet m | .timePortSet m | .timeDomainSet m | .timeGlobalSet m | .timeSelect m => some m
  | .timeStatusGet m | .timeMasterListSet m | .timeAuthSet m => some m
  | .telemMemSet m | .flowGlobalSet m | .flowProfileSet m | .dumpSet m | .watchSet m => some m
  | .sampleSet m | .ioamSet m => some m
  | .stackConfig m | .stackLinkSet m | .stackRouteSet m | .stackMemberSet m | .stackStatusGet m => some m
  | .stackLinkStatusGet m | .stackEpisodesGet m => some m
  | .deviceInfoGet m | .unitStatusGet m | .unitCountersGet m | .unitRungSet m | .unitFaultGet m => some m
  | .imageWrite m | .imageStatusGet m | .fwPatchApply m | .ucStage m | .ucCommit m | .ucRollback m => some m
  | .pwrCapSet m | .pwrShedSet m | .pwrDomainSet m | .pwrStatusGet m | .pwrAgeLogGet m => some m
  | .fltSourceSet m | .fltStatusGet m | .fltClear m | .fltTestChallengeGet m | .fltTestUnlock m => some m
  | .fltTestLock m | .testFaultInject m | .boardTableWrite m | .boardTableGet m => some m
  | _ => none

/-- The port that a command names (00 Table 0.2). -/
def portOf (i : Instr) : Option Nat :=
  match i with
  | .frameReceive p _ _ _ _ _ | .pfcReceive p _ _ | .pauseReceive p _ | .pauseTimerExpiry p _ => some p
  | .slotIssue p _ | .pfcRefresh p _ | .frameLastByte p _ _ | .schedulerSelect p _ _ | .transmitEnd p => some p
  | .queueHoldExpiry p | .negotiationResolved p _ | .trainingComplete p | .trainingTimeout p => some p
  | .portAligned p _ | .alignTimeout p _ _ _ | .linkDown p _ | .portPark p | .portProbe p => some p
  | .parkedSignal p | .stormEnter p _ | .stormExit p _ | .lldpTx p | .lldpduReceive p _ => some p
  | .lldpTtlExpiry p | .esmcTx p _ | .heartbeatReceive p _ _ | .stackLinkMiss p => some p
  | .controlFrameReceive p _ | .ptpMessageTx _ p _ _ => some p
  | _ => none

/-- The lane that a command names. -/
def laneOf (i : Instr) : Option Nat :=
  match i with
  | .eyeWindowEnd l _ _ | .laneCdrLock l _ | .laneSignalLoss l _ | .echoMeasureEnd l _ => some l
  | .fecUncorrectable l | .commaReceive l _ | .trainingCoeffRequest l _ => some l
  | _ => none

/-- The table cluster that a command names. -/
def clusterOfCmd (i : Instr) : Option Nat :=
  match i with
  | .learnExecute c | .tableEngineOp c | .agerVisit c | .ageDeleteExecute c | .notificationForward c => some c
  | _ => none

/-- The ring that a command names. -/
def ringOf (i : Instr) : Option Nat :=
  match i with
  | .ringEnable r _ | .ringDisable r _ | .sqDoorbell r _ _ | .sqStakeWaitEnd r | .ringHostIdxWrite r _ => some r
  | .cqHoldDrain r | .rxHoldDrain r => some r
  | _ => none

/-- The DMA channel that a command names. -/
def chanOf (i : Instr) : Option Nat :=
  match i with
  | .dmaStart c _ | .dmaAbort c | .dmaDoorbell c _ | .dmaEnd c _ | .dmaMove c _ | .dmaMoveCrc c _ => some c
  | .dmaFill c _ | .dmaCompare c _ | .dmaLoop c _ | .dmaWait c _ | .dmaWaitEnd c | .dmaSignal c _ => some c
  | .dmaJump c _ | .dmaStallEnd c => some c
  | _ => none

/-- A named index lies below its bound, or no index is named. -/
def below (o : Option Nat) (n : Nat) : Bool :=
  match o with
  | some x => decide (x < n)
  | none => true

/-- The other operands with a range of their own. -/
def smallOk (i : Instr) : Bool :=
  match i with
  | .replication g => decide (g < 32)
  | .chainFree r _ => decide (r < 36)
  | .freeListRebuildEnd n => decide (n < 8)
  | .synceOutResume o => decide (o < 2)
  | .refclkLoss r | .refclkReturn r => decide (r < 6)
  | .timeDomainSrcLost d => decide (d < 2)
  | .tpioCapture p _ _ _ => decide (p < 9)
  | .tpioOneShotFire p _ | .tpioPeriodicEdge p _ => decide (p < 8)
  | .stackMemberExpiry _ m => decide (m < 64)
  | .irqModTimeout v | .msixUnmask v => decide (v < 128)
  | .timeSampleWrite _ d _ _ => decide (d < 2)
  | .tpioModeWrite _ p _ | .tpioCapLatch _ p | .tpioCapPop _ p => decide (p < 9)
  | .tblWinCtlWrite _ w _ => decide (w < 5)
  | .fltStickyClear _ k _ | .fltSevereClear _ k _ => decide (k < 4)
  | .ciphKeyLoad _ k | .ciphKeyClear _ k => decide (k < 16)
  | .pfcReceive _ _ t => decide (t.length = 8)
  | .frameReceive _ n d l _ _ => decide (d.length ≤ n) && (!l || decide (d.length = n))
  | .hostDevmemAccess _ w r _ => (decide (r = 0) || w.isEmpty)
  | _ => true

/-- Well-formedness of a command. -/
def wf (i : Instr) : Bool :=
  below (mailboxOf i) 32 && below (portOf i) 512 && below (laneOf i) 512 && below (clusterOfCmd i) 4 &&
    below (ringOf i) 64 && below (chanOf i) 32 && smallOk i

end Sys2Proof
end

