-- ==== Sys2Proof/Certificates/Slice0/Obligations.lean ====
section
/-! DEFINITION. The statements of this model for the provers: every command completes where the rules say, what a step may change, and the invariants of the whole machine. -/

open Sys2Proof Sys2Proof.Machine Sys2Proof.Safety

/-! ## Commands of lanes and ports -/

/-- LANE_CLASS_SET, LANE_STATUS_GET, LANE_ECHO_MEASURE and LANE_ADAPT_CTL on a lane of this chip, with fields in their ranges and no refusal of 03 R66, R69, R76, R90, R92, R93: each has its effect and is answered, or waits for the measurement to end. Where the spec leaves a point open the clauses state the choice of the model: log entries 101 to 103. -/
def Obligations.LaneCommandsComplete : Prop :=
  (∀ (m : Nat) (p : List Byte) (s : State),
    waiting m 0x0201 p s = true → addressed s p 24 [2] = true →
    fld p 16 1 ≤ 15 → fld p 17 1 < 4 → (fld p 18 2 = 0 ∨ 500 ≤ fld p 18 2 ∧ fld p 18 2 ≤ 1000) → fld p 20 4 = 0 →
    ((fld p 17 1).testBit 0 = true ∨ ∀ y, portOfLane s (pathOf p).index = some y → y.2.link ≠ .up) →
    ¬ (fld p 16 1 = 5 ∧ (linearOk s (pathOf p).index = false ∨ laneMode s (pathOf p).index = 1)) →
    (laneMode s (pathOf p).index ≠ 0 → fld p 16 1 ≠ 0 →
      firSelect s (pathOf p).index (fld p 16 1) (laneMode s (pathOf p).index) ((fld p 17 1).testBit 1) ≠ none) →
    exec (.laneClassSet m) s = .next (answered m
      (classResp s (pathOf p).index (if laneMode s (pathOf p).index = 0 ∨ fld p 16 1 = 0 then none
        else firSelect s (pathOf p).index (fld p 16 1) (laneMode s (pathOf p).index) ((fld p 17 1).testBit 1)))
      (scheduled m 0x0201 p (if (lane s (pathOf p).index).ageMove then
        ageRecord 3 (b2n (lane s (pathOf p).index).useAlt) (b2n ((fld p 17 1).testBit 1)) (pathOf p).index (lane s (pathOf p).index).trendMean
          (modLane (pathOf p).index (fun y => { y with ageMove := false }) s) else s)))) ∧
  (∀ (m : Nat) (p : List Byte) (s : State),
    waiting m 0x0202 p s = true → addressed s p 16 [2] = true →
    exec (.laneStatusGet m) s = .next (answered m (laneStatus s (pathOf p).index) s)) ∧
  (∀ (m : Nat) (p : List Byte) (s : State),
    waiting m 0x0203 p s = true → addressed s p 24 [2] = true →
    (fld p 16 1 = 0 ∨ 8 ≤ fld p 16 1 ∧ fld p 16 1 ≤ 16) → fld p 17 7 = 0 → (lane s (pathOf p).index).cls ∈ [0, 1, 2, 6] →
    (∀ y, portOfLane s (pathOf p).index = some y → y.2.link ≠ .up ∧ y.2.link ≠ .training) → (lane s (pathOf p).index).echo = none →
    exec (.laneEchoMeasure m) s = .next (held m (.echo (pathOf p).index)
      (modLane (pathOf p).index (fun y => { y with echo := some ⟨if fld p 16 1 = 0 then 12 else fld p 16 1, m⟩ }) s))) ∧
  (∀ (m : Nat) (p : List Byte) (s : State),
    waiting m 0x0204 p s = true → addressed s p 24 [2] = true → fld p 17 7 = 0 →
    (fld p 16 1 ≤ 2 → (lane s (pathOf p).index).rung = 0 ∧ (lane s (pathOf p).index).moving = false) →
    (fld p 16 1 = 0 → exec (.laneAdaptCtl m) s = .next (answered m []
      (modLane (pathOf p).index (fun x => if x.cdr = true ∧ x.frozen = false then { x with freezeNext := true } else { x with frozen := true }) s))) ∧
    (fld p 16 1 = 1 → exec (.laneAdaptCtl m) s = .next (answered m []
      (modLane (pathOf p).index (fun x => { x with frozen := false, freezeNext := false }) s))) ∧
    (fld p 16 1 = 2 → exec (.laneAdaptCtl m) s = .next (answered m []
      (modLane (pathOf p).index (fun x => { startAdapt x with ctle := 0, fullReadapt := true, perFull := true }) s))) ∧
    (fld p 16 1 = 3 → exec (.laneAdaptCtl m) s = .next (answered m [] (dropStored (pathOf p).index s))))

/-- PORT_CONFIG with width 0 on a configured port, and with width 1, 2, 4 or 8 on lanes free of other ports (04 R95, R97, Table 4.10): the port is removed, or it is configured; the response is the port's path. -/
def Obligations.PortConfigComplete : Prop :=
  (∀ (m : Nat) (p : List Byte) (s : State),
    waiting m 0x0210 p s = true → addressedAny s p 32 [2] = true → fld p 22 10 = 0 → fld p 16 1 = 0 →
    (pathOf p).index < laneCount s → (port s (pathOf p).index).isSome = true →
    exec (.portConfig m) s = .next (answered m (pathBytes { pathOf p with kind := 3 }) (unconfigPort (pathOf p).index s))) ∧
  (∀ (m : Nat) (p : List Byte) (s : State),
    waiting m 0x0210 p s = true → addressedAny s p 32 [2] = true → fld p 22 10 = 0 → fld p 16 1 ∈ [1, 2, 4, 8] →
    (pathOf p).index % fld p 16 1 = 0 → (1 ≤ fld p 17 1 ∧ fld p 17 1 ≤ 3) → fld p 18 1 ≤ 2 → fld p 19 1 < 16 →
    (fld p 20 2 = 0 ∨ 64 ≤ fld p 20 2 ∧ fld p 20 2 ≤ 16000) →
    (pathOf p).index + fld p 16 1 ≤ laneCount s → portOverlap s (pathOf p).index (fld p 16 1) = false →
    (∀ i < fld p 16 1, (fld p 17 1 = 3 → noN400 s ((pathOf p).index + i) = false) ∧ classFits s (fld p 17 1) ((pathOf p).index + i) = true) →
    atRun s (64 + groupOf (pathOf p).index) = true → entryValid s.uc.active 0 = true →
    (s.uc.st = .committed → entryValid s.uc.standby 0 = true) →
    exec (.portConfig m) s = .next (answered m (pathBytes { pathOf p with kind := 3 })
      (configPort (pathOf p).index (fld p 16 1) (fld p 17 1) (fld p 18 1) (fld p 19 1) (fld p 20 2)
        (forAll ((List.range (fld p 16 1)).map (fun i => (pathOf p).index + i)) echoStop s))))

/-- PORT_STATUS_GET, PORT_PARTNER_GET, PORT_GUARD_SET, SYNCE_SET, PARSER_PORT_SET and PARSER_GROUP_SET with fields in their ranges: the status commands report and change nothing, the settings are answered and wait for the next trick boundary (04 R114, R115, Tables 4.11 to 4.14; 05 R138, R140). -/
def Obligations.PortCommandsComplete : Prop :=
  (∀ (m : Nat) (p : List Byte) (s : State),
    waiting m 0x0211 p s = true → addressed s p 16 [3] = true →
    exec (.portStatusGet m) s = .next (answered m (portStatus s (pathOf p).index) s)) ∧
  (∀ (m : Nat) (p : List Byte) (s : State),
    waiting m 0x0212 p s = true → addressed s p 16 [3] = true →
    exec (.portPartnerGet m) s = .next (answered m (portPartner s (pathOf p).index) s)) ∧
  (∀ (m : Nat) (p : List Byte) (s : State),
    waiting m 0x0213 p s = true → addressed s p 36 [3] = true →
    1 ≤ fld p 18 2 → (1 ≤ fld p 20 1 ∧ fld p 20 1 ≤ 4) → (4 ≤ fld p 21 1 ∧ fld p 21 1 ≤ 16) → 1 ≤ fld p 24 2 → fld p 24 2 < fld p 22 2 →
    fld p 26 2 = 0 → fld p 28 4 ≤ 16777215 → (1 ≤ fld p 32 4 ∧ fld p 32 4 ≤ 2 ^ 31) →
    exec (.portGuardSet m) s = .next (answered m [] (scheduled m 0x0213 p s))) ∧
  (∀ (m : Nat) (p : List Byte) (s : State),
    waiting m 0x0214 p s = true → 48 ≤ p.length → (p.drop 48).all (fun b => decide (b = 0)) = true → synceBad p 0 = false → synceBad p 16 = false →
    (∀ a ∈ [0, 16], allZero (slice p a 16) = false → target s (pathOf (slice p a 16)) = .here ∧ unitExists s (pathOf (slice p a 16)) = true ∧
      (portOfLane s (pathOf (slice p a 16)).index).isSome = true) →
    fld p 32 1 < 4 → fld p 33 1 < 16 → fld p 34 14 = 0 → (s.ident.half = true → fld p 33 1 < 4) →
    exec (.synceSet m) s = .next (answered m [] (scheduled m 0x0214 p s))) ∧
  (∀ (m : Nat) (p : List Byte) (s : State),
    waiting m 0x0220 p s = true → addressed s p 24 [3] = true → fld p 16 1 ≤ 15 → fld p 17 7 = 0 →
    entryValid s.uc.active (fld p 16 1) = true → (s.uc.st = .committed → entryValid s.uc.standby (fld p 16 1) = true) →
    exec (.parserPortSet m) s = .next (answered m [] (scheduled m 0x0220 p s))) ∧
  (∀ (m : Nat) (p : List Byte) (s : State),
    waiting m 0x0221 p s = true → addressed s p 24 [6] = true → fld p 16 1 ≤ 1 → fld p 17 7 = 0 →
    exec (.parserGroupSet m) s = .next (answered m [] (scheduled m 0x0221 p s)))

/-! ## Commands of tables, meters, the buffer and the scheduler -/

/-- TABLE_CREATE that removes (KIND 0) or defines a table, TABLE_LADDER_SET, TABLE_OP on one cluster and on every cluster, and TABLE_STATUS_GET with fields in their ranges (06 R143, R145, R157, R160, R170, R180 to R182): the first two are answered and wait for the next trick boundary, the operation is queued at the clusters it addresses (device-wide on a table that learns, learning is held and the records that wait are replicated first), the status is reported. Where the spec leaves a point open the clauses state the choice of the model: log entries 41 and 42. -/
def Obligations.TableCommandsComplete : Prop :=
  (∀ (m : Nat) (p : List Byte) (s : State),
    waiting m 0x0301 p s = true → addressed s p 48 [1] = true → fld p 16 1 ≤ 63 → fld p 17 1 = 0 → fld p 31 1 = 0 → fld p 40 8 = 0 →
    tableHolds s (fld p 16 1) = false →
    exec (.tableCreate m) s = .next (answered m [] (scheduled m 0x0301 p s))) ∧
  (∀ (m : Nat) (p : List Byte) (s : State),
    waiting m 0x0301 p s = true → addressed s p 48 [1] = true → fld p 16 1 ≤ 63 → (fld p 17 1 = 1 ∨ fld p 17 1 = 2) → fld p 31 1 = 0 → fld p 40 8 = 0 →
    fld p 18 1 ≤ 1 → (10 ≤ fld p 19 1 ∧ fld p 19 1 ≤ 20) →
    (fld p 20 4 % 2 ^ fld p 19 1 = 0 ∧ fld p 20 4 + 2 ^ fld p 19 1 ≤ 1048576) →
    (1 ≤ fld p 24 2 ∧ fld p 24 2 ≤ (if fld p 18 1 = 1 then 216 else 88)) →
    (fld p 17 1 = 2 → 40 ≤ fld p 24 2 ∧ fld p 24 2 + 66 ≤ (if fld p 18 1 = 1 then 256 else 128)) →
    fld p 26 1 ≤ 2 → fld p 27 1 ≤ 15 → (fld p 26 1 ≠ 0 → 1 ≤ fld p 28 2 ∧ fld p 28 2 ≤ 32767) → fld p 30 1 < 4 →
    widthsOk s (fld p 16 1) (descOf p) = true → mcastClear s (descOf p) = true → tableHolds s (fld p 16 1) = false →
    exec (.tableCreate m) s = .next (answered m [] (scheduled m 0x0301 p s))) ∧
  (∀ (m : Nat) (p : List Byte) (s : State) (d : TableDesc),
    waiting m 0x0302 p s = true → addressed s p 64 [1] = true → fwTable s (fld p 16 1) = some d → d.ladder = true → fld p 19 1 < 2 → fld p 55 9 = 0 →
    (fld p 19 1 = 0 → fld p 17 1 ≤ 31 ∧ (fld p 18 1 = 32 ∨ fld p 18 1 = 128) ∧ fld p 18 1 + 8 ≤ d.keyBits ∧ rungsOk p = true ∧ tableHolds s (fld p 16 1) = false) →
    exec (.tableLadderSet m) s = .next (answered m [] (scheduled m 0x0302 p s))) ∧
  (∀ (m : Nat) (p : List Byte) (s : State) (d : TableDesc),
    waiting m 0x0303 p s = true → addressed s p 64 [7] = true → fwTable s (fld p 16 1) = some d →
    (1 ≤ fld p 17 1 ∧ fld p 17 1 ≤ 5) → fld p 18 1 < 2 → fld p 19 1 = 0 → fld p 20 4 = 0 → fld p 24 8 = 0 → (d.wide = true ∨ fld p 48 16 = 0) →
    1 ≤ cmdRoom s (pathOf p).index →
    exec (.tableOp m) s = .next (held m (.table [(pathOf p).index] false) (modCmd m (fun x => { x with outs := [] })
      (pushOp (pathOf p).index (.keyed (.command m) (fld p 16 1) (fld p 17 1) ((fld p 18 1).testBit 0) 0 0
        (BitVec.ofNat 256 (fld p 32 32 - fld p 32 32 % 2 ^ 32 + b2n (entLock (fld p 32 32)) * 2 ^ 30))) s)))) ∧
  (∀ (m : Nat) (p : List Byte) (s : State) (d : TableDesc),
    waiting m 0x0303 p s = true → addressed s p 64 [7] = true → fwTable s (fld p 16 1) = some d →
    fld p 17 1 = 6 → fld p 18 1 < 2 → fld p 19 1 < 4 → (d.wide = true → fld p 19 1 % 2 = 0) → inRegion d (fld p 20 4) = true → fld p 24 8 = 0 →
    (d.wide = true ∨ fld p 48 16 = 0) → 1 ≤ cmdRoom s (pathOf p).index →
    exec (.tableOp m) s = .next (held m (.table [(pathOf p).index] false) (modCmd m (fun x => { x with outs := [] })
      (pushOp (pathOf p).index (.keyed (.command m) (fld p 16 1) 6 ((fld p 18 1).testBit 0) (fld p 19 1) (fld p 20 4)
        (BitVec.ofNat 256 (fld p 32 32 - fld p 32 32 % 2 ^ 32 + b2n (entLock (fld p 32 32)) * 2 ^ 30))) s)))) ∧
  (∀ (m : Nat) (p : List Byte) (s : State) (d : TableDesc),
    waiting m 0x0303 p s = true → addressed s p 64 [1] = true → fwTable s (fld p 16 1) = some d →
    (1 ≤ fld p 17 1 ∧ fld p 17 1 ≤ 5) → fld p 18 1 < 2 → fld p 19 1 = 0 → fld p 20 4 = 0 → fld p 24 8 = 0 → (d.wide = true ∨ fld p 48 16 = 0) →
    (∀ n < clusterCount s, 1 ≤ cmdRoom s n) → tableBusy s m (fld p 16 1) = false →
    exec (.tableOp m) s = .next (held m (.table (clustersHere s) false) (modCmd m (fun x => { x with outs := [] })
      (forAll (clustersHere s) (fun n acc => pushOp n (.keyed (.command m) (fld p 16 1) (fld p 17 1) ((fld p 18 1).testBit 0) 0 0
        (BitVec.ofNat 256 (fld p 32 32 - fld p 32 32 % 2 ^ 32 + b2n (entLock (fld p 32 32)) * 2 ^ 30))) acc)
        (if d.learn then replicateTable (fld p 16 1) (holdLearn (fld p 16 1) s) else s))))) ∧
  (∀ (m : Nat) (p : List Byte) (s : State) (d : TableDesc),
    waiting m 0x0304 p s = true → addressed s p 24 [1, 7] = true → fld p 16 1 ≤ 63 → fld p 17 7 = 0 → fwTable s (fld p 16 1) = some d →
    exec (.tableStatusGet m) s = .next (answered m
      (let l := (opClusters s (pathOf p)).map (tableReport s (fld p 16 1) d)
       sumFields l 0 4 4 ++ sumFields l 16 8 3 ++ sumFields l 40 4 10) s))

/-- METER_SET, METER_GET and EXC_SET with fields in their ranges (07 R214, R215, Tables 7.11 to 7.13): the settings are answered and wait for the next trick boundary, the record is reported with the trick count. -/
def Obligations.MeterCommandsComplete : Prop :=
  (∀ (m : Nat) (p : List Byte) (s : State),
    waiting m 0x0305 p s = true → addressed s p 56 [1, 7] = true → fld p 16 4 ≤ 262079 → fld p 20 4 = 0 →
    ((meterOf (slice p 24 32)).rfc4115 = true ∨ (meterOf (slice p 24 32)).cir ≤ (meterOf (slice p 24 32)).pir) →
    fld (slice p 24 32) 27 1 < 16 → fld (slice p 24 32) 29 3 = 0 →
    exec (.meterSet m) s = .next (answered m [] (scheduled m 0x0305 p s))) ∧
  (∀ (m : Nat) (p : List Byte) (s : State),
    waiting m 0x0306 p s = true → addressed s p 24 [7] = true → fld p 16 4 ≤ 262143 → fld p 20 4 = 0 →
    exec (.meterGet m) s = .next (answered m (meterBytes (meter (cluster s (pathOf p).index) (fld p 16 4)) ++ leBytes 8 (now s)) s)) ∧
  (∀ (m : Nat) (p : List Byte) (s : State),
    waiting m 0x0307 p s = true → addressed s p 32 [1, 7] = true → (1 ≤ fld p 16 1 ∧ fld p 16 1 ≤ 0x3F) → fld p 16 1 ≠ 0x0E → fld p 16 1 ≠ 0x0F →
    fld p 17 1 ≤ 1 → fld p 18 1 ≤ 63 → fld p 19 1 < 2 → fld p 20 8 < 2 ^ 40 → (64 ≤ fld p 28 4 ∧ fld p 28 4 ≤ 16777215) →
    exec (.excSet m) s = .next (answered m [] (scheduled m 0x0307 p s)))

/-- The buffer settings with fields in their ranges that leave the pot no deeper below zero (08 R227, R238, R246, R252 to R255): each is answered and waits for the next trick boundary; MCAST_SET waits with its answer. BUF_STATUS_GET, QUEUE_STATUS_GET and PORT_BUF_STATUS_GET report (08 R256, Tables 8.9 to 8.11); the queue's PEAK starts anew from its depth, and nothing else changes. -/
def Obligations.BufferCommandsComplete : Prop :=
  (∀ (m : Nat) (p : List Byte) (s : State),
    waiting m 0x0401 p s = true → addressed s p 68 [4, 5] = true → fld p 16 4 ≤ fld p 20 4 → (1 ≤ fld p 20 4 ∧ fld p 20 4 ≤ 1310720) →
    fld p 28 1 ≤ 11 → fld p 29 1 < 2 → fld p 30 2 = 0 → (∀ i < 3, fld p (41 + 12 * i) 3 = 0) →
    (fld p 29 1 = 1 → ∀ i < 3, (redOf p i).min < (redOf p i).max ∧ (redOf p i).max ≤ fld p 20 4) →
    (fld p 29 1 = 1 → ∀ x, port (bufView s) (pathOf p).index = some x →
      ((List.range 20).filter (fun i => decide (i ≠ queueNo (pathOf p)) && (queue x i).priv)).length < 2) →
    overdrawn (bufView s) (queueSetApply p (bufView s)) = false →
    exec (.queueSet m) s = .next (answered m [] (scheduled m 0x0401 p s))) ∧
  (∀ (m : Nat) (p : List Byte) (s : State),
    waiting m 0x0402 p s = true → addressed s p 120 [3] = true → fld p 17 1 < 2 → fld p 20 4 = 0 →
    (∀ i < 8, (fld p 16 1).testBit i = true → fld p (88 + 4 * i) 4 < fld p (56 + 4 * i) 4) →
    exec (.portBufSet m) s = .next (answered m [] (scheduled m 0x0402 p s))) ∧
  (∀ (m : Nat) (p : List Byte) (s : State),
    waiting m 0x0403 p s = true → addressed s p 48 [1] = true → fld p 20 4 ≤ 65536 → fld p 24 4 ≤ 262144 → fld p 28 4 ≤ 65536 → fld p 32 4 ≤ 65536 →
    fld p 36 1 ≤ 63 → fld p 37 1 ≤ 63 → fld p 39 1 = 0 → fld p 44 4 = 0 →
    (fld p 38 1 = 0 ∨ 13 ≤ fld p 38 1 ∧ fld p 38 1 ≤ 20 ∧ fld p 40 4 % 2 ^ fld p 38 1 = 0 ∧ fld p 40 4 + 2 ^ fld p 38 1 ≤ 1048576) →
    mcastFree s (fld p 40 4) (fld p 38 1) = true → overdrawn (bufView s) (bufGlobalSetApply p (bufView s)) = false →
    exec (.bufGlobalSet m) s = .next (answered m [] (scheduled m 0x0403 p s))) ∧
  (∀ (m : Nat) (p : List Byte) (s : State),
    waiting m 0x0404 p s = true → addressed s p 24 [8] = true → fld p 16 1 ≤ 1 → fld p 17 7 = 0 →
    overdrawn (bufView s) (bufSectionSetApply p (bufView s)) = false →
    exec (.bufSectionSet m) s = .next (answered m [] (scheduled m 0x0404 p s))) ∧
  (∀ (m : Nat) (p : List Byte) (s : State),
    waiting m 0x0405 p s = true → addressed s p 32 [1] = true → fld p 16 2 ≤ 32767 → fld p 18 2 ≤ 512 → fld p 24 8 = 0 → (mcastRegion s).2 ≠ 0 →
    (fld p 18 2 = 0 ∨ (mcastRegion s).1 + 4096 ≤ fld p 20 4 ∧ fld p 20 4 + cdiv (fld p 18 2) 16 ≤ (mcastRegion s).1 + 2 ^ (mcastRegion s).2) →
    exec (.mcastSet m) s = .next (held m .boundary (scheduled m 0x0405 p s))) ∧
  (∀ (m : Nat) (p : List Byte) (s : State),
    waiting m 0x0406 p s = true → addressed s p 16 [1, 8] = true →
    ∃ r, r.length = 80 ∧ exec (.bufStatusGet m) s = .next (answered m r s)) ∧
  (∀ (m : Nat) (p : List Byte) (s : State) (x : Port),
    waiting m 0x0407 p s = true → addressed s p 16 [4, 5] = true → port s (pathOf p).index = some x →
    exec (.queueStatusGet m) s = .next (answered m
      (let y := queue x (queueNo (pathOf p))
       leBytes 4 (depth y) ++ leBytes 4 y.peak ++ leBytes 4 y.a ++ leBytes 4 y.p ++ leBytes 4 y.k ++ leBytes 4 (heldDescs x (queueNo (pathOf p)))
        ++ (List.range 9).flatMap (fun i => evLow s (0x0201 + i) (queueUnit (pathOf p).index (queueNo (pathOf p))) 0 8))
      (modQueue (pathOf p).index (queueNo (pathOf p)) (fun z => { z with peak := depth z }) s))) ∧
  (∀ (m : Nat) (p : List Byte) (s : State) (x : Port),
    waiting m 0x0408 p s = true → addressed s p 16 [3] = true → port s (pathOf p).index = some x →
    exec (.portBufStatusGet m) s = .next (answered m
      ([byte x.pauseReq.toNat, byte x.lossless.toNat, 0, 0]
        ++ leBytes 4 (match x.hold with
          | some t => t - now s
          | none => 0xFFFFFFFF)
        ++ x.u.flatMap (leBytes 4) ++ x.k.flatMap (leBytes 4) ++ (List.range 8).flatMap (fun i => evLow s 0x011A (pathOf p).index i 8)) s))

/-- SCHED_PORT_SET, SCHED_QUEUE_SET and SHAPER_SET with fields in their ranges are answered and wait for the next trick boundary; SHAPER_GET and SCHED_STATUS_GET report and change nothing (09 R270, R278 to R282). -/
def Obligations.SchedulerCommandsComplete : Prop :=
  (∀ (m : Nat) (p : List Byte) (s : State),
    waiting m 0x0501 p s = true → addressed s p 56 [3] = true → fld p 16 1 < 2 → fld p 30 2 = 0 → fld p 48 8 = 0 →
    (∀ g < 8, groupByte p g < 4) → (∀ g < 8, (groupByte p g).testBit 0 = false → groupBw p g = 0) →
    (((List.range 8).filter (fun g => (groupByte p g).testBit 0)) ≠ [] →
      (((List.range 8).filter (fun g => (groupByte p g).testBit 0)).map (groupBw p)).sum = 100) →
    exec (.schedPortSet m) s = .next (answered m [] (scheduled m 0x0501 p s))) ∧
  (∀ (m : Nat) (p : List Byte) (s : State),
    waiting m 0x0502 p s = true → addressed s p 24 [4, 5] = true → fld p 16 1 ≤ 7 → fld p 17 1 ≠ 0 → (fld p 18 1 ≤ 7 ∨ fld p 18 1 = 255) → fld p 19 5 = 0 →
    exec (.schedQueueSet m) s = .next (answered m [] (scheduled m 0x0502 p s))) ∧
  (∀ (m : Nat) (p : List Byte) (s : State),
    waiting m 0x0503 p s = true → addressed s p 32 [3, 4, 5] = true → levelOk (pathOf p) (fld p 16 1) = true → fld p 17 1 < 4 → fld p 18 2 = 0 →
    fld p 20 8 < 2 ^ 40 → (64 ≤ fld p 28 4 ∧ fld p 28 4 ≤ 16777215) →
    exec (.shaperSet m) s = .next (answered m [] (scheduled m 0x0503 p s))) ∧
  (∀ (m : Nat) (p : List Byte) (s : State) (x : Port),
    waiting m 0x0504 p s = true → addressed s p 24 [3, 4, 5] = true → port s (pathOf p).index = some x → levelOk (pathOf p) (fld p 16 1) = true → fld p 17 7 = 0 →
    exec (.shaperGet m) s = .next (answered m
      (let h := if (pathOf p).kind ≠ 3 then (queue x (queueNo (pathOf p))).shaper else if fld p 16 1 = 0 then x.shaper else (sgroup x (fld p 16 1 - 1)).shaper
       leBytes 8 h.rate ++ leBytes 4 h.burst ++ [byte (b2n h.enable), 0, 0, 0] ++ leBytes 8 (uInt 64 h.credit) ++ leBytes 8 (now s)) s)) ∧
  (∀ (m : Nat) (p : List Byte) (s : State),
    waiting m 0x0505 p s = true → addressed s p 16 [3] = true →
    ∃ r, r.length = 104 ∧ exec (.schedStatusGet m) s = .next (answered m r s))

/-! ## Commands of time and telemetry -/

/-- The time settings with fields in their ranges (10 R320 to R325): each is answered and waits for the next trick boundary; TIME_SET waits with its answer, TIME_MASTER_LIST_SET and TIME_AUTH_SET mark their domain as configured at once. TIME_STATUS_GET of the device and of a port reports and changes nothing (10 Tables 10.23, 10.24). -/
def Obligations.TimeCommandsComplete : Prop :=
  (∀ (m : Nat) (p : List Byte) (s : State),
    waiting m 0x0601 p s = true → addressed s p 32 [1] = true → fld p 16 1 < 4 → fld p 17 1 = 0 → fld p 20 4 < 10 ^ 9 → fld p 30 2 = 0 →
    exec (.timeSet m) s = .next (held m .boundary (scheduled m 0x0601 p s))) ∧
  (∀ (m : Nat) (p : List Byte) (s : State),
    waiting m 0x0602 p s = true → addressed s p 40 [3] = true → fld p 16 1 < 32 → fld p 17 3 = 0 → adjOk (sInt 16 (fld p 20 2)) = true →
    adjOk (sInt 16 (fld p 22 2)) = true → (fld p 16 1).testBit 3 = false →
    exec (.timePortSet m) s = .next (answered m [] (scheduled m 0x0602 p s))) ∧
  (∀ (m : Nat) (p : List Byte) (s : State) (x : Port),
    waiting m 0x0602 p s = true → addressed s p 40 [3] = true → fld p 16 1 < 32 → fld p 17 3 = 0 → adjOk (sInt 16 (fld p 20 2)) = true →
    adjOk (sInt 16 (fld p 22 2)) = true → (fld p 16 1).testBit 3 = true → port s (pathOf p).index = some x → s.power.stateRo = false →
    s.power.logWait.length + s.power.stateWait.length < 256 →
    exec (.timePortSet m) s = .next (answered m [] (modPower (fun w => { w with stateWait := w.stateWait ++
      [(calKey (pathOf p).index x.width, sInt 16 (fld p 20 2), sInt 16 (fld p 22 2), sInt 64 (fld p 24 8), (fld p 16 1).testBit 4)] }) (scheduled m 0x0602 p s)))) ∧
  (∀ (m : Nat) (p : List Byte) (s : State),
    waiting m 0x0603 p s = true → addressed s p 56 [1] = true → fld p 16 1 ≤ 1 → fld p 17 1 ≤ 4 → (fld p 17 1 = 3 → fld p 18 1 ≤ 7) → fld p 19 1 < 2 →
    fld p 21 3 = 0 → fld p 24 4 < 2 ^ 24 → fld p 28 4 < 2 ^ 24 → (1 ≤ fld p 32 4 ∧ fld p 32 4 ≤ 500000) → fld p 40 4 ≠ 0 →
    (1 ≤ fld p 44 4 ∧ fld p 44 4 ≤ 16777215) → fld p 52 4 = 0 →
    exec (.timeDomainSet m) s = .next (answered m [] (scheduled m 0x0603 p s))) ∧
  (∀ (m : Nat) (p : List Byte) (s : State),
    waiting m 0x0604 p s = true → addressed s p 32 [1] = true → fld p 16 1 ≤ 63 → fld p 17 1 ≤ 63 → fld p 18 1 ≤ 63 → fld p 19 1 < 4 →
    (1 ≤ fld p 24 4 ∧ fld p 24 4 ≤ 100000) → fld p 28 4 = 0 →
    exec (.timeGlobalSet m) s = .next (answered m [] (scheduled m 0x0604 p s))) ∧
  (∀ (m : Nat) (p : List Byte) (s : State),
    waiting m 0x0605 p s = true → addressed s p 24 [1] = true → fld p 16 1 ≤ 1 → fld p 17 1 < 2 → fld p 18 6 = 0 →
    (fld p 17 1 = 1 ∨ (dom s (fld p 16 1)).locked = true ∧ s.time.split = false) →
    exec (.timeSelect m) s = .next (answered m [] (scheduled m 0x0605 p s))) ∧
  (∀ (m : Nat) (p : List Byte) (s : State),
    waiting m 0x0607 p s = true → fld p 17 1 ≤ 32 → addressed s p (32 + 16 * fld p 17 1) [1] = true → fld p 16 1 ≤ 1 → fld p 18 14 = 0 →
    (∀ j < fld p 17 1, (fld p (42 + 16 * j) 2 < laneCount s ∨ fld p (42 + 16 * j) 2 = 0xFFFF) ∧ fld p (44 + 16 * j) 4 = 0) →
    exec (.timeMasterListSet m) s = .next (answered m [] (modDom (fld p 16 1) (fun d => { d with listSeen := true }) (scheduled m 0x0607 p s)))) ∧
  (∀ (m : Nat) (p : List Byte) (s : State),
    waiting m 0x0608 p s = true → addressed s p 32 [1] = true → fld p 16 1 ≤ 1 → fld p 17 1 < 4 → fld p 19 1 ≤ 1 → fld p 28 1 ≤ 15 → fld p 29 1 ≤ 15 →
    fld p 30 1 ≤ 1 → fld p 31 1 = 0 →
    exec (.timeAuthSet m) s = .next (answered m [] (modDom (fld p 16 1) (fun d => { d with authSeen := true }) (scheduled m 0x0608 p s)))) ∧
  (∀ (m : Nat) (p : List Byte) (s : State),
    waiting m 0x0606 p s = true → addressed s p 16 [1] = true →
    exec (.timeStatusGet m) s = .next (answered m (leBytes 4 (timeStat s) ++ evLow s 0x0508 0 0 4 ++ leBytes 8 (uInt 64 (s.time.d / 2 ^ 24))
      ++ evLow s 0x0507 0 0 4 ++ evLow s 0x0506 0 0 4 ++ zeros 8 ++ domStatus s 0 ++ domStatus s 1) s)) ∧
  (∀ (m : Nat) (p : List Byte) (s : State) (x : Port),
    waiting m 0x0606 p s = true → addressed s p 16 [3] = true → port s (pathOf p).index = some x →
    exec (.timeStatusGet m) s = .next (answered m
      ([byte (b2n x.tcEn + 2 * b2n x.p2p + 4 * b2n x.txStep + 8 * b2n x.persist + 16 * b2n x.calValid)] ++ zeros 7 ++ leBytes 8 x.meanLinkDelay
        ++ evLow s 0x0114 (pathOf p).index 0 4 ++ evLow s 0x011C (pathOf p).index 0 4 ++ evLow s 0x011D (pathOf p).index 0 4
        ++ evLow s 0x011E (pathOf p).index 0 4) s))

/-- The telemetry settings with fields in their ranges (11 R329, R357 to R363) are answered and wait for the next trick boundary; DUMP_SET stages its items at once, and with COMMIT sets the list that the next hand but one will use. Where the spec leaves a point open the clauses state the choice of the model: log entry 46. -/
def Obligations.TelemetrySettingsComplete : Prop :=
  (∀ (m : Nat) (p : List Byte) (s : State),
    waiting m 0x0701 p s = true → addressed s p 56 [1] = true → fld p 16 1 < 32 → (10 ≤ fld p 17 1 ∧ fld p 17 1 ≤ 20) → (10 ≤ fld p 18 1 ∧ fld p 18 1 ≤ 22) →
    fld p 19 1 = 0 → (2 ≤ fld p 20 2 ∧ fld p 20 2 ≤ 256) → fld p 22 2 = 0 → (memChecks p).all (fun c => c.1) = true →
    (∀ e ∈ List.zip (memNow (telemView s)) (memAreas p), e.1.1 = true → e.2.1 = true → e.1.2.1 = e.2.2.1 ∧ e.1.2.2 = e.2.2.2.1) →
    exec (.telemMemSet m) s = .next (answered m [] (scheduled m 0x0701 p s))) ∧
  (∀ (m : Nat) (p : List Byte) (s : State),
    waiting m 0x0702 p s = true → addressed s p 32 [1] = true → (1 ≤ fld p 20 4 ∧ fld p 20 4 ≤ 4194304) → (1 ≤ fld p 24 4 ∧ fld p 24 4 ≤ 4194304) →
    fld p 28 4 = 0 → (fld p 16 4 = s.telem.seed.toNat ∨ flowAnyValid s = false) →
    exec (.flowGlobalSet m) s = .next (answered m [] (scheduled m 0x0702 p s))) ∧
  (∀ (m : Nat) (p : List Byte) (s : State),
    waiting m 0x0703 p s = true → addressed s p 40 [1] = true → fld p 16 1 ≤ 63 → fld p 17 1 = 0 → (∀ i < 10, fld p (18 + 2 * i) 2 < 4096) →
    (∀ v ∈ profileSegs p, v / 32 % 128 ≤ 88) → ((profileSegs p).map (fun v => v % 32 + 1)).sum ≤ 320 → fld p 38 2 = 0 →
    exec (.flowProfileSet m) s = .next (answered m [] (scheduled m 0x0703 p s))) ∧
  (∀ (m : Nat) (p : List Byte) (s : State),
    waiting m 0x0704 p s = true → fld p 18 1 ≤ 48 → addressed s p (24 + 16 * fld p 18 1) [1] = true → fld p 16 2 ≤ 255 → fld p 16 2 + fld p 18 1 ≤ 256 →
    fld p 19 1 < 4 → fld p 20 4 = 0 → (∀ j < fld p 18 1, (itemChecks s p j).all (fun c => c.1) = true ∧ itemFused s (dumpItem p j) = false) →
    let t1 := (List.range (fld p 18 1)).foldl (fun t j => tabPut t (fld p 16 2 + j) (dumpItem p j)) (if (fld p 19 1).testBit 1 then [] else s.telem.staged)
    let h := ((idx s + 1) / 64 + 1) * 64
    ((fld p 19 1).testBit 0 = false →
      exec (.dumpSet m) s = .next (answered m [] (modTelem (fun t => { t with staged := t1 }) s))) ∧
    ((fld p 19 1).testBit 0 = true → ((stagedItems t1).map itemBytes).sum ≤ 1048512 →
      exec (.dumpSet m) s = .next (answered m (leBytes 8 h ++ leBytes 4 ((stagedItems t1).map itemBytes).sum ++ zeros 4)
        (modTelem (fun t => { t with staged := t1, next := t.next ++ [(stagedItems t1, h)], commits := t.commits + 1 }) s)))) ∧
  (∀ (m : Nat) (p : List Byte) (s : State) (r : Nat × Nat × Bool),
    waiting m 0x0705 p s = true → addressed s p 32 [1] = true → fld p 16 2 ≤ 1023 → watchRange (fld p 18 2) = some r →
    (fld p 20 1 = 0 ∨ r.2.2 = true ∧ (fld p 20 1 = 1 ∨ fld p 20 1 = 2) ∨ r.2.2 = false ∧ fld p 20 1 = 3) → fld p 21 1 ≤ r.2.1 → fld p 22 2 < r.1 → watchFused s (fld p 18 2) (fld p 22 2) = false →
    exec (.watchSet m) s = .next (answered m [] (scheduled m 0x0705 p s))) ∧
  (∀ (m : Nat) (p : List Byte) (s : State),
    waiting m 0x0706 p s = true → addressed s p 24 [3, 6] = true → fld p 16 4 ≤ 16777216 → fld p 20 4 = 0 →
    exec (.sampleSet m) s = .next (answered m [] (scheduled m 0x0706 p s))) ∧
  (∀ (m : Nat) (p : List Byte) (s : State),
    waiting m 0x0707 p s = true → addressed s p 96 [3] = true →
    exec (.ioamSet m) s = .next (answered m [] (scheduled m 0x0707 p s))) ∧
  (∀ (m : Nat) (p : List Byte) (s : State),
    waiting m 0x0707 p s = true → addressed s p 96 [1] = true → fld p 16 1 = 0 → fld p 17 1 ≤ 63 → fld p 18 1 ≤ 63 → fld p 19 1 ≤ 63 → fld p 20 4 = 0 →
    fld p 31 1 = 0 → (∀ j < 4, fld p (34 + 16 * j) 1 < 2 ∧ fld p (35 + 16 * j) 1 = 0) →
    (∀ j < 4, ∀ k < j, (ioamNs p j).valid = true → (ioamNs p k).valid = true → (ioamNs p k).id ≠ (ioamNs p j).id) →
    exec (.ioamSet m) s = .next (answered m [] (scheduled m 0x0707 p s)))

/-! ## Commands of the stack -/

/-- The stack settings with fields in their ranges are answered and wait for the next trick boundary; the three stack status commands report and change nothing (12 R393, R394, Tables 12.10, 12.11). -/
def Obligations.StackCommandsComplete : Prop :=
  (∀ (m : Nat) (p : List Byte) (s : State),
    waiting m 0x0801 p s = true → addressed s p 32 [1] = true → fld p 16 1 ≤ 8 → fld p 18 1 < 4 → (fld p 19 1 = 0 ∨ 2 ≤ fld p 19 1 ∧ fld p 19 1 ≤ 16) →
    (fld p 20 2 = 0 ∨ 100 ≤ fld p 20 2 ∧ fld p 20 2 ≤ 4000) → fld p 22 2 = 0 → pathPrefix (fld p 24 6) (fld p 16 1) = fld p 24 6 → fld p 30 2 = 0 →
    (fld p 16 1 = s.stack.levels ∧ fld p 24 6 = s.stack.own ∨ anyLive s = false) →
    exec (.stackConfig m) s = .next (answered m [] (scheduled m 0x0801 p s))) ∧
  (∀ (m : Nat) (p : List Byte) (s : State) (x : Port),
    waiting m 0x0802 p s = true → addressed s p 24 [3] = true → port s (pathOf p).index = some x → 800 ≤ cfgRate x → x.neg ≠ 1 → fld p 16 1 < 2 →
    fld p 17 1 ≤ 15 → fld p 18 6 = 0 →
    exec (.stackLinkSet m) s = .next (answered m [] (scheduled m 0x0802 p s))) ∧
  (∀ (m : Nat) (p : List Byte) (s : State),
    waiting m 0x0803 p s = true → addressed s p 24 [1] = true → (1 ≤ fld p 16 1 ∧ fld p 16 1 ≤ 8) → fld p 17 1 ≤ 63 → (fld p 18 1 ≤ 15 ∨ fld p 18 1 = 255) →
    fld p 19 5 = 0 →
    exec (.stackRouteSet m) s = .next (answered m [] (scheduled m 0x0803 p s))) ∧
  (∀ (m : Nat) (p : List Byte) (s : State),
    waiting m 0x0804 p s = true → addressed s p 32 [1] = true → fld p 16 2 ≤ 4095 → fld p 18 1 ≤ 8 → fld p 19 1 = 0 →
    pathPrefix (fld p 20 6) (fld p 18 1) = fld p 20 6 → fld p 26 6 = 0 →
    exec (.stackMemberSet m) s = .next (answered m [] (scheduled m 0x0804 p s))) ∧
  (∀ (m : Nat) (p : List Byte) (s : State),
    waiting m 0x0805 p s = true → addressed s p 16 [1] = true →
    ∃ r, r.length = 184 ∧ exec (.stackStatusGet m) s = .next (answered m r s)) ∧
  (∀ (m : Nat) (p : List Byte) (s : State) (x : Port),
    waiting m 0x0806 p s = true → addressed s p 16 [3] = true → port s (pathOf p).index = some x →
    exec (.stackLinkStatusGet m) s = .next (answered m
      ([byte (slinkCode x.stk.st), byte x.stk.cause, byte x.stk.level, byte x.stk.peerPace] ++ leBytes 6 x.stk.peerPath ++ leBytes 6 x.stk.peerSerial
        ++ leBytes 8 (uInt 64 x.stk.delay) ++ evLow s 0x0120 (pathOf p).index 0 8 ++ evLow s 0x0121 (pathOf p).index 0 8
        ++ evLow s 0x0122 (pathOf p).index 0 8 ++ evLow s 0x0123 (pathOf p).index 0 4 ++ evLow s 0x0124 (pathOf p).index 0 4
        ++ evLow s 0x0125 (pathOf p).index 0 4 ++ zeros 4) s)) ∧
  (∀ (m : Nat) (p : List Byte) (s : State),
    waiting m 0x0807 p s = true → addressed s p 24 [1] = true → fld p 17 7 = 0 →
    exec (.stackEpisodesGet m) s = .next (answered m ((List.range 16).flatMap (fun i => episodeBytes (s.stack.episodes[fld p 16 1 + i]?))) s))

/-! ## Commands of the device, of power, of faults and of images -/

/-- DEVICE_INFO_GET, UNIT_STATUS_GET, UNIT_COUNTERS_GET and UNIT_FAULT_GET report and change nothing (13 R409, R410, Tables 13.13 to 13.16). -/
def Obligations.UnitStatusComplete : Prop :=
  (∀ (m : Nat) (p : List Byte) (s : State),
    waiting m 0x0101 p s = true → addressed s p 16 [1] = true →
    exec (.deviceInfoGet m) s = .next (answered m (leBytes 4 (if s.ident.half then 0x204800B1 else 0x204800A1) ++ leBytes 4 (devRev s)
      ++ leBytes 6 Config.serial.toNat ++ [byte (s.boot.slot % 2), byte (b2n s.boot.seqTie + 2 * b2n s.boot.otherBad)]
      ++ leBytes 8 (fwVersion s) ++ leBytes 8 (ucVersion s)) s)) ∧
  (∀ (m : Nat) (p : List Byte) (s : State),
    waiting m 0x0102 p s = true → addressed s p 16 [1, 2, 3, 4, 5, 6, 7, 8, 9] = true →
    exec (.unitStatusGet m) s = .next (answered m (unitStatus s (pathOf p)) s)) ∧
  (∀ (m : Nat) (p : List Byte) (s : State),
    waiting m 0x0103 p s = true → addressed s p 24 [1, 2, 3, 4, 5, 6, 7, 8, 9] = true → (1 ≤ fld p 18 1 ∧ fld p 18 1 ≤ 64) → fld p 20 4 = 0 →
    exec (.unitCountersGet m) s = .next (answered m (unitCounters s (pathOf p) (fld p 16 2) (fld p 18 1) (fld p 19 1)) s)) ∧
  (∀ (m : Nat) (p : List Byte) (s : State),
    waiting m 0x0105 p s = true → addressed s p 16 [1, 2, 3, 4, 5, 6, 7, 8, 9] = true →
    exec (.unitFaultGet m) s = .next (answered m (unitFault s (pathOf p)) s))

/-- UNIT_RUNG_SET of a lane, of an octet, and of a port group, cluster or section that may take the rung, and PWR_DOMAIN_SET of a domain that may: the requested rung is written, and the answer carries the rung held and the index of the boundary at which it acts; a section whose cells the pot cannot spare answers NO_RESOURCE (08 R227; 13 R411; 16 R474, R475, R477, R498). -/
def Obligations.RungCommandsComplete : Prop :=
  (∀ (m : Nat) (p : List Byte) (s : State),
    waiting m 0x0104 p s = true → addressed s p 24 [2] = true → fld p 16 1 ≤ 5 → fld p 17 7 = 0 →
    exec (.unitRungSet m) s = .next (
      let t := modLane (pathOf p).index (fun x => { x with req := fld p 16 1 }) s
      answered m ([byte (laneTarget t (pathOf p).index)] ++ zeros 7 ++ leBytes 8 ((idx t + 1) % 2 ^ 64)) t)) ∧
  (∀ (m : Nat) (p : List Byte) (s : State),
    waiting m 0x0104 p s = true → addressed s p 24 [9] = true → fld p 16 1 ≤ 5 → fld p 17 7 = 0 →
    exec (.unitRungSet m) s = .next (
      let t := forAll (List.range 8) (fun i acc => modLane (8 * (pathOf p).index + i) (fun x => { x with req := fld p 16 1 }) acc) s
      answered m ([byte (octTarget t (pathOf p).index)] ++ zeros 7 ++ leBytes 8 ((idx t + 1) % 2 ^ 64)) t)) ∧
  (∀ (m : Nat) (p : List Byte) (s : State) (d : Nat),
    waiting m 0x0104 p s = true → addressed s p 24 [6, 7, 8] = true → fld p 16 1 ≤ 5 → fld p 17 7 = 0 →
    unitDom (pathOf p).kind (pathOf p).index = some d → rungRefused s d (fld p 16 1) = false →
    let short := overdrawn (bufView s) (modSect (d - 96) (fun x => { x with drain := true }) (bufView s))
    (((pathOf p).kind = 8 → fld p 16 1 ≠ 0 → short = false) → exec (.unitRungSet m) s = .next (
      let t := modDomP d (fun x => { x with req := fld p 16 1 }) s
      answered m ([byte (domTarget t d)] ++ zeros 7 ++ leBytes 8 ((idx t + 1) % 2 ^ 64)) t)) ∧
    ((pathOf p).kind = 8 → fld p 16 1 ≠ 0 → short = true → exec (.unitRungSet m) s = .next (answer m stNoResource 0 [] s))) ∧
  (∀ (m : Nat) (p : List Byte) (s : State),
    waiting m 0x0903 p s = true → addressed s p 24 [1] = true → fld p 16 1 ∈ [108, 109, 111, 112] →
    fld p 17 1 ≤ (if fld p 16 1 = 109 then 3 else 5) → fld p 18 6 = 0 → rungRefused s (fld p 16 1) (fld p 17 1) = false →
    exec (.pwrDomainSet m) s = .next (
      let t := modDomP (fld p 16 1) (fun x => { x with req := fld p 17 1 }) s
      answered m ([byte (domTarget t (fld p 16 1))] ++ zeros 7 ++ leBytes 8 ((idx t + 1) % 2 ^ 64)) t))

/-- PWR_CAP_SET waits with its answer, PWR_SHED_SET is answered; both wait for the next trick boundary. PWR_STATUS_GET and PWR_AGE_LOG_GET report and change nothing (16 R496, R497, Tables 16.14, 16.16). -/
def Obligations.PowerCommandsComplete : Prop :=
  (∀ (m : Nat) (p : List Byte) (s : State),
    waiting m 0x0901 p s = true → addressed s p 32 [1] = true → (fld p 16 4 = 0 ∨ 100 ≤ fld p 16 4 ∧ fld p 16 4 ≤ 1200) → fld p 20 1 < 2 → fld p 21 1 ≤ 5 →
    fld p 26 6 = 0 →
    exec (.pwrCapSet m) s = .next (held m (.cap 1) (scheduled m 0x0901 p s))) ∧
  (∀ (m : Nat) (p : List Byte) (s : State),
    waiting m 0x0902 p s = true → addressed s p 88 [1] = true → fld p 16 1 ≤ 64 → fld p 17 7 = 0 →
    (∀ i < fld p 16 1, fld p (24 + i) 1 < octetCount s) → (∀ i < fld p 16 1, ∀ j < i, fld p (24 + j) 1 ≠ fld p (24 + i) 1) →
    (∀ i < 64, fld p 16 1 ≤ i → fld p (24 + i) 1 = 0) → s.power.shedOcts = [] →
    exec (.pwrShedSet m) s = .next (answered m [] (scheduled m 0x0902 p s))) ∧
  (∀ (m : Nat) (p : List Byte) (s : State),
    waiting m 0x0904 p s = true → addressed s p 16 [1] = true →
    exec (.pwrStatusGet m) s = .next (answered m (pwrStatus s) s)) ∧
  (∀ (m : Nat) (p : List Byte) (s : State),
    waiting m 0x0905 p s = true → addressed s p 24 [1] = true →
    exec (.pwrAgeLogGet m) s = .next (answered m
      (let l := (s.power.log.filter (fun r => decide (fld p 16 8 ≤ r.seq))).take 14
       [byte l.length] ++ zeros 7 ++ l.flatMap ageBytes) s))

/-- The fault commands with fields in their ranges (17 R512 to R516): FLT_SOURCE_SET, FLT_CLEAR and TEST_FAULT_INJECT are answered and wait for the next trick boundary; FLT_STATUS_GET reports; the challenge is drawn and kept; the token of 17 R514 unlocks and any other is answered AUTH_FAIL, and each uses the challenge up; FLT_TEST_LOCK locks at once. -/
def Obligations.FaultCommandsComplete : Prop :=
  (∀ (m : Nat) (p : List Byte) (s : State),
    waiting m 0x0A01 p s = true → addressed s p 32 [1] = true → fld p 16 1 ≤ 68 → fld p 17 1 ≤ 2 →
    (fld p 17 1 = 2 → 49 ≤ fld p 16 1 ∧ fld p 16 1 ≤ 51) → fld p 20 4 < 2 ^ 24 → fld p 24 8 = 0 →
    (srcFixed (fld p 16 1) = true → fld p 17 1 = (fltDefault (fld p 16 1)).cls ∧ fld p 18 2 = (fltDefault (fld p 16 1)).n ∧ fld p 20 4 = (fltDefault (fld p 16 1)).w) →
    exec (.fltSourceSet m) s = .next (answered m [] (scheduled m 0x0A01 p s))) ∧
  (∀ (m : Nat) (p : List Byte) (s : State) (l : List (Nat × Nat × FltInst)),
    waiting m 0x0A02 p s = true → addressed s p 24 [1, 2, 3, 4, 5, 6, 7, 8, 9] = true → fld p 17 7 = 0 → statusInsts s (pathOf p) (fld p 16 1) = some l →
    exec (.fltStatusGet m) s = .next (answered m (fltStatus s (pathOf p) (fld p 16 1) l) s)) ∧
  (∀ (m : Nat) (p : List Byte) (s : State),
    waiting m 0x0A03 p s = true → addressed s p 24 [1, 2, 3, 4, 5, 6, 7, 8, 9] = true → (fld p 16 1 ≤ 68 ∨ fld p 16 1 = 255) → fld p 17 1 < 4 → fld p 18 6 = 0 →
    exec (.fltClear m) s = .next (answered m [] (scheduled m 0x0A03 p s))) ∧
  (∀ (m : Nat) (p : List Byte) (s : State),
    waiting m 0x0A04 p s = true → addressed s p 16 [1] = true →
    exec (.fltTestChallengeGet m) s = .next (answered m (drawFree 16 s).1
      { (drawFree 16 s).2 with flt := { (drawFree 16 s).2.flt with challenge := some (drawFree 16 s).1 } })) ∧
  (∀ (m : Nat) (p : List Byte) (s : State) (ch : List Byte),
    waiting m 0x0A05 p s = true → addressed s p 32 [1] = true → s.ciph.owner ≠ 1 → s.ciph.owner ≠ 2 →
    s.flt.challenge = some ch → tokenOf ch = slice p 16 16 →
    ∃ t, exec (.fltTestUnlock m) s = .next t ∧ t.flt.unlocked = true ∧ t.flt.challenge = none) ∧
  (∀ (m : Nat) (p : List Byte) (s : State),
    waiting m 0x0A05 p s = true → addressed s p 32 [1] = true → s.ciph.owner ≠ 1 → s.ciph.owner ≠ 2 →
    (∀ ch, s.flt.challenge = some ch → tokenOf ch ≠ slice p 16 16) →
    exec (.fltTestUnlock m) s = .next (answer m stAuthFail 0 []
      { s with flt := { s.flt with challenge := none }, ciph := engineFree s.ciph })) ∧
  (∀ (m : Nat) (p : List Byte) (s : State),
    waiting m 0x0A06 p s = true → addressed s p 16 [1] = true →
    exec (.fltTestLock m) s = .next (answered m [] (scheduled m 0x0A06 p { s with flt := { s.flt with unlocked := false } }))) ∧
  (∀ (m : Nat) (p : List Byte) (s : State),
    waiting m 0x0C01 p s = true → addressed s p 32 [1, 2, 3, 4, 5, 6, 7, 8, 9] = true → fld p 16 1 ≤ 68 → srcFixed (fld p 16 1) = false →
    (srcKinds (fld p 16 1)).contains (pathOf p).kind = true → fld p 17 1 = 0 → (1 ≤ fld p 18 2 ∧ fld p 18 2 ≤ 1024) → fld p 24 8 = 0 →
    exec (.testFaultInject m) s = .next (answered m [] (scheduled m 0x0C01 p s)))

/-- IMAGE_WRITE and BOARD_TABLE_WRITE of a source that verifies start a flash job on a copy of it; while host software or the BMC holds the MAC engine IMAGE_WRITE waits and firmware asks for the engine; FW_PATCH_APPLY of an image that verifies waits for a hand boundary; IMAGE_STATUS_GET and BOARD_TABLE_GET report (13 R413 to R415, Tables 13.18, 13.19; 18 R525, R538). Where the spec leaves a point open the clauses state the choice of the model: log entries 67, 68 and 114. -/
def Obligations.ImageCommandsComplete : Prop :=
  (∀ (m : Nat) (p : List Byte) (s : State),
    waiting m 0x0B01 p s = true → storeOk s true = true → addressed s p 32 [1] = true → s.boot.flash = none → s.ciph.owner ≠ 1 → s.ciph.owner ≠ 2 →
    fld p 28 4 = 0 → fld p 16 8 % 64 = 0 → fld p 16 8 + fld p 24 4 ≤ windowLen → fld p 24 4 = 64 + memFld s.devMem (fld p 16 8 + 20) 4 →
    imgVerifies (memSlice s.devMem (fld p 16 8) (fld p 24 4)) = true → memFld (memSlice s.devMem (fld p 16 8) (fld p 24 4)) 4 1 = 1 →
    imgRuns s (memSlice s.devMem (fld p 16 8) (fld p 24 4)) = true →
    (s.boot.phase ≠ .recovery → memFld (slotOf s s.boot.slot).img 8 8 < memFld (memSlice s.devMem (fld p 16 8) (fld p 24 4)) 8 8) →
    (s.boot.phase = .recovery → 0 < memFld (memSlice s.devMem (fld p 16 8) (fld p 24 4)) 8 8) →
    ∃ t j, exec (.imageWrite m) s = .next t ∧ t.boot.flash = some j ∧ j.src = memSlice s.devMem (fld p 16 8) (fld p 24 4) ∧ t.ciph.owner = 0) ∧
  (∀ (m : Nat) (p : List Byte) (s : State),
    waiting m 0x0B01 p s = true → (s.ciph.owner = 1 ∨ s.ciph.owner = 2) →
    exec (.imageWrite m) s = .next { held m .outside s with ciph := { s.ciph with waiting := true } }) ∧
  (∀ (m : Nat) (p : List Byte) (s : State),
    waiting m 0x0B02 p s = true → addressed s p 16 [1] = true →
    exec (.imageStatusGet m) s = .next (answered m (imageStatus s) s)) ∧
  (∀ (m : Nat) (p : List Byte) (s : State),
    waiting m 0x0B03 p s = true → addressed s p 32 [1] = true → midway s = false → s.ciph.owner ≠ 1 → s.ciph.owner ≠ 2 →
    fld p 28 4 = 0 → fld p 16 8 % 64 = 0 → fld p 16 8 + fld p 24 4 ≤ windowLen → fld p 24 4 = 64 + memFld s.devMem (fld p 16 8 + 20) 4 →
    imgVerifies (memSlice s.devMem (fld p 16 8) (fld p 24 4)) = true → memFld (memSlice s.devMem (fld p 16 8) (fld p 24 4)) 4 1 = 3 →
    imgRuns s (memSlice s.devMem (fld p 16 8) (fld p 24 4)) = true →
    memFld (memSlice s.devMem (fld p 16 8) (fld p 24 4)) 24 4 = s.boot.fwVersion.toNat →
    memFld (memSlice s.devMem (fld p 16 8) (fld p 24 4)) 28 1 = s.boot.patches → s.boot.patches < 7 →
    ∃ t, exec (.fwPatchApply m) s = .next t ∧ t.boot.patchAt = some m ∧ t.boot.patches = s.boot.patches ∧ t.ciph.owner = 0) ∧
  (∀ (m : Nat) (p : List Byte) (s : State),
    waiting m 0x0C02 p s = true → storeOk s true = true → addressed s p 32 [1] = true → s.boot.flash = none →
    fld p 28 4 = 0 → fld p 16 8 % 64 = 0 → fld p 16 8 + fld p 24 4 ≤ windowLen → fld p 24 4 = boardLen →
    boardState (memSlice s.devMem (fld p 16 8) (fld p 24 4)) = 1 →
    (∀ c, s.boot.chosen = some c → copySeq (tabGetD s.boot.copies c []) < copySeq (memSlice s.devMem (fld p 16 8) (fld p 24 4))) →
    ∃ t j, exec (.boardTableWrite m) s = .next t ∧ t.boot.flash = some j ∧ j.src = memSlice s.devMem (fld p 16 8) (fld p 24 4)) ∧
  (∀ (m : Nat) (p : List Byte) (s : State),
    waiting m 0x0C03 p s = true → addressed s p 16 [1] = true →
    exec (.boardTableGet m) s = .next (answered m (boardStatus s) s))

/-- UC_STAGE of a source whose length fits copies it and makes the standby bank STAGING; UC_STAGING_END makes the bank VALID or EMPTY by the checks of 13 R413, R416; UC_COMMIT of a VALID or PREVIOUS bank, and UC_ROLLBACK of a PREVIOUS one, whose entries serve every configured port, make it COMMITTED (13 R416, R417; 05 Table 5.4). -/
def Obligations.MicrocodeCommandsComplete : Prop :=
  (∀ (m : Nat) (p : List Byte) (s : State),
    waiting m 0x0B04 p s = true → addressed s p 32 [1] = true → s.uc.st ≠ .committed → s.uc.st ≠ .staging →
    fld p 28 4 = 0 → fld p 16 8 % 64 = 0 → fld p 16 8 + fld p 24 4 ≤ windowLen → fld p 24 4 = 64 + memFld s.devMem (fld p 16 8 + 20) 4 →
    exec (.ucStage m) s = .next (held m .staging { s with uc := { s.uc with
      st := .staging, standby := { body := memSlice s.devMem (fld p 16 8) (fld p 24 4) }, stageMb := m, stageLen := fld p 24 4 } })) ∧
  (∀ (s : State),
    s.boot.fwRunning = true → s.ciph.owner ≠ 1 → s.ciph.owner ≠ 2 → s.uc.st = .staging →
    ∃ t, exec .ucStagingEnd s = .next t ∧
      t.uc.st = (if stagingResult s s.uc.standby.body s.uc.stageLen = none then .valid else .empty) ∧
      (stagingResult s s.uc.standby.body s.uc.stageLen = none →
        t.uc.standby.body = memSlice s.uc.standby.body 64 (s.uc.stageLen - 64) ∧ t.uc.standby.version = BitVec.ofNat 32 (memFld s.uc.standby.body 16 4)) ∧
      t.uc.active = s.uc.active) ∧
  (∀ (m : Nat) (p : List Byte) (s : State),
    waiting m 0x0B05 p s = true → addressed s p 16 [1] = true → (s.uc.st = .valid ∨ s.uc.st = .previous) →
    (∀ e ∈ portEntries s, entryValid s.uc.standby e = true) →
    exec (.ucCommit m) s = .next (held m .boundary { s with uc := { s.uc with st := .committed, rollback := decide (s.uc.st = .previous) } })) ∧
  (∀ (m : Nat) (p : List Byte) (s : State),
    waiting m 0x0B06 p s = true → addressed s p 16 [1] = true → s.uc.st = .previous →
    (∀ e ∈ portEntries s, entryValid s.uc.standby e = true) →
    exec (.ucRollback m) s = .next (held m .boundary { s with uc := { s.uc with st := .committed, rollback := true } }))

/-! ## Rows of lanes and links -/

/-- EYE_WINDOW_END, LANE_CDR_LOCK, LANE_SIGNAL_LOSS, ECHO_MEASURE_END, TRAINING_COEFF_REQUEST and COMMA_RECEIVE on a lane that is ready for them (03 R63, R72, R73, R78; 04 R99, R103). Where the spec leaves a point open the clauses state the choice of the model: log entries 90 and 102. -/
def Obligations.LaneRowsComplete : Prop :=
  (∀ (l : Nat) (hist : List Nat) (a : Adapt) (s : State),
    (lane s l).rung = 0 → (lane s l).moving = false → (lane s l).signal = true → (lane s l).cdr = true →
    ∃ t, exec (.eyeWindowEnd l hist a) s = .next t ∧ t = { s with lanes := t.lanes, ports := t.ports, freeCount := t.freeCount } ∧ (∀ k, k ≠ l → lane t k = lane s k) ∧
      ((∀ q x, portOfLane s l = some (q, x) → x.link ≠ .training ∧ ∀ y, port s q = some y → y.link ≠ .aligning) → onlyLane l s t) ∧ (lane t l).efLast = eyeFigure hist ∧ (lane t l).lastWin = some (eyeFigure hist) ∧
      (lane t l).windows = (lane s l).windows + 1 ∧ (lane t l).adapt = (if (lane s l).frozen then (lane s l).adapt else adaptFit (linear s l) a)) ∧
  (∀ (l : Nat) (offset : Int) (s : State),
    (lane s l).rung = 0 → (lane s l).moving = false →
    (offset.natAbs ≤ 2000 → ∃ t, exec (.laneCdrLock l offset) s = .next t ∧ t = { s with lanes := t.lanes, ports := t.ports } ∧ (∀ k, k ≠ l → lane t k = lane s k) ∧
      ((∀ q x y, portOfLane s l = some (q, x) → port s q = some y → y.link ≠ .aligning) → onlyLane l s t) ∧ (lane t l).signal = true ∧ (lane t l).cdr = true ∧
      (lane t l).freqOffset = offset ∧ ((lane s l).wasLost = true → (lane t l).init = some {} ∧ (lane t l).ctle = 0)) ∧
    (2000 < offset.natAbs → exec (.laneCdrLock l offset) s = .next s)) ∧
  (∀ (l : Nat) (signal : Bool) (s : State),
    ∃ t, exec (.laneSignalLoss l signal) s = .next t ∧ t = { s with lanes := t.lanes, refs := t.refs, ports := t.ports } ∧ (∀ k, k ≠ l → lane t k = lane s k) ∧
      (∀ q x, portOfLane s l = some (q, x) → port s q = some x → port t q = some { x with aligned := false }) ∧
      (lane t l).signal = signal ∧ (lane t l).cdr = false ∧ (lane t l).efLast = 0 ∧ (lane t l).init = none ∧ (lane t l).comma.locked = false) ∧
  (∀ (l : Nat) (e : EchoIn) (s : State) (w : Echo),
    (lane s l).echo = some w → (lane s l).rung = 0 → (lane s l).moving = false →
    exec (.echoMeasureEnd l e) s = .next (answered w.mb (echoResp s l e) (modLane l (fun x => { x with echo := none }) s))) ∧
  (∀ (l : Nat) (s : State) (y : Nat × Port),
    portOfLane s l = some y → y.2.link = .training →
    exec (.trainingCoeffRequest l .increment) s = .next (modLane l (fun x => { x with coeffAns := some .maximum }) s) ∧
    exec (.trainingCoeffRequest l .decrement) s = .next (modLane l (fun x => { x with coeffAns := some .minimum }) s) ∧
    exec (.trainingCoeffRequest l .initialise) s = .next (modLane l (fun x => { x with coeffAns := some .updated }) s) ∧
    exec (.trainingCoeffRequest l .preset) s = .next (modLane l (fun x => { x with coeffAns := some .updated }) s)) ∧
  (∀ (l at_ : Nat) (ys : List (BitVec 2)) (s : State) (y : Nat × Port),
    portOfLane s l = some y → laneMode s l = 3 → (lane s l).rung = 0 → (lane s l).cdr = true →
    ∃ t, exec (.commaReceive l ⟨at_, ys⟩) s = .next t ∧ t = { s with lanes := t.lanes, ports := t.ports, evc := t.evc } ∧
      (∀ k, k ≠ l → lane t k = lane s k) ∧ (lane t l).comma = commaStep at_ (innerUndo ys) (lane s l).comma)

/-- NEGOTIATION_RESOLVED, TRAINING_COMPLETE, TRAINING_TIMEOUT, PORT_ALIGNED, ALIGN_TIMEOUT and LINK_DOWN on a port in the state each leaves (04 R104, R105, R558, Tables 4.7, 4.11). Where the spec leaves a point open the clauses state the choice of the model: log entries 32 and 107. -/
def Obligations.LinkRowsComplete : Prop :=
  (∀ (p k : Nat) (a : PartnerIn) (s : State) (x : Port),
    port s p = some x → pagesSent s p x ≠ none →
    let s1 := modPort p (fun y => { y with
      basePage := a.basePage
      ability := (if x.neg = 2 then a.ability else none).getD 0
      partnerN400 := (if x.neg = 2 then a.ability else none).isSome
      quiet := 0 }) s
    (resolveMode s1 p x a = some k → exec (.negotiationResolved p a) s = .next (resolved p k s1)) ∧
    (resolveMode s1 p x a = none → exec (.negotiationResolved p a) s = .next (ev 0x010E p (modPort p (fun y => { y with downCause := 5 }) s1)))) ∧
  (∀ (p : Nat) (s : State) (x : Port),
    port s p = some x → x.link = .training → (∀ l ∈ portLanes p x, (lane s l).echo = none) →
    ∃ t, exec (.trainingComplete p) s = .next t ∧ port t p = some { x with link := .aligning, lastChange := idx s, alignFrom := some (now s) } ∧
      (∀ l ∈ portLanes p x, (lane t l).ready = true ∧ (lane t l).ask.ready = true) ∧ t = { s with lanes := t.lanes, ports := t.ports }) ∧
  (∀ (p : Nat) (s : State) (x : Port),
    port s p = some x → x.link = .training → (∀ l ∈ portLanes p x, (lane s l).echo = none) →
    ∃ t, exec (.trainingTimeout p) s = .next t ∧ onlyPort p s t ∧ port t p = some { x with
      downCause := 4, timeouts := x.timeouts + 1, resolved := 0, quiet := 0, probeEnd := none, aligned := false, alignFrom := none,
      link := .negotiating, lastChange := idx s }) ∧
  (∀ (p skew : Nat) (s : State) (x : Port),
    port s p = some x → x.link = .aligning → lanesLocked s p x = true → commaLocked s p x = true → commasAgree s p x = true → skew ≤ 180 →
    freqOk s p x = true →
    ∃ t y, exec (.portAligned p skew) s = .next t ∧ port t p = some y ∧ y.link = .up ∧ y.lastChange = idx s ∧ y.aligned = true ∧ y.skew = (if x.width = 1 then 0 else skew)) ∧
  (∀ (p skew : Nat) (localFault remoteFault : Bool) (s : State) (x : Port) (from_ : Nat),
    port s p = some x → x.link = .aligning → x.alignFrom = some from_ → 4000000 ≤ (now s - from_) * 1024 →
    ∃ t y, exec (.alignTimeout p localFault remoteFault skew) s = .next t ∧ port t p = some y ∧
      y.downCause = alignCause s p x localFault remoteFault (if x.width = 1 then 0 else skew) ∧
      (x.neg = 0 → y.link = .aligning) ∧ (x.neg ≠ 0 → y.link = .negotiating ∧ y.resolved = 0)) ∧
  (∀ (p skew : Nat) (localFault remoteFault : Bool) (s : State) (x : Port),
    port s p = some x → (∀ from_, x.alignFrom = some from_ → (now s - from_) * 1024 < 4000000) →
    exec (.alignTimeout p localFault remoteFault skew) s = .next s) ∧
  (∀ (p : Nat) (e : DownEvent) (s : State) (x : Port),
    port s p = some x → x.link = .up → downNow s p x e = true →
    exec (.linkDown p e) s = .next (linkLost p (downCode e) true s))

/-- PORT_PARK, PORT_PROBE, PARKED_SIGNAL, FEC_UNCORRECTABLE, STORM_ENTER and STORM_EXIT where their conditions hold (04 R108 to R110). Where the spec leaves a point open the clauses state the choice of the model: log entries 31 and 32. -/
def Obligations.GuardRowsComplete : Prop :=
  (∀ (p : Nat) (s : State) (x : Port),
    port s p = some x → x.link = .negotiating → x.guard.parkDelay ≠ 0 → 1024 * x.guard.parkDelay ≤ x.quiet → allQuiet s p x = true →
    ∃ t, exec (.portPark p) s = .next t ∧ port t p = some { x with link := .parked, probe := 0, lastChange := idx s } ∧
      (∀ l ∈ portLanes p x, (lane t l).req = x.guard.parkRung) ∧ t = { s with lanes := t.lanes, ports := t.ports }) ∧
  (∀ (p : Nat) (s : State) (x : Port),
    port s p = some x → x.link = .parked → 1024 * x.guard.probe ≤ x.probe → (∀ l ∈ portLanes p x, (lane s l).echo = none) →
    ∃ t, exec (.portProbe p) s = .next t ∧ port t p = some { x with
        link := .negotiating, resolved := 0, quiet := 0, probeEnd := some (now s + 1024), aligned := false, alignFrom := none, lastChange := idx s } ∧
      (∀ l ∈ portLanes p x, (lane t l).req = 0) ∧ t = { s with lanes := t.lanes, ports := t.ports }) ∧
  (∀ (p : Nat) (s : State) (x : Port),
    port s p = some x → x.link = .parked → (∀ l ∈ portLanes p x, (lane s l).echo = none) → (∃ l ∈ portLanes p x, (lane s l).rung < 5) →
    ∃ t, exec (.parkedSignal p) s = .next t ∧ port t p = some { x with
        link := .negotiating, resolved := 0, quiet := 0, probeEnd := none, aligned := false, alignFrom := none, lastChange := idx s } ∧
      (∀ l ∈ portLanes p x, (lane t l).req = 0) ∧ t = { s with lanes := t.lanes, ports := t.ports }) ∧
  (∀ (p : Nat) (s : State) (x : Port),
    port s p = some x → (∀ l ∈ portLanes p x, 5 ≤ (lane s l).rung) → exec (.parkedSignal p) s = .next s) ∧
  (∀ (l : Nat) (s : State) (y : Nat × Port),
    portOfLane s l = some y → exec (.fecUncorrectable l) s = .next (portFault 50 y.1 l (ev 0x010B y.1
      (modPort y.1 (fun z => { z with rxBad := z.rxBad || (y.2.arriving.isSome || y.2.early.isSome || y.2.staged.any (fun f => !f.whole)) }) s)))) ∧
  (∀ (p i : Nat) (s : State) (x : Port),
    port s p = some x → x.link = .up → i ≤ 8 → watched x i = true → inStorm x i = false → x.guard.storm ≠ 0 → x.guard.storm ≤ at0 x.pausedRun i →
    exec (.stormEnter p i) s = .next (portFault 51 p i (stormDiscard p (setStorm p i true s)))) ∧
  (∀ (p i : Nat) (s : State) (x : Port),
    port s p = some x → i ≤ 8 → inStorm x i = true → x.guard.storm ≤ at0 x.stormQuiet i →
    ∃ t y, exec (.stormExit p i) s = .next t ∧ onlyPort p s t ∧ port t p = some y ∧ inStorm y i = false ∧
      (∀ j, j ≤ 8 → j ≠ i → inStorm y j = inStorm x j))

/-- LLDP_TX, LLDPDU_RECEIVE, LLDP_TTL_EXPIRY, ESMC_TX, SYNCE_OUT_RESUME, REFCLK_LOSS and REFCLK_RETURN where their conditions hold (04 R106, R111 to R113; 03 R64). Where the spec leaves a point open the clauses state the choice of the model: log entries 33 and 108. -/
def Obligations.ProtocolRowsComplete : Prop :=
  (∀ (p : Nat) (s : State) (x : Port),
    port s p = some x → x.link = .up → x.lldp = true → s.boot.fwRunning = true → pduDue s x.lldpAt (30 * 10 ^ 9) = true →
    exec (.lldpTx p) s = .next (macSend p (lldpFrame (drawFree 30 s).1) (modPort p (fun y => { y with lldpAt := some (now s) }) (drawFree 30 s).2))) ∧
  (∀ (p : Nat) (pdu : List Byte) (s : State) (x : Port) (n : Neighbour),
    port s p = some x → x.link = .up → x.lldp = true → s.boot.fwRunning = true → neighbourOf pdu (now s) = some n →
    ∃ t, exec (.lldpduReceive p pdu) s = .next t ∧ onlyPort p s t ∧ port t p = some { x with neighbour := if n.ttl = 0 then none else some n }) ∧
  (∀ (p : Nat) (s : State) (x : Port) (n : Neighbour),
    port s p = some x → x.neighbour = some n → n.ttl * 10 ^ 9 ≤ (now s - n.at_) * 1024 →
    ∃ t, exec (.lldpTtlExpiry p) s = .next t ∧ onlyPort p s t ∧ port t p = some { x with neighbour := none }) ∧
  (∀ (p : Nat) (s : State) (x : Port),
    port s p = some x → x.link = .up → x.esmc = true → s.boot.fwRunning = true → pduDue s x.esmcAt (10 ^ 9) = true →
    exec (.esmcTx p false) s = .next (macSend p (esmcFrame false x.ql (drawFree 24 s).1) (modPort p (fun y => { y with ql := x.ql, esmcAt := some (now s) }) (drawFree 24 s).2))) ∧
  (∀ (p : Nat) (s : State) (x : Port),
    port s p = some x → x.link = .up → x.esmc = true → s.boot.fwRunning = true →
    exec (.esmcTx p true) s = .next (
      let ql := newQl x.ql ((drawFree 24 s).1.getD 23 0)
      macSend p (esmcFrame true ql (drawFree 24 s).1) (modPort p (fun y => { y with ql := ql, esmcAt := x.esmcAt }) (drawFree 24 s).2))) ∧
  (∀ (o l : Nat) (s : State),
    o < 2 → s.refs.out.getD o none = some l → synceGood s l = true → s.refs.upAt.getD o 0 + 64 ≤ now s →
    exec (.synceOutResume o) s = .next { s with refs := { s.refs with low := s.refs.low.set o false } }) ∧
  (∀ (r : Nat) (s : State),
    r < 6 → exec (.refclkLoss r) s = .next (refLoss r s)) ∧
  (∀ (s : State),
    s.refs.lost.contains 4 = false →
    exec (.refclkLoss 4) s = .next (fault 48 0 4 { s with
      refs := { s.refs with lost := 4 :: s.refs.lost }, time := { s.time with running := false }, boot := { s.boot with ready := false, refMLost := true } })) ∧
  (∀ (r : Nat) (s : State),
    exec (.refclkReturn r) s = .next { s with refs := { s.refs with lost := s.refs.lost.filter (fun x => x != r) } })

/-- PFC_RECEIVE, PAUSE_RECEIVE, PAUSE_TIMER_EXPIRY, PFC_REFRESH and QUEUE_HOLD_EXPIRY where their conditions hold (08 R243; 09 R272 to R276). Where the spec leaves a point open the clauses state the choice of the model: log entry 34. -/
def Obligations.PauseRowsComplete : Prop :=
  (∀ (p i : Nat) (times : List Nat) (s : State) (x : Port),
    port s p = some x → x.link = .up → i < 8 → x.pfcRx.toNat.testBit i = true → pauseIgnored x i = false → i < x.timers.length →
    ∃ t y, exec (.pfcReceive p (1#16 <<< i) times) s = .next t ∧ t = { s with ports := t.ports, evc := t.evc } ∧ port t p = some y ∧
      y.timers = x.timers.set i (at0 times i)) ∧
  (∀ (p time : Nat) (s : State) (x : Port),
    port s p = some x → x.link = .up → x.pauseRx = true → x.storm31 = false →
    ∃ t y, exec (.pauseReceive p time) s = .next t ∧ t = { s with ports := t.ports, evc := t.evc } ∧ port t p = some y ∧ y.timers = x.timers.set 8 time) ∧
  (∀ (p i : Nat) (s : State) (x : Port),
    port s p = some x → i ≤ 8 → 0 < at0 x.timers i →
    ∃ t, exec (.pauseTimerExpiry p i) s = .next t ∧ onlyPort p s t ∧ port t p = some { x with timers := x.timers.set i 0, pausedRun := x.pausedRun.set i 0 }) ∧
  (∀ (p i : Nat) (s : State) (x : Port),
    port s p = some x → x.link = .up → x.advert.toNat.testBit i = true →
    (i < 8 → exec (.pfcRefresh p i) s = .next (pushMacCtl p
      { annex31 := false, vec := 1#8 <<< i, quanta := (List.range 8).map (fun k => if k = i then x.pfcQuanta else 0) } s)) ∧
    (i = 8 → exec (.pfcRefresh p i) s = .next (pushMacCtl p { annex31 := true, vec := 0, quanta := [x.pauseQuanta] } s))) ∧
  (∀ (p h : Nat) (s : State) (x : Port),
    port s p = some x → x.hold = some h → h ≤ now s → x.link ≠ .up → exec (.queueHoldExpiry p) s = .next (holdFlush p s))

/-! ## Rows of frames -/

/-- FRAME_RECEIVE, SLOT_ISSUE and FRAME_LAST_BYTE: a good frame that arrives whole on a port that is UP is staged and counted, one that arrives in part is staged, or kept aside while its first 14 bytes are not all there or it is a MAC control frame; a frame with a bad FCS is counted in RX_FCS_ERRORS alone; the oldest staged frame takes a slot when its group has room, a cell is free and it is its port's turn; the last byte makes a staged frame whole, settles an admitted one, and makes a frame kept aside arrive (01 R24, R32; 04 R97, R102; 05 R117; 08 R221). Where the spec leaves a point open the clauses state the choice of the model: log entries 22, 48, 94 and 96. -/
def Obligations.FrameArrivalComplete : Prop :=
  (∀ (p len ph ln : Nat) (data : List Byte) (s : State) (x : Port),
    port s p = some x → x.link = .up → x.stk.enable = false → x.arriving = none → x.early = none → (∀ f ∈ x.staged, f.whole = true) →
    (64 ≤ data.length ∧ data.length ≤ x.maxFrame) → bfld data 12 2 ≠ 0x8808 → stagedBytes x < 4096 * x.width →
    ∃ t, exec (.frameReceive p len data true true ⟨ph, ln⟩) s = .next t ∧ t = { s with ports := t.ports, evc := t.evc } ∧
      port t p = some { x with staged := x.staged ++ [{ data := data, len := data.length, whole := true, ts := ingressTs s p x ln ph, hdr := none }] }) ∧
  (∀ (p len ph ln : Nat) (data : List Byte) (s : State) (x : Port),
    port s p = some x → x.link = .up → x.stk.enable = false → x.arriving = none → x.early = none → (∀ f ∈ x.staged, f.whole = true) →
    exec (.frameReceive p len data true false ⟨ph, ln⟩) s = .next (ev 0x0105 p s)) ∧
  (∀ (p len ph ln : Nat) (fcsOk : Bool) (data : List Byte) (s : State) (x : Port),
    port s p = some x → x.link = .up → x.stk.enable = false → x.arriving = none → x.early = none → (∀ f ∈ x.staged, f.whole = true) →
    data.length < len → 14 ≤ data.length → bfld data 12 2 ≠ 0x8808 → stagedBytes x < 4096 * x.width →
    exec (.frameReceive p len data false fcsOk ⟨ph, ln⟩) s = .next (modPort p (fun y => { y with
      staged := y.staged ++ [{ data := data, len := len, whole := false, ts := ingressTs s p x ln ph, hdr := none }] }) s)) ∧
  (∀ (p len ph ln : Nat) (fcsOk : Bool) (data : List Byte) (s : State) (x : Port),
    port s p = some x → x.link = .up → x.stk.enable = false → x.arriving = none → x.early = none → (∀ f ∈ x.staged, f.whole = true) →
    data.length < len → (data.length < 14 ∨ bfld data 12 2 = 0x8808) →
    exec (.frameReceive p len data false fcsOk ⟨ph, ln⟩) s = .next (modPort p (fun y => { y with early := some (data, ingressTs s p x ln ph) }) s)) ∧
  (∀ (p len ph ln : Nat) (data : List Byte) (s : State) (x : Port),
    port s p = some x → x.link = .up → x.stk.enable = true → x.stk.st = .live → x.arriving = none → x.early = none → (∀ f ∈ x.staged, f.whole = true) →
    hdrGood (slice data 0 16) = true → hdrType (slice data 0 16) = 0 → ownGroup s (slice data 0 16) = false → s.flt.tpOn.enable = false →
    (64 ≤ (data.drop 16).length ∧ (data.drop 16).length ≤ x.maxFrame) → bfld (data.drop 16) 12 2 ≠ 0x8808 → stagedBytes x < 4096 * x.width →
    ∃ t, exec (.frameReceive p len data true true ⟨ph, ln⟩) s = .next t ∧ t = { s with ports := t.ports, evc := t.evc } ∧
      port t p = some { x with staged := x.staged ++
        [{ data := data.drop 16, len := (data.drop 16).length, whole := true, ts := ingressTs s p x ln ph, hdr := some (slice data 0 16) }] }) ∧
  (∀ (p head : Nat) (banks : BankIn) (s s0 : State) (x : Port) (f : Staged) (rest : List Staged),
    port s p = some x → x.staged = f :: rest → slotReady s p x f = true → arbTurn (grp s (groupOf p)).arb (wantSlots s (groupOf p)) p = true →
    newChain (groupOf p) (max 1 (cellsOf f.data.length)) f.len f.data (modGrp (groupOf p) (fun y => { y with arb := arbServe (arbWeight x) p y.arb }) s) = some (head, s0) →
    let arr := if f.whole then none else some { head := head, mta := head, got := f.data.length, len := f.len }
    let s1 := chainRef head (modPort p (fun y => { y with staged := rest, arriving := arr }) s0)
    let sel := preciseSelect (groupOf p) (watchEvent 0x0701 p 0 f.len s1)
    exec (.slotIssue p banks) s = .next (ingress p head (if f.whole then cellsOf f.len else cellsOf x.maxFrame) x f sel.1 banks
      (mirrorSelect p (clusterOf (groupOf p)) f.len f.ts f.data sel.2))) ∧
  (∀ (p : Nat) (rest : List Byte) (s : State) (x : Port) (f : Staged),
    port s p = some x → x.arriving = none → x.early = none → x.rxBad = false → x.staged.getLast? = some f → f.whole = false →
    (64 ≤ f.data.length + rest.length ∧ f.data.length + rest.length ≤ x.maxFrame) →
    ∃ t, exec (.frameLastByte p rest true) s = .next t ∧ t = { s with ports := t.ports, evc := t.evc } ∧
      port t p = some { x with staged := x.staged.dropLast ++ [{ f with data := f.data ++ rest, len := f.data.length + rest.length, whole := true }] }) ∧
  (∀ (p : Nat) (rest : List Byte) (s : State) (x : Port) (a : Arriving),
    port s p = some x → x.arriving = some a → x.early = none →
    exec (.frameLastByte p rest true) s = .next (
      let len := a.got + rest.length
      let big := decide (x.maxFrame < len)
      releaseCopies p a len (x.rxBad || big) (settleFrame a (rest.take (x.maxFrame - a.got)) (x.rxBad || big)
        (rxCount p len (!x.rxBad) big (modPort p (fun y => { y with rxBad := false, early := none, arriving := none }) s))))) ∧
  (∀ (p ts : Nat) (rest data : List Byte) (fcsOk : Bool) (s : State) (x : Port),
    port s p = some x → x.early = some (data, ts) → x.stk.enable = false →
    exec (.frameLastByte p rest fcsOk) s = .next (wholeFrame p x none (data ++ rest) (fcsOk && !x.rxBad) ts
      (modPort p (fun y => { y with rxBad := false, early := none }) s)))

/-- SCHEDULER_SELECT, TRANSMIT_END and REPLICATION: a waiting MAC control frame leaves first, then a frame of the stack engine; else, at the port's turn, the queue that the ranks give has its head selected; the oldest transmission ends; the oldest replication of a group runs over the list of its multicast group, and the frames that wait behind it at station 6 go on (01 R27, R29, R30; 08 R255; 09 R257, R258, R260, R273; 12 R372). Where the spec leaves a point open the clauses state the choice of the model: log entries 94, 95 and 111. -/
def Obligations.FrameDepartureComplete : Prop :=
  (∀ (p ph ln : Nat) (b : BankIn) (s : State) (x : Port) (c : MacCtl) (r : List MacCtl),
    port s p = some x → x.link = .up → macCtlNext x = some (c, r) →
    exec (.schedulerSelect p ⟨ph, ln⟩ b) s = .next (ev (if c.annex31 then 0x0111 else 0x0110) p
      (macSend p ((if x.stk.enable then macCtlHeader s x else []) ++ macCtlBytes x c) (modPort p (fun y => { y with macCtl := r }) s)))) ∧
  (∀ (p ph ln : Nat) (b : BankIn) (s : State) (x : Port) (e : CtlTx),
    port s p = some x → x.link = .up → macCtlNext x = none → stackNext s p x = some e →
    exec (.schedulerSelect p ⟨ph, ln⟩ b) s = .next (
      let r := stackOut p (egressTs s p x ln ph) e.bytes { s with stack := { s.stack with tx := s.stack.tx.erase e } }
      macSend p r.1 r.2)) ∧
  (∀ (p ph ln q : Nat) (b : BankIn) (s : State) (x y : Port),
    port s p = some x → x.link = .up → macCtlNext x = none → stackNext s p x = none → pickFrame s p x = some (q, y) → selTurn s p x = true →
    exec (.schedulerSelect p ⟨ph, ln⟩ b) s = .next (selectHead p q ph ln b (
      if urgent s p x then modPort p (fun _ => y) s
      else modGrp (groupOf p) (fun z => { z with sel := arbServe (arbWeight x) p z.sel }) (modPort p (fun _ => y) s)))) ∧
  (∀ (p ph ln : Nat) (b : BankIn) (s : State) (x : Port),
    port s p = some x → x.link = .up → macCtlNext x = none → stackNext s p x = none → pickFrame s p x = none →
    exec (.schedulerSelect p ⟨ph, ln⟩ b) s = .next s) ∧
  (∀ (p : Nat) (s : State) (x : Port) (f : Sent),
    port s p = some x → x.inflight.find? (fun g => !g.dropped) = some f → f.desc.prov = false →
    exec (.transmitEnd p) s = .next (sentEnd p f s)) ∧
  (∀ (g list cnt : Nat) (s : State) (j : ReplJob) (rest : List ReplJob) (m : Meta),
    (grp s g).repl = j :: rest → metaOf s j.mta = some m →
    let s0 := modGrp g (fun x => { x with repl := rest }) s
    mcastHead s0 (clusterOf g) j.group = some (list, cnt) →
    let bs := chainRead s j.head 0 (min (j.len - 4) 512)
    let r := (List.range cnt).foldl (fun acc i => replicateEntry g (clusterOf g) list i j m.phv (ptpMark s m.phv bs) (ecnCapable s m.phv bs) acc.1 acc.2) ({}, s0)
    let s2 := modMeta j.mta (fun y => { y with copies := r.1.copies }) (flowStation g m r.1 j.exc r.2)
    let s3 := closeChain j.head none (if r.1.copies = 0 then modMeta j.mta (fun y => { y with tracked := false }) (sampleOut m 1 s2) else s2)
    exec (.replication g) s = .next (station6 g (grp s3 g).at6 s3))

/-- CHAIN_FREE by the owner of a chain frees it and gives its stake back; an address that is no chain of the requester's counts as it stands in 08 R223 and raises the fault of the requester. FREE_LIST_REBUILD_END gives a section a list of every cell that is neither retired nor in a chain (08 R223, R247, R250). Where the spec leaves a point open the clauses state the choice of the model: log entry 100. -/
def Obligations.ChainRowsComplete : Prop :=
  (∀ (r c : Nat) (s : State) (x : Chain),
    r ≤ 35 → c < bufCells → sectRun s (sectOf c) = true → chain s c = some x → x.owner = r →
    exec (.chainFree r (c * 256)) s = .next (dropChain c s)) ∧
  (∀ (r c : Nat) (s : State),
    r ≤ 35 → c < bufCells → sectRun s (sectOf c) = true → (∀ x, chain s c = some x → x.owner ≠ r) →
    exec (.chainFree r (c * 256)) s = .next (fault r 0 (c * 256) (evAdd 0x0501 0 r 1 s))) ∧
  (∀ (r addr : Nat) (s : State),
    r ≤ 35 → (addr % 256 ≠ 0 ∨ bufCells ≤ addr / 256) →
    exec (.chainFree r addr) s = .next (fault r 0 addr (evAdd 0x0502 0 r 1 s))) ∧
  (∀ (n : Nat) (s : State),
    n ≤ 7 → (sect s n).rebuilding = true →
    exec (.freeListRebuildEnd n) s = .next (modSect n (fun y => sectRelist n (chainCells s n) { y with cache := [], backlog := [], waiting := [] }) s)) ∧
  (∀ (n : Nat) (s : State),
    n ≤ 7 → (sect s n).rebuilding = false → (sect s n).listRebuild = true →
    exec (.freeListRebuildEnd n) s = .next (modSect n (sectRelist n (chainCells s n)) s))

/-! ## Rows of tables and memories -/

/-- TABLE_ENGINE_OP, LEARN_EXECUTE, AGE_DELETE_EXECUTE, AGER_VISIT and NOTIFICATION_FORWARD on a cluster whose turn it is and ROW_REPAIR of a failing row that exists (06 R163 to R170, R178; 17 R508). Where the spec leaves a point open the clauses state the choice of the model: log entries 80, 85 and 109. -/
def Obligations.TableRowsComplete : Prop :=
  (∀ (n b : Nat) (v : BitVec 512) (ch : Option Nat) (s : State) (rest : List EngineOp),
    engineTurn (cluster s n) = some 0 → (cluster s n).cmdQ = .bucket b v ch :: rest → (cluster s n).slotsUsed < 64 →
    exec (.tableEngineOp n) s = .next (bucketWrite n b v (modCluster n (fun c => cmdFill { c with cmdQ := rest, rr := 1 }) s))) ∧
  (∀ (n t op slot b : Nat) (why : OpWhy) (force : Bool) (img : BitVec 256) (s : State) (rest : List EngineOp),
    engineTurn (cluster s n) = some 0 → (cluster s n).cmdQ = .keyed why t op force slot b img :: rest → (cluster s n).slotsUsed < 64 →
    exec (.tableEngineOp n) s = .next (reinsertNext (runKeyed n why t op force slot b img (modCluster n (fun c => cmdFill { c with cmdQ := rest, rr := 1 }) s)))) ∧
  (∀ (n : Nat) (s : State),
    64 < (cluster s n).slotsUsed → exec (.tableEngineOp n) s = .next s) ∧
  (∀ (n : Nat) (s : State) (r : LearnReq),
    engineTurn (cluster s n) = some 1 → (cluster s n).learnQ.find? (fun r => !(cluster s n).learnHold.contains r.table) = some r → (cluster s n).slotsUsed < 64 →
    exec (.learnExecute n) s = .next (runLearn n r (modCluster n (fun x => { x with learnQ := x.learnQ.erase r, rr := 2 }) s))) ∧
  (∀ (n : Nat) (s : State) (a : AgeDel) (rest : List AgeDel) (d : TableDesc),
    engineTurn (cluster s n) = some 2 → (cluster s n).ageQ = a :: rest → fwTable s a.table = some d → (cluster s n).slotsUsed < 64 →
    let s1 := modCluster n (fun x => { x with ageQ := rest, rr := 0 }) s
    (stillIdle (cluster s n) d a = true →
      exec (.ageDeleteExecute n) s = .next (evAdd 0x0418 n a.table 1 (notify n 4 a.table (unitSlot d a.slot) a.bucket
        (entImage (unitGet d (bucketGet (cluster s n) a.bucket) a.slot)) (modCluster n (fun x => useSlots 1 (bucketUnit d a.bucket a.slot 0 x)) s1)))) ∧
    (stillIdle (cluster s n) d a = false → exec (.ageDeleteExecute n) s = .next s1)) ∧
  (∀ (n b t : Nat) (s : State) (d : TableDesc),
    notifRoom (cluster s n) = true → (cluster s n).ageQ.length < 256 → agerBucket s (cluster s n).ager = some b →
    isRetired (cluster s n) b = false → regionTable s b = some (t, d) →
    exec (.agerVisit n) s = .next (agerUnits n b d ((List.range (unitCount d)).drop (if b = (cluster s n).ager then (cluster s n).agerAt else 0)) s)) ∧
  (∀ (n : Nat) (s : State) (r : Notif) (rest : List Notif),
    let s1 := reinsertNext (replicateNext n s)
    (cluster s1 n).notif = r :: rest → r.done = true → s1.link.evtValid = true → rxTo s1 s1.link.evtRing 2 ≠ .dropped →
    exec (.notificationForward n) s = .next (rxPost s1.link.evtRing (eventEntry r) none
      (notifyRetired n (modCluster n (fun c => { c with notif := rest }) s1)))) ∧
  (∀ (f : FailRow) (s : State),
    powered s = true → rowFailing s f = true → rowExists s f = true → tabGetD (rowBad f (rowDone f s)).flt.spares (bankKey f) 0 < 4 →
    exec (.rowRepair f) s = .next (rowEvent f (rowCopy f { rowBad f (rowDone f s) with flt := { (rowBad f (rowDone f s)).flt with
      spares := tabPut (rowBad f (rowDone f s)).flt.spares (bankKey f) (tabGetD (rowBad f (rowDone f s)).flt.spares (bankKey f) 0 + 1) } }))) ∧
  (∀ (f : FailRow) (s : State),
    powered s = true → rowFailing s f = true → rowExists s f = true → 4 ≤ tabGetD (rowBad f (rowDone f s)).flt.spares (bankKey f) 0 →
    exec (.rowRepair f) s = .next (rowRetire f (rowBad f (rowDone f s))))

/-! ## Rows of the stack, of power and of time -/

/-- HEARTBEAT_RECEIVE of a good heartbeat on a stack link that is not DOWN, STACK_LINK_MISS of a LIVE link past MISS_LIMIT, STACK_MEMBER_EXPIRY four rubbers after the last JOIN, CONTROL_FRAME_RECEIVE for this chip, CONTROL_RESEND two hands after the last sending and ISSUE_RATE_CHANGE (12 R371, R372, R376, R383, R387, R388). Where the spec leaves a point open the clauses state the choice of the model: log entries 60, 62 and 113. -/
def Obligations.StackRowsComplete : Prop :=
  (∀ (p ph ln : Nat) (frame : List Byte) (s : State) (x : Port),
    port s p = some x → x.link = .up → x.stk.enable = true → x.stk.st ≠ .down → s.stack.levels ≠ 0 →
    hdrGood frame = true → hdrType frame = 1 → frame.length = 192 →
    ∃ y, port (rxCount p 180 true false s) p = some y ∧
      exec (.heartbeatReceive p frame ⟨ph, ln⟩) s = .next (heartbeatIn p y frame (frame.drop 16)
        (ingressTs s p x ln ph + 16 * (if s.flt.tpOn.enable then tabGetD s.flt.tpOn.rxDelay p 0 else 0)) (rxCount p 180 true false s))) ∧
  (∀ (p : Nat) (s : State) (x : Port),
    port s p = some x → x.stk.enable = true → x.stk.st = .live → x.stk.lastHb + s.stack.missLimit < now s →
    ∃ t y, exec (.stackLinkMiss p) s = .next t ∧ onlyPort p s t ∧ port t p = some y ∧ y.stk.st = .discovering ∧ y.stk.good = 0 ∧
      y.stk.fs.enable = false ∧ y.link = x.link) ∧
  (∀ (j q : Nat) (s : State),
    s.boot.fwRunning = true →
    exec (.stackMemberExpiry j q) s = .next { s with stack := { s.stack with
      joined := s.stack.joined.filter (fun m => !decide (m.level = j ∧ m.path = q ∧ m.since + 4096 ≤ now s)) } }) ∧
  (∀ (p ph ln : Nat) (frame : List Byte) (s : State) (x : Port),
    port s p = some x → x.link = .up → x.stk.enable = true → x.stk.st = .live → hdrGood frame = true → hdrType frame = 2 →
    hdrDst frame = (s.stack.own, s.stack.levels) →
    exec (.controlFrameReceive p ⟨frame, ph, ln⟩) s = .next (controlHere p frame
      (ingressTs s p x ln ph + 16 * (if s.flt.tpOn.enable then tabGetD s.flt.tpOn.rxDelay p 0 else 0)) (rxCount p (frame.length + 4 - 16) true false s))) ∧
  (∀ (seq : Nat) (s : State) (o : Outstanding),
    s.stack.out.find? (fun o => o.seq == seq) = some o → o.sent + 128 ≤ now s → s.boot.fwRunning = true →
    (o.tries < 3 → exec (.controlResend seq) s = .next (sendControl o.dst o.levels 1 seq o.payload { s with stack := { s.stack with
      out := s.stack.out.map (fun y => if y.seq = seq then { y with tries := y.tries + 1, sent := now s } else y) } })) ∧
    (∀ m, 3 ≤ o.tries → o.mb = some m → exec (.controlResend seq) s = .next (answer m stNotReady 0 [] { s with stack := { s.stack with
      out := s.stack.out.filter (fun y => y.seq != seq) } })) ∧
    (3 ≤ o.tries → o.mb = none → exec (.controlResend seq) s = .next { s with stack := { s.stack with
      out := s.stack.out.filter (fun y => y.seq != seq) } })) ∧
  (∀ (r : Nat) (s : State),
    (1 ≤ r ∧ r ≤ 8) → s.boot.fwRunning = true →
    ∃ t, exec (.issueRateChange r) s = .next t ∧
      t.power.decrease = some (r, if r < s.power.want ∧ anyLive s = true then now s + 3 else now s + 1) ∧ t.power.issue = s.power.issue)

/-- LIMITER_ENGAGE, LIMITER_RELEASE, INPUT_LIMIT_SHED, EMERGENCY_SHED, EMERGENCY_SHED_END, THERMAL_TRIP, VIN_LOSS and SPRINT_CLOCK_CHANGE where their conditions hold (16 R469, R470, R483, R492, R493, Tables 16.1, 16.5). -/
def Obligations.PowerRowsComplete : Prop :=
  (∀ (iin : Nat) (s : State),
    pmRuns s = true → 40000 ≤ iin → s.power.limiter = false →
    ∃ t, exec (.limiterEngage iin) s = .next t ∧ t.power.limiter = true ∧ t.power.limiterSeen = true ∧ t.power.issue = 1 ∧ t.power.pace = 1) ∧
  (∀ (s : State),
    s.power.limiter = true → 64 ≤ s.power.limiterLow →
    ∃ t, exec .limiterRelease s = .next t ∧ t.power.limiter = false ∧ t.power.issue = (if s.power.emergency then 1 else s.power.want) ∧
      (s.power.emergency = false → t.power.pace = orderedRate s.power)) ∧
  (∀ (o : Nat) (s : State),
    64 ≤ s.power.limiterHigh → s.power.emergency = false → nextShed s.power = some o → s.power.shedAt ≠ now s + 1 →
    exec .inputLimitShed s = .next { s with power := { s.power with shedAt := now s + 1, shedOcts := s.power.shedOcts ++ [o] } }) ∧
  (∀ (s : State),
    64 ≤ s.power.limiterHigh → s.power.emergency = false → nextShed s.power = none → 64 ≤ s.power.exhausted →
    ∃ t, exec .inputLimitShed s = .next t ∧ t.power.emergency = true ∧ ShedTrigger.inputLimit ∈ t.power.triggers ∧ t.power.issue = 1) ∧
  (∀ (r : ShedTrigger) (s : State),
    pmRuns s = true → ¬ (r = .pwrFail ∧ scanHolds s = true) →
    ∃ t, exec (.emergencyShed r) s = .next t ∧ t.power.emergency = true ∧ r ∈ t.power.triggers ∧ (s.power.emergency = false → t.power.issue = 1 ∧ t.power.pace = 1)) ∧
  (∀ (s : State),
    s.power.emergency = true → 16384 ≤ s.power.absent →
    ∃ t, exec .emergencyShedEnd s = .next t ∧ t.power.emergency = false ∧ t.power.triggers = [] ∧ t.power.shedOcts = [] ∧
      t.power.issue = (if s.power.limiter then 1 else s.power.want)) ∧
  (∀ (tj : Int) (s : State),
    pmRuns s = true → 2000 ≤ tj →
    ∃ t, exec (.thermalTrip tj) s = .next t ∧ t.boot.phase = .off ∧ t.boot.tripped = true ∧ t.ports = [] ∧ t.devMem = [] ∧ t.hostMem = s.hostMem ∧
      t.power.log = s.power.log) ∧
  (∀ (vin : Nat) (s : State),
    vin < 9000 →
    ∃ t, exec (.vinLoss vin) s = .next t ∧ t.boot.phase = .off ∧ t.boot.tripped = false ∧ t.ports = [] ∧ t.devMem = [] ∧ t.hostMem = s.hostMem ∧
      t.power.log = s.power.log) ∧
  (∀ (n : Nat) (s : State),
    s.power.plan = .enter n → n ≤ now s → sprintForbidden s = false →
    exec .sprintClockChange s = .next { s with power := { s.power with plan := .none, sinceStep := 0 }, trick := { s.trick with sprint := true } }) ∧
  (∀ (n : Nat) (s : State),
    s.power.plan = .rails n → n ≤ now s →
    exec .sprintClockChange s = .next { s with power := { s.power with plan := .none, railsSprint := false } })

/-- RUNG_EXIT_COMPLETE and RUNG_ENTRY_COMPLETE of a unit that is moving, and OCTET_RAMP_BATCH (16 R475, R476; 03 R85, R86; 18 R531). -/
def Obligations.RungRowsComplete : Prop :=
  (∀ (l : Nat) (s : State),
    l < laneCount s → (lane s l).moving = true → (lane s l).rung = 0 →
    exec (.rungExitComplete (.lane l)) s = .next (laneRunning l (rampDone (l / 8) s))) ∧
  (∀ (l : Nat) (s : State),
    l < laneCount s → (lane s l).moving = true → (lane s l).rung ≠ 0 →
    exec (.rungExitComplete (.lane l)) s = .next (modLane l (fun y => { y with moving := false }) (rampDone (l / 8) s))) ∧
  (∀ (d : Nat) (s : State),
    64 ≤ d → d < 113 → (pdom s d).moving = true →
    ∃ t, exec (.rungExitComplete (.domain d)) s = .next t ∧ (pdom t d).moving = false ∧ (pdom t d).held = (pdom s d).held ∧ t.ports = s.ports ∧ t.lanes = s.lanes) ∧
  (∀ (l : Nat) (s : State),
    l < laneCount s → (lane s l).moving = true → (lane s l).rung ≠ 0 →
    exec (.rungEntryComplete (.lane l)) s = .next (modLane l (fun y => { y with moving := false }) s)) ∧
  (∀ (d : Nat) (s : State),
    64 ≤ d → d < 113 → (pdom s d).moving = true → (pdom s d).held ≠ 0 →
    exec (.rungEntryComplete (.domain d)) s = .next (modDomP d (fun x => { x with moving := false }) s)) ∧
  (∀ (s : State),
    ∃ t, exec .octetRampBatch s = .next t ∧ t.power.ramping = ((List.range (octetCount s)).filter (octetRises s)).take 8)

/-- TIME_DOMAIN_SRC_LOST, PPS_EDGE, TPIO_CAPTURE, TPIO_ONE_SHOT_FIRE, TPIO_PERIODIC_EDGE, PTP_MESSAGE_RECEIVE, PTP_MESSAGE_TX and SWITCHOVER_SLEW_END where their conditions hold (10 R306, R309, R313, R315 to R319). Where the spec leaves a point open the clauses state the choice of the model: log entries 19, 55 to 58, 91 and 92. -/
def Obligations.TimeRowsComplete : Prop :=
  (∀ (x : Nat) (s : State),
    x < 2 → (dom s x).srcLost = false → (dom s x).lossTimeout ≤ (dom s x).since →
    exec (.timeDomainSrcLost x) s = .next (lossSelect x (modDom x (fun y => { y with
      srcLost := true, locked := false, good := 0, f := y.acc, ptp := if y.source = 1 then { y.ptp with master := none, sync := none, toSlave := none } else y.ptp }) s))) ∧
  (∀ (ph : Nat) (s : State),
    scanHolds s = false → s.time.running = true →
    (edgeOn (pin s 8) true = true → exec (.ppsEdge ph false) s = .next (pinCapture 8 true ph (edgeSamples 2 8 ph s))) ∧
    (edgeOn (pin s 8) true = false → exec (.ppsEdge ph false) s = .next (edgeSamples 2 8 ph s)) ∧
    exec (.ppsEdge ph true) s = .next s) ∧
  (∀ (n ph : Nat) (s : State),
    n < 9 → scanHolds s = false → s.time.running = true → (n < 8 → (pin s n).mode = 1) →
    (edgeOn (pin s n) true = true → exec (.tpioCapture n true ph false) s = .next (pinCapture n true ph (edgeSamples (if n = 8 then 2 else 3) n ph s))) ∧
    (edgeOn (pin s n) true = false → exec (.tpioCapture n true ph false) s = .next (edgeSamples (if n = 8 then 2 else 3) n ph s)) ∧
    (edgeOn (pin s n) false = true → exec (.tpioCapture n false ph false) s = .next (pinCapture n false ph s)) ∧
    (edgeOn (pin s n) false = false → exec (.tpioCapture n false ph false) s = .next s)) ∧
  (∀ (n ph : Nat) (s : State),
    n < 8 → (pin s n).mode = 2 → (pin s n).armed = true → (pin s n).sStart * 4096 ≤ t16At s ph →
    exec (.tpioOneShotFire n ph) s = .next (modPin n (fun y => pinFire ph { y with armed := false }) s)) ∧
  (∀ (n ph : Nat) (s : State),
    n < 8 → ((pin s n).mode = 3 ∨ (pin s n).mode = 4) → (pin s n).armed = true → (pin s n).due ≤ t16At s ph →
    exec (.tpioPeriodicEdge n ph) s = .next (modPin n (fun y => pinFire ph { y with due := y.due + y.sPeriod }) s)) ∧
  (∀ (m : PtpIn) (s : State) (x : Port),
    port s m.port = some x → x.link = .up → ptpRuns s m.domain = true →
    let ts := ingressTs s m.port x m.ln m.ph
    (ptpCheck s m = .notAcceptable → exec (.ptpMessageReceive m) s = .next (ev 0x011C m.port s)) ∧
    (ptpCheck s m = .authFail → exec (.ptpMessageReceive m) s = .next (ev 0x011D m.port s)) ∧
    (ptpCheck s m = .ok → exec (.ptpMessageReceive m) s = .next (ptpAccept m ts s)) ∧
    (∀ k, ptpCheck s m = .icv k → engineTaken s = true → exec (.ptpMessageReceive m) s = .next { s with
      ciph := { s.ciph with waiting := true }, time := { s.time with ptpWait := s.time.ptpWait ++ [(m, now s, ts)] } }) ∧
    (∀ k, ptpCheck s m = .icv k → engineTaken s = false → icvGood s m k = true →
      ∃ t, exec (.ptpMessageReceive m) s = .next t ∧ t = { ptpAccept m ts s with ciph := engineFree (ptpAccept m ts s).ciph }) ∧
    (∀ k, ptpCheck s m = .icv k → engineTaken s = false → icvGood s m k = false →
      ∃ t, exec (.ptpMessageReceive m) s = .next t ∧ t = { ev 0x011D m.port s with ciph := engineFree (ev 0x011D m.port s).ciph })) ∧
  (∀ (x p k : Nat) (msg : List Byte) (s : State) (y : Port),
    port s p = some y → y.link = .up → ptpRuns s x = true → 34 ≤ msg.length →
    let m := ptpFill x p k y msg s
    let r := if (dom s x).tx then ptpSigned (dom s x) m.1 m.2 else m
    let bs := ptpDst k ++ y.srcMac ++ [0x88, 0xF7] ++ r.1
    let s1 := modTime (fun u => { u with lastPtpTx := some (p, r.1) }) r.2
    let s2 := if k = 2 then modPdelay p (fun c => { c with runs := true }) s1 else s1
    let f := ownFrame 32 { out := p, q := 15, pri := 7, req := ptpReq (dom s x) y k, ptpOff := 14, tag := ptpTag x k (bfld msg 30 2), t2 := y.pdelay.reqTs, fw := true } bs s2
    (∀ o, f = some o → exec (.ptpMessageTx x p k msg) s = .next o.2) ∧
    (f = none → exec (.ptpMessageTx x p k msg) s = .next (evAdd 0x0503 0 32 1 s2))) ∧
  (∀ (s : State),
    s.time.running = true → s.time.d.natAbs ≤ (slewStep s * 1024).natAbs →
    exec .switchoverSlewEnd s = .next { s with time := { s.time with d := 0 } })

/-- FLASH_STORE of a job's page and FLASH_STORE_END of its store, and TREND_PERIOD_CLOSE while firmware runs (16 R487, R490, R491; 03 R87). -/
def Obligations.FlashRowsComplete : Prop :=
  (∀ (erase : Bool) (s : State) (j : FlashJob),
    s.boot.storing = none → fwThere s = true → s.boot.flash = some j → storeOk s erase = true →
    (erase = true → j.erases ≠ 0) → (erase = false → j.pages ≠ 0 ∧ jobPage j / 16 < jobErased j) →
    exec (.flashStore erase) s = .next { s with boot := { s.boot with storing := some erase } }) ∧
  (∀ (erase : Bool) (s : State) (j : FlashJob),
    s.boot.storing = none → fwThere s = true → s.boot.flash = some j → storeOk s erase = false →
    (erase = true → j.erases ≠ 0) → (erase = false → j.pages ≠ 0 ∧ jobPage j / 16 < jobErased j) →
    exec (.flashStore erase) s = .next (answer j.mb stNotReady 0 [] (ev 0x0534 0 { s with boot := { s.boot with flash := none } }))) ∧
  (∀ (erase : Bool) (s : State) (j : FlashJob),
    s.boot.storing = some erase → s.boot.flash = some j → j.area < 2 → j.mb ≠ 32 →
    let r := jobStore erase j { s with boot := { s.boot with storing := none } }
    (¬ (r.1.erases = 0 ∧ r.1.pages = 0) → exec (.flashStoreEnd true) s = .next (modBoot (fun b => { b with flash := some r.1 }) r.2)) ∧
    (r.1.erases = 0 ∧ r.1.pages = 0 → exec (.flashStoreEnd true) s = .next (jobEnd r.1 r.2))) ∧
  (∀ (erase : Bool) (s : State) (j : FlashJob),
    s.boot.storing = some erase → s.boot.flash = some j → j.area < 2 → j.mb ≠ 32 →
    exec (.flashStoreEnd false) s = .next (answer j.mb stAuthFail 0 [] (jobSpoil erase j { s with boot := { s.boot with storing := none, flash := none } }))) ∧
  (∀ (counts : List Nat) (s : State),
    s.boot.fwRunning = true → exec (.trendPeriodClose counts) s = .next (columnCheck counts (forAll (List.range (laneCount s)) laneTrend s)))

/-! ## Rows of the mailboxes, the start and the host link -/

/-- MB_MESSAGE_WRITE, MB_DOORBELL, MB_ABORT and COMMAND_COMPLETE by a mailbox's owner (13 R396, R399, R400, R403, R405, Table 13.7): a message is stored in a mailbox that is not PENDING and sets WRITE_BUSY in one that is; a doorbell accepts a written message, sets STALE_DOORBELL without one and DOORBELL_BUSY while one is PENDING; an abort before the commit point answers ABORTED, and later is TOO_LATE; a response that stands ready is written and the mailbox is DONE. Where the spec leaves a point open the clauses state the choice of the model: log entries 65 and 114. -/
def Obligations.MailboxRowsComplete : Prop :=
  (∀ (who : Who) (m off : Nat) (data : List Byte) (s : State),
    m < 32 → mbOwner m = who → reaches s who = true → 0x40 ≤ off → off + data.length ≤ 0x400 → data ≠ [] →
    (who = .host → (data.length = 4 ∨ data.length = 8) ∧ off % data.length = 0) →
    ((mbox s m).st = .idle → exec (.mbMessageWrite who m off data) s = .next (modMbox m (fun y => { y with
      area := memWriteL y.area (off - 0x40) data, written := true }) s)) ∧
    ((mbox s m).st = .done → exec (.mbMessageWrite who m off data) s = .next (modMbox m (fun y => { y with
      area := memWriteL [] (off - 0x40) data, written := true, st := .idle, age := 0 }) s)) ∧
    ((mbox s m).st = .pending → exec (.mbMessageWrite who m off data) s = .next (modMbox m (fun y => { y with writeBusy := true }) s))) ∧
  (∀ (who : Who) (m off : Nat) (data : List Byte) (s : State),
    m < 32 → mbOwner m ≠ who → reaches s who = true →
    (who = .host → (data.length = 4 ∨ data.length = 8) ∧ off % data.length = 0) →
    exec (.mbMessageWrite who m off data) s = .next (regError (mbAddr m off) s)) ∧
  (∀ (who : Who) (m : Nat) (s : State),
    m < 32 → mbOwner m = who → reaches s who = true →
    ((mbox s m).st = .pending → exec (.mbDoorbell who m) s = .next (modMbox m (fun y => { y with doorbellBusy := true }) s)) ∧
    ((mbox s m).st ≠ .pending → (mbox s m).written = false → exec (.mbDoorbell who m) s = .next (modMbox m (fun y => { y with staleDoorbell := true }) s)) ∧
    ((mbox s m).st ≠ .pending → (mbox s m).written = true → s.boot.fwRunning = true →
      ∃ t c, exec (.mbDoorbell who m) s = .next t ∧ (mbox t m).st = .pending ∧ (mbox t m).cmd = some c ∧ t.order = s.order.filter (fun i => i != m) ++ [m] ∧
        c.code = fld (memReadN (mbox s m).area 0 16) 0 2 ∧ c.seq = BitVec.ofNat 32 (fld (memReadN (mbox s m).area 0 16) 4 4) ∧
        memReadN (mbox t m).area 0 16 = respHeader c.code 0 c.seq.toNat stPending 0)) ∧
  (∀ (who : Who) (m : Nat) (s : State) (c : Cmd),
    m < 32 → mbOwner m = who → reaches s who = true → (mbox s m).cmd = some c →
    ((mbox s m).st = .done → exec (.mbAbort who m) s = .next (modMbox m (fun y => { y with abortResult := 6 }) s)) ∧
    ((mbox s m).st = .pending → (c.wait = .exec ∨ c.wait = .outside) → exec (.mbAbort who m) s = .next (completeNow m (answer m stAborted 0 []
      (modMbox m (fun y => { y with abortResult := 5 }) s)))) ∧
    ((mbox s m).st = .pending → c.wait = .boundary → exec (.mbAbort who m) s = .next (modMbox m (fun y => { y with abortResult := 6 }) s))) ∧
  (∀ (m : Nat) (s : State) (c : Cmd),
    (mbox s m).cmd = some c → (mbox s m).st = .pending → c.wait = .answered → c.notBefore ≤ now s →
    exec (.commandComplete m) s = .next (completeNow m s) ∧
    (tabGet s.stack.serving m = none → ∃ t, exec (.commandComplete m) s = .next t ∧ (mbox t m).st = .done ∧ (mbox t m).cmd = none ∧
      (mbox t m).area = memWriteL [] 0 (respHeader c.code c.resp.length c.seq.toNat c.status c.detail.toNat ++ c.resp)))

/-- CONVERSION_START, TIME_PLL_LOCK, START_TEMPERATURE_REACHED, BOOT_ROM_START, FW_START_TIMEOUT, FW_RUNNING_SET, READY_RISE and FW_WATCHDOG_EXPIRY, each in the phase it belongs to (18 R519, R523 to R526, R534, Table 18.1). -/
def Obligations.BootRowsComplete : Prop :=
  (∀ (vin : Nat) (s : State),
    9500 ≤ vin → s.boot.phase = .off → s.boot.tripped = false →
    ∃ t, exec (.conversionStart vin) s = .next t ∧ t.boot.phase = .aon ∧ t.boot.cold = true ∧ t.power.vin = vin) ∧
  (∀ (s : State),
    s.boot.phase = .aon → s.refs.lost.contains 4 = false →
    exec .timePllLock s = .next { s with trick := { s.trick with gen := .free }, boot := { s.boot with phase := .rails }, time := { s.time with running := true } }) ∧
  (∀ (tmin : Int) (s : State),
    s.boot.phase = .rails → -80 ≤ tmin → exec (.startTemperatureReached tmin) s = .next { s with boot := { s.boot with tempWait := false } }) ∧
  (∀ (s : State) (k : Nat) (tie bad : Bool),
    (s.boot.phase = .rails ∨ s.boot.phase = .regulated) → s.boot.tempWait = false → (s.boot.cold = false → s.boot.perst = false) →
    chooseSlot s = some (k, tie, bad) →
    ∃ t, exec .bootRomStart s = .next t ∧ t.boot.phase = .fwStart ∧ t.boot.slot = k ∧ t.boot.seqTie = tie ∧ t.boot.otherBad = bad ∧ t.boot.patches = 0) ∧
  (∀ (s : State),
    (s.boot.phase = .rails ∨ s.boot.phase = .regulated) → s.boot.tempWait = false → (s.boot.cold = false → s.boot.perst = false) →
    chooseSlot s = none → exec .bootRomStart s = .next (enterRecovery s)) ∧
  (∀ (s : State),
    s.boot.phase = .fwStart →
    let s1 := modSlot s.boot.slot (fun x => { x with failed := true }) s
    (slotState s1 (1 - s.boot.slot) = 1 → exec .fwStartTimeout s = .next (startFw (1 - s.boot.slot) false true s1)) ∧
    (slotState s1 (1 - s.boot.slot) ≠ 1 → exec .fwStartTimeout s = .next (enterRecovery s1))) ∧
  (∀ (s : State),
    s.boot.phase = .fwStart → exec .fwRunningSet s = .next { s with boot := { s.boot with phase := .fwRun, fwRunning := true } }) ∧
  (∀ (failing : List FailRow) (s : State),
    s.boot.phase = .fwRun → s.boot.refMLost = false →
    ∃ t, exec (.readyRise failing) s = .next t ∧ t.boot.phase = .ready ∧ t.boot.ready = true ∧ t.boot.cold = false) ∧
  (∀ (s : State),
    (s.boot.phase = .fwStart ∨ s.boot.phase = .fwRun ∨ s.boot.phase = .ready) →
    ∃ t, exec .fwWatchdogExpiry s = .next t ∧ t.boot.phase = .regulated ∧ t.boot.fwRunning = false ∧ t.boot.ready = false ∧ t.mboxes = [] ∧
      t.rings = [] ∧ t.chans = [] ∧ t.devMem = s.devMem ∧ t.hostMem = s.hostMem ∧ t.trick = s.trick)

/-- HOST_LINK_TRAIN, HOST_POWER_STATE, PERST_ASSERT, PERST_DEASSERT, HOST_DEVMEM_ACCESS, IRQ_MOD_TIMEOUT and MSIX_UNMASK where their conditions hold (14 R423, R425, R426, R447; 18 R521, R534; 19 R548). Where the spec leaves a point open the clauses state the choice of the model: log entries 12, 76 and 90. -/
def Obligations.HostRowsComplete : Prop :=
  (∀ (cxl : Bool) (bar : Nat) (s : State),
    powered s = true → s.boot.tempWait = false → s.boot.perst = false →
    ∃ t, exec (.hostLinkTrain ⟨cxl, bar⟩) s = .next t ∧ t.link.trained = true ∧ t.link.fixed = true ∧ (bar ≤ 6 → t.link.bar2 = 2 ^ bar) ∧ t.link.cxl = (if s.link.fixed then s.link.cxl else cxl) ∧
      t.devMem = s.devMem ∧ t.ports = s.ports) ∧
  (∀ (d0 : Bool) (s : State),
    s.link.trained = true → exec (.hostPowerState d0) s = .next { s with link := { s.link with d0 := d0 } }) ∧
  (∀ (us : Nat) (s : State),
    100 ≤ us → scanHolds s = false →
    ∃ t, exec (.perstAssert us) s = .next t ∧ t.boot.perst = true ∧ t.link = {} ∧ (inRegulation s = true → t.boot.phase = .regulated ∧ t.mboxes = []) ∧
      (inRegulation s = false → t = { s with boot := t.boot, link := t.link })) ∧
  (∀ (us : Nat) (s : State), us < 100 → exec (.perstAssert us) s = .next s) ∧
  (∀ (s : State), scanHolds s = false → exec .perstDeassert s = .next { s with boot := { s.boot with perst := false } }) ∧
  (∀ (addr rd : Nat) (wr : List Byte) (s : State),
    s.link.trained = true → s.link.d0 = true → s.link.cxl = true → memServed s = true → wr ≠ [] → addr + wr.length ≤ windowLen →
    exec (.hostDevmemAccess addr wr rd false) s = .next { s with devMem := memWriteL s.devMem addr wr }) ∧
  (∀ (addr rd : Nat) (s : State),
    s.link.trained = true → s.link.d0 = true → s.link.cxl = true → memServed s = true → 0 < rd → addr + rd ≤ windowLen →
    exec (.hostDevmemAccess addr [] rd false) s = .next { s with link := { s.link with rdata := memReadN s.devMem addr rd, poison := false } }) ∧
  (∀ (addr rd : Nat) (s : State),
    s.link.trained = true → s.link.d0 = true → s.link.cxl = false → memServed s = true → 0 < rd → addr + rd ≤ s.link.bar2 * 2 ^ 30 →
    s.link.aptBase * 2 ^ 30 + addr + rd ≤ windowLen →
    exec (.hostDevmemAccess addr [] rd false) s = .next { s with link := { s.link with
      rdata := memReadN s.devMem (s.link.aptBase * 2 ^ 30 + addr) rd, poison := false } }) ∧
  (∀ (v : Nat) (s : State),
    v < 128 → 0 < (vec s v).pend → (if (vec s v).tricks = 0 then 64 else (vec s v).tricks) ≤ now s - (vec s v).t0 →
    exec (.irqModTimeout v) s = .next (fireVec v s)) ∧
  (∀ (v : Nat) (s : State),
    v < 128 → s.link.trained = true →
    ∃ t, exec (.msixUnmask v) s = .next t ∧ (vec t v).masked = false ∧ (vec t v).pba = false ∧
      (vec t v).sent = (if (vec s v).pba then (vec s v).sent + 1 else (vec s v).sent) ∧ t = { s with irq := t.irq })

/-! ## Registers -/

/-- REGISTER_WRITE and RC_REGISTER_READ (00 R19; 02 Table 2.6; 14 R427): TRICK_CFG takes its four fields, an access to an offset that no register holds is an access error that changes nothing else and reads zero, PULSE_CNT and IRQ_CAUSE clear as they are read, and a requester that does not reach the device changes nothing. -/
def Obligations.RegisterAccessComplete : Prop :=
  (∀ (who : Who) (v : BitVec 64) (s : State),
    reaches s who = true →
    exec (.registerWrite who 0x30014 32 v) s = .next { s with trick := { s.trick with
      irqStep := v.getLsbD 3, irqRubber := v.getLsbD 2, irqHand := v.getLsbD 1, fixedFreq := v.getLsbD 0,
      fixedActive := if v.getLsbD 0 then s.trick.fixedActive || !s.trick.sprint else s.trick.fixedActive } }) ∧
  (∀ (who : Who) (addr : Nat) (v : BitVec 64) (s : State),
    reaches s who = true → addr < barSize → addr % 4 = 0 → regSpan addr = none →
    exec (.registerWrite who addr 32 v) s = .next (regError addr s) ∧
    exec (.registerReadError who addr 32) s = .next (received who 0 (regError addr s))) ∧
  (∀ (who : Who) (s : State),
    reaches s who = true → exec (.rcRegisterRead who 0x40060 32) s = .next (received who s.flt.pulseCnt.toNat { s with flt := { s.flt with pulseCnt := 0 } })) ∧
  (∀ (s : State),
    reaches s .host = true → exec (.rcRegisterRead .host 0x600 64) s = .next (received .host (s.irq.cause.toNat % 2 ^ 64)
      { s with irq := { s.irq with cause := s.irq.cause &&& ~~~ BitVec.ofNat 128 (2 ^ 64 - 1) } })) ∧
  (∀ (who : Who) (addr width : Nat) (v : BitVec 64) (s : State),
    reaches s who = false → exec (.registerWrite who addr width v) s = .next s ∧ exec (.rcRegisterRead who addr width) s = .next s)

/-- FIXED_FREQ_SET, TIME_NOW_READ and PWR_ENERGY_READ (02 R55; 10 R286; 16 R473): a read of TIME_NOW_LO latches both registers for its requester, and TIME_NOW_HI and the latched half read from the latch; a 32-bit read of PWR_ENERGY's low half latches its high half. -/
def Obligations.LatchedReadsComplete : Prop :=
  (∀ (who : Who) (on : Bool) (s : State),
    reaches s who = true → exec (.fixedFreqSet who on) s = .next { s with trick := { s.trick with fixedFreq := on, fixedActive := if on then s.trick.fixedActive || !s.trick.sprint else s.trick.fixedActive } }) ∧
  (∀ (who : Who) (ph : Nat) (s : State),
    reaches s who = true →
    exec (.timeNowRead who 0x20000 64 ph) s = .next (received who (timeNow s ph).1 (modTime (fun u => { u with
      latLo := tabPut u.latLo (whoNo who) (BitVec.ofNat 64 (timeNow s ph).1), latHi := tabPut u.latHi (whoNo who) (BitVec.ofNat 64 (timeNow s ph).2) }) s)) ∧
    exec (.timeNowRead who 0x20008 64 ph) s = .next (received who (tabGetD s.time.latHi (whoNo who) 0).toNat s) ∧
    exec (.timeNowRead who 0x20004 32 ph) s = .next (received who ((tabGetD s.time.latLo (whoNo who) 0).toNat / 2 ^ 32) s)) ∧
  (∀ (who : Who) (s : State),
    reaches s who = true →
    exec (.pwrEnergyRead who 0x50010 64) s = .next (received who s.power.energy.toNat s) ∧
    exec (.pwrEnergyRead who 0x50010 32) s = .next (received who (s.power.energy.toNat % 2 ^ 32) (modPower (fun p => { p with
      energyLat := tabPut p.energyLat (whoNo who) (BitVec.ofNat 32 (s.power.energy.toNat / 2 ^ 32)) }) s)))

/-- A read of the low half of TRICK_INDEX or TRICK_COUNT latches the high half for its requester, the next read of the high half returns what was latched, and a 64-bit read returns both halves of one boundary's value (02 R57). A latch for each requester is the model's reading (log entry 40). -/
def Obligations.TrickRegistersLatch : Prop :=
  ∀ (who : Who) (s : State),
    reaches s who = true →
    exec (.trickCounterLatchRead who 0x30000 32) s = .next (received who (s.trick.index.toNat % 2 ^ 32) { s with trick := { s.trick with latIndex := tabPut s.trick.latIndex (whoNo who) (BitVec.ofNat 32 (s.trick.index.toNat / 2 ^ 32)) } }) ∧
    exec (.trickCounterLatchRead who 0x30008 32) s = .next (received who (s.trick.count.toNat % 2 ^ 32) { s with trick := { s.trick with latCount := tabPut s.trick.latCount (whoNo who) (BitVec.ofNat 32 (s.trick.count.toNat / 2 ^ 32)) } }) ∧
    (∀ h, tabGet s.trick.latIndex (whoNo who) = some h →
      exec (.trickCounterLatchRead who 0x30004 32) s = .next (received who h.toNat { s with trick := { s.trick with latIndex := tabErase s.trick.latIndex (whoNo who) } })) ∧
    (∀ h, tabGet s.trick.latCount (whoNo who) = some h →
      exec (.trickCounterLatchRead who 0x3000C 32) s = .next (received who h.toNat { s with trick := { s.trick with latCount := tabErase s.trick.latCount (whoNo who) } })) ∧
    exec (.trickCounterLatchRead who 0x30000 64) s = .next (received who s.trick.index.toNat s) ∧
    exec (.trickCounterLatchRead who 0x30008 64) s = .next (received who s.trick.count.toNat s)

/-- An access of another width than 32 or 64 bits, or not naturally aligned, reads all ones, discards its write data, and counts one REG_ACCESS event of its region (00 R21; 17 Table 17.1): nothing of the data written reaches the state. -/
def Obligations.MisshapenAccessIsAnError : Prop :=
  ∀ (who : Who) (addr width : Nat) (v : BitVec 64) (s : State),
    who ≠ .fw → reaches s who = true → addr < barSize → (width ≠ 32 ∧ width ≠ 64) ∨ addr % (width / 8) ≠ 0 →
    exec (.registerWrite who addr width v) s = .next (regError addr s) ∧
    exec (.rcRegisterRead who addr width) s = .next (received who (2 ^ 64 - 1) (regError addr s)) ∧
    exec (.registerReadError who addr width) s = .next (received who (2 ^ 64 - 1) (regError addr s)) ∧
    (fltInst (regError addr s) (36 + regionOf addr) 0).total = (fltInst s (36 + regionOf addr) 0).total + 1

/-- TSQ_ENTRY_LATCH, TSQ_ENTRY_POP, TIME_SAMPLE_WRITE, TPIO_MODE_WRITE, TPIO_CAP_LATCH and TPIO_CAP_POP (10 R302, R303, R316, R317): the low half of an entry latches it, the upper half removes it with VALID, an empty queue reads zero; a sample is 64 bits wide; a MODE waits for its boundary. -/
def Obligations.TimeRegistersComplete : Prop :=
  (∀ (who : Who) (s : State),
    reaches s who = true →
    exec (.tsqEntryLatch who 64) s = .next (received who ((s.time.tsq.head?.map tsqLo).getD 0)
      (modTime (fun t => { t with tsqLatch := tabPut t.tsqLatch (whoNo who) s.time.tsq.head? }) s))) ∧
  (∀ (who : Who) (s : State) (e : TsqEntry) (r : List TsqEntry),
    reaches s who = true → s.time.tsq = e :: r → (∀ x, tabGet s.time.tsqLatch (whoNo who) = some x → x = some e) →
    exec (.tsqEntryPop who 64) s = .next (received who (tsqHi e + 2 ^ 63) (modTime (fun t => { t with tsqLatch := tabErase t.tsqLatch (whoNo who), tsq := r }) s))) ∧
  (∀ (who : Who) (s : State),
    reaches s who = true → s.time.tsq = [] → tabGet s.time.tsqLatch (whoNo who) = none →
    exec (.tsqEntryPop who 64) s = .next (received who 0 (modTime (fun t => { t with tsqLatch := tabErase t.tsqLatch (whoNo who) }) s))) ∧
  (∀ (who : Who) (d : Nat) (v : BitVec 64) (s : State),
    reaches s who = true → d < 2 →
    ((dom s d).source = 4 → (dom s d).queue.length < 4 →
      exec (.timeSampleWrite who d 64 v) s = .next (modDom d (fun y => { y with queue := y.queue ++ [v.toInt] }) s)) ∧
    ((dom s d).source ≠ 4 ∨ 4 ≤ (dom s d).queue.length → exec (.timeSampleWrite who d 64 v) s = .next (evAdd 0x050A 0 d 1 s)) ∧
    exec (.timeSampleWrite who d 32 v) s = .next (regError (0x20020 + 8 * d) s)) ∧
  (∀ (who : Who) (k : Nat) (v : BitVec 32) (s : State),
    reaches s who = true → k < 9 →
    (v.toNat % 8 < 3 ∨ ((v.toNat % 8 = 3 ∨ v.toNat % 8 = 4) ∧ trainOk (pin s k) (v.toNat % 8) = true)) → (k = 8 → v.toNat % 8 < 2) →
    ∃ t, exec (.tpioModeWrite who k v) s = .next t ∧
      pin t k = { pin s k with missed := (pin s k).missed && !v.getLsbD 30, sub := bits v.toNat 11 8, edge := bits v.toNat 5 4, polarity := v.getLsbD 3, modeNext := some (v.toNat % 8) } ∧
      (∀ j, j ≠ k → pin t j = pin s j) ∧ t = { s with time := { s.time with pins := t.time.pins } }) ∧
  (∀ (who : Who) (k : Nat) (s : State),
    reaches s who = true → k < 9 →
    exec (.tpioCapLatch who k) s = .next (received who (((pin s k).fifo.head?.map (fun c => c.t)).getD 0)
      (modPin k (fun y => { y with latch := tabPut y.latch (whoNo who) (pin s k).fifo.head? }) s)) ∧
    (∀ c r, (pin s k).fifo = c :: r → (∀ x, tabGet (pin s k).latch (whoNo who) = some x → x = some c) →
      exec (.tpioCapPop who k) s = .next (received who (2 ^ 31 + b2n c.gap * 2 ^ 30 + b2n c.rising * 2 ^ 29 + c.sub % 16)
        (modPin k (fun y => { y with latch := tabErase y.latch (whoNo who), fifo := r }) s))))

/-- FLT_STICKY_CLEAR, FLT_SEVERE_CLEAR, TABLE_WINDOW_WRITE and TBL_WIN_CTL_WRITE (17 R502, R512; 06 R176, Table 6.8): each instance of a source whose bit is 1 loses its sticky bit, or its severe bit with its window; a window collects a bucket's bytes and queues it with the last eight; on a window of an absent cluster both writes do nothing (00 R4). -/
def Obligations.FaultAndWindowRegistersComplete : Prop :=
  (∀ (who : Who) (k : Nat) (v : BitVec 64) (s : State),
    reaches s who = true → k < 4 →
    ∃ t, exec (.fltStickyClear who k v) s = .next t ∧ ∀ src unit i, tabGet s.flt.inst (fltKey src unit) = some i → unit < 1024 →
      tabGet t.flt.inst (fltKey src unit) = some (if src / 64 = k ∧ v.getLsbD (src % 64) = true then { i with sticky := false } else i)) ∧
  (∀ (who : Who) (k : Nat) (v : BitVec 64) (s : State),
    reaches s who = true → k < 4 →
    ∃ t, exec (.fltSevereClear who k v) s = .next t ∧ ∀ src unit i, tabGet s.flt.inst (fltKey src unit) = some i → unit < 1024 → condHolds s src = false →
      tabGet t.flt.inst (fltKey src unit) = some (if src / 64 = k ∧ v.getLsbD (src % 64) = true ∧ i.severe = true
        then { i with severe := false, opened := false, c := 0 } else i)) ∧
  (∀ (who : Who) (addr : Nat) (n : Nat) (v : BitVec 64) (s : State),
    reaches s who = true → 0x800000 ≤ addr → addr < 0xD00000 → (n = 4 ∨ n = 8) → addr % n = 0 →
    let w := (addr - 0x800000) / 0x100000
    let b := ((win s w).page * 0x100000 + (addr - 0x800000) % 0x100000) / 64
    let old := match (win s w).buf with
      | some (c, x) => if c = b then x else bucketRaw (cluster s (winCluster w)) b
      | none => bucketRaw (cluster s (winCluster w)) b
    let new := BitVec.ofNat 512 (leVal (patch (leBytes 64 old.toNat) (addr % 64) (leBytes n v.toNat)))
    let lost := (win s w).discard || (match (win s w).buf with
      | some (c, _) => decide (c ≠ b)
      | none => false)
    (winHere s w = false → exec (.tableWindowWrite who addr (8 * n) v) s = .next s) ∧
    ((win s w).stable = true → winHere s w = true → exec (.tableWindowWrite who addr (8 * n) v) s = .next (regError addr s)) ∧
    ((win s w).stable = false → winHere s w = true → addr % 64 < 56 →
      exec (.tableWindowWrite who addr (8 * n) v) s = .next { s with wins := tabPut s.wins w { win s w with discard := lost, buf := some (b, new) } }) ∧
    ((win s w).stable = false → winHere s w = true → 56 ≤ addr % 64 →
      exec (.tableWindowWrite who addr (8 * n) v) s =
        .next (winSend w b new { s with wins := tabPut s.wins w { win s w with discard := lost, buf := none } }))) ∧
  (∀ (who : Who) (w : Nat) (v : BitVec 32) (s : State),
    reaches s who = true → w < 5 →
    (winHere s w = false → exec (.tblWinCtlWrite who w v) s = .next s) ∧
    (winHere s w = true → exec (.tblWinCtlWrite who w v) s = .next { s with wins := tabPut s.wins w { page := v.toNat % 64, stable := v.getLsbD 8, discard := ((win s w).discard && !v.getLsbD 17) || (win s w).buf.isSome, buf := none } }))

/-! ## The MAC engine, rings, DMA channels and the package -/

/-- CIPH_TAKE, CIPH_RELEASE, CIPH_LEASE_EXPIRY, CIPH_GO, CIPH_DONE, CIPH_KEY_LOAD and CIPH_KEY_CLEAR (13 R418 to R421, Table 13.22; 18 R522): a free engine is taken, firmware waits for a held one, a release or an expired lease passes it on, and a slot takes and gives up its key. -/
def Obligations.CiphRowsComplete : Prop :=
  (∀ (who : Who) (s : State),
    reaches s who = true → s.boot.fwRunning = true →
    (s.ciph.owner = 0 → exec (.ciphTake who) s = .next { s with ciph := { s.ciph with owner := ownerCode who, held := 0 } }) ∧
    (s.ciph.owner ≠ 0 → s.ciph.owner ≠ 3 → who = .fw → exec (.ciphTake who) s = .next { s with ciph := { s.ciph with waiting := true } }) ∧
    (s.ciph.owner ≠ 0 → who ≠ .fw → exec (.ciphTake who) s = .next s) ∧
    (s.ciph.owner = ownerCode who → exec (.ciphRelease who) s = .next { s with ciph := { s.ciph with owner := if s.ciph.waiting then 3 else 0, waiting := false, held := 0, keyReg := 0 } }) ∧
    (s.ciph.owner ≠ ownerCode who → exec (.ciphRelease who) s = .next s)) ∧
  (∀ (who : Who) (s : State),
    reaches s who = true → s.boot.fwRunning = false →
    exec (.ciphTake who) s = .next (regError 0x60000 s) ∧ exec (.ciphRelease who) s = .next (regError 0x60000 s)) ∧
  (∀ (s : State),
    s.ciph.waiting = true → s.ciph.lease ≤ s.ciph.held → (s.ciph.owner = 1 ∨ s.ciph.owner = 2) →
    exec .ciphLeaseExpiry s = .next { s with ciph := { s.ciph with owner := 3, waiting := false, held := 0, brokenHost := s.ciph.brokenHost || decide (s.ciph.owner = 1), brokenBmc := s.ciph.brokenBmc || decide (s.ciph.owner = 2), error := if s.ciph.busy then 4 else s.ciph.error, busy := false, done := false, tag := 0, keyReg := 0 } }) ∧
  (∀ (who : Who) (v : BitVec 32) (s : State) (k : BitVec 256),
    reaches s who = true → s.ciph.owner = ownerCode who → s.ciph.busy = false →
    (tabGetD s.ciph.slots (bits v.toNat 7 4) {}).key = some k →
    (who = .fw ∨ (tabGetD s.ciph.slots (bits v.toNat 7 4) {}).owner = ownerCode who) →
    s.ciph.src.toNat / 64 * 64 + s.ciph.len.toNat ≤ windowLen →
    exec (.ciphGo who v) s = .next { s with ciph := { s.ciph with slot := bits v.toNat 7 4, gmac := v.getLsbD 0, error := 0, done := false, busy := true, tag := ciphTag { s with ciph := { s.ciph with gmac := v.getLsbD 0 } } k } }) ∧
  (∀ (s : State),
    s.ciph.busy = true → atRun s 112 = true → exec .ciphDone s = .next { s with ciph := { s.ciph with busy := false, done := true } }) ∧
  (∀ (who : Who) (n : Nat) (s : State),
    reaches s who = true → s.ciph.owner = ownerCode who → n < 16 →
    let x := tabGetD s.ciph.slots n {}
    ((x.owner = 0 ∨ x.owner = ownerCode who) →
      exec (.ciphKeyLoad who n) s = .next { s with ciph := { s.ciph with slots := tabPut s.ciph.slots n { owner := ownerCode who, key := some s.ciph.keyReg }, keyReg := 0 } }) ∧
    (x.owner ≠ 0 → x.owner ≠ ownerCode who → exec (.ciphKeyLoad who n) s = .next { s with ciph := { s.ciph with error := 5, keyReg := 0 } }) ∧
    (x.owner = ownerCode who → exec (.ciphKeyClear who n) s = .next { s with ciph := { s.ciph with slots := tabErase s.ciph.slots n } }))

/-- Writes to the MAC engine's registers by a requester that does not hold the lock are access errors and leave the engine alone, such a requester reads the tag as zero, and only host software writes the lease (13 R421). -/
def Obligations.OnlyTheHolderDrivesTheEngine : Prop :=
  ∀ (who : Who) (s : State),
    reaches s who = true →
    (s.ciph.owner ≠ ownerCode who →
      (∀ (v : BitVec 64) (a : Nat), a ∈ [0x60008, 0x60010, 0x60018, 0x60020, 0x60028, 0x60060, 0x60068, 0x60070, 0x60078, 0x60080] →
        exec (.registerWrite who a 32 v) s = .next (regError a s)) ∧
      (∀ (v : BitVec 64) (a : Nat), a ∈ [0x60010, 0x60020, 0x60060, 0x60068, 0x60070, 0x60078] →
        exec (.registerWrite who a 64 v) s = .next (regError a s)) ∧
      (∀ (v : BitVec 32) (n : Nat), exec (.ciphGo who v) s = .next (regError 0x60008 s) ∧ exec (.ciphKeyLoad who n) s = .next (regError 0x60080 s) ∧
        exec (.ciphKeyClear who n) s = .next (regError 0x60080 s)) ∧
      exec (.rcRegisterRead who 0x60040 64) s = .next (received who 0 s) ∧
      exec (.rcRegisterRead who 0x60048 64) s = .next (received who 0 s)) ∧
    (∀ a, (regError a s).ciph = s.ciph) ∧
    (∀ (v : BitVec 64), who ≠ .host → exec (.registerWrite who 0x60090 32 v) s = .next (regError 0x60090 s)) ∧
    (∀ (v : BitVec 64), who = .host → v.toNat % 65536 ≠ 0 → exec (.registerWrite who 0x60090 32 v) s = .next { s with ciph := { s.ciph with lease := v.toNat % 65536 } })

/-- RING_ENABLE and RING_DISABLE (14 R428, R444, R445, Table 14.8): an OFF ring with legal fields runs with both indices 0; a halted ring goes OFF, a running one as its type says, and a CQ that is still named stays. -/
def Obligations.RingSwitchComplete : Prop :=
  (∀ (r : Nat) (v : BitVec 32) (s : State),
    r < 64 → reaches s .host = true → s.boot.fwRunning = true → (ring s r).st = .off →
    bits v.toNat 30 29 ≠ 0 → bits v.toNat 28 24 ≤ 16 → 6 ≤ bits v.toNat 28 24 → (bits v.toNat 30 29 = 3 → 9 ≤ bits v.toNat 28 24) →
    (bits v.toNat 30 29 = 1 → (ring s (bits v.toNat 13 8)).typ = .cq) →
    ∃ t, exec (.ringEnable r v) s = .next t ∧
      ring t r = { ring s r with irq := v.getLsbD 0, typ := typeOf (bits v.toNat 30 29), log2 := bits v.toNat 28 24, cq := bits v.toNat 13 8, enable := true, st := .run, p := 0, c := 0, haltCause := 0, entries := 0, rung := false } ∧
      (∀ q, q ≠ r → ring t q = ring s q) ∧ t = { s with rings := t.rings }) ∧
  (∀ (r : Nat) (v : BitVec 32) (s : State),
    r < 64 → reaches s .host = true → typeOf (bits v.toNat 30 29) = (ring s r).typ → bits v.toNat 28 24 = (ring s r).log2 → bits v.toNat 13 8 = (ring s r).cq →
    ((ring s r).st = .halted ∨ ((ring s r).st = .run ∧ (ring s r).typ = .sq ∧ (ring s r).wait = none ∧ (ring s r).stalled = none) ∨
     ((ring s r).st = .run ∧ (ring s r).typ = .cq ∧ (ring s r).hold = [] ∧ cqNamed s r = false) ∨
     ((ring s r).st = .run ∧ (ring s r).typ = .rx ∧ (ring s r).hold = [])) →
    ∃ t, exec (.ringDisable r v) s = .next t ∧ ring t r = { ring s r with irq := v.getLsbD 0, enable := false, st := .off } ∧
      (∀ q, q ≠ r → ring t q = ring s q) ∧ t = { s with rings := t.rings }) ∧
  (∀ (r : Nat) (v : BitVec 32) (s : State),
    r < 64 → reaches s .host = true → typeOf (bits v.toNat 30 29) = (ring s r).typ → bits v.toNat 28 24 = (ring s r).log2 → bits v.toNat 13 8 = (ring s r).cq →
    (ring s r).st = .run → (ring s r).typ = .cq → (ring s r).hold ≠ [] →
    exec (.ringDisable r v) s = .next (regError (ringReg r 8) (modRing r (fun y => { y with irq := v.getLsbD 0 }) s)))

/-- SQ_DOORBELL, SQ_STAKE_WAIT_END, RING_HOST_IDX_WRITE, CQ_HOLD_DRAIN and RX_HOLD_DRAIN (14 R430 to R442, Table 14.5): a doorbell scans from C while entries are posted, an entry that fails check 2 halts the ring with C in place, an entry whose cells came goes on, a legal consumer index is taken and another counted, and a held entry moves into the ring that has room. Where the spec leaves a point open the clauses state the choice of the model: log entry 78. -/
def Obligations.RingRowsComplete : Prop :=
  (∀ (r : Nat) (host : List (Nat × Byte)) (s : State),
    let s1 := modRing r (fun y => { y with rung := false }) (hostStores host s)
    let x := ring s r
    r < 64 → reaches s .host = true → x.typ = .sq → x.st = .run → x.wait = none → x.stalled = none → atRun s 111 = true →
    (posted s1 x x.c = false → exec (.sqDoorbell r host none) s = .next s1) ∧
    (posted s1 x x.c = true →
      let h := ringRead s1 x x.c 1
      let t := sqEntry none r s1
      ((fld h 2 2 % 64 ≠ 0 ∨ fld h 2 2 = 0 ∨ entryMax x < fld h 2 2) →
        ∃ u, exec (.sqDoorbell r host none) s = .next u ∧ (ring u r).st = .halted ∧ (ring u r).haltCause = 0x11 ∧ (ring u r).c = x.c) ∧
      ((ring t r).st = .run → (ring t r).wait = none → (ring t r).stalled = none → (ring t r).c ≠ x.c → posted t (ring t r) (ring t r).c = false →
        exec (.sqDoorbell r host none) s = .next (ringWriteBack r (ring t r).c t)))) ∧
  (∀ (r : Nat) (s : State) (w : SqWait) (u : State),
    (ring s r).wait = some w → atRun s 111 = true →
    ownFrame 33 { out := sqPort w.hdr, q := fld w.hdr 8 2 % 16, pri := fld w.hdr 10 1 % 8, req := sqTime w.hdr, tag := fld w.hdr 6 2, ptpOff := fld w.hdr 12 2, t2 := fld w.hdr 24 8, profile := fld w.hdr 14 1 % 64 } w.frame s = some (none, u) →
    let t := sqFinish r w.index w.slots w.hdr 0 0 (sqPort w.hdr) (idx s) u
    (ring t r).wait = none ∧ exec (.sqStakeWaitEnd r) s = .next (sqResume r t)) ∧
  (∀ (r v : Nat) (s : State),
    r < 64 → reaches s .host = true → ((ring s r).typ = .cq ∨ (ring s r).typ = .rx) → v < 2 ^ 17 →
    (hostIdxOk (ring s r) v = true → exec (.ringHostIdxWrite r v) s = .next (modRing r (fun y => { y with c := v }) s)) ∧
    (hostIdxOk (ring s r) v = false → exec (.ringHostIdxWrite r v) s = .next (modRing r (fun y => { y with idxErr := satInc y.idxErr }) s))) ∧
  (∀ (r : Nat) (bs : List Byte) (h : Option Nat) (s : State),
    (ring s r).typ = .cq → (ring s r).st = .run → (ring s r).hold = [(bs, h)] → ringFits (ring s r) 1 = true → (ring s r).waiters = [] →
    exec (.cqHoldDrain r) s = .next (cqWrite r bs (modRing r (fun y => { y with hold := [] }) s))) ∧
  (∀ (r : Nat) (bs : List Byte) (h : Nat) (s : State),
    (ring s r).typ = .rx → (ring s r).st = .run → (ring s r).hold = [(bs, some h)] → ringFits (ring s r) (bs.length / 64) = true →
    exec (.rxHoldDrain r) s = .next (chainUnref h (ringPost r bs (modRing r (fun y => { y with hold := [] }) s))))

/-- DMA_START, DMA_ABORT, DMA_DOORBELL, DMA_STALL_END and DMA_WAIT_END (15 R455, R461 to R466, Table 15.8): a stopped channel starts with its counters clear, an abort ends a run with an ABORTED record, a doorbell is remembered or ends the parking, and a met wait goes on with the next instruction. Where the spec leaves a point open the clauses state the choice of the model: log entry 79. -/
def Obligations.DmaControlComplete : Prop :=
  (∀ (k : Nat) (host : List (Nat × Byte)) (s : State),
    k < 28 → reaches s .host = true → s.boot.fwRunning = true → (chan s k).st = .stopped →
    ((ring s (chan s k).cq).typ = .cq → (ring s (chan s k).cq).st = .run →
      exec (.dmaStart k host) s = .next (modChan k (fun c => { c with st := .running, ctr := [0, 0, 0, 0], crc := BitVec.allOnes 32, bytes := 0, abortResult := 0, wait := none, due := [], dueEnds := false }) (hostStores host s))) ∧
    ((ring s (chan s k).cq).typ ≠ .cq → exec (.dmaStart k host) s = .next (modChan k (fun c => { c with cqBad := true }) (hostStores host s)))) ∧
  (∀ (k : Nat) (s : State),
    28 ≤ k → k < 32 → reaches s .host = true → exec (.dmaStart k []) s = .next (regError (chanReg k 0x10) s) ∧ exec (.dmaAbort k) s = .next (regError (chanReg k 0x10) s)) ∧
  (∀ (k : Nat) (s : State),
    k < 28 → reaches s .host = true →
    ((chan s k).st = .stopped → exec (.dmaAbort k) s = .next (modChan k (fun x => { x with abortResult := 5 }) s)) ∧
    ((chan s k).st ≠ .stopped →
      exec (.dmaAbort k) s = .next (dmaDue k [dmaRecord k 4 0 (chan s k).pc 0 0 0 0 0] true (modChan k (fun x => { x with st := .running, wait := none, due := [], abortResult := 4 }) s))) ∧
    ((chan s k).st ≠ .stopped → drained s k = true → cqRoom (modChan k (fun x => { x with st := .running }) s) (chan s k).cq (.dma k) = true →
      ∃ t, exec (.dmaAbort k) s = .next t ∧ (chan t k).st = .stopped ∧ (chan t k).abortResult = 4 ∧ (chan t k).lastStatus = 4 ∧ (chan t k).pc = (chan s k).pc)) ∧
  (∀ (k : Nat) (host : List (Nat × Byte)) (s : State),
    k < 28 → reaches s .host = true →
    ((chan s k).st ≠ .parked → exec (.dmaDoorbell k host) s = .next (modChan k (fun c => { c with doorbell := true }) (hostStores host s))) ∧
    (∀ i, (chan s k).st = .parked → dmaFetch (hostStores host s) k none = .inr i →
      exec (.dmaDoorbell k host) s = .next (if i.opc = 0 ∧ i.lo.testBit 8 = false then hostStores host s else modChan k (fun c => { c with st := .running }) (hostStores host s)))) ∧
  (∀ (k : Nat) (b : List Byte) (s : State),
    (chan s k).due = [b] → drained s k = true → cqRoom s (chan s k).cq (.dma k) = true →
    exec (.dmaStallEnd k) s = .next (cqWake (chan s k).cq (dmaCommit k b (modChan k (fun x => { x with due := [], dueEnds := false, st := if x.dueEnds then .stopped else .running }) s)))) ∧
  (∀ (k : Nat) (s : State),
    (chan s k).st = .waiting → atRun s 111 = true →
    (∀ n, (chan s k).wait = some (.tricks n) → n ≤ now s →
      exec (.dmaWaitEnd k) s = .next (modChan k (fun c => { c with st := .running, wait := none, pc := (c.pc + 16) % 2 ^ 64 }) s)) ∧
    (∀ f, (chan s k).wait = some (.flags f) → (chan s k).flags &&& f = f →
      ∃ t, exec (.dmaWaitEnd k) s = .next t ∧ chan t k = { chan s k with st := .running, wait := none, flags := (chan s k).flags &&& ~~~f, pc := ((chan s k).pc + 16) % 2 ^ 64 } ∧
        (∀ j, j ≠ k → chan t j = chan s j) ∧ t = { s with chans := t.chans }))

/-- DMA_MOVE, DMA_MOVE_CRC, DMA_FILL and DMA_COMPARE that pass their checks (15 R451 to R456, R459): the source's lines stand at the destination, the CRC runs over them and is stored when asked, a pattern fills, and a comparison goes on or writes its record and stops. -/
def Obligations.DmaDataComplete : Prop :=
  (∀ (k : Nat) (i : DmaIns) (s : State),
    dmaReady s k = true → dmaFetch s k none = .inr i → dmaBad i = false → dmaDataCheck s i = none →
    (i.opc = 1 → exec (.dmaMove k none) s = .next (dmaNext k (wrote k (dmaCount k i.len (spaceWrite k i.sd i.dst (spaceRead s k i.ss i.src i.len) s))))) ∧
    (i.opc = 3 → exec (.dmaFill k none) s = .next (dmaNext k (wrote k (dmaCount k i.len (spaceWrite k i.sd i.dst ((List.range (i.len / 4)).flatMap (fun _ => leBytes 4 i.src)) s))))) ∧
    (i.opc = 2 →
      let bs := spaceRead s k i.ss i.src i.len
      let v := BitVec.ofNat 32 (crc32c (if i.flags.testBit 0 then (chan s k).crc.toNat else 0xFFFFFFFF) bs)
      let s1 := spaceWrite k i.sd i.dst bs (modChan k (fun x => { x with crc := v, crcOut := v ^^^ BitVec.allOnes 32 }) s)
      (i.flags.testBit 1 = false → exec (.dmaMoveCrc k none) s = .next (dmaNext k (wrote k (dmaCount k i.len s1)))) ∧
      (i.flags.testBit 1 = true → i.sd ≤ 1 →
        exec (.dmaMoveCrc k none) s = .next (dmaNext k (wrote k (dmaCount k i.len (spaceWrite k i.sd (i.dst + i.len) (leBytes 4 (v ^^^ BitVec.allOnes 32).toNat ++ zeros 60) s1)))))) ∧
    (i.opc = 4 → compareRecords s k i (i.len / 64) = [] → exec (.dmaCompare k none) s = .next (dmaNext k (dmaCount k i.len s))) ∧
    (∀ r rs, i.opc = 4 → i.flags.testBit 0 = false → compareRecords s k i (i.len / 64) = r :: rs →
      exec (.dmaCompare k none) s = .next (dmaDue k [r] true (dmaCount k (fld r 32 8) s))) ∧
    (∀ r rs, i.opc = 4 → i.flags.testBit 0 = true → compareRecords s k i (i.len / 64) = r :: rs →
      exec (.dmaCompare k none) s = .next (dmaDue k (r :: rs) false (dmaNext k (dmaCount k i.len s))))) ∧
  (∀ (k st : Nat) (i : DmaIns) (s : State),
    dmaReady s k = true → dmaFetch s k none = .inr i → dmaBad i = false → dmaDataCheck s i = some st → (i.opc = 1 ∨ i.opc = 3) →
    exec (if i.opc = 1 then .dmaMove k none else .dmaFill k none) s = .next (dmaDue k [dmaRecord k st 0 (chan s k).pc 0 0 0 0 (dmaSpaces i)] true s))

/-- DMA_END, DMA_LOOP, DMA_WAIT, DMA_SIGNAL and DMA_JUMP (15 R455, R464): END parks or ends the run with its record, a counter counts down to its branch's end, a wait that holds already does not hold the channel, a signal sets flags or writes a record, and a jump goes to its target. -/
def Obligations.DmaFlowComplete : Prop :=
  ∀ (k : Nat) (i : DmaIns) (s : State),
    dmaReady s k = true → dmaFetch s k none = .inr i → dmaBad i = false →
    (i.opc = 0 → i.lo.testBit 8 = false → exec (.dmaEnd k none) s = .next (modChan k (fun c => { c with st := .parked, doorbell := false }) s)) ∧
    (i.opc = 0 → i.lo.testBit 8 = true → exec (.dmaEnd k none) s = .next (dmaDue k [dmaRecord k 0 1 (chan s k).pc 0 0 0 0 0] true s)) ∧
    (i.opc = 8 → bits i.lo 39 16 = 0 → exec (.dmaLoop k none) s = .next (modChan k (fun c => { c with pc := i.hi % 2 ^ 64 }) s)) ∧
    (i.opc = 8 → bits i.lo 39 16 ≠ 0 →
      let v := (if at0 (chan s k).ctr (bits i.lo 9 8) = 0 then bits i.lo 39 16 else at0 (chan s k).ctr (bits i.lo 9 8)) - 1
      ∃ t, exec (.dmaLoop k none) s = .next t ∧
        chan t k = { chan s k with ctr := (chan s k).ctr.set (bits i.lo 9 8) v, pc := (if v = 0 then (chan s k).pc + 16 else i.hi) % 2 ^ 64 } ∧
        (∀ j, j ≠ k → chan t j = chan s j) ∧ t = { s with chans := t.chans }) ∧
    (i.opc = 9 → i.flags = 0 → 0 < bits i.lo 63 32 →
      exec (.dmaWait k none) s = .next (modChan k (fun c => { c with st := .waiting, wait := some (.tricks (now s + bits i.lo 63 32)) }) s)) ∧
    (i.opc = 9 → i.flags = 1 → exec (.dmaWait k none) s = .next (modChan k (fun c => { c with st := .waiting, wait := some .hand }) s)) ∧
    (i.opc = 9 → i.flags = 3 → drained s k = true → exec (.dmaWait k none) s = .next (modChan k (fun c => { c with pc := (c.pc + 16) % 2 ^ 64 }) s)) ∧
    (i.opc = 10 → i.lo.testBit 9 = true → i.lo.testBit 8 = false → bits i.lo 20 16 ≠ k →
      ∃ t, exec (.dmaSignal k none) s = .next t ∧
        chan t (bits i.lo 20 16) = { chan s (bits i.lo 20 16) with flags := (chan s (bits i.lo 20 16)).flags ||| BitVec.ofNat 32 i.hi } ∧
        chan t k = { chan s k with pc := ((chan s k).pc + 16) % 2 ^ 64 } ∧ (∀ j, j ≠ k → j ≠ bits i.lo 20 16 → chan t j = chan s j) ∧ t = { s with chans := t.chans }) ∧
    (i.opc = 10 → i.lo.testBit 9 = false → i.lo.testBit 8 = true →
      exec (.dmaSignal k none) s = .next (dmaDue k [dmaRecord k 0 0 (chan s k).pc 0 0 0 (bits i.lo 63 32) 0] false (modChan k (fun c => { c with pc := (c.pc + 16) % 2 ^ 64 }) s))) ∧
    (i.opc = 11 → exec (.dmaJump k none) s = .next (modChan k (fun c => { c with pc := bits i.lo 63 8 }) s))

/-- I3C_PRIVATE_TRANSFER, I3C_CCC and the rows of the test access port (19 R549, R550, R555, R556): the BMC reads its mailboxes' areas and sets the page, an address is assigned and given up, and each test instruction selects and captures its register. -/
def Obligations.PackageRowsComplete : Prop :=
  (∀ (o n ph : Nat) (s : State),
    powered s = true → o < 0x2000 → 0x40 ≤ o % 0x400 → 0 < n → n ≤ s.pins.mrl →
    exec (.i3cPrivateTransfer { offset := some o, wr := [], rd := n, ph := ph }) s = .next { s with pins := { s.pins with i3cPtr := (o + n) % 0x10000, i3cOut := memReadN (mbox s (16 + o / 0x400)).area (o % 0x400 - 0x40) n } }) ∧
  (∀ (bs : List Byte) (ph : Nat) (s : State),
    powered s = true → bs.length = 8 → 10 ≤ s.pins.mwl →
    exec (.i3cPrivateTransfer { offset := some 0x7FF8, wr := bs, rd := 0, ph := ph }) s = .next { s with pins := { s.pins with i3cPage := leVal bs % 2048, i3cPtr := 0x8000 } }) ∧
  (∀ (arg : List Byte) (s : State),
    powered s = true →
    (s.pins.i3cAddr = none → exec (.i3cCcc 0x07 arg) s = .next { s with pins := { s.pins with i3cAddr := some (fld arg 0 1 % 128), i3cAck := true, i3cOut := i3cPid ++ [i3cBcrVal, Config.i3cDcr] } }) ∧
    (s.pins.i3cAddr = none → fld arg 0 1 = 0x4C → exec (.i3cCcc 0x87 arg) s = .next { s with pins := { s.pins with i3cAddr := some (fld arg 1 1 % 128), i3cAck := true, i3cOut := [] } }) ∧
    exec (.i3cCcc 0x06 arg) s = .next { s with pins := { s.pins with i3cAddr := none, i3cAck := true, i3cOut := [] } } ∧
    (s.pins.i3cAddr ≠ none → exec (.i3cCcc 0x8C arg) s = .next { s with pins := { s.pins with i3cAck := true, i3cOut := beBytes 2 s.pins.mrl } })) ∧
  (∀ (pins load : BitVec 32) (s : State),
    s.boot.phase ≠ .off →
    exec .jtagBypass s = .next { s with pins := { s.pins with jtag := .bypass, dr := 0 } } ∧
    exec .jtagIdcode s = .next { s with pins := { s.pins with jtag := .idcode, dr := BitVec.ofNat 32 ((s.ident.stepping % 16) * 2 ^ 28 + (if s.ident.half then 0x2049 else 0x2048) * 2 ^ 12 + 0x599 * 2 + 1) } } ∧
    exec (.jtagSamplePreload pins load) s = .next { s with pins := { s.pins with jtag := .sample, dr := pins, boundary := load } } ∧
    exec .jtagExtest s = .next { s with pins := { s.pins with jtag := .extest, dr := s.pins.boundary } } ∧
    exec .jtagClamp s = .next { s with pins := { s.pins with jtag := .clamp, dr := 0 } } ∧
    exec .jtagHighz s = .next { s with pins := { s.pins with jtag := .highz, dr := 0 } })

/-! ## The trick, settings, faults and the whole machine -/

/-- TRICK_BOUNDARY on a powered device (02 R44, R45): the trick count rises by one and the index is that of the boundary that the closed trick emits, while no sensor reads the temperature at which the device turns itself off; on a device without power nothing happens. -/
def Obligations.TrickBoundaryComplete : Prop :=
  (∀ (i : TrickIn) (s : State),
    powered s = true → (∀ t ∈ i.temps, t < 2000) →
    ∃ t, exec (.trickBoundary i) s = .next t ∧ t.trick.count = s.trick.count + 1 ∧ t.trick.index = (closeTrick i s).trick.index ∧
      t.trick.lenLast = (((trickPlan s i.rate).1 : Int) + (jitter s).2).toNat) ∧
  (∀ (i : TrickIn) (s : State), powered s = false → exec (.trickBoundary i) s = .next s)

/-- One step runs the command at the front of the queue on the rest of the state; with no command waiting the block idles, which is the model's choice (log entry 3). -/
def Obligations.StepRunsTheFront : Prop :=
  (∀ (c : Instr) (s : State), step { s with pending := c :: s.pending } = exec c s) ∧
  (∀ (s : State), s.pending = [] → step s = .next s)

/-- What reset leaves where the spec gives a value: no trick counted and the generator free, no port configured, device time invalid, the time settings, the flow timeouts and seed, an idle mailbox, a free MAC engine with a lease of 32, every ring OFF, every channel STOPPED, no fault, FAULT_N high, READY low (02, 04, 10, 11, 13 to 18). -/
def Obligations.ResetLeaves : Prop :=
  let s := State.reset
  s.trick.count = 0 ∧ s.trick.index = 0 ∧ s.trick.gen = .free ∧ s.ports = [] ∧ s.time.valid = false ∧ s.time.splitThresh = 100 ∧ s.time.slewRate = 10000 ∧ s.time.switchAuto = true ∧ s.time.stepFollow = false ∧
  s.telem.idle = 1048576 ∧ s.telem.active = 4194304 ∧
  s.telem.seed = 0xFFFFFFFF ∧ (∀ m, (mbox s m).st = .idle) ∧ s.ciph.owner = 0 ∧ s.ciph.lease = 32 ∧ (∀ r, (ring s r).st = .off) ∧
  (∀ k, (chan s k).st = .stopped) ∧ (∀ n u, (fltInst s n u).severe = false ∧ (fltInst s n u).sticky = false) ∧ faultPin s = false ∧
  s.boot.ready = false ∧ s.boot.fwRunning = false ∧ s.deferred = [] ∧ s.pending = []

/-- The byte memories of the state after reset have their canonical form, and its rings are in order: nothing is listed and every ring is OFF. -/
def Obligations.ResetMeetsTheInvariants : Prop := memoriesWf State.reset = true ∧ ringsOk State.reset

/-- Every step keeps the byte memories in their canonical form. -/
def Obligations.MemoriesStayCanonical : Prop :=
  ∀ (s t : State), memoriesWf s = true → step s = .next t → memoriesWf t = true

/-- The trick count rises by exactly one at each emitted boundary, and no other command changes it, unless the device turns off (02 R45). -/
def Obligations.OnlyBoundariesCount : Prop :=
  ∀ (c : Instr) (s t : State), exec c s = .next t → t.boot.phase ≠ .off →
    match c with
    | .trickBoundary _ => t.trick.count = if powered s then s.trick.count + 1 else s.trick.count
    | _ => t.trick.count = s.trick.count

/-- No row of the rings or of the DMA channels puts an index of a CQ or RX ring out of its range, or has the device write over a slot that its consumer has not freed (14 R429, R431, R439, R442). -/
def Obligations.RingsNeverOverflow : Prop :=
  ∀ (c : Instr) (s t : State), ringRow c = true → ringsOk s → exec c s = .next t → ringsOk t

/-- PWR_SHED_SET: an entry above 63 or one that appears twice is BAD_ARG, one that names a fused-off octet is NO_RESOURCE, a list set while any octet is shed is NOT_READY, and the list is empty at reset (16 R497). -/
def Obligations.ShedListIsChecked : Prop :=
  (∀ (m : Nat) (p : List Byte) (s : State),
    waiting m 0x0902 p s = true → addressed s p 88 [1] = true →
    ((∃ i, i < fld p 16 1 ∧ i < 64 ∧ 63 < fld p (24 + i) 1) ∨ (∃ i j, i < j ∧ j < fld p 16 1 ∧ j < 64 ∧ fld p (24 + i) 1 = fld p (24 + j) 1)) →
    ∃ d, exec (.pwrShedSet m) s = .next (answer m stBadArg d [] s)) ∧
  (∀ (m : Nat) (p : List Byte) (s : State),
    waiting m 0x0902 p s = true → addressed s p 88 [1] = true → fld p 16 1 ≤ 64 → fld p 17 7 = 0 →
    (∀ i, i < fld p 16 1 → fld p (24 + i) 1 ≤ 63) → (∀ i j, i < j → j < fld p 16 1 → fld p (24 + i) 1 ≠ fld p (24 + j) 1) →
    (∀ i, fld p 16 1 ≤ i → i < 64 → fld p (24 + i) 1 = 0) →
    ((∃ i, i < fld p 16 1 ∧ octetCount s ≤ fld p (24 + i) 1) → exec (.pwrShedSet m) s = .next (answer m stNoResource 0 [] s)) ∧
    ((∀ i, i < fld p 16 1 → fld p (24 + i) 1 < octetCount s) → s.power.shedOcts ≠ [] → exec (.pwrShedSet m) s = .next (answer m stNotReady 0 [] s)) ∧
    ((∀ i, i < fld p 16 1 → fld p (24 + i) 1 < octetCount s) → s.power.shedOcts = [] → exec (.pwrShedSet m) s = .next (answered m [] (scheduled m 0x0902 p s)))) ∧
  State.reset.power.shedList = []

/-- PARSER_GROUP_SET: LIMIT_ACTION 0 or 1 waits for the next trick boundary, which makes it the group's; any other value is BAD_ARG; LIMIT_ACTION is 0 after reset (05 R140). -/
def Obligations.ParserGroupSetIsChecked : Prop :=
  (∀ (m : Nat) (p : List Byte) (s : State),
    waiting m 0x0221 p s = true → addressed s p 24 [6] = true →
    (fld p 16 1 ≤ 1 → fld p 17 7 = 0 → exec (.parserGroupSet m) s = .next (answered m [] (scheduled m 0x0221 p s))) ∧
    (1 < fld p 16 1 → exec (.parserGroupSet m) s = .next (answer m stBadArg (detailAt 16) [] s))) ∧
  (∀ (m : Nat) (p : List Byte) (s : State), fld p 16 1 ≤ 1 →
    (grp (settle1 { code := 0x0221, req := p, mb := m } s) (pathOf p).index).limitForward = decide (fld p 16 1 = 1) ∧
    ∀ g, g ≠ (pathOf p).index → grp (settle1 { code := 0x0221, req := p, mb := m } s) g = grp s g) ∧
  (∀ g, (grp State.reset g).limitForward = false)

/-- The link mode is fixed at the first training after PERST_N deasserts and holds until PERST_N next asserts, READY_STAT reports it, and the link trains whether or not firmware runs (14 R423). -/
def Obligations.LinkModeIsFixedByTheFirstTraining : Prop :=
  (∀ (cxl : Bool) (bar : Nat) (s : State),
    powered s = true → s.boot.tempWait = false → s.boot.perst = false →
    ∃ t, exec (.hostLinkTrain ⟨cxl, bar⟩) s = .next t ∧ t.link.trained = true ∧ t.link.fixed = true ∧
      (s.link.fixed = false → t.link.cxl = cxl) ∧ (s.link.fixed = true → t.link.cxl = s.link.cxl)) ∧
  (∀ (us : Nat) (s : State), 100 ≤ us → scanHolds s = false →
    ∃ t, exec (.perstAssert us) s = .next t ∧ t.link.fixed = false ∧ t.link.trained = false) ∧
  (∀ (s : State), reaches s .host = true →
    exec (.rcRegisterRead .host 0x18 32) s = .next (received .host (b2n s.link.cxl * 4 + b2n s.boot.fwRunning * 2 + b2n s.boot.ready) s))

/-- SHAPER_SET (09 R267, R268): at its boundary RATE, BURST and ENABLE are the request's, CREDIT keeps its value and its debt, FORGIVE ends a debt, ENABLE going from 0 to 1 starts CREDIT at 0 and a disabled shaper keeps it at 0; the next refill clips CREDIT to BURST. Where the spec leaves a point open the clauses state the choice of the model: log entry 52. -/
def Obligations.ShaperSetKeepsDebt : Prop :=
  (∀ (m : Nat) (p : List Byte) (s : State) (x : Port),
    (pathOf p).kind = 3 → fld p 16 1 = 0 → port s (pathOf p).index = some x →
    ∃ y, port (settle1 { code := 0x0503, req := p, mb := m } s) (pathOf p).index = some y ∧ y = { x with shaper := y.shaper } ∧
      y.shaper.enable = (fld p 17 1).testBit 0 ∧ y.shaper.rate = fld p 20 8 ∧ y.shaper.burst = fld p 28 4 ∧
      (x.shaper.enable = false → y.shaper.enable = true → y.shaper.credit = 0) ∧
      (y.shaper.enable = false → y.shaper.credit = 0) ∧
      (x.shaper.enable = true → y.shaper.enable = true → (fld p 17 1).testBit 1 = false → y.shaper.credit = x.shaper.credit) ∧
      (x.shaper.enable = true → y.shaper.enable = true → (fld p 17 1).testBit 1 = true → y.shaper.credit = max 0 x.shaper.credit)) ∧
  (∀ (m : Nat) (p : List Byte) (s : State) (x : Port),
    ((pathOf p).kind = 4 ∨ (pathOf p).kind = 5) → port s (pathOf p).index = some x →
    ∃ y, port (settle1 { code := 0x0503, req := p, mb := m } s) (pathOf p).index = some y ∧
      (queue y (queueNo (pathOf p))).shaper = setShaper ((fld p 17 1).testBit 0) ((fld p 17 1).testBit 1) (fld p 20 8) (fld p 28 4) (queue x (queueNo (pathOf p))).shaper ∧
      ∀ q, q ≠ queueNo (pathOf p) → queue y q = queue x q) ∧
  (∀ (h : Shaper), h.enable = true → (refill h).credit = min ((h.burst : Int) * 65536) (h.credit + h.rate))

/-- A fault event (17 R501, R502, R504): the first one opens the instance's window and sets the sticky bit with its record, each adds to the count and to the total, the event that reaches N makes the instance severe with FAULT_N for the classes PIN and CONTAIN, and no other instance changes. -/
def Obligations.FaultsCountToSeverity : Prop :=
  ∀ (src unit detail : Nat) (s : State), src ≤ 68 →
    let i := fltInst s src unit
    let t := fault src unit detail s
    let j := fltInst t src unit
    j.total = i.total + 1 ∧ j.opened = true ∧ j.c = (if i.opened then i.c else 0) + 1 ∧ j.s = (if i.opened then i.s else now s) ∧ j.sticky = true ∧
    (i.sticky = true → j.first = i.first ∧ j.detail = i.detail) ∧ (i.sticky = false → j.first = idx s ∧ j.detail = detail % 2 ^ 32) ∧
    (j.severe = true ↔ i.severe = true ∨ ((fltSrc s src).n ≠ 0 ∧ (fltSrc s src).n ≤ j.c)) ∧
    (t.flt.pulseNext = true ↔ s.flt.pulseNext = true ∨ (i.severe = false ∧ j.severe = true ∧ 1 ≤ (fltSrc s src).cls)) ∧
    (∀ n, n ≠ fltKey src unit → tabGet t.flt.inst n = tabGet s.flt.inst n)

/-- Settings as their boundary makes them: a queue's, its scheduling, a port's time, the flow timeouts, the cap, a watch counter, a stack member and a fault source take the request's fields, a queue that changes its group starts there with DEFICIT 0 and an empty one keeps none above 0, and the port's MEAN_LINK_DELAY stays what a peer delay mechanism measures (08 R251; 09 R269, R278; 10 R322; 11 R358, R361; 12 R392; 16 R495; 17 R512). Where the spec leaves a point open the clauses state the choice of the model: log entry 92. -/
def Obligations.SettingsTakeEffect : Prop :=
  ∀ (m : Nat) (p : List Byte) (s : State),
    (∀ x, port s (pathOf p).index = some x →
      (∃ y, port (settle1 { code := 0x0401, req := p, mb := m } s) (pathOf p).index = some y ∧
        queue y (queueNo (pathOf p)) = { queue x (queueNo (pathOf p)) with ante := fld p 16 4, hard := fld p 20 4, ecn := fld p 24 4, alpha := fld p 28 1, priv := (fld p 29 1).testBit 0, red := [redOf p 0, redOf p 1, redOf p 2] } ∧
        ∀ q, q ≠ queueNo (pathOf p) → queue y q = queue x q) ∧
      (∃ y, port (settle1 { code := 0x0502, req := p, mb := m } s) (pathOf p).index = some y ∧
        queue y (queueNo (pathOf p)) = { queue x (queueNo (pathOf p)) with deficit := if (queue x (queueNo (pathOf p))).group = fld p 16 1 ∧ ¬ ((queue x (queueNo (pathOf p))).descs = [] ∧ 0 < (queue x (queueNo (pathOf p))).deficit) then (queue x (queueNo (pathOf p))).deficit else 0, group := fld p 16 1, weight := fld p 17 1, rxPri := fld p 18 1 } ∧
        ∀ q, q ≠ queueNo (pathOf p) → queue y q = if (queue x q).descs = [] ∧ 0 < (queue x q).deficit then { queue x q with deficit := 0 } else queue x q) ∧
      port (settle1 { code := 0x0602, req := p, mb := m } s) (pathOf p).index = some { x with tcEn := (fld p 16 1).testBit 0, p2p := (fld p 16 1).testBit 1, txStep := (fld p 16 1).testBit 2, persist := (fld p 16 1).testBit 3, calValid := (fld p 16 1).testBit 4, rxAdj := sInt 16 (fld p 20 2), txAdj := sInt 16 (fld p 22 2), asym := sInt 64 (fld p 24 8), meanLinkDelay := if x.pdelay.runs then x.meanLinkDelay else fld p 32 8 }) ∧
    settle1 { code := 0x0702, req := p, mb := m } s = { s with telem := { s.telem with seed := BitVec.ofNat 32 (fld p 16 4), idle := fld p 20 4, active := fld p 24 4 } } ∧
    settle1 { code := 0x0901, req := p, mb := m } s = { s with power := { s.power with cap := fld p 16 4, sprintEn := (fld p 20 1).testBit 0, shedRung := if fld p 21 1 = 0 then 4 else fld p 21 1, headroom := if fld p 22 2 = 0 then 150 else fld p 22 2, hyst := if fld p 24 2 = 0 then 25 else fld p 24 2 } } ∧
    settle1 { code := 0x0902, req := p, mb := m } s = { s with power := { s.power with shedList := (List.range (min (fld p 16 1) 64)).map (fun i => fld p (24 + i) 1) } } ∧
    settle1 { code := 0x0804, req := p, mb := m } s = { s with stack := { s.stack with members := if fld p 18 1 = 0 then tabErase s.stack.members (fld p 16 2) else tabPut s.stack.members (fld p 16 2) (fld p 20 6, fld p 18 1) } } ∧
    (∃ w : Watch, settle1 { code := 0x0705, req := p, mb := m } s = { s with telem := { s.telem with watch := tabPut s.telem.watch (fld p 16 2) w } } ∧
      w.code = fld p 18 2 ∧ w.unit = fld p 22 2 ∧ w.param = fld p 21 1 ∧ w.mode = fld p 20 1 ∧ w.thresh = fld p 24 8 ∧ w.value = 0) ∧
    fltSrc (settle1 { code := 0x0A01, req := p, mb := m } s) (fld p 16 1) = ⟨fld p 17 1, fld p 18 2, fld p 20 4⟩
end

