-- ==== Sys2Proof/Laws/Aes.lean ====
section
/-! SUPPORT. Lengths of what the MAC engine computes, and the bound of a CRC. -/

namespace Sys2Proof.Laws

open Sys2Proof.Machine

theorem xorL_length (a b : List Nat) : (xorL a b).length = min a.length b.length := by
  simp [xorL]

theorem aesNextWord_length {a b : List Nat} (i : Nat) (ha : a.length = 4) (hb : b.length = 4) : (aesNextWord a b i).length = 4 := by
  unfold aesNextWord
  simp only [xorL_length, ha]
  split
  · simp [xorL_length, hb]
  · split <;> simp [hb]

theorem aesExpand_words (n : Nat) : ∀ (i : Nat) (win : List (List Nat)), win ≠ [] → (∀ w ∈ win, w.length = 4) →
    (aesExpand n i win).length = n ∧ ∀ w ∈ aesExpand n i win, w.length = 4 := by
  induction n with
  | zero => intro i win _ _; simp [aesExpand]
  | succ n ih =>
    intro i win hne hw
    have h1 : (win.headD []).length = 4 := by
      cases win with
      | nil => exact absurd rfl hne
      | cons a r => exact hw a (by simp)
    have h2 : (win.getLastD []).length = 4 := by
      cases win with
      | nil => exact absurd rfl hne
      | cons a r => exact hw _ (by simp [List.getLastD])
    have h3 := aesNextWord_length i h1 h2
    have h4 : ∀ w ∈ win.drop 1 ++ [aesNextWord (win.headD []) (win.getLastD []) i], w.length = 4 := by
      intro w hm
      rcases List.mem_append.mp hm with h | h
      · exact hw w (List.mem_of_mem_drop h)
      · simp only [List.mem_singleton] at h
        exact h ▸ h3
    obtain ⟨a, b⟩ := ih (i + 1) _ (by simp) h4
    simp only [aesExpand]
    refine ⟨by rw [List.length_cons, a], ?_⟩
    intro w hm
    rcases List.mem_cons.mp hm with h | h
    · exact h ▸ h3
    · exact b w h

/-- A list of n·f elements falls into f pieces of n. -/
theorem chunks_pieces {α : Type} (n : Nat) (hn : 0 < n) (f : Nat) : ∀ l : List α, l.length = n * f →
    (chunks f n l).length = f ∧ ∀ g ∈ chunks f n l, g.length = n ∧ ∀ w ∈ g, w ∈ l := by
  induction f with
  | zero => intro l _; simp [chunks]
  | succ f ih =>
    intro l hl
    have hlen : n ≤ l.length := by rw [hl]; exact Nat.le_mul_of_pos_right n (Nat.succ_pos f)
    have hne : l.isEmpty = false := by
      cases l with
      | nil => simp at hlen; omega
      | cons a r => rfl
    obtain ⟨a, b⟩ := ih (l.drop n) (by rw [List.length_drop, hl, Nat.mul_succ]; omega)
    simp only [chunks, hne]
    refine ⟨by simp [a], ?_⟩
    intro g hg
    rcases List.mem_cons.mp hg with h | h
    · subst h
      exact ⟨by simp [hlen], fun w hw => List.mem_of_mem_take hw⟩
    · obtain ⟨c, d⟩ := b g h
      exact ⟨c, fun w hw => List.mem_of_mem_drop (d w hw)⟩

theorem flatten_length {g : List (List Nat)} (h : ∀ w ∈ g, w.length = 4) : g.flatten.length = 4 * g.length := by
  induction g with
  | nil => simp
  | cons a r ih =>
    have := ih (fun w hw => h w (by simp [hw]))
    simp only [List.flatten_cons, List.length_append, List.length_cons, h a (by simp), this]
    omega

/-- The 15 round keys of a 32-byte key are 16 bytes each. -/
theorem aesKeys_blocks {key : List Nat} (h : key.length = 32) : (aesKeys key).length = 15 ∧ ∀ k ∈ aesKeys key, k.length = 16 := by
  obtain ⟨a, b⟩ := chunks_pieces 4 (by decide) 8 key h
  have hw : ∀ w ∈ chunks 8 4 key, w.length = 4 := fun w hm => (b w hm).1
  obtain ⟨c, d⟩ := aesExpand_words 52 8 (chunks 8 4 key) (by intro e; rw [e] at a; simp at a) hw
  have hall : ∀ w ∈ chunks 8 4 key ++ aesExpand 52 8 (chunks 8 4 key), w.length = 4 := by
    intro w hm
    rcases List.mem_append.mp hm with h | h
    · exact hw w h
    · exact d w h
  obtain ⟨e, f⟩ := chunks_pieces 4 (by decide) 15 (chunks 8 4 key ++ aesExpand 52 8 (chunks 8 4 key)) (by rw [List.length_append, a, c])
  refine ⟨by simp [aesKeys, e], ?_⟩
  intro k hk
  simp only [aesKeys, List.mem_map] at hk
  obtain ⟨g, hg, rfl⟩ := hk
  obtain ⟨l1, l2⟩ := f g hg
  rw [flatten_length (fun w hw => hall w (l2 w hw)), l1]

theorem aesRounds_length : ∀ (ks : List (List Nat)) (st : List Nat), ks ≠ [] → (∀ k ∈ ks, k.length = 16) → (aesRounds ks st).length = 16
  | [], _, h, _ => absurd rfl h
  | [k], st, _, h => by simp [aesRounds, xorL_length, aesShift, h k (by simp)]
  | k :: j :: r, st, _, h => by
    simp only [aesRounds]
    exact aesRounds_length (j :: r) _ (by simp) (fun x hx => h x (List.mem_cons_of_mem k hx))

/-- A CMAC tag is 16 bytes. -/
theorem cmacBytes_length (k : BitVec 256) (msg : List Byte) : (cmacBytes k msg).length = 16 := by
  obtain ⟨a, b⟩ := aesKeys_blocks (key := keyOctets k) (by simp [keyOctets])
  have hb : ∀ x, (aesBlock (aesKeys (keyOctets k)) x).length = 16 := by
    intro x
    cases hk : aesKeys (keyOctets k) with
    | nil => rw [hk] at a; simp at a
    | cons y r =>
      rw [hk] at a b
      exact aesRounds_length r _ (by intro e; rw [e] at a; simp at a) (fun z hz => b z (List.mem_cons_of_mem y hz))
  simp only [cmacBytes, cmac, List.length_map]
  exact hb _

theorem crcBit_lt {p c : Nat} (hp : p < 2 ^ 32) (hc : c < 2 ^ 32) : crcBit p c < 2 ^ 32 := by
  have h : c >>> 1 < 2 ^ 32 := by rw [Nat.shiftRight_eq_div_pow]; omega
  unfold crcBit
  split
  · exact Nat.xor_lt_two_pow h hp
  · exact h

theorem crcByte_lt {p c : Nat} (b : Byte) (hp : p < 2 ^ 32) (hc : c < 2 ^ 32) : crcByte p c b < 2 ^ 32 := by
  have h : c ^^^ b.toNat < 2 ^ 32 := Nat.xor_lt_two_pow hc (Nat.lt_of_lt_of_le b.isLt (by decide))
  unfold crcByte
  exact crcBit_lt hp (crcBit_lt hp (crcBit_lt hp (crcBit_lt hp (crcBit_lt hp (crcBit_lt hp (crcBit_lt hp (crcBit_lt hp h)))))))

theorem crcRun_lt {p : Nat} (hp : p < 2 ^ 32) : ∀ (bs : List Byte) (c : Nat), c < 2 ^ 32 → crcRun p c bs < 2 ^ 32
  | [], _, hc => hc
  | b :: r, c, hc => crcRun_lt hp r (crcByte p c b) (crcByte_lt b hp hc)

/-- A CRC-32C is a 32-bit number. -/
theorem crc32c_lt (bs : List Byte) : crc32c 0xFFFFFFFF bs < 2 ^ 32 :=
  Nat.xor_lt_two_pow (crcRun_lt (by decide) bs _ (by decide)) (by decide)

end Sys2Proof.Laws
end

