-- ==== Sys2Proof/Laws/Frames.lean ====
section
/-! SUPPORT. What each shared operation can change: interrupts, faults, answers, ring entries and records, and a step. -/

namespace Sys2Proof.Laws

open Sys2Proof Sys2Proof.Machine

/-! ## Interrupts and faults -/

/-- A vector's message changes interrupt state alone. -/
theorem fireVec_frame (v : Nat) (s : State) : fireVec v s = { s with irq := (fireVec v s).irq } := by
  unfold fireVec
  rfl

/-- An event at a vector changes interrupt state alone. -/
theorem vecEvent_frame (v : Nat) (s : State) : vecEvent v s = { s with irq := (vecEvent v s).irq } := by
  unfold vecEvent
  simp only
  split_ifs <;> rfl

/-- An interrupt event changes interrupt state alone. -/
theorem irqEvent_frame (n : Nat) (s : State) : irqEvent n s = { s with irq := (irqEvent n s).irq } := by
  unfold irqEvent
  simp only
  split
  · rw [vecEvent_frame]
  · rfl

/-- A ring's interrupt changes interrupt state alone. -/
theorem ringIrq_frame (r : Nat) (s : State) : ringIrq r s = { s with irq := (ringIrq r s).irq } := by
  unfold ringIrq
  split
  · rw [irqEvent_frame]
  · rfl

/-- Between two states nothing but faults and interrupts differs. -/
def OnlyFaults (s t : State) : Prop := t = { s with flt := t.flt, irq := t.irq }

theorem OnlyFaults.refl (s : State) : OnlyFaults s s := rfl

theorem OnlyFaults.trans {s t u : State} (h : OnlyFaults s t) (k : OnlyFaults t u) : OnlyFaults s u := by
  unfold OnlyFaults at *
  rw [k, h]

theorem OnlyFaults.ite {c : Prop} [Decidable c] {s t u : State} (h : OnlyFaults s t) (k : OnlyFaults s u) : OnlyFaults s (if c then t else u) := by
  split
  · exact h
  · exact k

/-- Interrupt events are such changes. -/
theorem OnlyFaults.irq (n : Nat) (s : State) : OnlyFaults s (irqEvent n s) := by
  unfold OnlyFaults
  rw [irqEvent_frame]

/-- What follows severity changes fault and interrupt state alone. -/
theorem severeActs_frame (n : Nat) (s : State) : OnlyFaults s (severeActs n s) := by
  unfold severeActs
  have h : OnlyFaults s (if 1 ≤ (fltSrc s n).cls then { s with flt := { s.flt with pulseNext := true } } else s) := OnlyFaults.ite rfl rfl
  exact OnlyFaults.ite (h.trans (OnlyFaults.irq _ _)) h

/-- Making an instance severe changes fault and interrupt state alone. -/
theorem makeSevere_frame (n u : Nat) (s : State) : OnlyFaults s (makeSevere n u s) :=
  OnlyFaults.trans (t := modFlt n u (fun i => { i with severe := true, severeTrick := idx s }) s) rfl (severeActs_frame _ _)

/-- A fault event changes fault and interrupt state alone. -/
theorem raiseFault_frame (n u d : Nat) (inj : Bool) (s : State) : OnlyFaults s (raiseFault n u d inj s) := by
  unfold raiseFault
  refine OnlyFaults.ite rfl ?_
  dsimp only
  refine OnlyFaults.ite (OnlyFaults.trans (OnlyFaults.ite (OnlyFaults.trans ?_ (OnlyFaults.irq _ _)) ?_) (makeSevere_frame _ _ _))
    (OnlyFaults.ite (OnlyFaults.trans ?_ (OnlyFaults.irq _ _)) ?_)
  all_goals rfl

/-- A register access error changes fault and interrupt state alone. -/
theorem regError_frame (a : Nat) (s : State) : OnlyFaults s (regError a s) :=
  raiseFault_frame _ _ _ _ _

/-! ## Answers -/

/-- An answer changes its mailbox alone. -/
theorem answer_frame (m st d : Nat) (r : List Byte) (s : State) : answer m st d r s = { s with mboxes := (answer m st d r s).mboxes } := rfl

/-- What a body answers goes into the mailbox of the command, on top of what the body changed. -/
theorem settle_frame (m : Nat) (a : Ans) :
    ∃ t, (a = .done (match a with
        | .done st _ _ _ => st
        | .hold _ _ => 0) (match a with
        | .done _ d _ _ => d
        | .hold _ _ => 0) (match a with
        | .done _ _ r _ => r
        | .hold _ _ => []) t ∨ ∃ w, a = .hold w t) ∧ settle m a = { t with mboxes := (settle m a).mboxes } := by
  cases a with
  | done st d r s => exact ⟨s, Or.inl rfl, rfl⟩
  | hold w s => exact ⟨s, Or.inr ⟨w, rfl⟩, rfl⟩

/-! ## Ring entries and records -/

/-- Writing slots changes host memory alone. -/
theorem ringWriteSlots_frame (x : Ring) (i : Nat) (bs : List Byte) (n : Nat) (s : State) :
    ringWriteSlots x i bs n s = { s with hostMem := (ringWriteSlots x i bs n s).hostMem } := by
  unfold ringWriteSlots
  suffices h : ∀ (l : List Nat) (u : State), forAll l (fun j => hostWrite (slotAddr x (i + j)) (slice bs (64 * j) 64)) u
      = { u with hostMem := (forAll l (fun j => hostWrite (slotAddr x (i + j)) (slice bs (64 * j) 64)) u).hostMem } from h _ s
  intro l
  induction l with
  | nil => intro u; rfl
  | cons a r ih =>
    intro u
    simp only [forAll, List.foldl_cons] at ih ⊢
    rw [ih]
    rfl

/-- The index write-back changes host memory alone. -/
theorem ringWriteBack_frame (r i : Nat) (s : State) : ringWriteBack r i s = { s with hostMem := (ringWriteBack r i s).hostMem } := by
  unfold ringWriteBack
  simp only
  split <;> rfl

/-- Between two states nothing but rings, channels, host memory and interrupts differs. -/
def OnlyRings (s t : State) : Prop := t = { s with rings := t.rings, chans := t.chans, hostMem := t.hostMem, irq := t.irq }

theorem OnlyRings.trans {s t u : State} (h : OnlyRings s t) (k : OnlyRings t u) : OnlyRings s u := by
  unfold OnlyRings at *
  rw [k, h]

theorem OnlyRings.ite {c : Prop} [Decidable c] {s t u : State} (h : OnlyRings s t) (k : OnlyRings s u) : OnlyRings s (if c then t else u) := by
  split
  · exact h
  · exact k

theorem OnlyRings.irq (n : Nat) (s : State) : OnlyRings s (irqEvent n s) := by
  unfold OnlyRings
  rw [irqEvent_frame]

theorem OnlyRings.ringIrq (r : Nat) (s : State) : OnlyRings s (ringIrq r s) := by
  unfold OnlyRings
  rw [ringIrq_frame]

theorem OnlyRings.slots (x : Ring) (i : Nat) (bs : List Byte) (n : Nat) (s : State) : OnlyRings s (ringWriteSlots x i bs n s) := by
  unfold OnlyRings
  rw [ringWriteSlots_frame]

theorem OnlyRings.writeBack (r i : Nat) (s : State) : OnlyRings s (ringWriteBack r i s) := by
  unfold OnlyRings
  rw [ringWriteBack_frame]

theorem OnlyRings.ring (r : Nat) (f : Ring → Ring) (s : State) : OnlyRings s (modRing r f s) := rfl

/-- Posting an entry changes its ring, host memory and interrupt state alone. -/
theorem ringPost_frame (r : Nat) (bs : List Byte) (s : State) : OnlyRings s (ringPost r bs s) := by
  unfold ringPost
  dsimp only
  refine OnlyRings.trans (OnlyRings.trans (OnlyRings.trans (OnlyRings.trans ?_ (OnlyRings.slots _ _ _ _ _)) (OnlyRings.ring _ _ _)) (OnlyRings.writeBack _ _ _)) (OnlyRings.ringIrq _ _)
  exact OnlyRings.ite rfl rfl

/-- A completion that is written changes rings, host memory and interrupt state alone. -/
theorem cqWrite_frame (r : Nat) (bs : List Byte) (s : State) : OnlyRings s (cqWrite r bs s) := by
  unfold cqWrite
  dsimp only
  exact OnlyRings.ite ((ringPost_frame _ _ _).trans (OnlyRings.irq _ _)) (ringPost_frame _ _ _)

/-- A completion changes rings, host memory and interrupt state alone. -/
theorem cqPost_frame (r : Nat) (w : CqSource) (bs : List Byte) (s : State) : OnlyRings s (cqPost r w bs s) := by
  unfold cqPost
  dsimp only
  exact OnlyRings.ite (OnlyRings.trans (OnlyRings.ring _ _ _) (cqWrite_frame _ _ _)) rfl

/-- A record that is committed changes its channel, rings, host memory and interrupt state alone. -/
theorem dmaCommit_frame (k : Nat) (bs : List Byte) (s : State) : OnlyRings s (dmaCommit k bs s) := by
  unfold dmaCommit
  dsimp only
  exact OnlyRings.trans (t := modChan k (fun x => { x with lastStatus := fld bs 2 2 % 256 }) s) rfl (cqPost_frame _ _ _ _)

/-- Committing what is due changes the same. -/
theorem dmaFlush_frame (k n : Nat) (s : State) : OnlyRings s (dmaFlush k n s) := by
  induction n generalizing s with
  | zero =>
    unfold dmaFlush
    dsimp only
    split
    · rfl
    · refine OnlyRings.ite rfl (OnlyRings.ite ?_ (OnlyRings.trans ?_ (dmaCommit_frame _ _ _)))
      · unfold dmaStall cqStall
        exact OnlyRings.ite rfl rfl
      · rfl
  | succ n ih =>
    unfold dmaFlush
    dsimp only
    split
    · rfl
    · refine OnlyRings.ite rfl (OnlyRings.ite ?_ (OnlyRings.trans (OnlyRings.trans ?_ (dmaCommit_frame _ _ _)) (ih _)))
      · unfold dmaStall cqStall
        exact OnlyRings.ite rfl rfl
      · rfl

/-! ## A step -/

/-- A step runs the command at the front. -/
theorem step_cons {s : State} {c : Instr} {r : List Instr} (h : s.pending = c :: r) : step s = exec c { s with pending := r } := by
  unfold step
  rw [h]

/-- With no command waiting a step changes nothing. -/
theorem step_nil {s : State} (h : s.pending = []) : step s = .next s := by
  unfold step
  rw [h]

end Sys2Proof.Laws
end

