-- ==== Sys2Proof/Laws/Mailbox.lean ====
section
/-! SUPPORT. What the shared operations of a mailbox command do: running it, its address checks, its field checks. -/

namespace Sys2Proof.Laws

open Sys2Proof.Machine Sys2Proof.Safety

/-- A command that waits runs its body once, and the body's answer goes into its mailbox. -/
theorem runCmd_waiting {m code : Nat} {p : List Byte} {s : State} (h : waiting m code p s = true) (body : Cmd → State → Ans) :
    ∃ c, (mbox s m).cmd = some c ∧ c.code = code ∧ c.payload = p ∧ c.wait = .exec ∧ runCmd code m body s = settle m (body c s) := by
  unfold waiting at h
  unfold runCmd
  cases hc : (mbox s m).cmd with
  | none => simp [hc] at h
  | some c =>
    simp only [hc, Bool.and_eq_true, Bool.or_eq_true, decide_eq_true_eq] at h
    obtain ⟨⟨⟨⟨⟨h1, h2⟩, h3⟩, h4⟩, h7⟩, h5⟩ := h
    refine ⟨c, rfl, h1, h2, h3, ?_⟩
    have h6 : ¬ (s.boot.fwRunning = false ∧ s.boot.phase ≠ .recovery) := by
      rintro ⟨a, b⟩
      rcases h5 with h5 | h5
      · simp [a] at h5
      · exact b h5
    simp only
    have h8 : s.boot.patchAt.isSome = false := by
      cases hp : s.boot.patchAt with
      | none => rfl
      | some v => simp [hp] at h7
    rw [if_neg (by simp only [h1, h3, h4, h8]; simpa using h6)]

/-- A waiting command whose body answers OK is answered. -/
theorem runCmd_answered {m code : Nat} {p : List Byte} {s t : State} {r : List Byte} {body : Cmd → State → Ans} (h : waiting m code p s = true)
    (hb : ∀ c, (mbox s m).cmd = some c → c.code = code → c.payload = p → body c s = ansOk r t) : runCmd code m body s = answered m r t := by
  obtain ⟨c, hc, h1, h2, _, h4⟩ := runCmd_waiting h body
  rw [h4, hb c hc h1 h2]
  rfl

/-- A waiting command whose body waits for an outside event is held. -/
theorem runCmd_held {m code : Nat} {p : List Byte} {s t : State} {w : Wait} {body : Cmd → State → Ans} (h : waiting m code p s = true)
    (hb : ∀ c, (mbox s m).cmd = some c → c.code = code → c.payload = p → body c s = .hold w t) : runCmd code m body s = held m w t := by
  obtain ⟨c, hc, h1, h2, _, h4⟩ := runCmd_waiting h body
  rw [h4, hb c hc h1 h2]
  rfl

/-- A row whose command does not wait in the mailbox changes nothing. -/
theorem runCmd_idle {m code : Nat} {body : Cmd → State → Ans} {s : State} (h : ∀ c, (mbox s m).cmd = some c → c.code ≠ code ∨ c.wait ≠ .exec) :
    runCmd code m body s = s := by
  unfold runCmd
  cases hc : (mbox s m).cmd with
  | none => rfl
  | some c =>
    simp only
    rw [if_pos]
    rcases h c hc with h | h
    · exact Or.inl h
    · exact Or.inr (Or.inl h)

/-- A waiting command does not wait for what another holds. -/
theorem waiting_notOutside {m code : Nat} {p : List Byte} {s : State} (h : waiting m code p s = true) : waitsOutside s m code = false := by
  unfold waiting at h
  unfold waitsOutside
  cases hc : (mbox s m).cmd with
  | none => simp [hc] at h
  | some c =>
    simp only [hc, Bool.and_eq_true, decide_eq_true_eq] at h
    simp [h.1.1.1.2]

/-- A waiting command's turn has come. -/
theorem waiting_exec {m code : Nat} {p : List Byte} {s : State} (h : waiting m code p s = true) : waitsExec s m code = true := by
  unfold waiting at h
  unfold waitsExec
  cases hc : (mbox s m).cmd with
  | none => simp [hc] at h
  | some c =>
    simp only [hc, Bool.and_eq_true, decide_eq_true_eq] at h
    simp [h.1.1.1.2, h.1.1.1.1.1, h.1.1.2]

/-- A waiting command that needs the MAC engine runs while neither host software nor the BMC holds it, and gives it back. -/
theorem macCmd_run {m code : Nat} {p : List Byte} {s : State} {busy : State → Bool} {f : State → State} (h : waiting m code p s = true)
    (h1 : busy s = false) (h2 : s.ciph.owner ≠ 1) (h3 : s.ciph.owner ≠ 2) : macCmd busy m code f s = { f s with ciph := engineFree (f s).ciph } := by
  unfold macCmd heldUp
  simp only [waiting_notOutside h, h1, engineHeld, h2, h3, waiting_exec h]
  simp [withEngine, h2, h3]

/-- The zero tail of an addressed payload names no field. -/
theorem zero_tail_find {l : List Byte} (h : l.all (fun b => decide (b = 0)) = true) : l.zipIdx.find? (fun b => b.1 != 0) = none := by
  rw [List.find?_eq_none]
  intro x hx
  rw [List.all_eq_true] at h
  have := h x.1 (List.fst_mem_of_mem_zipIdx hx)
  simpa using this

/-- An addressed payload reaches the command's own part. -/
theorem onPathAny_addressed {m code len : Nat} {kinds : List Nat} {c : Cmd} {s : State} (go : Path → List Byte → Ans)
    (h : addressedAny s c.payload len kinds = true) : onPathAny m code len kinds c s go = go (pathOf c.payload) c.payload := by
  unfold addressedAny at h
  simp only [Bool.and_eq_true, decide_eq_true_eq, Bool.not_eq_true'] at h
  obtain ⟨⟨⟨⟨⟨h0, h1⟩, h2⟩, h3⟩, h4⟩, h5⟩ := h
  unfold onPathAny
  simp only [zero_tail_find h2, if_neg (by omega : ¬ c.payload.length < 16), if_neg (by omega : ¬ c.payload.length < len), h3, h4, h5]
  simp

/-- An addressed payload of an existing unit reaches the command's own part. -/
theorem onPath_addressed {m code len : Nat} {kinds : List Nat} {c : Cmd} {s : State} (go : Path → List Byte → Ans)
    (h : addressed s c.payload len kinds = true) : onPath m code len kinds c s go = go (pathOf c.payload) c.payload := by
  unfold addressed at h
  rw [Bool.and_eq_true] at h
  unfold onPath
  rw [onPathAny_addressed _ h.1, if_pos h.2]

/-- The KIND that an addressed payload names. -/
theorem addressedAny_kind {s : State} {p : List Byte} {len : Nat} {kinds : List Nat} (h : addressedAny s p len kinds = true) :
    (pathOf p).kind ∈ kinds := by
  unfold addressedAny at h
  simp only [Bool.and_eq_true, decide_eq_true_eq, List.contains_iff_mem] at h
  exact h.1.2

/-- The KIND that an addressed payload of an existing unit names. -/
theorem addressed_kind {s : State} {p : List Byte} {len : Nat} {kinds : List Nat} (h : addressed s p len kinds = true) : (pathOf p).kind ∈ kinds := by
  unfold addressed at h
  rw [Bool.and_eq_true] at h
  exact addressedAny_kind h.1

/-- A payload addressed within some KINDs is addressed within more. -/
theorem addressedAny_mono {s : State} {p : List Byte} {len : Nat} {kinds more : List Nat} (h : addressedAny s p len kinds = true)
    (hm : ∀ k ∈ kinds, k ∈ more) : addressedAny s p len more = true := by
  unfold addressedAny at h ⊢
  simp only [Bool.and_eq_true, decide_eq_true_eq, List.contains_iff_mem] at h ⊢
  exact ⟨⟨h.1.1, hm _ h.1.2⟩, h.2⟩

/-- The same, of an existing unit. -/
theorem addressed_mono {s : State} {p : List Byte} {len : Nat} {kinds more : List Nat} (h : addressed s p len kinds = true)
    (hm : ∀ k ∈ kinds, k ∈ more) : addressed s p len more = true := by
  unfold addressed at h ⊢
  rw [Bool.and_eq_true] at h ⊢
  exact ⟨addressedAny_mono h.1 hm, h.2⟩

/-- A setting that a command schedules is one that waits. -/
theorem schedule_scheduled {m code : Nat} {c : Cmd} {p : List Byte} {s : State} (h : c.code = code) : schedule m c p s = scheduled m code p s := by
  subst h
  rfl

/-- Checks that all hold let the command go on. -/
theorem checks_pass {l : List (Bool × Nat)} {s : State} {go : Unit → Ans} (h : l.all (fun c => c.1) = true) : checks l s go = go () := by
  unfold checks
  have : l.find? (fun c => !c.1) = none := by
    rw [List.find?_eq_none]
    intro x hx
    rw [List.all_eq_true] at h
    simp [h x hx]
  rw [this]

/-- The first check that fails answers BAD_ARG at its offset. -/
theorem checks_fail {l : List (Bool × Nat)} {s : State} {go : Unit → Ans} {c : Bool × Nat} (h : l.find? (fun c => !c.1) = some c) :
    checks l s go = ansBad c.2 s := by
  unfold checks
  rw [h]

end Sys2Proof.Laws
end

