-- ==== Sys2Proof/Laws/Memory.lean ====
section
/-! SUPPORT. Byte memories: reads after writes, and every memory operation keeps the canonical form. -/

namespace Sys2Proof.Laws

open Sys2Proof Sys2Proof.Machine

/-- The form of a list with a first entry. -/
theorem memOkFrom_cons {lo i : Nat} {b : Byte} {r : Mem} :
    memOkFrom lo ((i, b) :: r) = true ↔ (lo ≤ i ∧ b ≠ 0) ∧ memOkFrom (i + 1) r = true := by
  simp only [memOkFrom, Bool.and_eq_true, decide_eq_true_eq]

/-- A form that starts at one bound starts at any lower one. -/
theorem memOkFrom_lower {lo hi : Nat} {m : Mem} (h : memOkFrom hi m = true) (hl : lo ≤ hi) : memOkFrom lo m = true := by
  cases m with
  | nil => rfl
  | cons e r =>
    obtain ⟨i, b⟩ := e
    rw [memOkFrom_cons] at h ⊢
    exact ⟨⟨le_trans hl h.1.1, h.1.2⟩, h.2⟩

/-- A byte below the bound of a canonical form reads zero. -/
theorem memRead_below {lo a : Nat} {m : Mem} (h : memOkFrom lo m = true) (ha : a < lo) : memRead m a = 0 := by
  cases m with
  | nil => rfl
  | cons e r =>
    obtain ⟨i, b⟩ := e
    rw [memOkFrom_cons] at h
    have h1 : i ≠ a := by omega
    have h2 : a < i := by omega
    simp [memRead, h1, h2]

/-- A write keeps the canonical form. -/
theorem memOkFrom_memWrite (m : Mem) (lo a : Nat) (b : Byte) (h : memOkFrom lo m = true) (ha : lo ≤ a) : memOkFrom lo (memWrite m a b) = true := by
  induction m generalizing lo with
  | nil =>
    simp only [memWrite]
    split
    · rfl
    · rename_i hb
      exact memOkFrom_cons.mpr ⟨⟨ha, hb⟩, rfl⟩
  | cons e r ih =>
    obtain ⟨i, c⟩ := e
    rw [memOkFrom_cons] at h
    obtain ⟨⟨h1, h2⟩, h3⟩ := h
    unfold memWrite
    split
    · rename_i hi
      subst hi
      split
      · exact memOkFrom_lower h3 (by omega)
      · rename_i hb
        exact memOkFrom_cons.mpr ⟨⟨h1, hb⟩, h3⟩
    · split
      · rename_i hne hlt
        split
        · exact memOkFrom_cons.mpr ⟨⟨h1, h2⟩, h3⟩
        · rename_i hb
          exact memOkFrom_cons.mpr ⟨⟨ha, hb⟩, memOkFrom_cons.mpr ⟨⟨by omega, h2⟩, h3⟩⟩
      · rename_i hne hlt
        exact memOkFrom_cons.mpr ⟨⟨h1, h2⟩, ih (i + 1) h3 (by omega)⟩

/-- A write of one byte keeps the canonical form. -/
theorem memWf_memWrite (m : Mem) (a : Nat) (b : Byte) (h : memWf m = true) : memWf (memWrite m a b) = true :=
  memOkFrom_memWrite m 0 a b h (Nat.zero_le a)

/-- A write of bytes keeps the canonical form. -/
theorem memWf_memWriteL (m : Mem) (a : Nat) (bs : List Byte) (h : memWf m = true) : memWf (memWriteL m a bs) = true := by
  induction bs generalizing m a with
  | nil => exact h
  | cons b r ih => exact ih _ _ (memWf_memWrite m a b h)

/-- Byte writes one after another keep the canonical form. -/
theorem memWf_foldl {α : Type} (f : α → Nat) (g : α → Byte) (l : List α) (m : Mem) (h : memWf m = true) :
    memWf (l.foldl (fun acc e => memWrite acc (f e) (g e)) m) = true := by
  induction l generalizing m with
  | nil => exact h
  | cons e r ih => exact ih _ (memWf_memWrite m (f e) (g e) h)

/-- Entries left out of a canonical form leave one. -/
theorem memOkFrom_filter (p : Nat × Byte → Bool) (m : Mem) (lo : Nat) (h : memOkFrom lo m = true) : memOkFrom lo (m.filter p) = true := by
  induction m generalizing lo with
  | nil => rfl
  | cons e r ih =>
    obtain ⟨i, b⟩ := e
    rw [memOkFrom_cons] at h
    obtain ⟨⟨h1, h2⟩, h3⟩ := h
    cases hp : p (i, b) with
    | true =>
      simp only [List.filter_cons, hp]
      exact memOkFrom_cons.mpr ⟨⟨h1, h2⟩, ih _ h3⟩
    | false =>
      simp only [List.filter_cons, hp]
      exact memOkFrom_lower (ih _ h3) (by omega)

/-- Clearing a stretch keeps the canonical form. -/
theorem memWf_memClear (m : Mem) (a n : Nat) (h : memWf m = true) : memWf (memClear m a n) = true := memOkFrom_filter _ m 0 h

/-- Placing bytes over a stretch keeps the canonical form. -/
theorem memWf_memPlace (m : Mem) (a n : Nat) (src : Mem) (h : memWf m = true) : memWf (memPlace m a n src) = true :=
  memWf_foldl (fun e : Nat × Byte => a + e.1) (fun e => e.2) _ _ (memWf_memClear m a n h)

/-- A canonical form moved down to start at zero is one. -/
theorem memOkFrom_shift (m : Mem) (a lo : Nat) (h : memOkFrom (a + lo) m = true) : memOkFrom lo (m.map (fun e => (e.1 - a, e.2))) = true := by
  induction m generalizing lo with
  | nil => rfl
  | cons e r ih =>
    obtain ⟨i, b⟩ := e
    rw [memOkFrom_cons] at h
    obtain ⟨⟨h1, h2⟩, h3⟩ := h
    have h4 : a + (i - a + 1) = i + 1 := by omega
    have h5 : lo ≤ i - a := by omega
    exact memOkFrom_cons.mpr ⟨⟨h5, h2⟩, ih _ (h4.symm ▸ h3)⟩

/-- Entries that all lie at or above a bound form a canonical list from that bound. -/
theorem memOkFrom_raise (m : Mem) (lo hi : Nat) (h : memOkFrom lo m = true) (hm : ∀ e ∈ m, hi ≤ e.1) : memOkFrom hi m = true := by
  cases m with
  | nil => rfl
  | cons e r =>
    obtain ⟨i, b⟩ := e
    rw [memOkFrom_cons] at h ⊢
    exact ⟨⟨hm (i, b) (by simp), h.1.2⟩, h.2⟩

/-- A slice of a canonical form is one. -/
theorem memWf_memSlice (m : Mem) (a n : Nat) (h : memWf m = true) : memWf (memSlice m a n) = true := by
  apply memOkFrom_shift
  apply memOkFrom_raise _ 0 _ (memOkFrom_filter _ m 0 h)
  intro e he
  simp only [List.mem_filter, decide_eq_true_eq] at he
  omega

/-- A byte reads as it was last written. -/
theorem memRead_memWrite_same (m : Mem) (a lo : Nat) (b : Byte) (h : memOkFrom lo m = true) : memRead (memWrite m a b) a = b := by
  induction m generalizing lo with
  | nil =>
    simp only [memWrite]
    split
    · rename_i hb
      exact hb.symm
    · simp [memRead]
  | cons e r ih =>
    obtain ⟨i, c⟩ := e
    rw [memOkFrom_cons] at h
    obtain ⟨⟨h1, h2⟩, h3⟩ := h
    unfold memWrite
    split
    · rename_i hi
      subst hi
      split
      · rename_i hb
        rw [memRead_below h3 (by omega), hb]
      · simp [memRead]
    · rename_i hne
      split
      · rename_i hlt
        split
        · rename_i hb
          simp [memRead, hne, hlt, hb]
        · simp [memRead]
      · rename_i hlt
        simp only [memRead, if_neg hne, if_neg hlt]
        exact ih _ h3

/-- A write leaves every other byte alone. -/
theorem memRead_memWrite_other (m : Mem) (a x lo : Nat) (b : Byte) (h : memOkFrom lo m = true) (hx : x ≠ a) : memRead (memWrite m a b) x = memRead m x := by
  induction m generalizing lo with
  | nil =>
    simp only [memWrite]
    split
    · rfl
    · simp [memRead, Ne.symm hx]
  | cons e r ih =>
    obtain ⟨i, c⟩ := e
    rw [memOkFrom_cons] at h
    obtain ⟨⟨h1, h2⟩, h3⟩ := h
    unfold memWrite
    split
    · rename_i hi
      subst hi
      split
      · by_cases hlt : x < i
        · rw [memRead_below h3 (by omega)]
          simp [memRead, Ne.symm hx, hlt]
        · simp [memRead, Ne.symm hx, hlt]
      · simp [memRead, Ne.symm hx]
    · rename_i hne
      split
      · rename_i hlt
        split
        · rfl
        · by_cases hxa : x < a
          · have h4 : ¬ i = x := by omega
            have h5 : x < i := by omega
            simp [memRead, Ne.symm hx, hxa, h4, h5]
          · simp [memRead, Ne.symm hx, hxa]
      · rename_i hlt
        simp only [memRead]
        split
        · rfl
        · split
          · rfl
          · exact ih _ h3

/-- A write of bytes leaves every byte outside its span alone. -/
theorem memRead_memWriteL_outside (bs : List Byte) (m : Mem) (a x : Nat) (h : memWf m = true) (hx : x < a ∨ a + bs.length ≤ x) :
    memRead (memWriteL m a bs) x = memRead m x := by
  induction bs generalizing m a with
  | nil => rfl
  | cons b r ih =>
    simp only [List.length_cons] at hx
    rw [memWriteL, ih _ _ (memWf_memWrite m a b h) (by omega), memRead_memWrite_other m a x 0 b h (by omega)]

/-- Bytes read as they were written. -/
theorem memRead_memWriteL_inside (bs : List Byte) (m : Mem) (a k : Nat) (h : memWf m = true) (hk : k < bs.length) :
    memRead (memWriteL m a bs) (a + k) = bs[k] := by
  induction bs generalizing m a k with
  | nil => simp at hk
  | cons b r ih =>
    cases k with
    | zero =>
      rw [memWriteL, memRead_memWriteL_outside r _ _ _ (memWf_memWrite m a b h) (by omega)]
      exact memRead_memWrite_same m a 0 b h
    | succ k =>
      rw [memWriteL, show a + (k + 1) = a + 1 + k by omega, ih _ _ k (memWf_memWrite m a b h) (by simpa using hk)]
      rfl

/-! ## The memories of the state -/

theorem memWf_devWrite (a : Nat) (bs : List Byte) (s : State) (h : memWf s.devMem = true) : memWf (devWrite a bs s).devMem = true :=
  memWf_memWriteL _ _ _ h

theorem memWf_hostWrite (a : Nat) (bs : List Byte) (s : State) (h : memWf s.hostMem = true) : memWf (hostWrite a bs s).hostMem = true :=
  memWf_memWriteL _ _ _ h

theorem memWf_hostStores (l : List (Nat × Byte)) (s : State) (h : memWf s.hostMem = true) : memWf (hostStores l s).hostMem = true :=
  memWf_foldl (fun e : Nat × Byte => e.1) (fun e => e.2) l _ h

theorem memWf_chainWrite (cs : List Nat) (off : Nat) (bs : List Byte) (s : State) (h : memWf s.buf.mem = true) : memWf (chainWrite cs off bs s).buf.mem = true :=
  memWf_foldl (fun e : Byte × Nat => 256 * cs.getD (e.2 / 256) 0 + e.2 % 256) (fun e => e.1) _ _ h

/-- Device memory reads as it was written. -/
theorem devRead_devWrite (a : Nat) (bs : List Byte) (s : State) (h : memWf s.devMem = true) : devRead (devWrite a bs s) a bs.length = bs := by
  apply List.ext_getElem
  · simp [devRead, memReadN]
  · intro k h1 h2
    simp only [devRead, memReadN, devWrite, List.getElem_map, List.getElem_range]
    exact memRead_memWriteL_inside bs _ a k h h2

end Sys2Proof.Laws
end

