-- ==== Sys2Proof/Laws/PerInstr.lean ====
section
/-! SUPPORT. Per command: a well-formed command names units in their ranges, and it names units of at most one kind. -/

namespace Sys2Proof.Laws.Operands

open Sys2Proof

/-- The indices that a command names lie in their ranges. -/
def inRange (i : Instr) : Prop :=
  (∀ m, mailboxOf i = some m → m < 32) ∧ (∀ p, portOf i = some p → p < 512) ∧ (∀ l, laneOf i = some l → l < 512) ∧
  (∀ c, clusterOfCmd i = some c → c < 4) ∧ (∀ r, ringOf i = some r → r < 64) ∧ (∀ k, chanOf i = some k → k < 32)

/-- How many kinds of unit a command names. -/
def kindsNamed (i : Instr) : Nat :=
  [(mailboxOf i).isSome, (portOf i).isSome, (laneOf i).isSome, (clusterOfCmd i).isSome, (ringOf i).isSome, (chanOf i).isSome].countP id

/-- What is said of every command. -/
def Statement (i : Instr) : Prop := (wf i = true → inRange i) ∧ kindsNamed i ≤ 1

theorem below_lt {o : Option Nat} {n x : Nat} (h : below o n = true) (hx : o = some x) : x < n := by
  subst hx
  simpa [below] using h

/-- Well-formedness puts every named index in its range. -/
theorem inRange_of_wf {i : Instr} (h : wf i = true) : inRange i := by
  unfold wf at h
  simp only [Bool.and_eq_true] at h
  obtain ⟨⟨⟨⟨⟨⟨h1, h2⟩, h3⟩, h4⟩, h5⟩, h6⟩, _⟩ := h
  exact ⟨fun _ => below_lt h1, fun _ => below_lt h2, fun _ => below_lt h3, fun _ => below_lt h4, fun _ => below_lt h5, fun _ => below_lt h6⟩

theorem trickBoundary (i : TrickIn) : Statement (.trickBoundary i) := ⟨inRange_of_wf, Nat.le_of_ble_eq_true rfl⟩
theorem sprintClockChange : Statement (.sprintClockChange) := ⟨inRange_of_wf, Nat.le_of_ble_eq_true rfl⟩
theorem frameReceive (port len : Nat) (data : List Byte) (last fcsOk : Bool) (at_ : Crossing) : Statement (.frameReceive port len data last fcsOk at_) := ⟨inRange_of_wf, Nat.le_of_ble_eq_true rfl⟩
theorem pfcReceive (port : Nat) (vec : BitVec 16) (times : List Nat) : Statement (.pfcReceive port vec times) := ⟨inRange_of_wf, Nat.le_of_ble_eq_true rfl⟩
theorem pauseReceive (port time : Nat) : Statement (.pauseReceive port time) := ⟨inRange_of_wf, Nat.le_of_ble_eq_true rfl⟩
theorem pauseTimerExpiry (port pri : Nat) : Statement (.pauseTimerExpiry port pri) := ⟨inRange_of_wf, Nat.le_of_ble_eq_true rfl⟩
theorem slotIssue (port : Nat) (banks : BankIn) : Statement (.slotIssue port banks) := ⟨inRange_of_wf, Nat.le_of_ble_eq_true rfl⟩
theorem pfcRefresh (port pri : Nat) : Statement (.pfcRefresh port pri) := ⟨inRange_of_wf, Nat.le_of_ble_eq_true rfl⟩
theorem replication (group : Nat) : Statement (.replication group) := ⟨inRange_of_wf, Nat.le_of_ble_eq_true rfl⟩
theorem frameLastByte (port : Nat) (rest : List Byte) (fcsOk : Bool) : Statement (.frameLastByte port rest fcsOk) := ⟨inRange_of_wf, Nat.le_of_ble_eq_true rfl⟩
theorem schedulerSelect (port : Nat) (at_ : Crossing) (banks : BankIn) : Statement (.schedulerSelect port at_ banks) := ⟨inRange_of_wf, Nat.le_of_ble_eq_true rfl⟩
theorem transmitEnd (port : Nat) : Statement (.transmitEnd port) := ⟨inRange_of_wf, Nat.le_of_ble_eq_true rfl⟩
theorem chainFree (req addr : Nat) : Statement (.chainFree req addr) := ⟨inRange_of_wf, Nat.le_of_ble_eq_true rfl⟩
theorem queueHoldExpiry (port : Nat) : Statement (.queueHoldExpiry port) := ⟨inRange_of_wf, Nat.le_of_ble_eq_true rfl⟩
theorem freeListRebuildEnd (sec : Nat) : Statement (.freeListRebuildEnd sec) := ⟨inRange_of_wf, Nat.le_of_ble_eq_true rfl⟩
theorem learnExecute (tc : Nat) : Statement (.learnExecute tc) := ⟨inRange_of_wf, Nat.le_of_ble_eq_true rfl⟩
theorem tableEngineOp (tc : Nat) : Statement (.tableEngineOp tc) := ⟨inRange_of_wf, Nat.le_of_ble_eq_true rfl⟩
theorem agerVisit (tc : Nat) : Statement (.agerVisit tc) := ⟨inRange_of_wf, Nat.le_of_ble_eq_true rfl⟩
theorem ageDeleteExecute (tc : Nat) : Statement (.ageDeleteExecute tc) := ⟨inRange_of_wf, Nat.le_of_ble_eq_true rfl⟩
theorem notificationForward (tc : Nat) : Statement (.notificationForward tc) := ⟨inRange_of_wf, Nat.le_of_ble_eq_true rfl⟩
theorem rowRepair (f : FailRow) : Statement (.rowRepair f) := ⟨inRange_of_wf, Nat.le_of_ble_eq_true rfl⟩
theorem eyeWindowEnd (lane : Nat) (hist : List Nat) (a : Adapt) : Statement (.eyeWindowEnd lane hist a) := ⟨inRange_of_wf, Nat.le_of_ble_eq_true rfl⟩
theorem laneCdrLock (lane : Nat) (offset : Int) : Statement (.laneCdrLock lane offset) := ⟨inRange_of_wf, Nat.le_of_ble_eq_true rfl⟩
theorem laneSignalLoss (lane : Nat) (signal : Bool) : Statement (.laneSignalLoss lane signal) := ⟨inRange_of_wf, Nat.le_of_ble_eq_true rfl⟩
theorem echoMeasureEnd (lane : Nat) (e : EchoIn) : Statement (.echoMeasureEnd lane e) := ⟨inRange_of_wf, Nat.le_of_ble_eq_true rfl⟩
theorem negotiationResolved (port : Nat) (p : PartnerIn) : Statement (.negotiationResolved port p) := ⟨inRange_of_wf, Nat.le_of_ble_eq_true rfl⟩
theorem trainingComplete (port : Nat) : Statement (.trainingComplete port) := ⟨inRange_of_wf, Nat.le_of_ble_eq_true rfl⟩
theorem trainingTimeout (port : Nat) : Statement (.trainingTimeout port) := ⟨inRange_of_wf, Nat.le_of_ble_eq_true rfl⟩
theorem portAligned (port skew : Nat) : Statement (.portAligned port skew) := ⟨inRange_of_wf, Nat.le_of_ble_eq_true rfl⟩
theorem alignTimeout (port : Nat) (localFault remoteFault : Bool) (skew : Nat) : Statement (.alignTimeout port localFault remoteFault skew) := ⟨inRange_of_wf, Nat.le_of_ble_eq_true rfl⟩
theorem linkDown (port : Nat) (e : DownEvent) : Statement (.linkDown port e) := ⟨inRange_of_wf, Nat.le_of_ble_eq_true rfl⟩
theorem portPark (port : Nat) : Statement (.portPark port) := ⟨inRange_of_wf, Nat.le_of_ble_eq_true rfl⟩
theorem portProbe (port : Nat) : Statement (.portProbe port) := ⟨inRange_of_wf, Nat.le_of_ble_eq_true rfl⟩
theorem parkedSignal (port : Nat) : Statement (.parkedSignal port) := ⟨inRange_of_wf, Nat.le_of_ble_eq_true rfl⟩
theorem fecUncorrectable (lane : Nat) : Statement (.fecUncorrectable lane) := ⟨inRange_of_wf, Nat.le_of_ble_eq_true rfl⟩
theorem stormEnter (port pri : Nat) : Statement (.stormEnter port pri) := ⟨inRange_of_wf, Nat.le_of_ble_eq_true rfl⟩
theorem stormExit (port pri : Nat) : Statement (.stormExit port pri) := ⟨inRange_of_wf, Nat.le_of_ble_eq_true rfl⟩
theorem lldpTx (port : Nat) : Statement (.lldpTx port) := ⟨inRange_of_wf, Nat.le_of_ble_eq_true rfl⟩
theorem lldpduReceive (port : Nat) (pdu : List Byte) : Statement (.lldpduReceive port pdu) := ⟨inRange_of_wf, Nat.le_of_ble_eq_true rfl⟩
theorem lldpTtlExpiry (port : Nat) : Statement (.lldpTtlExpiry port) := ⟨inRange_of_wf, Nat.le_of_ble_eq_true rfl⟩
theorem esmcTx (port : Nat) (event : Bool) : Statement (.esmcTx port event) := ⟨inRange_of_wf, Nat.le_of_ble_eq_true rfl⟩
theorem synceOutResume (out : Nat) : Statement (.synceOutResume out) := ⟨inRange_of_wf, Nat.le_of_ble_eq_true rfl⟩
theorem refclkLoss (ref : Nat) : Statement (.refclkLoss ref) := ⟨inRange_of_wf, Nat.le_of_ble_eq_true rfl⟩
theorem refclkReturn (ref : Nat) : Statement (.refclkReturn ref) := ⟨inRange_of_wf, Nat.le_of_ble_eq_true rfl⟩
theorem timeDomainSrcLost (dom : Nat) : Statement (.timeDomainSrcLost dom) := ⟨inRange_of_wf, Nat.le_of_ble_eq_true rfl⟩
theorem ppsEdge (ph : Nat) (narrow : Bool) : Statement (.ppsEdge ph narrow) := ⟨inRange_of_wf, Nat.le_of_ble_eq_true rfl⟩
theorem tpioCapture (pin : Nat) (rising : Bool) (ph : Nat) (narrow : Bool) : Statement (.tpioCapture pin rising ph narrow) := ⟨inRange_of_wf, Nat.le_of_ble_eq_true rfl⟩
theorem tpioOneShotFire (pin ph : Nat) : Statement (.tpioOneShotFire pin ph) := ⟨inRange_of_wf, Nat.le_of_ble_eq_true rfl⟩
theorem tpioPeriodicEdge (pin ph : Nat) : Statement (.tpioPeriodicEdge pin ph) := ⟨inRange_of_wf, Nat.le_of_ble_eq_true rfl⟩
theorem ptpMessageReceive (m : PtpIn) : Statement (.ptpMessageReceive m) := ⟨inRange_of_wf, Nat.le_of_ble_eq_true rfl⟩
theorem heartbeatReceive (port : Nat) (frame : List Byte) (at_ : Crossing) : Statement (.heartbeatReceive port frame at_) := ⟨inRange_of_wf, Nat.le_of_ble_eq_true rfl⟩
theorem stackLinkMiss (port : Nat) : Statement (.stackLinkMiss port) := ⟨inRange_of_wf, Nat.le_of_ble_eq_true rfl⟩
theorem stackMemberExpiry (level path : Nat) : Statement (.stackMemberExpiry level path) := ⟨inRange_of_wf, Nat.le_of_ble_eq_true rfl⟩
theorem controlFrameReceive (port : Nat) (frame : ControlFrame) : Statement (.controlFrameReceive port frame) := ⟨inRange_of_wf, Nat.le_of_ble_eq_true rfl⟩
theorem controlResend (seq : Nat) : Statement (.controlResend seq) := ⟨inRange_of_wf, Nat.le_of_ble_eq_true rfl⟩
theorem issueRateChange (rate : Nat) : Statement (.issueRateChange rate) := ⟨inRange_of_wf, Nat.le_of_ble_eq_true rfl⟩
theorem limiterEngage (iin : Nat) : Statement (.limiterEngage iin) := ⟨inRange_of_wf, Nat.le_of_ble_eq_true rfl⟩
theorem limiterRelease : Statement (.limiterRelease) := ⟨inRange_of_wf, Nat.le_of_ble_eq_true rfl⟩
theorem inputLimitShed : Statement (.inputLimitShed) := ⟨inRange_of_wf, Nat.le_of_ble_eq_true rfl⟩
theorem emergencyShed (t : ShedTrigger) : Statement (.emergencyShed t) := ⟨inRange_of_wf, Nat.le_of_ble_eq_true rfl⟩
theorem emergencyShedEnd : Statement (.emergencyShedEnd) := ⟨inRange_of_wf, Nat.le_of_ble_eq_true rfl⟩
theorem thermalTrip (tj : Int) : Statement (.thermalTrip tj) := ⟨inRange_of_wf, Nat.le_of_ble_eq_true rfl⟩
theorem vinLoss (vin : Nat) : Statement (.vinLoss vin) := ⟨inRange_of_wf, Nat.le_of_ble_eq_true rfl⟩
theorem rungExitComplete (u : RungUnit) : Statement (.rungExitComplete u) := ⟨inRange_of_wf, Nat.le_of_ble_eq_true rfl⟩
theorem octetRampBatch : Statement (.octetRampBatch) := ⟨inRange_of_wf, Nat.le_of_ble_eq_true rfl⟩
theorem flashStore (erase : Bool) : Statement (.flashStore erase) := ⟨inRange_of_wf, Nat.le_of_ble_eq_true rfl⟩
theorem trendPeriodClose (counts : List Nat) : Statement (.trendPeriodClose counts) := ⟨inRange_of_wf, Nat.le_of_ble_eq_true rfl⟩
theorem irqModTimeout (v : Nat) : Statement (.irqModTimeout v) := ⟨inRange_of_wf, Nat.le_of_ble_eq_true rfl⟩
theorem msixUnmask (v : Nat) : Statement (.msixUnmask v) := ⟨inRange_of_wf, Nat.le_of_ble_eq_true rfl⟩
theorem conversionStart (vin : Nat) : Statement (.conversionStart vin) := ⟨inRange_of_wf, Nat.le_of_ble_eq_true rfl⟩
theorem bootRomStart : Statement (.bootRomStart) := ⟨inRange_of_wf, Nat.le_of_ble_eq_true rfl⟩
theorem fwStartTimeout : Statement (.fwStartTimeout) := ⟨inRange_of_wf, Nat.le_of_ble_eq_true rfl⟩
theorem readyRise (failing : List FailRow) : Statement (.readyRise failing) := ⟨inRange_of_wf, Nat.le_of_ble_eq_true rfl⟩
theorem hostLinkTrain (link : LinkTrain) : Statement (.hostLinkTrain link) := ⟨inRange_of_wf, Nat.le_of_ble_eq_true rfl⟩
theorem perstAssert (us : Nat) : Statement (.perstAssert us) := ⟨inRange_of_wf, Nat.le_of_ble_eq_true rfl⟩
theorem perstDeassert : Statement (.perstDeassert) := ⟨inRange_of_wf, Nat.le_of_ble_eq_true rfl⟩
theorem fwWatchdogExpiry : Statement (.fwWatchdogExpiry) := ⟨inRange_of_wf, Nat.le_of_ble_eq_true rfl⟩
theorem hostPowerState (d0 : Bool) : Statement (.hostPowerState d0) := ⟨inRange_of_wf, Nat.le_of_ble_eq_true rfl⟩
theorem hostDevmemAccess (addr : Nat) (wr : List Byte) (rd : Nat) (bad : Bool) : Statement (.hostDevmemAccess addr wr rd bad) := ⟨inRange_of_wf, Nat.le_of_ble_eq_true rfl⟩
theorem mbMessageWrite (who : Who) (mb off : Nat) (data : List Byte) : Statement (.mbMessageWrite who mb off data) := ⟨inRange_of_wf, Nat.le_of_ble_eq_true rfl⟩
theorem mbDoorbell (who : Who) (mb : Nat) : Statement (.mbDoorbell who mb) := ⟨inRange_of_wf, Nat.le_of_ble_eq_true rfl⟩
theorem mbAbort (who : Who) (mb : Nat) : Statement (.mbAbort who mb) := ⟨inRange_of_wf, Nat.le_of_ble_eq_true rfl⟩
theorem commandComplete (mb : Nat) : Statement (.commandComplete mb) := ⟨inRange_of_wf, Nat.le_of_ble_eq_true rfl⟩
theorem laneClassSet (mb : Nat) : Statement (.laneClassSet mb) := ⟨inRange_of_wf, Nat.le_of_ble_eq_true rfl⟩
theorem laneStatusGet (mb : Nat) : Statement (.laneStatusGet mb) := ⟨inRange_of_wf, Nat.le_of_ble_eq_true rfl⟩
theorem laneEchoMeasure (mb : Nat) : Statement (.laneEchoMeasure mb) := ⟨inRange_of_wf, Nat.le_of_ble_eq_true rfl⟩
theorem laneAdaptCtl (mb : Nat) : Statement (.laneAdaptCtl mb) := ⟨inRange_of_wf, Nat.le_of_ble_eq_true rfl⟩
theorem portConfig (mb : Nat) : Statement (.portConfig mb) := ⟨inRange_of_wf, Nat.le_of_ble_eq_true rfl⟩
theorem portStatusGet (mb : Nat) : Statement (.portStatusGet mb) := ⟨inRange_of_wf, Nat.le_of_ble_eq_true rfl⟩
theorem portPartnerGet (mb : Nat) : Statement (.portPartnerGet mb) := ⟨inRange_of_wf, Nat.le_of_ble_eq_true rfl⟩
theorem portGuardSet (mb : Nat) : Statement (.portGuardSet mb) := ⟨inRange_of_wf, Nat.le_of_ble_eq_true rfl⟩
theorem synceSet (mb : Nat) : Statement (.synceSet mb) := ⟨inRange_of_wf, Nat.le_of_ble_eq_true rfl⟩
theorem parserPortSet (mb : Nat) : Statement (.parserPortSet mb) := ⟨inRange_of_wf, Nat.le_of_ble_eq_true rfl⟩
theorem parserGroupSet (mb : Nat) : Statement (.parserGroupSet mb) := ⟨inRange_of_wf, Nat.le_of_ble_eq_true rfl⟩
theorem tableCreate (mb : Nat) : Statement (.tableCreate mb) := ⟨inRange_of_wf, Nat.le_of_ble_eq_true rfl⟩
theorem tableLadderSet (mb : Nat) : Statement (.tableLadderSet mb) := ⟨inRange_of_wf, Nat.le_of_ble_eq_true rfl⟩
theorem tableOp (mb : Nat) : Statement (.tableOp mb) := ⟨inRange_of_wf, Nat.le_of_ble_eq_true rfl⟩
theorem tableStatusGet (mb : Nat) : Statement (.tableStatusGet mb) := ⟨inRange_of_wf, Nat.le_of_ble_eq_true rfl⟩
theorem meterSet (mb : Nat) : Statement (.meterSet mb) := ⟨inRange_of_wf, Nat.le_of_ble_eq_true rfl⟩
theorem meterGet (mb : Nat) : Statement (.meterGet mb) := ⟨inRange_of_wf, Nat.le_of_ble_eq_true rfl⟩
theorem excSet (mb : Nat) : Statement (.excSet mb) := ⟨inRange_of_wf, Nat.le_of_ble_eq_true rfl⟩
theorem queueSet (mb : Nat) : Statement (.queueSet mb) := ⟨inRange_of_wf, Nat.le_of_ble_eq_true rfl⟩
theorem portBufSet (mb : Nat) : Statement (.portBufSet mb) := ⟨inRange_of_wf, Nat.le_of_ble_eq_true rfl⟩
theorem bufGlobalSet (mb : Nat) : Statement (.bufGlobalSet mb) := ⟨inRange_of_wf, Nat.le_of_ble_eq_true rfl⟩
theorem bufSectionSet (mb : Nat) : Statement (.bufSectionSet mb) := ⟨inRange_of_wf, Nat.le_of_ble_eq_true rfl⟩
theorem mcastSet (mb : Nat) : Statement (.mcastSet mb) := ⟨inRange_of_wf, Nat.le_of_ble_eq_true rfl⟩
theorem bufStatusGet (mb : Nat) : Statement (.bufStatusGet mb) := ⟨inRange_of_wf, Nat.le_of_ble_eq_true rfl⟩
theorem queueStatusGet (mb : Nat) : Statement (.queueStatusGet mb) := ⟨inRange_of_wf, Nat.le_of_ble_eq_true rfl⟩
theorem portBufStatusGet (mb : Nat) : Statement (.portBufStatusGet mb) := ⟨inRange_of_wf, Nat.le_of_ble_eq_true rfl⟩
theorem schedPortSet (mb : Nat) : Statement (.schedPortSet mb) := ⟨inRange_of_wf, Nat.le_of_ble_eq_true rfl⟩
theorem schedQueueSet (mb : Nat) : Statement (.schedQueueSet mb) := ⟨inRange_of_wf, Nat.le_of_ble_eq_true rfl⟩
theorem shaperSet (mb : Nat) : Statement (.shaperSet mb) := ⟨inRange_of_wf, Nat.le_of_ble_eq_true rfl⟩
theorem shaperGet (mb : Nat) : Statement (.shaperGet mb) := ⟨inRange_of_wf, Nat.le_of_ble_eq_true rfl⟩
theorem schedStatusGet (mb : Nat) : Statement (.schedStatusGet mb) := ⟨inRange_of_wf, Nat.le_of_ble_eq_true rfl⟩
theorem timeSet (mb : Nat) : Statement (.timeSet mb) := ⟨inRange_of_wf, Nat.le_of_ble_eq_true rfl⟩
theorem timePortSet (mb : Nat) : Statement (.timePortSet mb) := ⟨inRange_of_wf, Nat.le_of_ble_eq_true rfl⟩
theorem timeDomainSet (mb : Nat) : Statement (.timeDomainSet mb) := ⟨inRange_of_wf, Nat.le_of_ble_eq_true rfl⟩
theorem timeGlobalSet (mb : Nat) : Statement (.timeGlobalSet mb) := ⟨inRange_of_wf, Nat.le_of_ble_eq_true rfl⟩
theorem timeSelect (mb : Nat) : Statement (.timeSelect mb) := ⟨inRange_of_wf, Nat.le_of_ble_eq_true rfl⟩
theorem timeStatusGet (mb : Nat) : Statement (.timeStatusGet mb) := ⟨inRange_of_wf, Nat.le_of_ble_eq_true rfl⟩
theorem timeMasterListSet (mb : Nat) : Statement (.timeMasterListSet mb) := ⟨inRange_of_wf, Nat.le_of_ble_eq_true rfl⟩
theorem timeAuthSet (mb : Nat) : Statement (.timeAuthSet mb) := ⟨inRange_of_wf, Nat.le_of_ble_eq_true rfl⟩
theorem telemMemSet (mb : Nat) : Statement (.telemMemSet mb) := ⟨inRange_of_wf, Nat.le_of_ble_eq_true rfl⟩
theorem flowGlobalSet (mb : Nat) : Statement (.flowGlobalSet mb) := ⟨inRange_of_wf, Nat.le_of_ble_eq_true rfl⟩
theorem flowProfileSet (mb : Nat) : Statement (.flowProfileSet mb) := ⟨inRange_of_wf, Nat.le_of_ble_eq_true rfl⟩
theorem dumpSet (mb : Nat) : Statement (.dumpSet mb) := ⟨inRange_of_wf, Nat.le_of_ble_eq_true rfl⟩
theorem watchSet (mb : Nat) : Statement (.watchSet mb) := ⟨inRange_of_wf, Nat.le_of_ble_eq_true rfl⟩
theorem sampleSet (mb : Nat) : Statement (.sampleSet mb) := ⟨inRange_of_wf, Nat.le_of_ble_eq_true rfl⟩
theorem ioamSet (mb : Nat) : Statement (.ioamSet mb) := ⟨inRange_of_wf, Nat.le_of_ble_eq_true rfl⟩
theorem stackConfig (mb : Nat) : Statement (.stackConfig mb) := ⟨inRange_of_wf, Nat.le_of_ble_eq_true rfl⟩
theorem stackLinkSet (mb : Nat) : Statement (.stackLinkSet mb) := ⟨inRange_of_wf, Nat.le_of_ble_eq_true rfl⟩
theorem stackRouteSet (mb : Nat) : Statement (.stackRouteSet mb) := ⟨inRange_of_wf, Nat.le_of_ble_eq_true rfl⟩
theorem stackMemberSet (mb : Nat) : Statement (.stackMemberSet mb) := ⟨inRange_of_wf, Nat.le_of_ble_eq_true rfl⟩
theorem stackStatusGet (mb : Nat) : Statement (.stackStatusGet mb) := ⟨inRange_of_wf, Nat.le_of_ble_eq_true rfl⟩
theorem stackLinkStatusGet (mb : Nat) : Statement (.stackLinkStatusGet mb) := ⟨inRange_of_wf, Nat.le_of_ble_eq_true rfl⟩
theorem stackEpisodesGet (mb : Nat) : Statement (.stackEpisodesGet mb) := ⟨inRange_of_wf, Nat.le_of_ble_eq_true rfl⟩
theorem deviceInfoGet (mb : Nat) : Statement (.deviceInfoGet mb) := ⟨inRange_of_wf, Nat.le_of_ble_eq_true rfl⟩
theorem unitStatusGet (mb : Nat) : Statement (.unitStatusGet mb) := ⟨inRange_of_wf, Nat.le_of_ble_eq_true rfl⟩
theorem unitCountersGet (mb : Nat) : Statement (.unitCountersGet mb) := ⟨inRange_of_wf, Nat.le_of_ble_eq_true rfl⟩
theorem unitRungSet (mb : Nat) : Statement (.unitRungSet mb) := ⟨inRange_of_wf, Nat.le_of_ble_eq_true rfl⟩
theorem unitFaultGet (mb : Nat) : Statement (.unitFaultGet mb) := ⟨inRange_of_wf, Nat.le_of_ble_eq_true rfl⟩
theorem imageWrite (mb : Nat) : Statement (.imageWrite mb) := ⟨inRange_of_wf, Nat.le_of_ble_eq_true rfl⟩
theorem imageStatusGet (mb : Nat) : Statement (.imageStatusGet mb) := ⟨inRange_of_wf, Nat.le_of_ble_eq_true rfl⟩
theorem fwPatchApply (mb : Nat) : Statement (.fwPatchApply mb) := ⟨inRange_of_wf, Nat.le_of_ble_eq_true rfl⟩
theorem ucStage (mb : Nat) : Statement (.ucStage mb) := ⟨inRange_of_wf, Nat.le_of_ble_eq_true rfl⟩
theorem ucStagingEnd : Statement (.ucStagingEnd) := ⟨inRange_of_wf, Nat.le_of_ble_eq_true rfl⟩
theorem ucCommit (mb : Nat) : Statement (.ucCommit mb) := ⟨inRange_of_wf, Nat.le_of_ble_eq_true rfl⟩
theorem ucRollback (mb : Nat) : Statement (.ucRollback mb) := ⟨inRange_of_wf, Nat.le_of_ble_eq_true rfl⟩
theorem pwrCapSet (mb : Nat) : Statement (.pwrCapSet mb) := ⟨inRange_of_wf, Nat.le_of_ble_eq_true rfl⟩
theorem pwrShedSet (mb : Nat) : Statement (.pwrShedSet mb) := ⟨inRange_of_wf, Nat.le_of_ble_eq_true rfl⟩
theorem pwrDomainSet (mb : Nat) : Statement (.pwrDomainSet mb) := ⟨inRange_of_wf, Nat.le_of_ble_eq_true rfl⟩
theorem pwrStatusGet (mb : Nat) : Statement (.pwrStatusGet mb) := ⟨inRange_of_wf, Nat.le_of_ble_eq_true rfl⟩
theorem pwrAgeLogGet (mb : Nat) : Statement (.pwrAgeLogGet mb) := ⟨inRange_of_wf, Nat.le_of_ble_eq_true rfl⟩
theorem fltSourceSet (mb : Nat) : Statement (.fltSourceSet mb) := ⟨inRange_of_wf, Nat.le_of_ble_eq_true rfl⟩
theorem fltStatusGet (mb : Nat) : Statement (.fltStatusGet mb) := ⟨inRange_of_wf, Nat.le_of_ble_eq_true rfl⟩
theorem fltClear (mb : Nat) : Statement (.fltClear mb) := ⟨inRange_of_wf, Nat.le_of_ble_eq_true rfl⟩
theorem fltTestChallengeGet (mb : Nat) : Statement (.fltTestChallengeGet mb) := ⟨inRange_of_wf, Nat.le_of_ble_eq_true rfl⟩
theorem fltTestUnlock (mb : Nat) : Statement (.fltTestUnlock mb) := ⟨inRange_of_wf, Nat.le_of_ble_eq_true rfl⟩
theorem fltTestLock (mb : Nat) : Statement (.fltTestLock mb) := ⟨inRange_of_wf, Nat.le_of_ble_eq_true rfl⟩
theorem testFaultInject (mb : Nat) : Statement (.testFaultInject mb) := ⟨inRange_of_wf, Nat.le_of_ble_eq_true rfl⟩
theorem boardTableWrite (mb : Nat) : Statement (.boardTableWrite mb) := ⟨inRange_of_wf, Nat.le_of_ble_eq_true rfl⟩
theorem boardTableGet (mb : Nat) : Statement (.boardTableGet mb) := ⟨inRange_of_wf, Nat.le_of_ble_eq_true rfl⟩
theorem registerWrite (who : Who) (addr width : Nat) (value : BitVec 64) : Statement (.registerWrite who addr width value) := ⟨inRange_of_wf, Nat.le_of_ble_eq_true rfl⟩
theorem rcRegisterRead (who : Who) (addr width : Nat) : Statement (.rcRegisterRead who addr width) := ⟨inRange_of_wf, Nat.le_of_ble_eq_true rfl⟩
theorem trickCounterLatchRead (who : Who) (addr width : Nat) : Statement (.trickCounterLatchRead who addr width) := ⟨inRange_of_wf, Nat.le_of_ble_eq_true rfl⟩
theorem fixedFreqSet (who : Who) (on : Bool) : Statement (.fixedFreqSet who on) := ⟨inRange_of_wf, Nat.le_of_ble_eq_true rfl⟩
theorem timeNowRead (who : Who) (addr width ph : Nat) : Statement (.timeNowRead who addr width ph) := ⟨inRange_of_wf, Nat.le_of_ble_eq_true rfl⟩
theorem tsqEntryLatch (who : Who) (width : Nat) : Statement (.tsqEntryLatch who width) := ⟨inRange_of_wf, Nat.le_of_ble_eq_true rfl⟩
theorem tsqEntryPop (who : Who) (width : Nat) : Statement (.tsqEntryPop who width) := ⟨inRange_of_wf, Nat.le_of_ble_eq_true rfl⟩
theorem timeSampleWrite (who : Who) (dom width : Nat) (value : BitVec 64) : Statement (.timeSampleWrite who dom width value) := ⟨inRange_of_wf, Nat.le_of_ble_eq_true rfl⟩
theorem tpioModeWrite (who : Who) (pin : Nat) (value : BitVec 32) : Statement (.tpioModeWrite who pin value) := ⟨inRange_of_wf, Nat.le_of_ble_eq_true rfl⟩
theorem tpioCapLatch (who : Who) (pin : Nat) : Statement (.tpioCapLatch who pin) := ⟨inRange_of_wf, Nat.le_of_ble_eq_true rfl⟩
theorem tpioCapPop (who : Who) (pin : Nat) : Statement (.tpioCapPop who pin) := ⟨inRange_of_wf, Nat.le_of_ble_eq_true rfl⟩
theorem pwrEnergyRead (who : Who) (addr width : Nat) : Statement (.pwrEnergyRead who addr width) := ⟨inRange_of_wf, Nat.le_of_ble_eq_true rfl⟩
theorem tableWindowWrite (who : Who) (addr width : Nat) (value : BitVec 64) : Statement (.tableWindowWrite who addr width value) := ⟨inRange_of_wf, Nat.le_of_ble_eq_true rfl⟩
theorem tblWinCtlWrite (who : Who) (win : Nat) (value : BitVec 32) : Statement (.tblWinCtlWrite who win value) := ⟨inRange_of_wf, Nat.le_of_ble_eq_true rfl⟩
theorem fltStickyClear (who : Who) (k : Nat) (value : BitVec 64) : Statement (.fltStickyClear who k value) := ⟨inRange_of_wf, Nat.le_of_ble_eq_true rfl⟩
theorem fltSevereClear (who : Who) (k : Nat) (value : BitVec 64) : Statement (.fltSevereClear who k value) := ⟨inRange_of_wf, Nat.le_of_ble_eq_true rfl⟩
theorem ciphTake (who : Who) : Statement (.ciphTake who) := ⟨inRange_of_wf, Nat.le_of_ble_eq_true rfl⟩
theorem ciphRelease (who : Who) : Statement (.ciphRelease who) := ⟨inRange_of_wf, Nat.le_of_ble_eq_true rfl⟩
theorem ciphLeaseExpiry : Statement (.ciphLeaseExpiry) := ⟨inRange_of_wf, Nat.le_of_ble_eq_true rfl⟩
theorem ciphGo (who : Who) (value : BitVec 32) : Statement (.ciphGo who value) := ⟨inRange_of_wf, Nat.le_of_ble_eq_true rfl⟩
theorem ciphDone : Statement (.ciphDone) := ⟨inRange_of_wf, Nat.le_of_ble_eq_true rfl⟩
theorem ciphKeyLoad (who : Who) (slot : Nat) : Statement (.ciphKeyLoad who slot) := ⟨inRange_of_wf, Nat.le_of_ble_eq_true rfl⟩
theorem ciphKeyClear (who : Who) (slot : Nat) : Statement (.ciphKeyClear who slot) := ⟨inRange_of_wf, Nat.le_of_ble_eq_true rfl⟩
theorem ringEnable (ring : Nat) (value : BitVec 32) : Statement (.ringEnable ring value) := ⟨inRange_of_wf, Nat.le_of_ble_eq_true rfl⟩
theorem ringDisable (ring : Nat) (value : BitVec 32) : Statement (.ringDisable ring value) := ⟨inRange_of_wf, Nat.le_of_ble_eq_true rfl⟩
theorem sqDoorbell (ring : Nat) (host : List (Nat × Byte)) (err : Option Nat) : Statement (.sqDoorbell ring host err) := ⟨inRange_of_wf, Nat.le_of_ble_eq_true rfl⟩
theorem sqStakeWaitEnd (ring : Nat) : Statement (.sqStakeWaitEnd ring) := ⟨inRange_of_wf, Nat.le_of_ble_eq_true rfl⟩
theorem ringHostIdxWrite (ring : Nat) (value : Nat) : Statement (.ringHostIdxWrite ring value) := ⟨inRange_of_wf, Nat.le_of_ble_eq_true rfl⟩
theorem cqHoldDrain (ring : Nat) : Statement (.cqHoldDrain ring) := ⟨inRange_of_wf, Nat.le_of_ble_eq_true rfl⟩
theorem rxHoldDrain (ring : Nat) : Statement (.rxHoldDrain ring) := ⟨inRange_of_wf, Nat.le_of_ble_eq_true rfl⟩
theorem dmaStart (ch : Nat) (host : List (Nat × Byte)) : Statement (.dmaStart ch host) := ⟨inRange_of_wf, Nat.le_of_ble_eq_true rfl⟩
theorem dmaAbort (ch : Nat) : Statement (.dmaAbort ch) := ⟨inRange_of_wf, Nat.le_of_ble_eq_true rfl⟩
theorem dmaDoorbell (ch : Nat) (host : List (Nat × Byte)) : Statement (.dmaDoorbell ch host) := ⟨inRange_of_wf, Nat.le_of_ble_eq_true rfl⟩
theorem dmaEnd (ch : Nat) (err : Option Nat) : Statement (.dmaEnd ch err) := ⟨inRange_of_wf, Nat.le_of_ble_eq_true rfl⟩
theorem dmaMove (ch : Nat) (err : Option Nat) : Statement (.dmaMove ch err) := ⟨inRange_of_wf, Nat.le_of_ble_eq_true rfl⟩
theorem dmaMoveCrc (ch : Nat) (err : Option Nat) : Statement (.dmaMoveCrc ch err) := ⟨inRange_of_wf, Nat.le_of_ble_eq_true rfl⟩
theorem dmaFill (ch : Nat) (err : Option Nat) : Statement (.dmaFill ch err) := ⟨inRange_of_wf, Nat.le_of_ble_eq_true rfl⟩
theorem dmaCompare (ch : Nat) (err : Option Nat) : Statement (.dmaCompare ch err) := ⟨inRange_of_wf, Nat.le_of_ble_eq_true rfl⟩
theorem dmaLoop (ch : Nat) (err : Option Nat) : Statement (.dmaLoop ch err) := ⟨inRange_of_wf, Nat.le_of_ble_eq_true rfl⟩
theorem dmaWait (ch : Nat) (err : Option Nat) : Statement (.dmaWait ch err) := ⟨inRange_of_wf, Nat.le_of_ble_eq_true rfl⟩
theorem dmaWaitEnd (ch : Nat) : Statement (.dmaWaitEnd ch) := ⟨inRange_of_wf, Nat.le_of_ble_eq_true rfl⟩
theorem dmaSignal (ch : Nat) (err : Option Nat) : Statement (.dmaSignal ch err) := ⟨inRange_of_wf, Nat.le_of_ble_eq_true rfl⟩
theorem dmaJump (ch : Nat) (err : Option Nat) : Statement (.dmaJump ch err) := ⟨inRange_of_wf, Nat.le_of_ble_eq_true rfl⟩
theorem dmaStallEnd (ch : Nat) : Statement (.dmaStallEnd ch) := ⟨inRange_of_wf, Nat.le_of_ble_eq_true rfl⟩
theorem i3cPrivateTransfer (t : I3cIn) : Statement (.i3cPrivateTransfer t) := ⟨inRange_of_wf, Nat.le_of_ble_eq_true rfl⟩
theorem i3cCcc (code : Nat) (arg : List Byte) : Statement (.i3cCcc code arg) := ⟨inRange_of_wf, Nat.le_of_ble_eq_true rfl⟩
theorem jtagBypass : Statement (.jtagBypass) := ⟨inRange_of_wf, Nat.le_of_ble_eq_true rfl⟩
theorem jtagIdcode : Statement (.jtagIdcode) := ⟨inRange_of_wf, Nat.le_of_ble_eq_true rfl⟩
theorem jtagSamplePreload (pins : BitVec 32) (load : BitVec 32) : Statement (.jtagSamplePreload pins load) := ⟨inRange_of_wf, Nat.le_of_ble_eq_true rfl⟩
theorem jtagExtest : Statement (.jtagExtest) := ⟨inRange_of_wf, Nat.le_of_ble_eq_true rfl⟩
theorem jtagClamp : Statement (.jtagClamp) := ⟨inRange_of_wf, Nat.le_of_ble_eq_true rfl⟩
theorem jtagHighz : Statement (.jtagHighz) := ⟨inRange_of_wf, Nat.le_of_ble_eq_true rfl⟩
theorem commaReceive (lane : Nat) (rx : CommaIn) : Statement (.commaReceive lane rx) := ⟨inRange_of_wf, Nat.le_of_ble_eq_true rfl⟩
theorem trainingCoeffRequest (lane : Nat) (r : CoeffReq) : Statement (.trainingCoeffRequest lane r) := ⟨inRange_of_wf, Nat.le_of_ble_eq_true rfl⟩
theorem ptpMessageTx (dom port msgType : Nat) (msg : List Byte) : Statement (.ptpMessageTx dom port msgType msg) := ⟨inRange_of_wf, Nat.le_of_ble_eq_true rfl⟩
theorem switchoverSlewEnd : Statement (.switchoverSlewEnd) := ⟨inRange_of_wf, Nat.le_of_ble_eq_true rfl⟩
theorem rungEntryComplete (u : RungUnit) : Statement (.rungEntryComplete u) := ⟨inRange_of_wf, Nat.le_of_ble_eq_true rfl⟩
theorem flashStoreEnd (ok : Bool) : Statement (.flashStoreEnd ok) := ⟨inRange_of_wf, Nat.le_of_ble_eq_true rfl⟩
theorem fwRunningSet : Statement (.fwRunningSet) := ⟨inRange_of_wf, Nat.le_of_ble_eq_true rfl⟩
theorem timePllLock : Statement (.timePllLock) := ⟨inRange_of_wf, Nat.le_of_ble_eq_true rfl⟩
theorem startTemperatureReached (tmin : Int) : Statement (.startTemperatureReached tmin) := ⟨inRange_of_wf, Nat.le_of_ble_eq_true rfl⟩
theorem registerReadError (who : Who) (addr width : Nat) : Statement (.registerReadError who addr width) := ⟨inRange_of_wf, Nat.le_of_ble_eq_true rfl⟩

end Sys2Proof.Laws.Operands
end

