-- ==== Sys2Proof/Laws/State.lean ====
section
/-! SUPPORT. What each update of the state leaves alone: one lemma for each named update and each field of State that it does not write. -/

namespace Sys2Proof.Laws

open Sys2Proof Sys2Proof.Machine

/-! modSect writes buf alone. -/

@[simp] theorem modSect_ident (n : Nat) (f : Section → Section) (s : State) : (modSect n f s).ident = s.ident := rfl
@[simp] theorem modSect_trick (n : Nat) (f : Section → Section) (s : State) : (modSect n f s).trick = s.trick := rfl
@[simp] theorem modSect_refs (n : Nat) (f : Section → Section) (s : State) : (modSect n f s).refs = s.refs := rfl
@[simp] theorem modSect_lanes (n : Nat) (f : Section → Section) (s : State) : (modSect n f s).lanes = s.lanes := rfl
@[simp] theorem modSect_ports (n : Nat) (f : Section → Section) (s : State) : (modSect n f s).ports = s.ports := rfl
@[simp] theorem modSect_groups (n : Nat) (f : Section → Section) (s : State) : (modSect n f s).groups = s.groups := rfl
@[simp] theorem modSect_tables (n : Nat) (f : Section → Section) (s : State) : (modSect n f s).tables = s.tables := rfl
@[simp] theorem modSect_clusters (n : Nat) (f : Section → Section) (s : State) : (modSect n f s).clusters = s.clusters := rfl
@[simp] theorem modSect_wins (n : Nat) (f : Section → Section) (s : State) : (modSect n f s).wins = s.wins := rfl
@[simp] theorem modSect_uc (n : Nat) (f : Section → Section) (s : State) : (modSect n f s).uc = s.uc := rfl
@[simp] theorem modSect_time (n : Nat) (f : Section → Section) (s : State) : (modSect n f s).time = s.time := rfl
@[simp] theorem modSect_telem (n : Nat) (f : Section → Section) (s : State) : (modSect n f s).telem = s.telem := rfl
@[simp] theorem modSect_stack (n : Nat) (f : Section → Section) (s : State) : (modSect n f s).stack = s.stack := rfl
@[simp] theorem modSect_mboxes (n : Nat) (f : Section → Section) (s : State) : (modSect n f s).mboxes = s.mboxes := rfl
@[simp] theorem modSect_order (n : Nat) (f : Section → Section) (s : State) : (modSect n f s).order = s.order := rfl
@[simp] theorem modSect_deferred (n : Nat) (f : Section → Section) (s : State) : (modSect n f s).deferred = s.deferred := rfl
@[simp] theorem modSect_ciph (n : Nat) (f : Section → Section) (s : State) : (modSect n f s).ciph = s.ciph := rfl
@[simp] theorem modSect_link (n : Nat) (f : Section → Section) (s : State) : (modSect n f s).link = s.link := rfl
@[simp] theorem modSect_rings (n : Nat) (f : Section → Section) (s : State) : (modSect n f s).rings = s.rings := rfl
@[simp] theorem modSect_irq (n : Nat) (f : Section → Section) (s : State) : (modSect n f s).irq = s.irq := rfl
@[simp] theorem modSect_chans (n : Nat) (f : Section → Section) (s : State) : (modSect n f s).chans = s.chans := rfl
@[simp] theorem modSect_power (n : Nat) (f : Section → Section) (s : State) : (modSect n f s).power = s.power := rfl
@[simp] theorem modSect_flt (n : Nat) (f : Section → Section) (s : State) : (modSect n f s).flt = s.flt := rfl
@[simp] theorem modSect_boot (n : Nat) (f : Section → Section) (s : State) : (modSect n f s).boot = s.boot := rfl
@[simp] theorem modSect_pins (n : Nat) (f : Section → Section) (s : State) : (modSect n f s).pins = s.pins := rfl
@[simp] theorem modSect_bus (n : Nat) (f : Section → Section) (s : State) : (modSect n f s).bus = s.bus := rfl
@[simp] theorem modSect_evc (n : Nat) (f : Section → Section) (s : State) : (modSect n f s).evc = s.evc := rfl
@[simp] theorem modSect_devMem (n : Nat) (f : Section → Section) (s : State) : (modSect n f s).devMem = s.devMem := rfl
@[simp] theorem modSect_hostMem (n : Nat) (f : Section → Section) (s : State) : (modSect n f s).hostMem = s.hostMem := rfl
@[simp] theorem modSect_freeCount (n : Nat) (f : Section → Section) (s : State) : (modSect n f s).freeCount = s.freeCount := rfl
@[simp] theorem modSect_pending (n : Nat) (f : Section → Section) (s : State) : (modSect n f s).pending = s.pending := rfl

/-! modReq writes buf alone. -/

@[simp] theorem modReq_ident (r : Nat) (f : Requester → Requester) (s : State) : (modReq r f s).ident = s.ident := rfl
@[simp] theorem modReq_trick (r : Nat) (f : Requester → Requester) (s : State) : (modReq r f s).trick = s.trick := rfl
@[simp] theorem modReq_refs (r : Nat) (f : Requester → Requester) (s : State) : (modReq r f s).refs = s.refs := rfl
@[simp] theorem modReq_lanes (r : Nat) (f : Requester → Requester) (s : State) : (modReq r f s).lanes = s.lanes := rfl
@[simp] theorem modReq_ports (r : Nat) (f : Requester → Requester) (s : State) : (modReq r f s).ports = s.ports := rfl
@[simp] theorem modReq_groups (r : Nat) (f : Requester → Requester) (s : State) : (modReq r f s).groups = s.groups := rfl
@[simp] theorem modReq_tables (r : Nat) (f : Requester → Requester) (s : State) : (modReq r f s).tables = s.tables := rfl
@[simp] theorem modReq_clusters (r : Nat) (f : Requester → Requester) (s : State) : (modReq r f s).clusters = s.clusters := rfl
@[simp] theorem modReq_wins (r : Nat) (f : Requester → Requester) (s : State) : (modReq r f s).wins = s.wins := rfl
@[simp] theorem modReq_uc (r : Nat) (f : Requester → Requester) (s : State) : (modReq r f s).uc = s.uc := rfl
@[simp] theorem modReq_time (r : Nat) (f : Requester → Requester) (s : State) : (modReq r f s).time = s.time := rfl
@[simp] theorem modReq_telem (r : Nat) (f : Requester → Requester) (s : State) : (modReq r f s).telem = s.telem := rfl
@[simp] theorem modReq_stack (r : Nat) (f : Requester → Requester) (s : State) : (modReq r f s).stack = s.stack := rfl
@[simp] theorem modReq_mboxes (r : Nat) (f : Requester → Requester) (s : State) : (modReq r f s).mboxes = s.mboxes := rfl
@[simp] theorem modReq_order (r : Nat) (f : Requester → Requester) (s : State) : (modReq r f s).order = s.order := rfl
@[simp] theorem modReq_deferred (r : Nat) (f : Requester → Requester) (s : State) : (modReq r f s).deferred = s.deferred := rfl
@[simp] theorem modReq_ciph (r : Nat) (f : Requester → Requester) (s : State) : (modReq r f s).ciph = s.ciph := rfl
@[simp] theorem modReq_link (r : Nat) (f : Requester → Requester) (s : State) : (modReq r f s).link = s.link := rfl
@[simp] theorem modReq_rings (r : Nat) (f : Requester → Requester) (s : State) : (modReq r f s).rings = s.rings := rfl
@[simp] theorem modReq_irq (r : Nat) (f : Requester → Requester) (s : State) : (modReq r f s).irq = s.irq := rfl
@[simp] theorem modReq_chans (r : Nat) (f : Requester → Requester) (s : State) : (modReq r f s).chans = s.chans := rfl
@[simp] theorem modReq_power (r : Nat) (f : Requester → Requester) (s : State) : (modReq r f s).power = s.power := rfl
@[simp] theorem modReq_flt (r : Nat) (f : Requester → Requester) (s : State) : (modReq r f s).flt = s.flt := rfl
@[simp] theorem modReq_boot (r : Nat) (f : Requester → Requester) (s : State) : (modReq r f s).boot = s.boot := rfl
@[simp] theorem modReq_pins (r : Nat) (f : Requester → Requester) (s : State) : (modReq r f s).pins = s.pins := rfl
@[simp] theorem modReq_bus (r : Nat) (f : Requester → Requester) (s : State) : (modReq r f s).bus = s.bus := rfl
@[simp] theorem modReq_evc (r : Nat) (f : Requester → Requester) (s : State) : (modReq r f s).evc = s.evc := rfl
@[simp] theorem modReq_devMem (r : Nat) (f : Requester → Requester) (s : State) : (modReq r f s).devMem = s.devMem := rfl
@[simp] theorem modReq_hostMem (r : Nat) (f : Requester → Requester) (s : State) : (modReq r f s).hostMem = s.hostMem := rfl
@[simp] theorem modReq_freeCount (r : Nat) (f : Requester → Requester) (s : State) : (modReq r f s).freeCount = s.freeCount := rfl
@[simp] theorem modReq_pending (r : Nat) (f : Requester → Requester) (s : State) : (modReq r f s).pending = s.pending := rfl

/-! chainWrite writes buf alone. -/

@[simp] theorem chainWrite_ident (cs : List Nat) (off : Nat) (bs : List Byte) (s : State) : (chainWrite cs off bs s).ident = s.ident := rfl
@[simp] theorem chainWrite_trick (cs : List Nat) (off : Nat) (bs : List Byte) (s : State) : (chainWrite cs off bs s).trick = s.trick := rfl
@[simp] theorem chainWrite_refs (cs : List Nat) (off : Nat) (bs : List Byte) (s : State) : (chainWrite cs off bs s).refs = s.refs := rfl
@[simp] theorem chainWrite_lanes (cs : List Nat) (off : Nat) (bs : List Byte) (s : State) : (chainWrite cs off bs s).lanes = s.lanes := rfl
@[simp] theorem chainWrite_ports (cs : List Nat) (off : Nat) (bs : List Byte) (s : State) : (chainWrite cs off bs s).ports = s.ports := rfl
@[simp] theorem chainWrite_groups (cs : List Nat) (off : Nat) (bs : List Byte) (s : State) : (chainWrite cs off bs s).groups = s.groups := rfl
@[simp] theorem chainWrite_tables (cs : List Nat) (off : Nat) (bs : List Byte) (s : State) : (chainWrite cs off bs s).tables = s.tables := rfl
@[simp] theorem chainWrite_clusters (cs : List Nat) (off : Nat) (bs : List Byte) (s : State) : (chainWrite cs off bs s).clusters = s.clusters := rfl
@[simp] theorem chainWrite_wins (cs : List Nat) (off : Nat) (bs : List Byte) (s : State) : (chainWrite cs off bs s).wins = s.wins := rfl
@[simp] theorem chainWrite_uc (cs : List Nat) (off : Nat) (bs : List Byte) (s : State) : (chainWrite cs off bs s).uc = s.uc := rfl
@[simp] theorem chainWrite_time (cs : List Nat) (off : Nat) (bs : List Byte) (s : State) : (chainWrite cs off bs s).time = s.time := rfl
@[simp] theorem chainWrite_telem (cs : List Nat) (off : Nat) (bs : List Byte) (s : State) : (chainWrite cs off bs s).telem = s.telem := rfl
@[simp] theorem chainWrite_stack (cs : List Nat) (off : Nat) (bs : List Byte) (s : State) : (chainWrite cs off bs s).stack = s.stack := rfl
@[simp] theorem chainWrite_mboxes (cs : List Nat) (off : Nat) (bs : List Byte) (s : State) : (chainWrite cs off bs s).mboxes = s.mboxes := rfl
@[simp] theorem chainWrite_order (cs : List Nat) (off : Nat) (bs : List Byte) (s : State) : (chainWrite cs off bs s).order = s.order := rfl
@[simp] theorem chainWrite_deferred (cs : List Nat) (off : Nat) (bs : List Byte) (s : State) : (chainWrite cs off bs s).deferred = s.deferred := rfl
@[simp] theorem chainWrite_ciph (cs : List Nat) (off : Nat) (bs : List Byte) (s : State) : (chainWrite cs off bs s).ciph = s.ciph := rfl
@[simp] theorem chainWrite_link (cs : List Nat) (off : Nat) (bs : List Byte) (s : State) : (chainWrite cs off bs s).link = s.link := rfl
@[simp] theorem chainWrite_rings (cs : List Nat) (off : Nat) (bs : List Byte) (s : State) : (chainWrite cs off bs s).rings = s.rings := rfl
@[simp] theorem chainWrite_irq (cs : List Nat) (off : Nat) (bs : List Byte) (s : State) : (chainWrite cs off bs s).irq = s.irq := rfl
@[simp] theorem chainWrite_chans (cs : List Nat) (off : Nat) (bs : List Byte) (s : State) : (chainWrite cs off bs s).chans = s.chans := rfl
@[simp] theorem chainWrite_power (cs : List Nat) (off : Nat) (bs : List Byte) (s : State) : (chainWrite cs off bs s).power = s.power := rfl
@[simp] theorem chainWrite_flt (cs : List Nat) (off : Nat) (bs : List Byte) (s : State) : (chainWrite cs off bs s).flt = s.flt := rfl
@[simp] theorem chainWrite_boot (cs : List Nat) (off : Nat) (bs : List Byte) (s : State) : (chainWrite cs off bs s).boot = s.boot := rfl
@[simp] theorem chainWrite_pins (cs : List Nat) (off : Nat) (bs : List Byte) (s : State) : (chainWrite cs off bs s).pins = s.pins := rfl
@[simp] theorem chainWrite_bus (cs : List Nat) (off : Nat) (bs : List Byte) (s : State) : (chainWrite cs off bs s).bus = s.bus := rfl
@[simp] theorem chainWrite_evc (cs : List Nat) (off : Nat) (bs : List Byte) (s : State) : (chainWrite cs off bs s).evc = s.evc := rfl
@[simp] theorem chainWrite_devMem (cs : List Nat) (off : Nat) (bs : List Byte) (s : State) : (chainWrite cs off bs s).devMem = s.devMem := rfl
@[simp] theorem chainWrite_hostMem (cs : List Nat) (off : Nat) (bs : List Byte) (s : State) : (chainWrite cs off bs s).hostMem = s.hostMem := rfl
@[simp] theorem chainWrite_freeCount (cs : List Nat) (off : Nat) (bs : List Byte) (s : State) : (chainWrite cs off bs s).freeCount = s.freeCount := rfl
@[simp] theorem chainWrite_pending (cs : List Nat) (off : Nat) (bs : List Byte) (s : State) : (chainWrite cs off bs s).pending = s.pending := rfl

/-! modChain writes buf alone. -/

@[simp] theorem modChain_ident (h : Nat) (f : Chain → Chain) (s : State) : (modChain h f s).ident = s.ident := rfl
@[simp] theorem modChain_trick (h : Nat) (f : Chain → Chain) (s : State) : (modChain h f s).trick = s.trick := rfl
@[simp] theorem modChain_refs (h : Nat) (f : Chain → Chain) (s : State) : (modChain h f s).refs = s.refs := rfl
@[simp] theorem modChain_lanes (h : Nat) (f : Chain → Chain) (s : State) : (modChain h f s).lanes = s.lanes := rfl
@[simp] theorem modChain_ports (h : Nat) (f : Chain → Chain) (s : State) : (modChain h f s).ports = s.ports := rfl
@[simp] theorem modChain_groups (h : Nat) (f : Chain → Chain) (s : State) : (modChain h f s).groups = s.groups := rfl
@[simp] theorem modChain_tables (h : Nat) (f : Chain → Chain) (s : State) : (modChain h f s).tables = s.tables := rfl
@[simp] theorem modChain_clusters (h : Nat) (f : Chain → Chain) (s : State) : (modChain h f s).clusters = s.clusters := rfl
@[simp] theorem modChain_wins (h : Nat) (f : Chain → Chain) (s : State) : (modChain h f s).wins = s.wins := rfl
@[simp] theorem modChain_uc (h : Nat) (f : Chain → Chain) (s : State) : (modChain h f s).uc = s.uc := rfl
@[simp] theorem modChain_time (h : Nat) (f : Chain → Chain) (s : State) : (modChain h f s).time = s.time := rfl
@[simp] theorem modChain_telem (h : Nat) (f : Chain → Chain) (s : State) : (modChain h f s).telem = s.telem := rfl
@[simp] theorem modChain_stack (h : Nat) (f : Chain → Chain) (s : State) : (modChain h f s).stack = s.stack := rfl
@[simp] theorem modChain_mboxes (h : Nat) (f : Chain → Chain) (s : State) : (modChain h f s).mboxes = s.mboxes := rfl
@[simp] theorem modChain_order (h : Nat) (f : Chain → Chain) (s : State) : (modChain h f s).order = s.order := rfl
@[simp] theorem modChain_deferred (h : Nat) (f : Chain → Chain) (s : State) : (modChain h f s).deferred = s.deferred := rfl
@[simp] theorem modChain_ciph (h : Nat) (f : Chain → Chain) (s : State) : (modChain h f s).ciph = s.ciph := rfl
@[simp] theorem modChain_link (h : Nat) (f : Chain → Chain) (s : State) : (modChain h f s).link = s.link := rfl
@[simp] theorem modChain_rings (h : Nat) (f : Chain → Chain) (s : State) : (modChain h f s).rings = s.rings := rfl
@[simp] theorem modChain_irq (h : Nat) (f : Chain → Chain) (s : State) : (modChain h f s).irq = s.irq := rfl
@[simp] theorem modChain_chans (h : Nat) (f : Chain → Chain) (s : State) : (modChain h f s).chans = s.chans := rfl
@[simp] theorem modChain_power (h : Nat) (f : Chain → Chain) (s : State) : (modChain h f s).power = s.power := rfl
@[simp] theorem modChain_flt (h : Nat) (f : Chain → Chain) (s : State) : (modChain h f s).flt = s.flt := rfl
@[simp] theorem modChain_boot (h : Nat) (f : Chain → Chain) (s : State) : (modChain h f s).boot = s.boot := rfl
@[simp] theorem modChain_pins (h : Nat) (f : Chain → Chain) (s : State) : (modChain h f s).pins = s.pins := rfl
@[simp] theorem modChain_bus (h : Nat) (f : Chain → Chain) (s : State) : (modChain h f s).bus = s.bus := rfl
@[simp] theorem modChain_evc (h : Nat) (f : Chain → Chain) (s : State) : (modChain h f s).evc = s.evc := rfl
@[simp] theorem modChain_devMem (h : Nat) (f : Chain → Chain) (s : State) : (modChain h f s).devMem = s.devMem := rfl
@[simp] theorem modChain_hostMem (h : Nat) (f : Chain → Chain) (s : State) : (modChain h f s).hostMem = s.hostMem := rfl
@[simp] theorem modChain_freeCount (h : Nat) (f : Chain → Chain) (s : State) : (modChain h f s).freeCount = s.freeCount := rfl
@[simp] theorem modChain_pending (h : Nat) (f : Chain → Chain) (s : State) : (modChain h f s).pending = s.pending := rfl

/-! modCiph writes ciph alone. -/

@[simp] theorem modCiph_ident (f : Ciph → Ciph) (s : State) : (modCiph f s).ident = s.ident := rfl
@[simp] theorem modCiph_trick (f : Ciph → Ciph) (s : State) : (modCiph f s).trick = s.trick := rfl
@[simp] theorem modCiph_refs (f : Ciph → Ciph) (s : State) : (modCiph f s).refs = s.refs := rfl
@[simp] theorem modCiph_lanes (f : Ciph → Ciph) (s : State) : (modCiph f s).lanes = s.lanes := rfl
@[simp] theorem modCiph_ports (f : Ciph → Ciph) (s : State) : (modCiph f s).ports = s.ports := rfl
@[simp] theorem modCiph_groups (f : Ciph → Ciph) (s : State) : (modCiph f s).groups = s.groups := rfl
@[simp] theorem modCiph_tables (f : Ciph → Ciph) (s : State) : (modCiph f s).tables = s.tables := rfl
@[simp] theorem modCiph_clusters (f : Ciph → Ciph) (s : State) : (modCiph f s).clusters = s.clusters := rfl
@[simp] theorem modCiph_wins (f : Ciph → Ciph) (s : State) : (modCiph f s).wins = s.wins := rfl
@[simp] theorem modCiph_uc (f : Ciph → Ciph) (s : State) : (modCiph f s).uc = s.uc := rfl
@[simp] theorem modCiph_buf (f : Ciph → Ciph) (s : State) : (modCiph f s).buf = s.buf := rfl
@[simp] theorem modCiph_time (f : Ciph → Ciph) (s : State) : (modCiph f s).time = s.time := rfl
@[simp] theorem modCiph_telem (f : Ciph → Ciph) (s : State) : (modCiph f s).telem = s.telem := rfl
@[simp] theorem modCiph_stack (f : Ciph → Ciph) (s : State) : (modCiph f s).stack = s.stack := rfl
@[simp] theorem modCiph_mboxes (f : Ciph → Ciph) (s : State) : (modCiph f s).mboxes = s.mboxes := rfl
@[simp] theorem modCiph_order (f : Ciph → Ciph) (s : State) : (modCiph f s).order = s.order := rfl
@[simp] theorem modCiph_deferred (f : Ciph → Ciph) (s : State) : (modCiph f s).deferred = s.deferred := rfl
@[simp] theorem modCiph_link (f : Ciph → Ciph) (s : State) : (modCiph f s).link = s.link := rfl
@[simp] theorem modCiph_rings (f : Ciph → Ciph) (s : State) : (modCiph f s).rings = s.rings := rfl
@[simp] theorem modCiph_irq (f : Ciph → Ciph) (s : State) : (modCiph f s).irq = s.irq := rfl
@[simp] theorem modCiph_chans (f : Ciph → Ciph) (s : State) : (modCiph f s).chans = s.chans := rfl
@[simp] theorem modCiph_power (f : Ciph → Ciph) (s : State) : (modCiph f s).power = s.power := rfl
@[simp] theorem modCiph_flt (f : Ciph → Ciph) (s : State) : (modCiph f s).flt = s.flt := rfl
@[simp] theorem modCiph_boot (f : Ciph → Ciph) (s : State) : (modCiph f s).boot = s.boot := rfl
@[simp] theorem modCiph_pins (f : Ciph → Ciph) (s : State) : (modCiph f s).pins = s.pins := rfl
@[simp] theorem modCiph_bus (f : Ciph → Ciph) (s : State) : (modCiph f s).bus = s.bus := rfl
@[simp] theorem modCiph_evc (f : Ciph → Ciph) (s : State) : (modCiph f s).evc = s.evc := rfl
@[simp] theorem modCiph_devMem (f : Ciph → Ciph) (s : State) : (modCiph f s).devMem = s.devMem := rfl
@[simp] theorem modCiph_hostMem (f : Ciph → Ciph) (s : State) : (modCiph f s).hostMem = s.hostMem := rfl
@[simp] theorem modCiph_freeCount (f : Ciph → Ciph) (s : State) : (modCiph f s).freeCount = s.freeCount := rfl
@[simp] theorem modCiph_pending (f : Ciph → Ciph) (s : State) : (modCiph f s).pending = s.pending := rfl

/-! modChan writes chans alone. -/

@[simp] theorem modChan_ident (k : Nat) (f : Chan → Chan) (s : State) : (modChan k f s).ident = s.ident := rfl
@[simp] theorem modChan_trick (k : Nat) (f : Chan → Chan) (s : State) : (modChan k f s).trick = s.trick := rfl
@[simp] theorem modChan_refs (k : Nat) (f : Chan → Chan) (s : State) : (modChan k f s).refs = s.refs := rfl
@[simp] theorem modChan_lanes (k : Nat) (f : Chan → Chan) (s : State) : (modChan k f s).lanes = s.lanes := rfl
@[simp] theorem modChan_ports (k : Nat) (f : Chan → Chan) (s : State) : (modChan k f s).ports = s.ports := rfl
@[simp] theorem modChan_groups (k : Nat) (f : Chan → Chan) (s : State) : (modChan k f s).groups = s.groups := rfl
@[simp] theorem modChan_tables (k : Nat) (f : Chan → Chan) (s : State) : (modChan k f s).tables = s.tables := rfl
@[simp] theorem modChan_clusters (k : Nat) (f : Chan → Chan) (s : State) : (modChan k f s).clusters = s.clusters := rfl
@[simp] theorem modChan_wins (k : Nat) (f : Chan → Chan) (s : State) : (modChan k f s).wins = s.wins := rfl
@[simp] theorem modChan_uc (k : Nat) (f : Chan → Chan) (s : State) : (modChan k f s).uc = s.uc := rfl
@[simp] theorem modChan_buf (k : Nat) (f : Chan → Chan) (s : State) : (modChan k f s).buf = s.buf := rfl
@[simp] theorem modChan_time (k : Nat) (f : Chan → Chan) (s : State) : (modChan k f s).time = s.time := rfl
@[simp] theorem modChan_telem (k : Nat) (f : Chan → Chan) (s : State) : (modChan k f s).telem = s.telem := rfl
@[simp] theorem modChan_stack (k : Nat) (f : Chan → Chan) (s : State) : (modChan k f s).stack = s.stack := rfl
@[simp] theorem modChan_mboxes (k : Nat) (f : Chan → Chan) (s : State) : (modChan k f s).mboxes = s.mboxes := rfl
@[simp] theorem modChan_order (k : Nat) (f : Chan → Chan) (s : State) : (modChan k f s).order = s.order := rfl
@[simp] theorem modChan_deferred (k : Nat) (f : Chan → Chan) (s : State) : (modChan k f s).deferred = s.deferred := rfl
@[simp] theorem modChan_ciph (k : Nat) (f : Chan → Chan) (s : State) : (modChan k f s).ciph = s.ciph := rfl
@[simp] theorem modChan_link (k : Nat) (f : Chan → Chan) (s : State) : (modChan k f s).link = s.link := rfl
@[simp] theorem modChan_rings (k : Nat) (f : Chan → Chan) (s : State) : (modChan k f s).rings = s.rings := rfl
@[simp] theorem modChan_irq (k : Nat) (f : Chan → Chan) (s : State) : (modChan k f s).irq = s.irq := rfl
@[simp] theorem modChan_power (k : Nat) (f : Chan → Chan) (s : State) : (modChan k f s).power = s.power := rfl
@[simp] theorem modChan_flt (k : Nat) (f : Chan → Chan) (s : State) : (modChan k f s).flt = s.flt := rfl
@[simp] theorem modChan_boot (k : Nat) (f : Chan → Chan) (s : State) : (modChan k f s).boot = s.boot := rfl
@[simp] theorem modChan_pins (k : Nat) (f : Chan → Chan) (s : State) : (modChan k f s).pins = s.pins := rfl
@[simp] theorem modChan_bus (k : Nat) (f : Chan → Chan) (s : State) : (modChan k f s).bus = s.bus := rfl
@[simp] theorem modChan_evc (k : Nat) (f : Chan → Chan) (s : State) : (modChan k f s).evc = s.evc := rfl
@[simp] theorem modChan_devMem (k : Nat) (f : Chan → Chan) (s : State) : (modChan k f s).devMem = s.devMem := rfl
@[simp] theorem modChan_hostMem (k : Nat) (f : Chan → Chan) (s : State) : (modChan k f s).hostMem = s.hostMem := rfl
@[simp] theorem modChan_freeCount (k : Nat) (f : Chan → Chan) (s : State) : (modChan k f s).freeCount = s.freeCount := rfl
@[simp] theorem modChan_pending (k : Nat) (f : Chan → Chan) (s : State) : (modChan k f s).pending = s.pending := rfl

/-! evAdd writes evc alone. -/

@[simp] theorem evAdd_ident (code unit param n : Nat) (s : State) : (evAdd code unit param n s).ident = s.ident := rfl
@[simp] theorem evAdd_trick (code unit param n : Nat) (s : State) : (evAdd code unit param n s).trick = s.trick := rfl
@[simp] theorem evAdd_refs (code unit param n : Nat) (s : State) : (evAdd code unit param n s).refs = s.refs := rfl
@[simp] theorem evAdd_lanes (code unit param n : Nat) (s : State) : (evAdd code unit param n s).lanes = s.lanes := rfl
@[simp] theorem evAdd_ports (code unit param n : Nat) (s : State) : (evAdd code unit param n s).ports = s.ports := rfl
@[simp] theorem evAdd_groups (code unit param n : Nat) (s : State) : (evAdd code unit param n s).groups = s.groups := rfl
@[simp] theorem evAdd_tables (code unit param n : Nat) (s : State) : (evAdd code unit param n s).tables = s.tables := rfl
@[simp] theorem evAdd_clusters (code unit param n : Nat) (s : State) : (evAdd code unit param n s).clusters = s.clusters := rfl
@[simp] theorem evAdd_wins (code unit param n : Nat) (s : State) : (evAdd code unit param n s).wins = s.wins := rfl
@[simp] theorem evAdd_uc (code unit param n : Nat) (s : State) : (evAdd code unit param n s).uc = s.uc := rfl
@[simp] theorem evAdd_buf (code unit param n : Nat) (s : State) : (evAdd code unit param n s).buf = s.buf := rfl
@[simp] theorem evAdd_time (code unit param n : Nat) (s : State) : (evAdd code unit param n s).time = s.time := rfl
@[simp] theorem evAdd_telem (code unit param n : Nat) (s : State) : (evAdd code unit param n s).telem = s.telem := rfl
@[simp] theorem evAdd_stack (code unit param n : Nat) (s : State) : (evAdd code unit param n s).stack = s.stack := rfl
@[simp] theorem evAdd_mboxes (code unit param n : Nat) (s : State) : (evAdd code unit param n s).mboxes = s.mboxes := rfl
@[simp] theorem evAdd_order (code unit param n : Nat) (s : State) : (evAdd code unit param n s).order = s.order := rfl
@[simp] theorem evAdd_deferred (code unit param n : Nat) (s : State) : (evAdd code unit param n s).deferred = s.deferred := rfl
@[simp] theorem evAdd_ciph (code unit param n : Nat) (s : State) : (evAdd code unit param n s).ciph = s.ciph := rfl
@[simp] theorem evAdd_link (code unit param n : Nat) (s : State) : (evAdd code unit param n s).link = s.link := rfl
@[simp] theorem evAdd_rings (code unit param n : Nat) (s : State) : (evAdd code unit param n s).rings = s.rings := rfl
@[simp] theorem evAdd_irq (code unit param n : Nat) (s : State) : (evAdd code unit param n s).irq = s.irq := rfl
@[simp] theorem evAdd_chans (code unit param n : Nat) (s : State) : (evAdd code unit param n s).chans = s.chans := rfl
@[simp] theorem evAdd_power (code unit param n : Nat) (s : State) : (evAdd code unit param n s).power = s.power := rfl
@[simp] theorem evAdd_flt (code unit param n : Nat) (s : State) : (evAdd code unit param n s).flt = s.flt := rfl
@[simp] theorem evAdd_boot (code unit param n : Nat) (s : State) : (evAdd code unit param n s).boot = s.boot := rfl
@[simp] theorem evAdd_pins (code unit param n : Nat) (s : State) : (evAdd code unit param n s).pins = s.pins := rfl
@[simp] theorem evAdd_bus (code unit param n : Nat) (s : State) : (evAdd code unit param n s).bus = s.bus := rfl
@[simp] theorem evAdd_devMem (code unit param n : Nat) (s : State) : (evAdd code unit param n s).devMem = s.devMem := rfl
@[simp] theorem evAdd_hostMem (code unit param n : Nat) (s : State) : (evAdd code unit param n s).hostMem = s.hostMem := rfl
@[simp] theorem evAdd_freeCount (code unit param n : Nat) (s : State) : (evAdd code unit param n s).freeCount = s.freeCount := rfl
@[simp] theorem evAdd_pending (code unit param n : Nat) (s : State) : (evAdd code unit param n s).pending = s.pending := rfl

/-! evZero writes evc alone. -/

@[simp] theorem evZero_ident (code unit param : Nat) (s : State) : (evZero code unit param s).ident = s.ident := rfl
@[simp] theorem evZero_trick (code unit param : Nat) (s : State) : (evZero code unit param s).trick = s.trick := rfl
@[simp] theorem evZero_refs (code unit param : Nat) (s : State) : (evZero code unit param s).refs = s.refs := rfl
@[simp] theorem evZero_lanes (code unit param : Nat) (s : State) : (evZero code unit param s).lanes = s.lanes := rfl
@[simp] theorem evZero_ports (code unit param : Nat) (s : State) : (evZero code unit param s).ports = s.ports := rfl
@[simp] theorem evZero_groups (code unit param : Nat) (s : State) : (evZero code unit param s).groups = s.groups := rfl
@[simp] theorem evZero_tables (code unit param : Nat) (s : State) : (evZero code unit param s).tables = s.tables := rfl
@[simp] theorem evZero_clusters (code unit param : Nat) (s : State) : (evZero code unit param s).clusters = s.clusters := rfl
@[simp] theorem evZero_wins (code unit param : Nat) (s : State) : (evZero code unit param s).wins = s.wins := rfl
@[simp] theorem evZero_uc (code unit param : Nat) (s : State) : (evZero code unit param s).uc = s.uc := rfl
@[simp] theorem evZero_buf (code unit param : Nat) (s : State) : (evZero code unit param s).buf = s.buf := rfl
@[simp] theorem evZero_time (code unit param : Nat) (s : State) : (evZero code unit param s).time = s.time := rfl
@[simp] theorem evZero_telem (code unit param : Nat) (s : State) : (evZero code unit param s).telem = s.telem := rfl
@[simp] theorem evZero_stack (code unit param : Nat) (s : State) : (evZero code unit param s).stack = s.stack := rfl
@[simp] theorem evZero_mboxes (code unit param : Nat) (s : State) : (evZero code unit param s).mboxes = s.mboxes := rfl
@[simp] theorem evZero_order (code unit param : Nat) (s : State) : (evZero code unit param s).order = s.order := rfl
@[simp] theorem evZero_deferred (code unit param : Nat) (s : State) : (evZero code unit param s).deferred = s.deferred := rfl
@[simp] theorem evZero_ciph (code unit param : Nat) (s : State) : (evZero code unit param s).ciph = s.ciph := rfl
@[simp] theorem evZero_link (code unit param : Nat) (s : State) : (evZero code unit param s).link = s.link := rfl
@[simp] theorem evZero_rings (code unit param : Nat) (s : State) : (evZero code unit param s).rings = s.rings := rfl
@[simp] theorem evZero_irq (code unit param : Nat) (s : State) : (evZero code unit param s).irq = s.irq := rfl
@[simp] theorem evZero_chans (code unit param : Nat) (s : State) : (evZero code unit param s).chans = s.chans := rfl
@[simp] theorem evZero_power (code unit param : Nat) (s : State) : (evZero code unit param s).power = s.power := rfl
@[simp] theorem evZero_flt (code unit param : Nat) (s : State) : (evZero code unit param s).flt = s.flt := rfl
@[simp] theorem evZero_boot (code unit param : Nat) (s : State) : (evZero code unit param s).boot = s.boot := rfl
@[simp] theorem evZero_pins (code unit param : Nat) (s : State) : (evZero code unit param s).pins = s.pins := rfl
@[simp] theorem evZero_bus (code unit param : Nat) (s : State) : (evZero code unit param s).bus = s.bus := rfl
@[simp] theorem evZero_devMem (code unit param : Nat) (s : State) : (evZero code unit param s).devMem = s.devMem := rfl
@[simp] theorem evZero_hostMem (code unit param : Nat) (s : State) : (evZero code unit param s).hostMem = s.hostMem := rfl
@[simp] theorem evZero_freeCount (code unit param : Nat) (s : State) : (evZero code unit param s).freeCount = s.freeCount := rfl
@[simp] theorem evZero_pending (code unit param : Nat) (s : State) : (evZero code unit param s).pending = s.pending := rfl

/-! modFlt writes flt alone. -/

@[simp] theorem modFlt_ident (src unit : Nat) (f : FltInst → FltInst) (s : State) : (modFlt src unit f s).ident = s.ident := rfl
@[simp] theorem modFlt_trick (src unit : Nat) (f : FltInst → FltInst) (s : State) : (modFlt src unit f s).trick = s.trick := rfl
@[simp] theorem modFlt_refs (src unit : Nat) (f : FltInst → FltInst) (s : State) : (modFlt src unit f s).refs = s.refs := rfl
@[simp] theorem modFlt_lanes (src unit : Nat) (f : FltInst → FltInst) (s : State) : (modFlt src unit f s).lanes = s.lanes := rfl
@[simp] theorem modFlt_ports (src unit : Nat) (f : FltInst → FltInst) (s : State) : (modFlt src unit f s).ports = s.ports := rfl
@[simp] theorem modFlt_groups (src unit : Nat) (f : FltInst → FltInst) (s : State) : (modFlt src unit f s).groups = s.groups := rfl
@[simp] theorem modFlt_tables (src unit : Nat) (f : FltInst → FltInst) (s : State) : (modFlt src unit f s).tables = s.tables := rfl
@[simp] theorem modFlt_clusters (src unit : Nat) (f : FltInst → FltInst) (s : State) : (modFlt src unit f s).clusters = s.clusters := rfl
@[simp] theorem modFlt_wins (src unit : Nat) (f : FltInst → FltInst) (s : State) : (modFlt src unit f s).wins = s.wins := rfl
@[simp] theorem modFlt_uc (src unit : Nat) (f : FltInst → FltInst) (s : State) : (modFlt src unit f s).uc = s.uc := rfl
@[simp] theorem modFlt_buf (src unit : Nat) (f : FltInst → FltInst) (s : State) : (modFlt src unit f s).buf = s.buf := rfl
@[simp] theorem modFlt_time (src unit : Nat) (f : FltInst → FltInst) (s : State) : (modFlt src unit f s).time = s.time := rfl
@[simp] theorem modFlt_telem (src unit : Nat) (f : FltInst → FltInst) (s : State) : (modFlt src unit f s).telem = s.telem := rfl
@[simp] theorem modFlt_stack (src unit : Nat) (f : FltInst → FltInst) (s : State) : (modFlt src unit f s).stack = s.stack := rfl
@[simp] theorem modFlt_mboxes (src unit : Nat) (f : FltInst → FltInst) (s : State) : (modFlt src unit f s).mboxes = s.mboxes := rfl
@[simp] theorem modFlt_order (src unit : Nat) (f : FltInst → FltInst) (s : State) : (modFlt src unit f s).order = s.order := rfl
@[simp] theorem modFlt_deferred (src unit : Nat) (f : FltInst → FltInst) (s : State) : (modFlt src unit f s).deferred = s.deferred := rfl
@[simp] theorem modFlt_ciph (src unit : Nat) (f : FltInst → FltInst) (s : State) : (modFlt src unit f s).ciph = s.ciph := rfl
@[simp] theorem modFlt_link (src unit : Nat) (f : FltInst → FltInst) (s : State) : (modFlt src unit f s).link = s.link := rfl
@[simp] theorem modFlt_rings (src unit : Nat) (f : FltInst → FltInst) (s : State) : (modFlt src unit f s).rings = s.rings := rfl
@[simp] theorem modFlt_irq (src unit : Nat) (f : FltInst → FltInst) (s : State) : (modFlt src unit f s).irq = s.irq := rfl
@[simp] theorem modFlt_chans (src unit : Nat) (f : FltInst → FltInst) (s : State) : (modFlt src unit f s).chans = s.chans := rfl
@[simp] theorem modFlt_power (src unit : Nat) (f : FltInst → FltInst) (s : State) : (modFlt src unit f s).power = s.power := rfl
@[simp] theorem modFlt_boot (src unit : Nat) (f : FltInst → FltInst) (s : State) : (modFlt src unit f s).boot = s.boot := rfl
@[simp] theorem modFlt_pins (src unit : Nat) (f : FltInst → FltInst) (s : State) : (modFlt src unit f s).pins = s.pins := rfl
@[simp] theorem modFlt_bus (src unit : Nat) (f : FltInst → FltInst) (s : State) : (modFlt src unit f s).bus = s.bus := rfl
@[simp] theorem modFlt_evc (src unit : Nat) (f : FltInst → FltInst) (s : State) : (modFlt src unit f s).evc = s.evc := rfl
@[simp] theorem modFlt_devMem (src unit : Nat) (f : FltInst → FltInst) (s : State) : (modFlt src unit f s).devMem = s.devMem := rfl
@[simp] theorem modFlt_hostMem (src unit : Nat) (f : FltInst → FltInst) (s : State) : (modFlt src unit f s).hostMem = s.hostMem := rfl
@[simp] theorem modFlt_freeCount (src unit : Nat) (f : FltInst → FltInst) (s : State) : (modFlt src unit f s).freeCount = s.freeCount := rfl
@[simp] theorem modFlt_pending (src unit : Nat) (f : FltInst → FltInst) (s : State) : (modFlt src unit f s).pending = s.pending := rfl

/-! modBoot writes boot alone. -/

@[simp] theorem modBoot_ident (f : Boot → Boot) (s : State) : (modBoot f s).ident = s.ident := rfl
@[simp] theorem modBoot_trick (f : Boot → Boot) (s : State) : (modBoot f s).trick = s.trick := rfl
@[simp] theorem modBoot_refs (f : Boot → Boot) (s : State) : (modBoot f s).refs = s.refs := rfl
@[simp] theorem modBoot_lanes (f : Boot → Boot) (s : State) : (modBoot f s).lanes = s.lanes := rfl
@[simp] theorem modBoot_ports (f : Boot → Boot) (s : State) : (modBoot f s).ports = s.ports := rfl
@[simp] theorem modBoot_groups (f : Boot → Boot) (s : State) : (modBoot f s).groups = s.groups := rfl
@[simp] theorem modBoot_tables (f : Boot → Boot) (s : State) : (modBoot f s).tables = s.tables := rfl
@[simp] theorem modBoot_clusters (f : Boot → Boot) (s : State) : (modBoot f s).clusters = s.clusters := rfl
@[simp] theorem modBoot_wins (f : Boot → Boot) (s : State) : (modBoot f s).wins = s.wins := rfl
@[simp] theorem modBoot_uc (f : Boot → Boot) (s : State) : (modBoot f s).uc = s.uc := rfl
@[simp] theorem modBoot_buf (f : Boot → Boot) (s : State) : (modBoot f s).buf = s.buf := rfl
@[simp] theorem modBoot_time (f : Boot → Boot) (s : State) : (modBoot f s).time = s.time := rfl
@[simp] theorem modBoot_telem (f : Boot → Boot) (s : State) : (modBoot f s).telem = s.telem := rfl
@[simp] theorem modBoot_stack (f : Boot → Boot) (s : State) : (modBoot f s).stack = s.stack := rfl
@[simp] theorem modBoot_mboxes (f : Boot → Boot) (s : State) : (modBoot f s).mboxes = s.mboxes := rfl
@[simp] theorem modBoot_order (f : Boot → Boot) (s : State) : (modBoot f s).order = s.order := rfl
@[simp] theorem modBoot_deferred (f : Boot → Boot) (s : State) : (modBoot f s).deferred = s.deferred := rfl
@[simp] theorem modBoot_ciph (f : Boot → Boot) (s : State) : (modBoot f s).ciph = s.ciph := rfl
@[simp] theorem modBoot_link (f : Boot → Boot) (s : State) : (modBoot f s).link = s.link := rfl
@[simp] theorem modBoot_rings (f : Boot → Boot) (s : State) : (modBoot f s).rings = s.rings := rfl
@[simp] theorem modBoot_irq (f : Boot → Boot) (s : State) : (modBoot f s).irq = s.irq := rfl
@[simp] theorem modBoot_chans (f : Boot → Boot) (s : State) : (modBoot f s).chans = s.chans := rfl
@[simp] theorem modBoot_power (f : Boot → Boot) (s : State) : (modBoot f s).power = s.power := rfl
@[simp] theorem modBoot_flt (f : Boot → Boot) (s : State) : (modBoot f s).flt = s.flt := rfl
@[simp] theorem modBoot_pins (f : Boot → Boot) (s : State) : (modBoot f s).pins = s.pins := rfl
@[simp] theorem modBoot_bus (f : Boot → Boot) (s : State) : (modBoot f s).bus = s.bus := rfl
@[simp] theorem modBoot_evc (f : Boot → Boot) (s : State) : (modBoot f s).evc = s.evc := rfl
@[simp] theorem modBoot_devMem (f : Boot → Boot) (s : State) : (modBoot f s).devMem = s.devMem := rfl
@[simp] theorem modBoot_hostMem (f : Boot → Boot) (s : State) : (modBoot f s).hostMem = s.hostMem := rfl
@[simp] theorem modBoot_freeCount (f : Boot → Boot) (s : State) : (modBoot f s).freeCount = s.freeCount := rfl
@[simp] theorem modBoot_pending (f : Boot → Boot) (s : State) : (modBoot f s).pending = s.pending := rfl

/-! modCmd writes mboxes alone. -/

@[simp] theorem modCmd_ident (m : Nat) (f : Cmd → Cmd) (s : State) : (modCmd m f s).ident = s.ident := rfl
@[simp] theorem modCmd_trick (m : Nat) (f : Cmd → Cmd) (s : State) : (modCmd m f s).trick = s.trick := rfl
@[simp] theorem modCmd_refs (m : Nat) (f : Cmd → Cmd) (s : State) : (modCmd m f s).refs = s.refs := rfl
@[simp] theorem modCmd_lanes (m : Nat) (f : Cmd → Cmd) (s : State) : (modCmd m f s).lanes = s.lanes := rfl
@[simp] theorem modCmd_ports (m : Nat) (f : Cmd → Cmd) (s : State) : (modCmd m f s).ports = s.ports := rfl
@[simp] theorem modCmd_groups (m : Nat) (f : Cmd → Cmd) (s : State) : (modCmd m f s).groups = s.groups := rfl
@[simp] theorem modCmd_tables (m : Nat) (f : Cmd → Cmd) (s : State) : (modCmd m f s).tables = s.tables := rfl
@[simp] theorem modCmd_clusters (m : Nat) (f : Cmd → Cmd) (s : State) : (modCmd m f s).clusters = s.clusters := rfl
@[simp] theorem modCmd_wins (m : Nat) (f : Cmd → Cmd) (s : State) : (modCmd m f s).wins = s.wins := rfl
@[simp] theorem modCmd_uc (m : Nat) (f : Cmd → Cmd) (s : State) : (modCmd m f s).uc = s.uc := rfl
@[simp] theorem modCmd_buf (m : Nat) (f : Cmd → Cmd) (s : State) : (modCmd m f s).buf = s.buf := rfl
@[simp] theorem modCmd_time (m : Nat) (f : Cmd → Cmd) (s : State) : (modCmd m f s).time = s.time := rfl
@[simp] theorem modCmd_telem (m : Nat) (f : Cmd → Cmd) (s : State) : (modCmd m f s).telem = s.telem := rfl
@[simp] theorem modCmd_stack (m : Nat) (f : Cmd → Cmd) (s : State) : (modCmd m f s).stack = s.stack := rfl
@[simp] theorem modCmd_order (m : Nat) (f : Cmd → Cmd) (s : State) : (modCmd m f s).order = s.order := rfl
@[simp] theorem modCmd_deferred (m : Nat) (f : Cmd → Cmd) (s : State) : (modCmd m f s).deferred = s.deferred := rfl
@[simp] theorem modCmd_ciph (m : Nat) (f : Cmd → Cmd) (s : State) : (modCmd m f s).ciph = s.ciph := rfl
@[simp] theorem modCmd_link (m : Nat) (f : Cmd → Cmd) (s : State) : (modCmd m f s).link = s.link := rfl
@[simp] theorem modCmd_rings (m : Nat) (f : Cmd → Cmd) (s : State) : (modCmd m f s).rings = s.rings := rfl
@[simp] theorem modCmd_irq (m : Nat) (f : Cmd → Cmd) (s : State) : (modCmd m f s).irq = s.irq := rfl
@[simp] theorem modCmd_chans (m : Nat) (f : Cmd → Cmd) (s : State) : (modCmd m f s).chans = s.chans := rfl
@[simp] theorem modCmd_power (m : Nat) (f : Cmd → Cmd) (s : State) : (modCmd m f s).power = s.power := rfl
@[simp] theorem modCmd_flt (m : Nat) (f : Cmd → Cmd) (s : State) : (modCmd m f s).flt = s.flt := rfl
@[simp] theorem modCmd_boot (m : Nat) (f : Cmd → Cmd) (s : State) : (modCmd m f s).boot = s.boot := rfl
@[simp] theorem modCmd_pins (m : Nat) (f : Cmd → Cmd) (s : State) : (modCmd m f s).pins = s.pins := rfl
@[simp] theorem modCmd_bus (m : Nat) (f : Cmd → Cmd) (s : State) : (modCmd m f s).bus = s.bus := rfl
@[simp] theorem modCmd_evc (m : Nat) (f : Cmd → Cmd) (s : State) : (modCmd m f s).evc = s.evc := rfl
@[simp] theorem modCmd_devMem (m : Nat) (f : Cmd → Cmd) (s : State) : (modCmd m f s).devMem = s.devMem := rfl
@[simp] theorem modCmd_hostMem (m : Nat) (f : Cmd → Cmd) (s : State) : (modCmd m f s).hostMem = s.hostMem := rfl
@[simp] theorem modCmd_freeCount (m : Nat) (f : Cmd → Cmd) (s : State) : (modCmd m f s).freeCount = s.freeCount := rfl
@[simp] theorem modCmd_pending (m : Nat) (f : Cmd → Cmd) (s : State) : (modCmd m f s).pending = s.pending := rfl

/-! stackTx writes stack alone. -/

@[simp] theorem stackTx_ident (p : Nat) (bs : List Byte) (s : State) : (stackTx p bs s).ident = s.ident := rfl
@[simp] theorem stackTx_trick (p : Nat) (bs : List Byte) (s : State) : (stackTx p bs s).trick = s.trick := rfl
@[simp] theorem stackTx_refs (p : Nat) (bs : List Byte) (s : State) : (stackTx p bs s).refs = s.refs := rfl
@[simp] theorem stackTx_lanes (p : Nat) (bs : List Byte) (s : State) : (stackTx p bs s).lanes = s.lanes := rfl
@[simp] theorem stackTx_ports (p : Nat) (bs : List Byte) (s : State) : (stackTx p bs s).ports = s.ports := rfl
@[simp] theorem stackTx_groups (p : Nat) (bs : List Byte) (s : State) : (stackTx p bs s).groups = s.groups := rfl
@[simp] theorem stackTx_tables (p : Nat) (bs : List Byte) (s : State) : (stackTx p bs s).tables = s.tables := rfl
@[simp] theorem stackTx_clusters (p : Nat) (bs : List Byte) (s : State) : (stackTx p bs s).clusters = s.clusters := rfl
@[simp] theorem stackTx_wins (p : Nat) (bs : List Byte) (s : State) : (stackTx p bs s).wins = s.wins := rfl
@[simp] theorem stackTx_uc (p : Nat) (bs : List Byte) (s : State) : (stackTx p bs s).uc = s.uc := rfl
@[simp] theorem stackTx_buf (p : Nat) (bs : List Byte) (s : State) : (stackTx p bs s).buf = s.buf := rfl
@[simp] theorem stackTx_time (p : Nat) (bs : List Byte) (s : State) : (stackTx p bs s).time = s.time := rfl
@[simp] theorem stackTx_telem (p : Nat) (bs : List Byte) (s : State) : (stackTx p bs s).telem = s.telem := rfl
@[simp] theorem stackTx_mboxes (p : Nat) (bs : List Byte) (s : State) : (stackTx p bs s).mboxes = s.mboxes := rfl
@[simp] theorem stackTx_order (p : Nat) (bs : List Byte) (s : State) : (stackTx p bs s).order = s.order := rfl
@[simp] theorem stackTx_deferred (p : Nat) (bs : List Byte) (s : State) : (stackTx p bs s).deferred = s.deferred := rfl
@[simp] theorem stackTx_ciph (p : Nat) (bs : List Byte) (s : State) : (stackTx p bs s).ciph = s.ciph := rfl
@[simp] theorem stackTx_link (p : Nat) (bs : List Byte) (s : State) : (stackTx p bs s).link = s.link := rfl
@[simp] theorem stackTx_rings (p : Nat) (bs : List Byte) (s : State) : (stackTx p bs s).rings = s.rings := rfl
@[simp] theorem stackTx_irq (p : Nat) (bs : List Byte) (s : State) : (stackTx p bs s).irq = s.irq := rfl
@[simp] theorem stackTx_chans (p : Nat) (bs : List Byte) (s : State) : (stackTx p bs s).chans = s.chans := rfl
@[simp] theorem stackTx_power (p : Nat) (bs : List Byte) (s : State) : (stackTx p bs s).power = s.power := rfl
@[simp] theorem stackTx_flt (p : Nat) (bs : List Byte) (s : State) : (stackTx p bs s).flt = s.flt := rfl
@[simp] theorem stackTx_boot (p : Nat) (bs : List Byte) (s : State) : (stackTx p bs s).boot = s.boot := rfl
@[simp] theorem stackTx_pins (p : Nat) (bs : List Byte) (s : State) : (stackTx p bs s).pins = s.pins := rfl
@[simp] theorem stackTx_bus (p : Nat) (bs : List Byte) (s : State) : (stackTx p bs s).bus = s.bus := rfl
@[simp] theorem stackTx_evc (p : Nat) (bs : List Byte) (s : State) : (stackTx p bs s).evc = s.evc := rfl
@[simp] theorem stackTx_devMem (p : Nat) (bs : List Byte) (s : State) : (stackTx p bs s).devMem = s.devMem := rfl
@[simp] theorem stackTx_hostMem (p : Nat) (bs : List Byte) (s : State) : (stackTx p bs s).hostMem = s.hostMem := rfl
@[simp] theorem stackTx_freeCount (p : Nat) (bs : List Byte) (s : State) : (stackTx p bs s).freeCount = s.freeCount := rfl
@[simp] theorem stackTx_pending (p : Nat) (bs : List Byte) (s : State) : (stackTx p bs s).pending = s.pending := rfl

/-! modLane writes lanes alone. -/

@[simp] theorem modLane_ident (l : Nat) (f : Lane → Lane) (s : State) : (modLane l f s).ident = s.ident := rfl
@[simp] theorem modLane_trick (l : Nat) (f : Lane → Lane) (s : State) : (modLane l f s).trick = s.trick := rfl
@[simp] theorem modLane_refs (l : Nat) (f : Lane → Lane) (s : State) : (modLane l f s).refs = s.refs := rfl
@[simp] theorem modLane_ports (l : Nat) (f : Lane → Lane) (s : State) : (modLane l f s).ports = s.ports := rfl
@[simp] theorem modLane_groups (l : Nat) (f : Lane → Lane) (s : State) : (modLane l f s).groups = s.groups := rfl
@[simp] theorem modLane_tables (l : Nat) (f : Lane → Lane) (s : State) : (modLane l f s).tables = s.tables := rfl
@[simp] theorem modLane_clusters (l : Nat) (f : Lane → Lane) (s : State) : (modLane l f s).clusters = s.clusters := rfl
@[simp] theorem modLane_wins (l : Nat) (f : Lane → Lane) (s : State) : (modLane l f s).wins = s.wins := rfl
@[simp] theorem modLane_uc (l : Nat) (f : Lane → Lane) (s : State) : (modLane l f s).uc = s.uc := rfl
@[simp] theorem modLane_buf (l : Nat) (f : Lane → Lane) (s : State) : (modLane l f s).buf = s.buf := rfl
@[simp] theorem modLane_time (l : Nat) (f : Lane → Lane) (s : State) : (modLane l f s).time = s.time := rfl
@[simp] theorem modLane_telem (l : Nat) (f : Lane → Lane) (s : State) : (modLane l f s).telem = s.telem := rfl
@[simp] theorem modLane_stack (l : Nat) (f : Lane → Lane) (s : State) : (modLane l f s).stack = s.stack := rfl
@[simp] theorem modLane_mboxes (l : Nat) (f : Lane → Lane) (s : State) : (modLane l f s).mboxes = s.mboxes := rfl
@[simp] theorem modLane_order (l : Nat) (f : Lane → Lane) (s : State) : (modLane l f s).order = s.order := rfl
@[simp] theorem modLane_deferred (l : Nat) (f : Lane → Lane) (s : State) : (modLane l f s).deferred = s.deferred := rfl
@[simp] theorem modLane_ciph (l : Nat) (f : Lane → Lane) (s : State) : (modLane l f s).ciph = s.ciph := rfl
@[simp] theorem modLane_link (l : Nat) (f : Lane → Lane) (s : State) : (modLane l f s).link = s.link := rfl
@[simp] theorem modLane_rings (l : Nat) (f : Lane → Lane) (s : State) : (modLane l f s).rings = s.rings := rfl
@[simp] theorem modLane_irq (l : Nat) (f : Lane → Lane) (s : State) : (modLane l f s).irq = s.irq := rfl
@[simp] theorem modLane_chans (l : Nat) (f : Lane → Lane) (s : State) : (modLane l f s).chans = s.chans := rfl
@[simp] theorem modLane_power (l : Nat) (f : Lane → Lane) (s : State) : (modLane l f s).power = s.power := rfl
@[simp] theorem modLane_flt (l : Nat) (f : Lane → Lane) (s : State) : (modLane l f s).flt = s.flt := rfl
@[simp] theorem modLane_boot (l : Nat) (f : Lane → Lane) (s : State) : (modLane l f s).boot = s.boot := rfl
@[simp] theorem modLane_pins (l : Nat) (f : Lane → Lane) (s : State) : (modLane l f s).pins = s.pins := rfl
@[simp] theorem modLane_bus (l : Nat) (f : Lane → Lane) (s : State) : (modLane l f s).bus = s.bus := rfl
@[simp] theorem modLane_evc (l : Nat) (f : Lane → Lane) (s : State) : (modLane l f s).evc = s.evc := rfl
@[simp] theorem modLane_devMem (l : Nat) (f : Lane → Lane) (s : State) : (modLane l f s).devMem = s.devMem := rfl
@[simp] theorem modLane_hostMem (l : Nat) (f : Lane → Lane) (s : State) : (modLane l f s).hostMem = s.hostMem := rfl
@[simp] theorem modLane_freeCount (l : Nat) (f : Lane → Lane) (s : State) : (modLane l f s).freeCount = s.freeCount := rfl
@[simp] theorem modLane_pending (l : Nat) (f : Lane → Lane) (s : State) : (modLane l f s).pending = s.pending := rfl

/-! modPort writes ports alone. -/

@[simp] theorem modPort_ident (p : Nat) (f : Port → Port) (s : State) : (modPort p f s).ident = s.ident := rfl
@[simp] theorem modPort_trick (p : Nat) (f : Port → Port) (s : State) : (modPort p f s).trick = s.trick := rfl
@[simp] theorem modPort_refs (p : Nat) (f : Port → Port) (s : State) : (modPort p f s).refs = s.refs := rfl
@[simp] theorem modPort_lanes (p : Nat) (f : Port → Port) (s : State) : (modPort p f s).lanes = s.lanes := rfl
@[simp] theorem modPort_groups (p : Nat) (f : Port → Port) (s : State) : (modPort p f s).groups = s.groups := rfl
@[simp] theorem modPort_tables (p : Nat) (f : Port → Port) (s : State) : (modPort p f s).tables = s.tables := rfl
@[simp] theorem modPort_clusters (p : Nat) (f : Port → Port) (s : State) : (modPort p f s).clusters = s.clusters := rfl
@[simp] theorem modPort_wins (p : Nat) (f : Port → Port) (s : State) : (modPort p f s).wins = s.wins := rfl
@[simp] theorem modPort_uc (p : Nat) (f : Port → Port) (s : State) : (modPort p f s).uc = s.uc := rfl
@[simp] theorem modPort_buf (p : Nat) (f : Port → Port) (s : State) : (modPort p f s).buf = s.buf := rfl
@[simp] theorem modPort_time (p : Nat) (f : Port → Port) (s : State) : (modPort p f s).time = s.time := rfl
@[simp] theorem modPort_telem (p : Nat) (f : Port → Port) (s : State) : (modPort p f s).telem = s.telem := rfl
@[simp] theorem modPort_stack (p : Nat) (f : Port → Port) (s : State) : (modPort p f s).stack = s.stack := rfl
@[simp] theorem modPort_mboxes (p : Nat) (f : Port → Port) (s : State) : (modPort p f s).mboxes = s.mboxes := rfl
@[simp] theorem modPort_order (p : Nat) (f : Port → Port) (s : State) : (modPort p f s).order = s.order := rfl
@[simp] theorem modPort_deferred (p : Nat) (f : Port → Port) (s : State) : (modPort p f s).deferred = s.deferred := rfl
@[simp] theorem modPort_ciph (p : Nat) (f : Port → Port) (s : State) : (modPort p f s).ciph = s.ciph := rfl
@[simp] theorem modPort_link (p : Nat) (f : Port → Port) (s : State) : (modPort p f s).link = s.link := rfl
@[simp] theorem modPort_rings (p : Nat) (f : Port → Port) (s : State) : (modPort p f s).rings = s.rings := rfl
@[simp] theorem modPort_irq (p : Nat) (f : Port → Port) (s : State) : (modPort p f s).irq = s.irq := rfl
@[simp] theorem modPort_chans (p : Nat) (f : Port → Port) (s : State) : (modPort p f s).chans = s.chans := rfl
@[simp] theorem modPort_power (p : Nat) (f : Port → Port) (s : State) : (modPort p f s).power = s.power := rfl
@[simp] theorem modPort_flt (p : Nat) (f : Port → Port) (s : State) : (modPort p f s).flt = s.flt := rfl
@[simp] theorem modPort_boot (p : Nat) (f : Port → Port) (s : State) : (modPort p f s).boot = s.boot := rfl
@[simp] theorem modPort_pins (p : Nat) (f : Port → Port) (s : State) : (modPort p f s).pins = s.pins := rfl
@[simp] theorem modPort_bus (p : Nat) (f : Port → Port) (s : State) : (modPort p f s).bus = s.bus := rfl
@[simp] theorem modPort_evc (p : Nat) (f : Port → Port) (s : State) : (modPort p f s).evc = s.evc := rfl
@[simp] theorem modPort_devMem (p : Nat) (f : Port → Port) (s : State) : (modPort p f s).devMem = s.devMem := rfl
@[simp] theorem modPort_hostMem (p : Nat) (f : Port → Port) (s : State) : (modPort p f s).hostMem = s.hostMem := rfl
@[simp] theorem modPort_freeCount (p : Nat) (f : Port → Port) (s : State) : (modPort p f s).freeCount = s.freeCount := rfl
@[simp] theorem modPort_pending (p : Nat) (f : Port → Port) (s : State) : (modPort p f s).pending = s.pending := rfl

/-! modGrp writes groups alone. -/

@[simp] theorem modGrp_ident (g : Nat) (f : Group → Group) (s : State) : (modGrp g f s).ident = s.ident := rfl
@[simp] theorem modGrp_trick (g : Nat) (f : Group → Group) (s : State) : (modGrp g f s).trick = s.trick := rfl
@[simp] theorem modGrp_refs (g : Nat) (f : Group → Group) (s : State) : (modGrp g f s).refs = s.refs := rfl
@[simp] theorem modGrp_lanes (g : Nat) (f : Group → Group) (s : State) : (modGrp g f s).lanes = s.lanes := rfl
@[simp] theorem modGrp_ports (g : Nat) (f : Group → Group) (s : State) : (modGrp g f s).ports = s.ports := rfl
@[simp] theorem modGrp_tables (g : Nat) (f : Group → Group) (s : State) : (modGrp g f s).tables = s.tables := rfl
@[simp] theorem modGrp_clusters (g : Nat) (f : Group → Group) (s : State) : (modGrp g f s).clusters = s.clusters := rfl
@[simp] theorem modGrp_wins (g : Nat) (f : Group → Group) (s : State) : (modGrp g f s).wins = s.wins := rfl
@[simp] theorem modGrp_uc (g : Nat) (f : Group → Group) (s : State) : (modGrp g f s).uc = s.uc := rfl
@[simp] theorem modGrp_buf (g : Nat) (f : Group → Group) (s : State) : (modGrp g f s).buf = s.buf := rfl
@[simp] theorem modGrp_time (g : Nat) (f : Group → Group) (s : State) : (modGrp g f s).time = s.time := rfl
@[simp] theorem modGrp_telem (g : Nat) (f : Group → Group) (s : State) : (modGrp g f s).telem = s.telem := rfl
@[simp] theorem modGrp_stack (g : Nat) (f : Group → Group) (s : State) : (modGrp g f s).stack = s.stack := rfl
@[simp] theorem modGrp_mboxes (g : Nat) (f : Group → Group) (s : State) : (modGrp g f s).mboxes = s.mboxes := rfl
@[simp] theorem modGrp_order (g : Nat) (f : Group → Group) (s : State) : (modGrp g f s).order = s.order := rfl
@[simp] theorem modGrp_deferred (g : Nat) (f : Group → Group) (s : State) : (modGrp g f s).deferred = s.deferred := rfl
@[simp] theorem modGrp_ciph (g : Nat) (f : Group → Group) (s : State) : (modGrp g f s).ciph = s.ciph := rfl
@[simp] theorem modGrp_link (g : Nat) (f : Group → Group) (s : State) : (modGrp g f s).link = s.link := rfl
@[simp] theorem modGrp_rings (g : Nat) (f : Group → Group) (s : State) : (modGrp g f s).rings = s.rings := rfl
@[simp] theorem modGrp_irq (g : Nat) (f : Group → Group) (s : State) : (modGrp g f s).irq = s.irq := rfl
@[simp] theorem modGrp_chans (g : Nat) (f : Group → Group) (s : State) : (modGrp g f s).chans = s.chans := rfl
@[simp] theorem modGrp_power (g : Nat) (f : Group → Group) (s : State) : (modGrp g f s).power = s.power := rfl
@[simp] theorem modGrp_flt (g : Nat) (f : Group → Group) (s : State) : (modGrp g f s).flt = s.flt := rfl
@[simp] theorem modGrp_boot (g : Nat) (f : Group → Group) (s : State) : (modGrp g f s).boot = s.boot := rfl
@[simp] theorem modGrp_pins (g : Nat) (f : Group → Group) (s : State) : (modGrp g f s).pins = s.pins := rfl
@[simp] theorem modGrp_bus (g : Nat) (f : Group → Group) (s : State) : (modGrp g f s).bus = s.bus := rfl
@[simp] theorem modGrp_evc (g : Nat) (f : Group → Group) (s : State) : (modGrp g f s).evc = s.evc := rfl
@[simp] theorem modGrp_devMem (g : Nat) (f : Group → Group) (s : State) : (modGrp g f s).devMem = s.devMem := rfl
@[simp] theorem modGrp_hostMem (g : Nat) (f : Group → Group) (s : State) : (modGrp g f s).hostMem = s.hostMem := rfl
@[simp] theorem modGrp_freeCount (g : Nat) (f : Group → Group) (s : State) : (modGrp g f s).freeCount = s.freeCount := rfl
@[simp] theorem modGrp_pending (g : Nat) (f : Group → Group) (s : State) : (modGrp g f s).pending = s.pending := rfl

/-! modCluster writes clusters alone. -/

@[simp] theorem modCluster_ident (c : Nat) (f : Cluster → Cluster) (s : State) : (modCluster c f s).ident = s.ident := rfl
@[simp] theorem modCluster_trick (c : Nat) (f : Cluster → Cluster) (s : State) : (modCluster c f s).trick = s.trick := rfl
@[simp] theorem modCluster_refs (c : Nat) (f : Cluster → Cluster) (s : State) : (modCluster c f s).refs = s.refs := rfl
@[simp] theorem modCluster_lanes (c : Nat) (f : Cluster → Cluster) (s : State) : (modCluster c f s).lanes = s.lanes := rfl
@[simp] theorem modCluster_ports (c : Nat) (f : Cluster → Cluster) (s : State) : (modCluster c f s).ports = s.ports := rfl
@[simp] theorem modCluster_groups (c : Nat) (f : Cluster → Cluster) (s : State) : (modCluster c f s).groups = s.groups := rfl
@[simp] theorem modCluster_tables (c : Nat) (f : Cluster → Cluster) (s : State) : (modCluster c f s).tables = s.tables := rfl
@[simp] theorem modCluster_wins (c : Nat) (f : Cluster → Cluster) (s : State) : (modCluster c f s).wins = s.wins := rfl
@[simp] theorem modCluster_uc (c : Nat) (f : Cluster → Cluster) (s : State) : (modCluster c f s).uc = s.uc := rfl
@[simp] theorem modCluster_buf (c : Nat) (f : Cluster → Cluster) (s : State) : (modCluster c f s).buf = s.buf := rfl
@[simp] theorem modCluster_time (c : Nat) (f : Cluster → Cluster) (s : State) : (modCluster c f s).time = s.time := rfl
@[simp] theorem modCluster_telem (c : Nat) (f : Cluster → Cluster) (s : State) : (modCluster c f s).telem = s.telem := rfl
@[simp] theorem modCluster_stack (c : Nat) (f : Cluster → Cluster) (s : State) : (modCluster c f s).stack = s.stack := rfl
@[simp] theorem modCluster_mboxes (c : Nat) (f : Cluster → Cluster) (s : State) : (modCluster c f s).mboxes = s.mboxes := rfl
@[simp] theorem modCluster_order (c : Nat) (f : Cluster → Cluster) (s : State) : (modCluster c f s).order = s.order := rfl
@[simp] theorem modCluster_deferred (c : Nat) (f : Cluster → Cluster) (s : State) : (modCluster c f s).deferred = s.deferred := rfl
@[simp] theorem modCluster_ciph (c : Nat) (f : Cluster → Cluster) (s : State) : (modCluster c f s).ciph = s.ciph := rfl
@[simp] theorem modCluster_link (c : Nat) (f : Cluster → Cluster) (s : State) : (modCluster c f s).link = s.link := rfl
@[simp] theorem modCluster_rings (c : Nat) (f : Cluster → Cluster) (s : State) : (modCluster c f s).rings = s.rings := rfl
@[simp] theorem modCluster_irq (c : Nat) (f : Cluster → Cluster) (s : State) : (modCluster c f s).irq = s.irq := rfl
@[simp] theorem modCluster_chans (c : Nat) (f : Cluster → Cluster) (s : State) : (modCluster c f s).chans = s.chans := rfl
@[simp] theorem modCluster_power (c : Nat) (f : Cluster → Cluster) (s : State) : (modCluster c f s).power = s.power := rfl
@[simp] theorem modCluster_flt (c : Nat) (f : Cluster → Cluster) (s : State) : (modCluster c f s).flt = s.flt := rfl
@[simp] theorem modCluster_boot (c : Nat) (f : Cluster → Cluster) (s : State) : (modCluster c f s).boot = s.boot := rfl
@[simp] theorem modCluster_pins (c : Nat) (f : Cluster → Cluster) (s : State) : (modCluster c f s).pins = s.pins := rfl
@[simp] theorem modCluster_bus (c : Nat) (f : Cluster → Cluster) (s : State) : (modCluster c f s).bus = s.bus := rfl
@[simp] theorem modCluster_evc (c : Nat) (f : Cluster → Cluster) (s : State) : (modCluster c f s).evc = s.evc := rfl
@[simp] theorem modCluster_devMem (c : Nat) (f : Cluster → Cluster) (s : State) : (modCluster c f s).devMem = s.devMem := rfl
@[simp] theorem modCluster_hostMem (c : Nat) (f : Cluster → Cluster) (s : State) : (modCluster c f s).hostMem = s.hostMem := rfl
@[simp] theorem modCluster_freeCount (c : Nat) (f : Cluster → Cluster) (s : State) : (modCluster c f s).freeCount = s.freeCount := rfl
@[simp] theorem modCluster_pending (c : Nat) (f : Cluster → Cluster) (s : State) : (modCluster c f s).pending = s.pending := rfl

/-! modMbox writes mboxes alone. -/

@[simp] theorem modMbox_ident (m : Nat) (f : Mailbox → Mailbox) (s : State) : (modMbox m f s).ident = s.ident := rfl
@[simp] theorem modMbox_trick (m : Nat) (f : Mailbox → Mailbox) (s : State) : (modMbox m f s).trick = s.trick := rfl
@[simp] theorem modMbox_refs (m : Nat) (f : Mailbox → Mailbox) (s : State) : (modMbox m f s).refs = s.refs := rfl
@[simp] theorem modMbox_lanes (m : Nat) (f : Mailbox → Mailbox) (s : State) : (modMbox m f s).lanes = s.lanes := rfl
@[simp] theorem modMbox_ports (m : Nat) (f : Mailbox → Mailbox) (s : State) : (modMbox m f s).ports = s.ports := rfl
@[simp] theorem modMbox_groups (m : Nat) (f : Mailbox → Mailbox) (s : State) : (modMbox m f s).groups = s.groups := rfl
@[simp] theorem modMbox_tables (m : Nat) (f : Mailbox → Mailbox) (s : State) : (modMbox m f s).tables = s.tables := rfl
@[simp] theorem modMbox_clusters (m : Nat) (f : Mailbox → Mailbox) (s : State) : (modMbox m f s).clusters = s.clusters := rfl
@[simp] theorem modMbox_wins (m : Nat) (f : Mailbox → Mailbox) (s : State) : (modMbox m f s).wins = s.wins := rfl
@[simp] theorem modMbox_uc (m : Nat) (f : Mailbox → Mailbox) (s : State) : (modMbox m f s).uc = s.uc := rfl
@[simp] theorem modMbox_buf (m : Nat) (f : Mailbox → Mailbox) (s : State) : (modMbox m f s).buf = s.buf := rfl
@[simp] theorem modMbox_time (m : Nat) (f : Mailbox → Mailbox) (s : State) : (modMbox m f s).time = s.time := rfl
@[simp] theorem modMbox_telem (m : Nat) (f : Mailbox → Mailbox) (s : State) : (modMbox m f s).telem = s.telem := rfl
@[simp] theorem modMbox_stack (m : Nat) (f : Mailbox → Mailbox) (s : State) : (modMbox m f s).stack = s.stack := rfl
@[simp] theorem modMbox_order (m : Nat) (f : Mailbox → Mailbox) (s : State) : (modMbox m f s).order = s.order := rfl
@[simp] theorem modMbox_deferred (m : Nat) (f : Mailbox → Mailbox) (s : State) : (modMbox m f s).deferred = s.deferred := rfl
@[simp] theorem modMbox_ciph (m : Nat) (f : Mailbox → Mailbox) (s : State) : (modMbox m f s).ciph = s.ciph := rfl
@[simp] theorem modMbox_link (m : Nat) (f : Mailbox → Mailbox) (s : State) : (modMbox m f s).link = s.link := rfl
@[simp] theorem modMbox_rings (m : Nat) (f : Mailbox → Mailbox) (s : State) : (modMbox m f s).rings = s.rings := rfl
@[simp] theorem modMbox_irq (m : Nat) (f : Mailbox → Mailbox) (s : State) : (modMbox m f s).irq = s.irq := rfl
@[simp] theorem modMbox_chans (m : Nat) (f : Mailbox → Mailbox) (s : State) : (modMbox m f s).chans = s.chans := rfl
@[simp] theorem modMbox_power (m : Nat) (f : Mailbox → Mailbox) (s : State) : (modMbox m f s).power = s.power := rfl
@[simp] theorem modMbox_flt (m : Nat) (f : Mailbox → Mailbox) (s : State) : (modMbox m f s).flt = s.flt := rfl
@[simp] theorem modMbox_boot (m : Nat) (f : Mailbox → Mailbox) (s : State) : (modMbox m f s).boot = s.boot := rfl
@[simp] theorem modMbox_pins (m : Nat) (f : Mailbox → Mailbox) (s : State) : (modMbox m f s).pins = s.pins := rfl
@[simp] theorem modMbox_bus (m : Nat) (f : Mailbox → Mailbox) (s : State) : (modMbox m f s).bus = s.bus := rfl
@[simp] theorem modMbox_evc (m : Nat) (f : Mailbox → Mailbox) (s : State) : (modMbox m f s).evc = s.evc := rfl
@[simp] theorem modMbox_devMem (m : Nat) (f : Mailbox → Mailbox) (s : State) : (modMbox m f s).devMem = s.devMem := rfl
@[simp] theorem modMbox_hostMem (m : Nat) (f : Mailbox → Mailbox) (s : State) : (modMbox m f s).hostMem = s.hostMem := rfl
@[simp] theorem modMbox_freeCount (m : Nat) (f : Mailbox → Mailbox) (s : State) : (modMbox m f s).freeCount = s.freeCount := rfl
@[simp] theorem modMbox_pending (m : Nat) (f : Mailbox → Mailbox) (s : State) : (modMbox m f s).pending = s.pending := rfl

/-! devWrite writes devMem alone. -/

@[simp] theorem devWrite_ident (a : Nat) (bs : List Byte) (s : State) : (devWrite a bs s).ident = s.ident := rfl
@[simp] theorem devWrite_trick (a : Nat) (bs : List Byte) (s : State) : (devWrite a bs s).trick = s.trick := rfl
@[simp] theorem devWrite_refs (a : Nat) (bs : List Byte) (s : State) : (devWrite a bs s).refs = s.refs := rfl
@[simp] theorem devWrite_lanes (a : Nat) (bs : List Byte) (s : State) : (devWrite a bs s).lanes = s.lanes := rfl
@[simp] theorem devWrite_ports (a : Nat) (bs : List Byte) (s : State) : (devWrite a bs s).ports = s.ports := rfl
@[simp] theorem devWrite_groups (a : Nat) (bs : List Byte) (s : State) : (devWrite a bs s).groups = s.groups := rfl
@[simp] theorem devWrite_tables (a : Nat) (bs : List Byte) (s : State) : (devWrite a bs s).tables = s.tables := rfl
@[simp] theorem devWrite_clusters (a : Nat) (bs : List Byte) (s : State) : (devWrite a bs s).clusters = s.clusters := rfl
@[simp] theorem devWrite_wins (a : Nat) (bs : List Byte) (s : State) : (devWrite a bs s).wins = s.wins := rfl
@[simp] theorem devWrite_uc (a : Nat) (bs : List Byte) (s : State) : (devWrite a bs s).uc = s.uc := rfl
@[simp] theorem devWrite_buf (a : Nat) (bs : List Byte) (s : State) : (devWrite a bs s).buf = s.buf := rfl
@[simp] theorem devWrite_time (a : Nat) (bs : List Byte) (s : State) : (devWrite a bs s).time = s.time := rfl
@[simp] theorem devWrite_telem (a : Nat) (bs : List Byte) (s : State) : (devWrite a bs s).telem = s.telem := rfl
@[simp] theorem devWrite_stack (a : Nat) (bs : List Byte) (s : State) : (devWrite a bs s).stack = s.stack := rfl
@[simp] theorem devWrite_mboxes (a : Nat) (bs : List Byte) (s : State) : (devWrite a bs s).mboxes = s.mboxes := rfl
@[simp] theorem devWrite_order (a : Nat) (bs : List Byte) (s : State) : (devWrite a bs s).order = s.order := rfl
@[simp] theorem devWrite_deferred (a : Nat) (bs : List Byte) (s : State) : (devWrite a bs s).deferred = s.deferred := rfl
@[simp] theorem devWrite_ciph (a : Nat) (bs : List Byte) (s : State) : (devWrite a bs s).ciph = s.ciph := rfl
@[simp] theorem devWrite_link (a : Nat) (bs : List Byte) (s : State) : (devWrite a bs s).link = s.link := rfl
@[simp] theorem devWrite_rings (a : Nat) (bs : List Byte) (s : State) : (devWrite a bs s).rings = s.rings := rfl
@[simp] theorem devWrite_irq (a : Nat) (bs : List Byte) (s : State) : (devWrite a bs s).irq = s.irq := rfl
@[simp] theorem devWrite_chans (a : Nat) (bs : List Byte) (s : State) : (devWrite a bs s).chans = s.chans := rfl
@[simp] theorem devWrite_power (a : Nat) (bs : List Byte) (s : State) : (devWrite a bs s).power = s.power := rfl
@[simp] theorem devWrite_flt (a : Nat) (bs : List Byte) (s : State) : (devWrite a bs s).flt = s.flt := rfl
@[simp] theorem devWrite_boot (a : Nat) (bs : List Byte) (s : State) : (devWrite a bs s).boot = s.boot := rfl
@[simp] theorem devWrite_pins (a : Nat) (bs : List Byte) (s : State) : (devWrite a bs s).pins = s.pins := rfl
@[simp] theorem devWrite_bus (a : Nat) (bs : List Byte) (s : State) : (devWrite a bs s).bus = s.bus := rfl
@[simp] theorem devWrite_evc (a : Nat) (bs : List Byte) (s : State) : (devWrite a bs s).evc = s.evc := rfl
@[simp] theorem devWrite_hostMem (a : Nat) (bs : List Byte) (s : State) : (devWrite a bs s).hostMem = s.hostMem := rfl
@[simp] theorem devWrite_freeCount (a : Nat) (bs : List Byte) (s : State) : (devWrite a bs s).freeCount = s.freeCount := rfl
@[simp] theorem devWrite_pending (a : Nat) (bs : List Byte) (s : State) : (devWrite a bs s).pending = s.pending := rfl

/-! hostWrite writes hostMem alone. -/

@[simp] theorem hostWrite_ident (a : Nat) (bs : List Byte) (s : State) : (hostWrite a bs s).ident = s.ident := rfl
@[simp] theorem hostWrite_trick (a : Nat) (bs : List Byte) (s : State) : (hostWrite a bs s).trick = s.trick := rfl
@[simp] theorem hostWrite_refs (a : Nat) (bs : List Byte) (s : State) : (hostWrite a bs s).refs = s.refs := rfl
@[simp] theorem hostWrite_lanes (a : Nat) (bs : List Byte) (s : State) : (hostWrite a bs s).lanes = s.lanes := rfl
@[simp] theorem hostWrite_ports (a : Nat) (bs : List Byte) (s : State) : (hostWrite a bs s).ports = s.ports := rfl
@[simp] theorem hostWrite_groups (a : Nat) (bs : List Byte) (s : State) : (hostWrite a bs s).groups = s.groups := rfl
@[simp] theorem hostWrite_tables (a : Nat) (bs : List Byte) (s : State) : (hostWrite a bs s).tables = s.tables := rfl
@[simp] theorem hostWrite_clusters (a : Nat) (bs : List Byte) (s : State) : (hostWrite a bs s).clusters = s.clusters := rfl
@[simp] theorem hostWrite_wins (a : Nat) (bs : List Byte) (s : State) : (hostWrite a bs s).wins = s.wins := rfl
@[simp] theorem hostWrite_uc (a : Nat) (bs : List Byte) (s : State) : (hostWrite a bs s).uc = s.uc := rfl
@[simp] theorem hostWrite_buf (a : Nat) (bs : List Byte) (s : State) : (hostWrite a bs s).buf = s.buf := rfl
@[simp] theorem hostWrite_time (a : Nat) (bs : List Byte) (s : State) : (hostWrite a bs s).time = s.time := rfl
@[simp] theorem hostWrite_telem (a : Nat) (bs : List Byte) (s : State) : (hostWrite a bs s).telem = s.telem := rfl
@[simp] theorem hostWrite_stack (a : Nat) (bs : List Byte) (s : State) : (hostWrite a bs s).stack = s.stack := rfl
@[simp] theorem hostWrite_mboxes (a : Nat) (bs : List Byte) (s : State) : (hostWrite a bs s).mboxes = s.mboxes := rfl
@[simp] theorem hostWrite_order (a : Nat) (bs : List Byte) (s : State) : (hostWrite a bs s).order = s.order := rfl
@[simp] theorem hostWrite_deferred (a : Nat) (bs : List Byte) (s : State) : (hostWrite a bs s).deferred = s.deferred := rfl
@[simp] theorem hostWrite_ciph (a : Nat) (bs : List Byte) (s : State) : (hostWrite a bs s).ciph = s.ciph := rfl
@[simp] theorem hostWrite_link (a : Nat) (bs : List Byte) (s : State) : (hostWrite a bs s).link = s.link := rfl
@[simp] theorem hostWrite_rings (a : Nat) (bs : List Byte) (s : State) : (hostWrite a bs s).rings = s.rings := rfl
@[simp] theorem hostWrite_irq (a : Nat) (bs : List Byte) (s : State) : (hostWrite a bs s).irq = s.irq := rfl
@[simp] theorem hostWrite_chans (a : Nat) (bs : List Byte) (s : State) : (hostWrite a bs s).chans = s.chans := rfl
@[simp] theorem hostWrite_power (a : Nat) (bs : List Byte) (s : State) : (hostWrite a bs s).power = s.power := rfl
@[simp] theorem hostWrite_flt (a : Nat) (bs : List Byte) (s : State) : (hostWrite a bs s).flt = s.flt := rfl
@[simp] theorem hostWrite_boot (a : Nat) (bs : List Byte) (s : State) : (hostWrite a bs s).boot = s.boot := rfl
@[simp] theorem hostWrite_pins (a : Nat) (bs : List Byte) (s : State) : (hostWrite a bs s).pins = s.pins := rfl
@[simp] theorem hostWrite_bus (a : Nat) (bs : List Byte) (s : State) : (hostWrite a bs s).bus = s.bus := rfl
@[simp] theorem hostWrite_evc (a : Nat) (bs : List Byte) (s : State) : (hostWrite a bs s).evc = s.evc := rfl
@[simp] theorem hostWrite_devMem (a : Nat) (bs : List Byte) (s : State) : (hostWrite a bs s).devMem = s.devMem := rfl
@[simp] theorem hostWrite_freeCount (a : Nat) (bs : List Byte) (s : State) : (hostWrite a bs s).freeCount = s.freeCount := rfl
@[simp] theorem hostWrite_pending (a : Nat) (bs : List Byte) (s : State) : (hostWrite a bs s).pending = s.pending := rfl

/-! modPins writes pins alone. -/

@[simp] theorem modPins_ident (f : Pins → Pins) (s : State) : (modPins f s).ident = s.ident := rfl
@[simp] theorem modPins_trick (f : Pins → Pins) (s : State) : (modPins f s).trick = s.trick := rfl
@[simp] theorem modPins_refs (f : Pins → Pins) (s : State) : (modPins f s).refs = s.refs := rfl
@[simp] theorem modPins_lanes (f : Pins → Pins) (s : State) : (modPins f s).lanes = s.lanes := rfl
@[simp] theorem modPins_ports (f : Pins → Pins) (s : State) : (modPins f s).ports = s.ports := rfl
@[simp] theorem modPins_groups (f : Pins → Pins) (s : State) : (modPins f s).groups = s.groups := rfl
@[simp] theorem modPins_tables (f : Pins → Pins) (s : State) : (modPins f s).tables = s.tables := rfl
@[simp] theorem modPins_clusters (f : Pins → Pins) (s : State) : (modPins f s).clusters = s.clusters := rfl
@[simp] theorem modPins_wins (f : Pins → Pins) (s : State) : (modPins f s).wins = s.wins := rfl
@[simp] theorem modPins_uc (f : Pins → Pins) (s : State) : (modPins f s).uc = s.uc := rfl
@[simp] theorem modPins_buf (f : Pins → Pins) (s : State) : (modPins f s).buf = s.buf := rfl
@[simp] theorem modPins_time (f : Pins → Pins) (s : State) : (modPins f s).time = s.time := rfl
@[simp] theorem modPins_telem (f : Pins → Pins) (s : State) : (modPins f s).telem = s.telem := rfl
@[simp] theorem modPins_stack (f : Pins → Pins) (s : State) : (modPins f s).stack = s.stack := rfl
@[simp] theorem modPins_mboxes (f : Pins → Pins) (s : State) : (modPins f s).mboxes = s.mboxes := rfl
@[simp] theorem modPins_order (f : Pins → Pins) (s : State) : (modPins f s).order = s.order := rfl
@[simp] theorem modPins_deferred (f : Pins → Pins) (s : State) : (modPins f s).deferred = s.deferred := rfl
@[simp] theorem modPins_ciph (f : Pins → Pins) (s : State) : (modPins f s).ciph = s.ciph := rfl
@[simp] theorem modPins_link (f : Pins → Pins) (s : State) : (modPins f s).link = s.link := rfl
@[simp] theorem modPins_rings (f : Pins → Pins) (s : State) : (modPins f s).rings = s.rings := rfl
@[simp] theorem modPins_irq (f : Pins → Pins) (s : State) : (modPins f s).irq = s.irq := rfl
@[simp] theorem modPins_chans (f : Pins → Pins) (s : State) : (modPins f s).chans = s.chans := rfl
@[simp] theorem modPins_power (f : Pins → Pins) (s : State) : (modPins f s).power = s.power := rfl
@[simp] theorem modPins_flt (f : Pins → Pins) (s : State) : (modPins f s).flt = s.flt := rfl
@[simp] theorem modPins_boot (f : Pins → Pins) (s : State) : (modPins f s).boot = s.boot := rfl
@[simp] theorem modPins_bus (f : Pins → Pins) (s : State) : (modPins f s).bus = s.bus := rfl
@[simp] theorem modPins_evc (f : Pins → Pins) (s : State) : (modPins f s).evc = s.evc := rfl
@[simp] theorem modPins_devMem (f : Pins → Pins) (s : State) : (modPins f s).devMem = s.devMem := rfl
@[simp] theorem modPins_hostMem (f : Pins → Pins) (s : State) : (modPins f s).hostMem = s.hostMem := rfl
@[simp] theorem modPins_freeCount (f : Pins → Pins) (s : State) : (modPins f s).freeCount = s.freeCount := rfl
@[simp] theorem modPins_pending (f : Pins → Pins) (s : State) : (modPins f s).pending = s.pending := rfl

/-! modPower writes power alone. -/

@[simp] theorem modPower_ident (f : Power → Power) (s : State) : (modPower f s).ident = s.ident := rfl
@[simp] theorem modPower_trick (f : Power → Power) (s : State) : (modPower f s).trick = s.trick := rfl
@[simp] theorem modPower_refs (f : Power → Power) (s : State) : (modPower f s).refs = s.refs := rfl
@[simp] theorem modPower_lanes (f : Power → Power) (s : State) : (modPower f s).lanes = s.lanes := rfl
@[simp] theorem modPower_ports (f : Power → Power) (s : State) : (modPower f s).ports = s.ports := rfl
@[simp] theorem modPower_groups (f : Power → Power) (s : State) : (modPower f s).groups = s.groups := rfl
@[simp] theorem modPower_tables (f : Power → Power) (s : State) : (modPower f s).tables = s.tables := rfl
@[simp] theorem modPower_clusters (f : Power → Power) (s : State) : (modPower f s).clusters = s.clusters := rfl
@[simp] theorem modPower_wins (f : Power → Power) (s : State) : (modPower f s).wins = s.wins := rfl
@[simp] theorem modPower_uc (f : Power → Power) (s : State) : (modPower f s).uc = s.uc := rfl
@[simp] theorem modPower_buf (f : Power → Power) (s : State) : (modPower f s).buf = s.buf := rfl
@[simp] theorem modPower_time (f : Power → Power) (s : State) : (modPower f s).time = s.time := rfl
@[simp] theorem modPower_telem (f : Power → Power) (s : State) : (modPower f s).telem = s.telem := rfl
@[simp] theorem modPower_stack (f : Power → Power) (s : State) : (modPower f s).stack = s.stack := rfl
@[simp] theorem modPower_mboxes (f : Power → Power) (s : State) : (modPower f s).mboxes = s.mboxes := rfl
@[simp] theorem modPower_order (f : Power → Power) (s : State) : (modPower f s).order = s.order := rfl
@[simp] theorem modPower_deferred (f : Power → Power) (s : State) : (modPower f s).deferred = s.deferred := rfl
@[simp] theorem modPower_ciph (f : Power → Power) (s : State) : (modPower f s).ciph = s.ciph := rfl
@[simp] theorem modPower_link (f : Power → Power) (s : State) : (modPower f s).link = s.link := rfl
@[simp] theorem modPower_rings (f : Power → Power) (s : State) : (modPower f s).rings = s.rings := rfl
@[simp] theorem modPower_irq (f : Power → Power) (s : State) : (modPower f s).irq = s.irq := rfl
@[simp] theorem modPower_chans (f : Power → Power) (s : State) : (modPower f s).chans = s.chans := rfl
@[simp] theorem modPower_flt (f : Power → Power) (s : State) : (modPower f s).flt = s.flt := rfl
@[simp] theorem modPower_boot (f : Power → Power) (s : State) : (modPower f s).boot = s.boot := rfl
@[simp] theorem modPower_pins (f : Power → Power) (s : State) : (modPower f s).pins = s.pins := rfl
@[simp] theorem modPower_bus (f : Power → Power) (s : State) : (modPower f s).bus = s.bus := rfl
@[simp] theorem modPower_evc (f : Power → Power) (s : State) : (modPower f s).evc = s.evc := rfl
@[simp] theorem modPower_devMem (f : Power → Power) (s : State) : (modPower f s).devMem = s.devMem := rfl
@[simp] theorem modPower_hostMem (f : Power → Power) (s : State) : (modPower f s).hostMem = s.hostMem := rfl
@[simp] theorem modPower_freeCount (f : Power → Power) (s : State) : (modPower f s).freeCount = s.freeCount := rfl
@[simp] theorem modPower_pending (f : Power → Power) (s : State) : (modPower f s).pending = s.pending := rfl

/-! modMeta writes buf alone. -/

@[simp] theorem modMeta_ident (m : Nat) (f : Meta → Meta) (s : State) : (modMeta m f s).ident = s.ident := rfl
@[simp] theorem modMeta_trick (m : Nat) (f : Meta → Meta) (s : State) : (modMeta m f s).trick = s.trick := rfl
@[simp] theorem modMeta_refs (m : Nat) (f : Meta → Meta) (s : State) : (modMeta m f s).refs = s.refs := rfl
@[simp] theorem modMeta_lanes (m : Nat) (f : Meta → Meta) (s : State) : (modMeta m f s).lanes = s.lanes := rfl
@[simp] theorem modMeta_ports (m : Nat) (f : Meta → Meta) (s : State) : (modMeta m f s).ports = s.ports := rfl
@[simp] theorem modMeta_groups (m : Nat) (f : Meta → Meta) (s : State) : (modMeta m f s).groups = s.groups := rfl
@[simp] theorem modMeta_tables (m : Nat) (f : Meta → Meta) (s : State) : (modMeta m f s).tables = s.tables := rfl
@[simp] theorem modMeta_clusters (m : Nat) (f : Meta → Meta) (s : State) : (modMeta m f s).clusters = s.clusters := rfl
@[simp] theorem modMeta_wins (m : Nat) (f : Meta → Meta) (s : State) : (modMeta m f s).wins = s.wins := rfl
@[simp] theorem modMeta_uc (m : Nat) (f : Meta → Meta) (s : State) : (modMeta m f s).uc = s.uc := rfl
@[simp] theorem modMeta_time (m : Nat) (f : Meta → Meta) (s : State) : (modMeta m f s).time = s.time := rfl
@[simp] theorem modMeta_telem (m : Nat) (f : Meta → Meta) (s : State) : (modMeta m f s).telem = s.telem := rfl
@[simp] theorem modMeta_stack (m : Nat) (f : Meta → Meta) (s : State) : (modMeta m f s).stack = s.stack := rfl
@[simp] theorem modMeta_mboxes (m : Nat) (f : Meta → Meta) (s : State) : (modMeta m f s).mboxes = s.mboxes := rfl
@[simp] theorem modMeta_order (m : Nat) (f : Meta → Meta) (s : State) : (modMeta m f s).order = s.order := rfl
@[simp] theorem modMeta_deferred (m : Nat) (f : Meta → Meta) (s : State) : (modMeta m f s).deferred = s.deferred := rfl
@[simp] theorem modMeta_ciph (m : Nat) (f : Meta → Meta) (s : State) : (modMeta m f s).ciph = s.ciph := rfl
@[simp] theorem modMeta_link (m : Nat) (f : Meta → Meta) (s : State) : (modMeta m f s).link = s.link := rfl
@[simp] theorem modMeta_rings (m : Nat) (f : Meta → Meta) (s : State) : (modMeta m f s).rings = s.rings := rfl
@[simp] theorem modMeta_irq (m : Nat) (f : Meta → Meta) (s : State) : (modMeta m f s).irq = s.irq := rfl
@[simp] theorem modMeta_chans (m : Nat) (f : Meta → Meta) (s : State) : (modMeta m f s).chans = s.chans := rfl
@[simp] theorem modMeta_power (m : Nat) (f : Meta → Meta) (s : State) : (modMeta m f s).power = s.power := rfl
@[simp] theorem modMeta_flt (m : Nat) (f : Meta → Meta) (s : State) : (modMeta m f s).flt = s.flt := rfl
@[simp] theorem modMeta_boot (m : Nat) (f : Meta → Meta) (s : State) : (modMeta m f s).boot = s.boot := rfl
@[simp] theorem modMeta_pins (m : Nat) (f : Meta → Meta) (s : State) : (modMeta m f s).pins = s.pins := rfl
@[simp] theorem modMeta_bus (m : Nat) (f : Meta → Meta) (s : State) : (modMeta m f s).bus = s.bus := rfl
@[simp] theorem modMeta_evc (m : Nat) (f : Meta → Meta) (s : State) : (modMeta m f s).evc = s.evc := rfl
@[simp] theorem modMeta_devMem (m : Nat) (f : Meta → Meta) (s : State) : (modMeta m f s).devMem = s.devMem := rfl
@[simp] theorem modMeta_hostMem (m : Nat) (f : Meta → Meta) (s : State) : (modMeta m f s).hostMem = s.hostMem := rfl
@[simp] theorem modMeta_freeCount (m : Nat) (f : Meta → Meta) (s : State) : (modMeta m f s).freeCount = s.freeCount := rfl
@[simp] theorem modMeta_pending (m : Nat) (f : Meta → Meta) (s : State) : (modMeta m f s).pending = s.pending := rfl

/-! modRing writes rings alone. -/

@[simp] theorem modRing_ident (r : Nat) (f : Ring → Ring) (s : State) : (modRing r f s).ident = s.ident := rfl
@[simp] theorem modRing_trick (r : Nat) (f : Ring → Ring) (s : State) : (modRing r f s).trick = s.trick := rfl
@[simp] theorem modRing_refs (r : Nat) (f : Ring → Ring) (s : State) : (modRing r f s).refs = s.refs := rfl
@[simp] theorem modRing_lanes (r : Nat) (f : Ring → Ring) (s : State) : (modRing r f s).lanes = s.lanes := rfl
@[simp] theorem modRing_ports (r : Nat) (f : Ring → Ring) (s : State) : (modRing r f s).ports = s.ports := rfl
@[simp] theorem modRing_groups (r : Nat) (f : Ring → Ring) (s : State) : (modRing r f s).groups = s.groups := rfl
@[simp] theorem modRing_tables (r : Nat) (f : Ring → Ring) (s : State) : (modRing r f s).tables = s.tables := rfl
@[simp] theorem modRing_clusters (r : Nat) (f : Ring → Ring) (s : State) : (modRing r f s).clusters = s.clusters := rfl
@[simp] theorem modRing_wins (r : Nat) (f : Ring → Ring) (s : State) : (modRing r f s).wins = s.wins := rfl
@[simp] theorem modRing_uc (r : Nat) (f : Ring → Ring) (s : State) : (modRing r f s).uc = s.uc := rfl
@[simp] theorem modRing_buf (r : Nat) (f : Ring → Ring) (s : State) : (modRing r f s).buf = s.buf := rfl
@[simp] theorem modRing_time (r : Nat) (f : Ring → Ring) (s : State) : (modRing r f s).time = s.time := rfl
@[simp] theorem modRing_telem (r : Nat) (f : Ring → Ring) (s : State) : (modRing r f s).telem = s.telem := rfl
@[simp] theorem modRing_stack (r : Nat) (f : Ring → Ring) (s : State) : (modRing r f s).stack = s.stack := rfl
@[simp] theorem modRing_mboxes (r : Nat) (f : Ring → Ring) (s : State) : (modRing r f s).mboxes = s.mboxes := rfl
@[simp] theorem modRing_order (r : Nat) (f : Ring → Ring) (s : State) : (modRing r f s).order = s.order := rfl
@[simp] theorem modRing_deferred (r : Nat) (f : Ring → Ring) (s : State) : (modRing r f s).deferred = s.deferred := rfl
@[simp] theorem modRing_ciph (r : Nat) (f : Ring → Ring) (s : State) : (modRing r f s).ciph = s.ciph := rfl
@[simp] theorem modRing_link (r : Nat) (f : Ring → Ring) (s : State) : (modRing r f s).link = s.link := rfl
@[simp] theorem modRing_irq (r : Nat) (f : Ring → Ring) (s : State) : (modRing r f s).irq = s.irq := rfl
@[simp] theorem modRing_chans (r : Nat) (f : Ring → Ring) (s : State) : (modRing r f s).chans = s.chans := rfl
@[simp] theorem modRing_power (r : Nat) (f : Ring → Ring) (s : State) : (modRing r f s).power = s.power := rfl
@[simp] theorem modRing_flt (r : Nat) (f : Ring → Ring) (s : State) : (modRing r f s).flt = s.flt := rfl
@[simp] theorem modRing_boot (r : Nat) (f : Ring → Ring) (s : State) : (modRing r f s).boot = s.boot := rfl
@[simp] theorem modRing_pins (r : Nat) (f : Ring → Ring) (s : State) : (modRing r f s).pins = s.pins := rfl
@[simp] theorem modRing_bus (r : Nat) (f : Ring → Ring) (s : State) : (modRing r f s).bus = s.bus := rfl
@[simp] theorem modRing_evc (r : Nat) (f : Ring → Ring) (s : State) : (modRing r f s).evc = s.evc := rfl
@[simp] theorem modRing_devMem (r : Nat) (f : Ring → Ring) (s : State) : (modRing r f s).devMem = s.devMem := rfl
@[simp] theorem modRing_hostMem (r : Nat) (f : Ring → Ring) (s : State) : (modRing r f s).hostMem = s.hostMem := rfl
@[simp] theorem modRing_freeCount (r : Nat) (f : Ring → Ring) (s : State) : (modRing r f s).freeCount = s.freeCount := rfl
@[simp] theorem modRing_pending (r : Nat) (f : Ring → Ring) (s : State) : (modRing r f s).pending = s.pending := rfl

/-! modStack writes stack alone. -/

@[simp] theorem modStack_ident (f : Stack → Stack) (s : State) : (modStack f s).ident = s.ident := rfl
@[simp] theorem modStack_trick (f : Stack → Stack) (s : State) : (modStack f s).trick = s.trick := rfl
@[simp] theorem modStack_refs (f : Stack → Stack) (s : State) : (modStack f s).refs = s.refs := rfl
@[simp] theorem modStack_lanes (f : Stack → Stack) (s : State) : (modStack f s).lanes = s.lanes := rfl
@[simp] theorem modStack_ports (f : Stack → Stack) (s : State) : (modStack f s).ports = s.ports := rfl
@[simp] theorem modStack_groups (f : Stack → Stack) (s : State) : (modStack f s).groups = s.groups := rfl
@[simp] theorem modStack_tables (f : Stack → Stack) (s : State) : (modStack f s).tables = s.tables := rfl
@[simp] theorem modStack_clusters (f : Stack → Stack) (s : State) : (modStack f s).clusters = s.clusters := rfl
@[simp] theorem modStack_wins (f : Stack → Stack) (s : State) : (modStack f s).wins = s.wins := rfl
@[simp] theorem modStack_uc (f : Stack → Stack) (s : State) : (modStack f s).uc = s.uc := rfl
@[simp] theorem modStack_buf (f : Stack → Stack) (s : State) : (modStack f s).buf = s.buf := rfl
@[simp] theorem modStack_time (f : Stack → Stack) (s : State) : (modStack f s).time = s.time := rfl
@[simp] theorem modStack_telem (f : Stack → Stack) (s : State) : (modStack f s).telem = s.telem := rfl
@[simp] theorem modStack_mboxes (f : Stack → Stack) (s : State) : (modStack f s).mboxes = s.mboxes := rfl
@[simp] theorem modStack_order (f : Stack → Stack) (s : State) : (modStack f s).order = s.order := rfl
@[simp] theorem modStack_deferred (f : Stack → Stack) (s : State) : (modStack f s).deferred = s.deferred := rfl
@[simp] theorem modStack_ciph (f : Stack → Stack) (s : State) : (modStack f s).ciph = s.ciph := rfl
@[simp] theorem modStack_link (f : Stack → Stack) (s : State) : (modStack f s).link = s.link := rfl
@[simp] theorem modStack_rings (f : Stack → Stack) (s : State) : (modStack f s).rings = s.rings := rfl
@[simp] theorem modStack_irq (f : Stack → Stack) (s : State) : (modStack f s).irq = s.irq := rfl
@[simp] theorem modStack_chans (f : Stack → Stack) (s : State) : (modStack f s).chans = s.chans := rfl
@[simp] theorem modStack_power (f : Stack → Stack) (s : State) : (modStack f s).power = s.power := rfl
@[simp] theorem modStack_flt (f : Stack → Stack) (s : State) : (modStack f s).flt = s.flt := rfl
@[simp] theorem modStack_boot (f : Stack → Stack) (s : State) : (modStack f s).boot = s.boot := rfl
@[simp] theorem modStack_pins (f : Stack → Stack) (s : State) : (modStack f s).pins = s.pins := rfl
@[simp] theorem modStack_bus (f : Stack → Stack) (s : State) : (modStack f s).bus = s.bus := rfl
@[simp] theorem modStack_evc (f : Stack → Stack) (s : State) : (modStack f s).evc = s.evc := rfl
@[simp] theorem modStack_devMem (f : Stack → Stack) (s : State) : (modStack f s).devMem = s.devMem := rfl
@[simp] theorem modStack_hostMem (f : Stack → Stack) (s : State) : (modStack f s).hostMem = s.hostMem := rfl
@[simp] theorem modStack_freeCount (f : Stack → Stack) (s : State) : (modStack f s).freeCount = s.freeCount := rfl
@[simp] theorem modStack_pending (f : Stack → Stack) (s : State) : (modStack f s).pending = s.pending := rfl

/-! modTelem writes telem alone. -/

@[simp] theorem modTelem_ident (f : Telem → Telem) (s : State) : (modTelem f s).ident = s.ident := rfl
@[simp] theorem modTelem_trick (f : Telem → Telem) (s : State) : (modTelem f s).trick = s.trick := rfl
@[simp] theorem modTelem_refs (f : Telem → Telem) (s : State) : (modTelem f s).refs = s.refs := rfl
@[simp] theorem modTelem_lanes (f : Telem → Telem) (s : State) : (modTelem f s).lanes = s.lanes := rfl
@[simp] theorem modTelem_ports (f : Telem → Telem) (s : State) : (modTelem f s).ports = s.ports := rfl
@[simp] theorem modTelem_groups (f : Telem → Telem) (s : State) : (modTelem f s).groups = s.groups := rfl
@[simp] theorem modTelem_tables (f : Telem → Telem) (s : State) : (modTelem f s).tables = s.tables := rfl
@[simp] theorem modTelem_clusters (f : Telem → Telem) (s : State) : (modTelem f s).clusters = s.clusters := rfl
@[simp] theorem modTelem_wins (f : Telem → Telem) (s : State) : (modTelem f s).wins = s.wins := rfl
@[simp] theorem modTelem_uc (f : Telem → Telem) (s : State) : (modTelem f s).uc = s.uc := rfl
@[simp] theorem modTelem_buf (f : Telem → Telem) (s : State) : (modTelem f s).buf = s.buf := rfl
@[simp] theorem modTelem_time (f : Telem → Telem) (s : State) : (modTelem f s).time = s.time := rfl
@[simp] theorem modTelem_stack (f : Telem → Telem) (s : State) : (modTelem f s).stack = s.stack := rfl
@[simp] theorem modTelem_mboxes (f : Telem → Telem) (s : State) : (modTelem f s).mboxes = s.mboxes := rfl
@[simp] theorem modTelem_order (f : Telem → Telem) (s : State) : (modTelem f s).order = s.order := rfl
@[simp] theorem modTelem_deferred (f : Telem → Telem) (s : State) : (modTelem f s).deferred = s.deferred := rfl
@[simp] theorem modTelem_ciph (f : Telem → Telem) (s : State) : (modTelem f s).ciph = s.ciph := rfl
@[simp] theorem modTelem_link (f : Telem → Telem) (s : State) : (modTelem f s).link = s.link := rfl
@[simp] theorem modTelem_rings (f : Telem → Telem) (s : State) : (modTelem f s).rings = s.rings := rfl
@[simp] theorem modTelem_irq (f : Telem → Telem) (s : State) : (modTelem f s).irq = s.irq := rfl
@[simp] theorem modTelem_chans (f : Telem → Telem) (s : State) : (modTelem f s).chans = s.chans := rfl
@[simp] theorem modTelem_power (f : Telem → Telem) (s : State) : (modTelem f s).power = s.power := rfl
@[simp] theorem modTelem_flt (f : Telem → Telem) (s : State) : (modTelem f s).flt = s.flt := rfl
@[simp] theorem modTelem_boot (f : Telem → Telem) (s : State) : (modTelem f s).boot = s.boot := rfl
@[simp] theorem modTelem_pins (f : Telem → Telem) (s : State) : (modTelem f s).pins = s.pins := rfl
@[simp] theorem modTelem_bus (f : Telem → Telem) (s : State) : (modTelem f s).bus = s.bus := rfl
@[simp] theorem modTelem_evc (f : Telem → Telem) (s : State) : (modTelem f s).evc = s.evc := rfl
@[simp] theorem modTelem_devMem (f : Telem → Telem) (s : State) : (modTelem f s).devMem = s.devMem := rfl
@[simp] theorem modTelem_hostMem (f : Telem → Telem) (s : State) : (modTelem f s).hostMem = s.hostMem := rfl
@[simp] theorem modTelem_freeCount (f : Telem → Telem) (s : State) : (modTelem f s).freeCount = s.freeCount := rfl
@[simp] theorem modTelem_pending (f : Telem → Telem) (s : State) : (modTelem f s).pending = s.pending := rfl

/-! modDom writes time alone. -/

@[simp] theorem modDom_ident (x : Nat) (f : Domain → Domain) (s : State) : (modDom x f s).ident = s.ident := rfl
@[simp] theorem modDom_trick (x : Nat) (f : Domain → Domain) (s : State) : (modDom x f s).trick = s.trick := rfl
@[simp] theorem modDom_refs (x : Nat) (f : Domain → Domain) (s : State) : (modDom x f s).refs = s.refs := rfl
@[simp] theorem modDom_lanes (x : Nat) (f : Domain → Domain) (s : State) : (modDom x f s).lanes = s.lanes := rfl
@[simp] theorem modDom_ports (x : Nat) (f : Domain → Domain) (s : State) : (modDom x f s).ports = s.ports := rfl
@[simp] theorem modDom_groups (x : Nat) (f : Domain → Domain) (s : State) : (modDom x f s).groups = s.groups := rfl
@[simp] theorem modDom_tables (x : Nat) (f : Domain → Domain) (s : State) : (modDom x f s).tables = s.tables := rfl
@[simp] theorem modDom_clusters (x : Nat) (f : Domain → Domain) (s : State) : (modDom x f s).clusters = s.clusters := rfl
@[simp] theorem modDom_wins (x : Nat) (f : Domain → Domain) (s : State) : (modDom x f s).wins = s.wins := rfl
@[simp] theorem modDom_uc (x : Nat) (f : Domain → Domain) (s : State) : (modDom x f s).uc = s.uc := rfl
@[simp] theorem modDom_buf (x : Nat) (f : Domain → Domain) (s : State) : (modDom x f s).buf = s.buf := rfl
@[simp] theorem modDom_telem (x : Nat) (f : Domain → Domain) (s : State) : (modDom x f s).telem = s.telem := rfl
@[simp] theorem modDom_stack (x : Nat) (f : Domain → Domain) (s : State) : (modDom x f s).stack = s.stack := rfl
@[simp] theorem modDom_mboxes (x : Nat) (f : Domain → Domain) (s : State) : (modDom x f s).mboxes = s.mboxes := rfl
@[simp] theorem modDom_order (x : Nat) (f : Domain → Domain) (s : State) : (modDom x f s).order = s.order := rfl
@[simp] theorem modDom_deferred (x : Nat) (f : Domain → Domain) (s : State) : (modDom x f s).deferred = s.deferred := rfl
@[simp] theorem modDom_ciph (x : Nat) (f : Domain → Domain) (s : State) : (modDom x f s).ciph = s.ciph := rfl
@[simp] theorem modDom_link (x : Nat) (f : Domain → Domain) (s : State) : (modDom x f s).link = s.link := rfl
@[simp] theorem modDom_rings (x : Nat) (f : Domain → Domain) (s : State) : (modDom x f s).rings = s.rings := rfl
@[simp] theorem modDom_irq (x : Nat) (f : Domain → Domain) (s : State) : (modDom x f s).irq = s.irq := rfl
@[simp] theorem modDom_chans (x : Nat) (f : Domain → Domain) (s : State) : (modDom x f s).chans = s.chans := rfl
@[simp] theorem modDom_power (x : Nat) (f : Domain → Domain) (s : State) : (modDom x f s).power = s.power := rfl
@[simp] theorem modDom_flt (x : Nat) (f : Domain → Domain) (s : State) : (modDom x f s).flt = s.flt := rfl
@[simp] theorem modDom_boot (x : Nat) (f : Domain → Domain) (s : State) : (modDom x f s).boot = s.boot := rfl
@[simp] theorem modDom_pins (x : Nat) (f : Domain → Domain) (s : State) : (modDom x f s).pins = s.pins := rfl
@[simp] theorem modDom_bus (x : Nat) (f : Domain → Domain) (s : State) : (modDom x f s).bus = s.bus := rfl
@[simp] theorem modDom_evc (x : Nat) (f : Domain → Domain) (s : State) : (modDom x f s).evc = s.evc := rfl
@[simp] theorem modDom_devMem (x : Nat) (f : Domain → Domain) (s : State) : (modDom x f s).devMem = s.devMem := rfl
@[simp] theorem modDom_hostMem (x : Nat) (f : Domain → Domain) (s : State) : (modDom x f s).hostMem = s.hostMem := rfl
@[simp] theorem modDom_freeCount (x : Nat) (f : Domain → Domain) (s : State) : (modDom x f s).freeCount = s.freeCount := rfl
@[simp] theorem modDom_pending (x : Nat) (f : Domain → Domain) (s : State) : (modDom x f s).pending = s.pending := rfl

/-! modTime writes time alone. -/

@[simp] theorem modTime_ident (f : TimeUnit → TimeUnit) (s : State) : (modTime f s).ident = s.ident := rfl
@[simp] theorem modTime_trick (f : TimeUnit → TimeUnit) (s : State) : (modTime f s).trick = s.trick := rfl
@[simp] theorem modTime_refs (f : TimeUnit → TimeUnit) (s : State) : (modTime f s).refs = s.refs := rfl
@[simp] theorem modTime_lanes (f : TimeUnit → TimeUnit) (s : State) : (modTime f s).lanes = s.lanes := rfl
@[simp] theorem modTime_ports (f : TimeUnit → TimeUnit) (s : State) : (modTime f s).ports = s.ports := rfl
@[simp] theorem modTime_groups (f : TimeUnit → TimeUnit) (s : State) : (modTime f s).groups = s.groups := rfl
@[simp] theorem modTime_tables (f : TimeUnit → TimeUnit) (s : State) : (modTime f s).tables = s.tables := rfl
@[simp] theorem modTime_clusters (f : TimeUnit → TimeUnit) (s : State) : (modTime f s).clusters = s.clusters := rfl
@[simp] theorem modTime_wins (f : TimeUnit → TimeUnit) (s : State) : (modTime f s).wins = s.wins := rfl
@[simp] theorem modTime_uc (f : TimeUnit → TimeUnit) (s : State) : (modTime f s).uc = s.uc := rfl
@[simp] theorem modTime_buf (f : TimeUnit → TimeUnit) (s : State) : (modTime f s).buf = s.buf := rfl
@[simp] theorem modTime_telem (f : TimeUnit → TimeUnit) (s : State) : (modTime f s).telem = s.telem := rfl
@[simp] theorem modTime_stack (f : TimeUnit → TimeUnit) (s : State) : (modTime f s).stack = s.stack := rfl
@[simp] theorem modTime_mboxes (f : TimeUnit → TimeUnit) (s : State) : (modTime f s).mboxes = s.mboxes := rfl
@[simp] theorem modTime_order (f : TimeUnit → TimeUnit) (s : State) : (modTime f s).order = s.order := rfl
@[simp] theorem modTime_deferred (f : TimeUnit → TimeUnit) (s : State) : (modTime f s).deferred = s.deferred := rfl
@[simp] theorem modTime_ciph (f : TimeUnit → TimeUnit) (s : State) : (modTime f s).ciph = s.ciph := rfl
@[simp] theorem modTime_link (f : TimeUnit → TimeUnit) (s : State) : (modTime f s).link = s.link := rfl
@[simp] theorem modTime_rings (f : TimeUnit → TimeUnit) (s : State) : (modTime f s).rings = s.rings := rfl
@[simp] theorem modTime_irq (f : TimeUnit → TimeUnit) (s : State) : (modTime f s).irq = s.irq := rfl
@[simp] theorem modTime_chans (f : TimeUnit → TimeUnit) (s : State) : (modTime f s).chans = s.chans := rfl
@[simp] theorem modTime_power (f : TimeUnit → TimeUnit) (s : State) : (modTime f s).power = s.power := rfl
@[simp] theorem modTime_flt (f : TimeUnit → TimeUnit) (s : State) : (modTime f s).flt = s.flt := rfl
@[simp] theorem modTime_boot (f : TimeUnit → TimeUnit) (s : State) : (modTime f s).boot = s.boot := rfl
@[simp] theorem modTime_pins (f : TimeUnit → TimeUnit) (s : State) : (modTime f s).pins = s.pins := rfl
@[simp] theorem modTime_bus (f : TimeUnit → TimeUnit) (s : State) : (modTime f s).bus = s.bus := rfl
@[simp] theorem modTime_evc (f : TimeUnit → TimeUnit) (s : State) : (modTime f s).evc = s.evc := rfl
@[simp] theorem modTime_devMem (f : TimeUnit → TimeUnit) (s : State) : (modTime f s).devMem = s.devMem := rfl
@[simp] theorem modTime_hostMem (f : TimeUnit → TimeUnit) (s : State) : (modTime f s).hostMem = s.hostMem := rfl
@[simp] theorem modTime_freeCount (f : TimeUnit → TimeUnit) (s : State) : (modTime f s).freeCount = s.freeCount := rfl
@[simp] theorem modTime_pending (f : TimeUnit → TimeUnit) (s : State) : (modTime f s).pending = s.pending := rfl

/-! modPin writes time alone. -/

@[simp] theorem modPin_ident (n : Nat) (f : Pin → Pin) (s : State) : (modPin n f s).ident = s.ident := rfl
@[simp] theorem modPin_trick (n : Nat) (f : Pin → Pin) (s : State) : (modPin n f s).trick = s.trick := rfl
@[simp] theorem modPin_refs (n : Nat) (f : Pin → Pin) (s : State) : (modPin n f s).refs = s.refs := rfl
@[simp] theorem modPin_lanes (n : Nat) (f : Pin → Pin) (s : State) : (modPin n f s).lanes = s.lanes := rfl
@[simp] theorem modPin_ports (n : Nat) (f : Pin → Pin) (s : State) : (modPin n f s).ports = s.ports := rfl
@[simp] theorem modPin_groups (n : Nat) (f : Pin → Pin) (s : State) : (modPin n f s).groups = s.groups := rfl
@[simp] theorem modPin_tables (n : Nat) (f : Pin → Pin) (s : State) : (modPin n f s).tables = s.tables := rfl
@[simp] theorem modPin_clusters (n : Nat) (f : Pin → Pin) (s : State) : (modPin n f s).clusters = s.clusters := rfl
@[simp] theorem modPin_wins (n : Nat) (f : Pin → Pin) (s : State) : (modPin n f s).wins = s.wins := rfl
@[simp] theorem modPin_uc (n : Nat) (f : Pin → Pin) (s : State) : (modPin n f s).uc = s.uc := rfl
@[simp] theorem modPin_buf (n : Nat) (f : Pin → Pin) (s : State) : (modPin n f s).buf = s.buf := rfl
@[simp] theorem modPin_telem (n : Nat) (f : Pin → Pin) (s : State) : (modPin n f s).telem = s.telem := rfl
@[simp] theorem modPin_stack (n : Nat) (f : Pin → Pin) (s : State) : (modPin n f s).stack = s.stack := rfl
@[simp] theorem modPin_mboxes (n : Nat) (f : Pin → Pin) (s : State) : (modPin n f s).mboxes = s.mboxes := rfl
@[simp] theorem modPin_order (n : Nat) (f : Pin → Pin) (s : State) : (modPin n f s).order = s.order := rfl
@[simp] theorem modPin_deferred (n : Nat) (f : Pin → Pin) (s : State) : (modPin n f s).deferred = s.deferred := rfl
@[simp] theorem modPin_ciph (n : Nat) (f : Pin → Pin) (s : State) : (modPin n f s).ciph = s.ciph := rfl
@[simp] theorem modPin_link (n : Nat) (f : Pin → Pin) (s : State) : (modPin n f s).link = s.link := rfl
@[simp] theorem modPin_rings (n : Nat) (f : Pin → Pin) (s : State) : (modPin n f s).rings = s.rings := rfl
@[simp] theorem modPin_irq (n : Nat) (f : Pin → Pin) (s : State) : (modPin n f s).irq = s.irq := rfl
@[simp] theorem modPin_chans (n : Nat) (f : Pin → Pin) (s : State) : (modPin n f s).chans = s.chans := rfl
@[simp] theorem modPin_power (n : Nat) (f : Pin → Pin) (s : State) : (modPin n f s).power = s.power := rfl
@[simp] theorem modPin_flt (n : Nat) (f : Pin → Pin) (s : State) : (modPin n f s).flt = s.flt := rfl
@[simp] theorem modPin_boot (n : Nat) (f : Pin → Pin) (s : State) : (modPin n f s).boot = s.boot := rfl
@[simp] theorem modPin_pins (n : Nat) (f : Pin → Pin) (s : State) : (modPin n f s).pins = s.pins := rfl
@[simp] theorem modPin_bus (n : Nat) (f : Pin → Pin) (s : State) : (modPin n f s).bus = s.bus := rfl
@[simp] theorem modPin_evc (n : Nat) (f : Pin → Pin) (s : State) : (modPin n f s).evc = s.evc := rfl
@[simp] theorem modPin_devMem (n : Nat) (f : Pin → Pin) (s : State) : (modPin n f s).devMem = s.devMem := rfl
@[simp] theorem modPin_hostMem (n : Nat) (f : Pin → Pin) (s : State) : (modPin n f s).hostMem = s.hostMem := rfl
@[simp] theorem modPin_freeCount (n : Nat) (f : Pin → Pin) (s : State) : (modPin n f s).freeCount = s.freeCount := rfl
@[simp] theorem modPin_pending (n : Nat) (f : Pin → Pin) (s : State) : (modPin n f s).pending = s.pending := rfl

/-! modDomP writes power alone. -/

@[simp] theorem modDomP_ident (d : Nat) (f : PDom → PDom) (s : State) : (modDomP d f s).ident = s.ident := rfl
@[simp] theorem modDomP_trick (d : Nat) (f : PDom → PDom) (s : State) : (modDomP d f s).trick = s.trick := rfl
@[simp] theorem modDomP_refs (d : Nat) (f : PDom → PDom) (s : State) : (modDomP d f s).refs = s.refs := rfl
@[simp] theorem modDomP_lanes (d : Nat) (f : PDom → PDom) (s : State) : (modDomP d f s).lanes = s.lanes := rfl
@[simp] theorem modDomP_ports (d : Nat) (f : PDom → PDom) (s : State) : (modDomP d f s).ports = s.ports := rfl
@[simp] theorem modDomP_groups (d : Nat) (f : PDom → PDom) (s : State) : (modDomP d f s).groups = s.groups := rfl
@[simp] theorem modDomP_tables (d : Nat) (f : PDom → PDom) (s : State) : (modDomP d f s).tables = s.tables := rfl
@[simp] theorem modDomP_clusters (d : Nat) (f : PDom → PDom) (s : State) : (modDomP d f s).clusters = s.clusters := rfl
@[simp] theorem modDomP_wins (d : Nat) (f : PDom → PDom) (s : State) : (modDomP d f s).wins = s.wins := rfl
@[simp] theorem modDomP_uc (d : Nat) (f : PDom → PDom) (s : State) : (modDomP d f s).uc = s.uc := rfl
@[simp] theorem modDomP_buf (d : Nat) (f : PDom → PDom) (s : State) : (modDomP d f s).buf = s.buf := rfl
@[simp] theorem modDomP_time (d : Nat) (f : PDom → PDom) (s : State) : (modDomP d f s).time = s.time := rfl
@[simp] theorem modDomP_telem (d : Nat) (f : PDom → PDom) (s : State) : (modDomP d f s).telem = s.telem := rfl
@[simp] theorem modDomP_stack (d : Nat) (f : PDom → PDom) (s : State) : (modDomP d f s).stack = s.stack := rfl
@[simp] theorem modDomP_mboxes (d : Nat) (f : PDom → PDom) (s : State) : (modDomP d f s).mboxes = s.mboxes := rfl
@[simp] theorem modDomP_order (d : Nat) (f : PDom → PDom) (s : State) : (modDomP d f s).order = s.order := rfl
@[simp] theorem modDomP_deferred (d : Nat) (f : PDom → PDom) (s : State) : (modDomP d f s).deferred = s.deferred := rfl
@[simp] theorem modDomP_ciph (d : Nat) (f : PDom → PDom) (s : State) : (modDomP d f s).ciph = s.ciph := rfl
@[simp] theorem modDomP_link (d : Nat) (f : PDom → PDom) (s : State) : (modDomP d f s).link = s.link := rfl
@[simp] theorem modDomP_rings (d : Nat) (f : PDom → PDom) (s : State) : (modDomP d f s).rings = s.rings := rfl
@[simp] theorem modDomP_irq (d : Nat) (f : PDom → PDom) (s : State) : (modDomP d f s).irq = s.irq := rfl
@[simp] theorem modDomP_chans (d : Nat) (f : PDom → PDom) (s : State) : (modDomP d f s).chans = s.chans := rfl
@[simp] theorem modDomP_flt (d : Nat) (f : PDom → PDom) (s : State) : (modDomP d f s).flt = s.flt := rfl
@[simp] theorem modDomP_boot (d : Nat) (f : PDom → PDom) (s : State) : (modDomP d f s).boot = s.boot := rfl
@[simp] theorem modDomP_pins (d : Nat) (f : PDom → PDom) (s : State) : (modDomP d f s).pins = s.pins := rfl
@[simp] theorem modDomP_bus (d : Nat) (f : PDom → PDom) (s : State) : (modDomP d f s).bus = s.bus := rfl
@[simp] theorem modDomP_evc (d : Nat) (f : PDom → PDom) (s : State) : (modDomP d f s).evc = s.evc := rfl
@[simp] theorem modDomP_devMem (d : Nat) (f : PDom → PDom) (s : State) : (modDomP d f s).devMem = s.devMem := rfl
@[simp] theorem modDomP_hostMem (d : Nat) (f : PDom → PDom) (s : State) : (modDomP d f s).hostMem = s.hostMem := rfl
@[simp] theorem modDomP_freeCount (d : Nat) (f : PDom → PDom) (s : State) : (modDomP d f s).freeCount = s.freeCount := rfl
@[simp] theorem modDomP_pending (d : Nat) (f : PDom → PDom) (s : State) : (modDomP d f s).pending = s.pending := rfl

/-! modPtp writes time alone. -/

@[simp] theorem modPtp_ident (x : Nat) (f : PtpClock → PtpClock) (s : State) : (modPtp x f s).ident = s.ident := rfl
@[simp] theorem modPtp_trick (x : Nat) (f : PtpClock → PtpClock) (s : State) : (modPtp x f s).trick = s.trick := rfl
@[simp] theorem modPtp_refs (x : Nat) (f : PtpClock → PtpClock) (s : State) : (modPtp x f s).refs = s.refs := rfl
@[simp] theorem modPtp_lanes (x : Nat) (f : PtpClock → PtpClock) (s : State) : (modPtp x f s).lanes = s.lanes := rfl
@[simp] theorem modPtp_ports (x : Nat) (f : PtpClock → PtpClock) (s : State) : (modPtp x f s).ports = s.ports := rfl
@[simp] theorem modPtp_groups (x : Nat) (f : PtpClock → PtpClock) (s : State) : (modPtp x f s).groups = s.groups := rfl
@[simp] theorem modPtp_tables (x : Nat) (f : PtpClock → PtpClock) (s : State) : (modPtp x f s).tables = s.tables := rfl
@[simp] theorem modPtp_clusters (x : Nat) (f : PtpClock → PtpClock) (s : State) : (modPtp x f s).clusters = s.clusters := rfl
@[simp] theorem modPtp_wins (x : Nat) (f : PtpClock → PtpClock) (s : State) : (modPtp x f s).wins = s.wins := rfl
@[simp] theorem modPtp_uc (x : Nat) (f : PtpClock → PtpClock) (s : State) : (modPtp x f s).uc = s.uc := rfl
@[simp] theorem modPtp_buf (x : Nat) (f : PtpClock → PtpClock) (s : State) : (modPtp x f s).buf = s.buf := rfl
@[simp] theorem modPtp_telem (x : Nat) (f : PtpClock → PtpClock) (s : State) : (modPtp x f s).telem = s.telem := rfl
@[simp] theorem modPtp_stack (x : Nat) (f : PtpClock → PtpClock) (s : State) : (modPtp x f s).stack = s.stack := rfl
@[simp] theorem modPtp_mboxes (x : Nat) (f : PtpClock → PtpClock) (s : State) : (modPtp x f s).mboxes = s.mboxes := rfl
@[simp] theorem modPtp_order (x : Nat) (f : PtpClock → PtpClock) (s : State) : (modPtp x f s).order = s.order := rfl
@[simp] theorem modPtp_deferred (x : Nat) (f : PtpClock → PtpClock) (s : State) : (modPtp x f s).deferred = s.deferred := rfl
@[simp] theorem modPtp_ciph (x : Nat) (f : PtpClock → PtpClock) (s : State) : (modPtp x f s).ciph = s.ciph := rfl
@[simp] theorem modPtp_link (x : Nat) (f : PtpClock → PtpClock) (s : State) : (modPtp x f s).link = s.link := rfl
@[simp] theorem modPtp_rings (x : Nat) (f : PtpClock → PtpClock) (s : State) : (modPtp x f s).rings = s.rings := rfl
@[simp] theorem modPtp_irq (x : Nat) (f : PtpClock → PtpClock) (s : State) : (modPtp x f s).irq = s.irq := rfl
@[simp] theorem modPtp_chans (x : Nat) (f : PtpClock → PtpClock) (s : State) : (modPtp x f s).chans = s.chans := rfl
@[simp] theorem modPtp_power (x : Nat) (f : PtpClock → PtpClock) (s : State) : (modPtp x f s).power = s.power := rfl
@[simp] theorem modPtp_flt (x : Nat) (f : PtpClock → PtpClock) (s : State) : (modPtp x f s).flt = s.flt := rfl
@[simp] theorem modPtp_boot (x : Nat) (f : PtpClock → PtpClock) (s : State) : (modPtp x f s).boot = s.boot := rfl
@[simp] theorem modPtp_pins (x : Nat) (f : PtpClock → PtpClock) (s : State) : (modPtp x f s).pins = s.pins := rfl
@[simp] theorem modPtp_bus (x : Nat) (f : PtpClock → PtpClock) (s : State) : (modPtp x f s).bus = s.bus := rfl
@[simp] theorem modPtp_evc (x : Nat) (f : PtpClock → PtpClock) (s : State) : (modPtp x f s).evc = s.evc := rfl
@[simp] theorem modPtp_devMem (x : Nat) (f : PtpClock → PtpClock) (s : State) : (modPtp x f s).devMem = s.devMem := rfl
@[simp] theorem modPtp_hostMem (x : Nat) (f : PtpClock → PtpClock) (s : State) : (modPtp x f s).hostMem = s.hostMem := rfl
@[simp] theorem modPtp_freeCount (x : Nat) (f : PtpClock → PtpClock) (s : State) : (modPtp x f s).freeCount = s.freeCount := rfl
@[simp] theorem modPtp_pending (x : Nat) (f : PtpClock → PtpClock) (s : State) : (modPtp x f s).pending = s.pending := rfl

/-! modPdelay writes ports alone. -/

@[simp] theorem modPdelay_ident (p : Nat) (f : PeerDelay → PeerDelay) (s : State) : (modPdelay p f s).ident = s.ident := rfl
@[simp] theorem modPdelay_trick (p : Nat) (f : PeerDelay → PeerDelay) (s : State) : (modPdelay p f s).trick = s.trick := rfl
@[simp] theorem modPdelay_refs (p : Nat) (f : PeerDelay → PeerDelay) (s : State) : (modPdelay p f s).refs = s.refs := rfl
@[simp] theorem modPdelay_lanes (p : Nat) (f : PeerDelay → PeerDelay) (s : State) : (modPdelay p f s).lanes = s.lanes := rfl
@[simp] theorem modPdelay_groups (p : Nat) (f : PeerDelay → PeerDelay) (s : State) : (modPdelay p f s).groups = s.groups := rfl
@[simp] theorem modPdelay_tables (p : Nat) (f : PeerDelay → PeerDelay) (s : State) : (modPdelay p f s).tables = s.tables := rfl
@[simp] theorem modPdelay_clusters (p : Nat) (f : PeerDelay → PeerDelay) (s : State) : (modPdelay p f s).clusters = s.clusters := rfl
@[simp] theorem modPdelay_wins (p : Nat) (f : PeerDelay → PeerDelay) (s : State) : (modPdelay p f s).wins = s.wins := rfl
@[simp] theorem modPdelay_uc (p : Nat) (f : PeerDelay → PeerDelay) (s : State) : (modPdelay p f s).uc = s.uc := rfl
@[simp] theorem modPdelay_buf (p : Nat) (f : PeerDelay → PeerDelay) (s : State) : (modPdelay p f s).buf = s.buf := rfl
@[simp] theorem modPdelay_time (p : Nat) (f : PeerDelay → PeerDelay) (s : State) : (modPdelay p f s).time = s.time := rfl
@[simp] theorem modPdelay_telem (p : Nat) (f : PeerDelay → PeerDelay) (s : State) : (modPdelay p f s).telem = s.telem := rfl
@[simp] theorem modPdelay_stack (p : Nat) (f : PeerDelay → PeerDelay) (s : State) : (modPdelay p f s).stack = s.stack := rfl
@[simp] theorem modPdelay_mboxes (p : Nat) (f : PeerDelay → PeerDelay) (s : State) : (modPdelay p f s).mboxes = s.mboxes := rfl
@[simp] theorem modPdelay_order (p : Nat) (f : PeerDelay → PeerDelay) (s : State) : (modPdelay p f s).order = s.order := rfl
@[simp] theorem modPdelay_deferred (p : Nat) (f : PeerDelay → PeerDelay) (s : State) : (modPdelay p f s).deferred = s.deferred := rfl
@[simp] theorem modPdelay_ciph (p : Nat) (f : PeerDelay → PeerDelay) (s : State) : (modPdelay p f s).ciph = s.ciph := rfl
@[simp] theorem modPdelay_link (p : Nat) (f : PeerDelay → PeerDelay) (s : State) : (modPdelay p f s).link = s.link := rfl
@[simp] theorem modPdelay_rings (p : Nat) (f : PeerDelay → PeerDelay) (s : State) : (modPdelay p f s).rings = s.rings := rfl
@[simp] theorem modPdelay_irq (p : Nat) (f : PeerDelay → PeerDelay) (s : State) : (modPdelay p f s).irq = s.irq := rfl
@[simp] theorem modPdelay_chans (p : Nat) (f : PeerDelay → PeerDelay) (s : State) : (modPdelay p f s).chans = s.chans := rfl
@[simp] theorem modPdelay_power (p : Nat) (f : PeerDelay → PeerDelay) (s : State) : (modPdelay p f s).power = s.power := rfl
@[simp] theorem modPdelay_flt (p : Nat) (f : PeerDelay → PeerDelay) (s : State) : (modPdelay p f s).flt = s.flt := rfl
@[simp] theorem modPdelay_boot (p : Nat) (f : PeerDelay → PeerDelay) (s : State) : (modPdelay p f s).boot = s.boot := rfl
@[simp] theorem modPdelay_pins (p : Nat) (f : PeerDelay → PeerDelay) (s : State) : (modPdelay p f s).pins = s.pins := rfl
@[simp] theorem modPdelay_bus (p : Nat) (f : PeerDelay → PeerDelay) (s : State) : (modPdelay p f s).bus = s.bus := rfl
@[simp] theorem modPdelay_evc (p : Nat) (f : PeerDelay → PeerDelay) (s : State) : (modPdelay p f s).evc = s.evc := rfl
@[simp] theorem modPdelay_devMem (p : Nat) (f : PeerDelay → PeerDelay) (s : State) : (modPdelay p f s).devMem = s.devMem := rfl
@[simp] theorem modPdelay_hostMem (p : Nat) (f : PeerDelay → PeerDelay) (s : State) : (modPdelay p f s).hostMem = s.hostMem := rfl
@[simp] theorem modPdelay_freeCount (p : Nat) (f : PeerDelay → PeerDelay) (s : State) : (modPdelay p f s).freeCount = s.freeCount := rfl
@[simp] theorem modPdelay_pending (p : Nat) (f : PeerDelay → PeerDelay) (s : State) : (modPdelay p f s).pending = s.pending := rfl

end Sys2Proof.Laws
end

