-- ==== Sys2Proof/Laws/Tab.lean ====
section
/-! SUPPORT. Sparse tables, the units kept in them, and folds over units: what a read gives after a change. -/

namespace Sys2Proof.Laws

open Sys2Proof.Machine

/-- A read after a put at the same index. -/
@[simp] theorem tabGet_tabPut_same {α : Type} (t : Tab α) (k : Nat) (v : α) : tabGet (tabPut t k v) k = some v := by
  induction t with
  | nil => simp [tabPut, tabGet]
  | cons e r ih =>
    obtain ⟨i, w⟩ := e
    unfold tabPut
    by_cases h : i = k
    · simp [h, tabGet]
    · by_cases h' : k < i
      · simp [h, h', tabGet]
      · simp [h, h', tabGet, ih]

/-- A put leaves every other index alone. -/
theorem tabGet_tabPut_other {α : Type} (t : Tab α) {k j : Nat} (v : α) (hne : j ≠ k) : tabGet (tabPut t k v) j = tabGet t j := by
  induction t with
  | nil =>
    have : k ≠ j := fun h => hne h.symm
    simp [tabPut, tabGet, this]
  | cons e r ih =>
    obtain ⟨i, w⟩ := e
    unfold tabPut
    by_cases h : i = k
    · subst h
      have : i ≠ j := fun h => hne h.symm
      simp [tabGet, this]
    · by_cases h' : k < i
      · have : k ≠ j := fun h => hne h.symm
        simp only [h, h', if_false, if_true]
        rw [tabGet]
        simp only [this, if_false]
        split
        · rename_i hj
          rw [tabGet, if_neg (by omega), if_pos (by omega)]
        · rfl
      · simp only [h, h', if_false]
        rw [tabGet, tabGet, ih]

/-- Two puts at one index are the second. -/
@[simp] theorem tabPut_tabPut {α : Type} (t : Tab α) (k : Nat) (v w : α) : tabPut (tabPut t k v) k w = tabPut t k w := by
  induction t with
  | nil => simp [tabPut]
  | cons e r ih =>
    obtain ⟨i, u⟩ := e
    unfold tabPut
    by_cases h : i = k
    · simp [h, tabPut]
    · by_cases h' : k < i
      · simp [h, h', tabPut]
      · simp [h, h', tabPut, ih]

@[simp] theorem tabGetD_tabPut_same {α : Type} (t : Tab α) (k : Nat) (v d : α) : tabGetD (tabPut t k v) k d = v := by simp [tabGetD]

theorem tabGetD_tabPut_other {α : Type} (t : Tab α) {k j : Nat} (v d : α) (h : j ≠ k) : tabGetD (tabPut t k v) j d = tabGetD t j d := by
  simp [tabGetD, tabGet_tabPut_other t v h]

@[simp] theorem tabGetD_tabMod_same {α : Type} (t : Tab α) (k : Nat) (d : α) (f : α → α) : tabGetD (tabMod t k d f) k d = f (tabGetD t k d) := by simp [tabMod]

theorem tabGetD_tabMod_other {α : Type} (t : Tab α) {k j : Nat} (d : α) (f : α → α) (h : j ≠ k) : tabGetD (tabMod t k d f) j d = tabGetD t j d := by
  simp [tabMod, tabGetD_tabPut_other t _ d h]

@[simp] theorem tabGet_tabUpd_same {α : Type} (t : Tab α) (k : Nat) (f : α → α) : tabGet (tabUpd t k f) k = (tabGet t k).map f := by
  unfold tabUpd
  cases h : tabGet t k with
  | none => simp [h]
  | some v => simp

theorem tabGet_tabUpd_other {α : Type} (t : Tab α) {k j : Nat} (f : α → α) (h : j ≠ k) : tabGet (tabUpd t k f) j = tabGet t j := by
  unfold tabUpd
  cases hk : tabGet t k with
  | none => rfl
  | some v => exact tabGet_tabPut_other t _ h

/-! ## Units -/

@[simp] theorem lane_modLane_same (l : Nat) (f : Lane → Lane) (s : State) : lane (modLane l f s) l = f (lane s l) := by simp [lane, modLane]

theorem lane_modLane_other {l k : Nat} (f : Lane → Lane) (s : State) (h : k ≠ l) : lane (modLane l f s) k = lane s k := by
  simp [lane, modLane, tabGetD_tabMod_other _ _ _ h]

@[simp] theorem port_modPort_same (p : Nat) (f : Port → Port) (s : State) : port (modPort p f s) p = (port s p).map f := by simp [port, modPort]

theorem port_modPort_other {p k : Nat} (f : Port → Port) (s : State) (h : k ≠ p) : port (modPort p f s) k = port s k := by
  simp [port, modPort, tabGet_tabUpd_other _ _ h]

@[simp] theorem grp_modGrp_same (g : Nat) (f : Group → Group) (s : State) : grp (modGrp g f s) g = f (grp s g) := by simp [grp, modGrp]

theorem grp_modGrp_other {g k : Nat} (f : Group → Group) (s : State) (h : k ≠ g) : grp (modGrp g f s) k = grp s k := by
  simp only [grp, modGrp]
  exact tabGetD_tabMod_other _ _ _ h

@[simp] theorem cluster_modCluster_same (c : Nat) (f : Cluster → Cluster) (s : State) : cluster (modCluster c f s) c = f (cluster s c) := by
  simp [cluster, modCluster]

theorem cluster_modCluster_other {c k : Nat} (f : Cluster → Cluster) (s : State) (h : k ≠ c) : cluster (modCluster c f s) k = cluster s k := by
  simp [cluster, modCluster, tabGetD_tabMod_other _ _ _ h]

@[simp] theorem mbox_modMbox_same (m : Nat) (f : Mailbox → Mailbox) (s : State) : mbox (modMbox m f s) m = f (mbox s m) := by simp [mbox, modMbox]

theorem mbox_modMbox_other {m k : Nat} (f : Mailbox → Mailbox) (s : State) (h : k ≠ m) : mbox (modMbox m f s) k = mbox s k := by
  simp [mbox, modMbox, tabGetD_tabMod_other _ _ _ h]

/-! ## Folds over units -/

/-- What every step of a fold keeps, the fold keeps. -/
theorem forAll_keeps {α : Type} (g : State → α) (f : Nat → State → State) (h : ∀ i s, g (f i s) = g s) (l : List Nat) (s : State) :
    g (forAll l f s) = g s := by
  unfold forAll
  induction l generalizing s with
  | nil => rfl
  | cons a r ih => rw [List.foldl_cons, ih, h]

/-- What every step of a fold preserves, the fold preserves. -/
theorem forAll_inv (P : State → Prop) (f : Nat → State → State) (h : ∀ i s, P s → P (f i s)) (l : List Nat) (s : State) (hs : P s) :
    P (forAll l f s) := by
  unfold forAll
  induction l generalizing s with
  | nil => exact hs
  | cons a r ih => rw [List.foldl_cons]; exact ih _ (h a s hs)

/-- A fold of changes of lanes, at a lane it names, when the change keeps what it did before. -/
theorem forAll_modLane (P : Lane → Prop) (f : Lane → Lane) (hf : ∀ x, P (f x)) (l : List Nat) (s : State) :
    ∀ k ∈ l, P (lane (forAll l (fun i acc => modLane i f acc) s) k) := by
  induction l generalizing s with
  | nil => intro k hk; cases hk
  | cons a r ih =>
    intro k hk
    have step : forAll (a :: r) (fun i acc => modLane i f acc) s = forAll r (fun i acc => modLane i f acc) (modLane a f s) := rfl
    rw [step]
    by_cases hr : k ∈ r
    · exact ih _ k hr
    · have hka : k = a := by
        rcases List.mem_cons.mp hk with h | h
        · exact h
        · exact absurd h hr
      subst hka
      have keep : ∀ (l : List Nat) (t : State), k ∉ l → lane (forAll l (fun i acc => modLane i f acc) t) k = lane t k := by
        intro l
        induction l with
        | nil => intro t _; rfl
        | cons b q ihq =>
          intro t hn
          have step' : forAll (b :: q) (fun i acc => modLane i f acc) t = forAll q (fun i acc => modLane i f acc) (modLane b f t) := rfl
          rw [step', ihq _ (fun h => hn (List.mem_cons_of_mem _ h)), lane_modLane_other]
          intro h
          exact hn (h ▸ List.mem_cons_self)
      rw [keep r _ hr, lane_modLane_same]
      exact hf _

end Sys2Proof.Laws
end

