-- ==== Sys2Proof/Tests/Slice0.lean ====
section
/-! SUPPORT. Tests of one step each, terms that well-formedness refuses, and states that meet the hypotheses of the statements. -/

namespace Sys2Proof.Tests

set_option Elab.async false

open Sys2Proof Sys2Proof.Machine Sys2Proof.Safety

/-! ## Small states -/

/-- A payload of n bytes that begins with a path and has fields (offset, length, value). -/
def req (n kind idx q : Nat) (fs : List (Nat × Nat × Nat)) : List Byte :=
  fs.foldl (fun p f => patch p f.1 (leBytes f.2.1 f.2.2)) (pathBytes ⟨kind, 0, idx, q, 0⟩ ++ zeros (n - 16))

/-- Firmware runs, the host link is trained. -/
def fw : State :=
  { State.reset with
    boot := { phase := .ready, ready := true, fwRunning := true, cold := false }
    link := { trained := true, fixed := true, evtValid := true }
    trick := { count := 5000, index := 9000 } }

/-- A request in mailbox m, accepted and not yet executed. -/
def sent (m code : Nat) (p : List Byte) (s : State) : State :=
  { s with mboxes := tabPut s.mboxes m { st := .pending, cmd := some { code := code, len := p.length, seq := 1, dirty := false, payload := p } }, order := s.order ++ [m] }

/-- s with lane l. -/
def withLane (l : Nat) (x : Lane) (s : State) : State := { s with lanes := tabPut s.lanes l x }

/-- s with port p. -/
def withPort (p : Nat) (x : Port) (s : State) : State := { s with ports := tabPut s.ports p x }

theorem some_all {α : Type} {o : Option α} {P : α → Prop} [DecidablePred P] (h : o.all (fun y => decide (P y)) = true) : ∀ y, o = some y → P y := by
  intro y hy
  subst hy
  simpa using h

/-- A bank whose sixteen entries are VALID. -/
def bank : Bank := { loaded := true, body := (List.range 16).map (fun e => (2 * e + 1, 0x80)) }

/-- fw with microcode in the active bank. -/
def fwUc : State := { fw with uc := { active := bank } }

/-- fw with a table. -/
def withTable (t : Nat) (d : TableDesc) (s : State) : State := { s with tables := tabPut s.tables t d }

/-- An idle up port. -/
def upPort : Port := { link := .up, resolved := 1 }

/-- A lane at Run with a signal and CDR lock. -/
def runLane : Lane := { rung := 0, req := 0, cls := 1, signal := true, cdr := true, ready := true, wasLost := false }

/-- fw with the one-lane port 511 and its lane at Run. -/
def onPort (x : Port) : State := withPort 511 x (withLane 511 runLane fw)

/-- A staged frame of n zero bytes. -/
def frameOf (n : Nat) (whole : Bool) : Staged := { data := zeros n, len := n, whole := whole, ts := 0 }

/-- A descriptor of a one-cell frame of 64 bytes from port 511. -/
def oneDesc (head : Nat) : Desc :=
  { head := head, len := 64, n := 1, inPort := 511, pri := 0, tc := 0, colour := 0, src := .ante, ce := false, ptp := false, cut := false, bad := false, prov := false, mta := head, admitDepth := 0, mcast := false }

/-- One cell, held by a frame of requester r. -/
def cellOf (head r : Nat) : Chain := { cells := [head], owner := r, refcnt := 1, len := 64, mta := none }

/-- A port whose queue 15 holds one frame. -/
def queuePort : Port := { link := .up, resolved := 1, queues := [(15, { descs := [oneDesc 0] })] }

/-- fw with that port and its frame's cell. -/
def queueState : State := { onPort queuePort with buf := { chains := [(0, cellOf 0 31)] } }

/-- The replication job of a frame in cell 0 for multicast group 0. -/
def jobOf : ReplJob := { head := 0, mta := 0, group := 0, len := 64, n := 1, prov := false, inPort := 511, pri := 0, lossless := false, exc := false }

/-- A metadata record without words. -/
def metaRec : Meta := { phv := {}, edits := [], inTs := 0, trick := 0, count := 0, group := 31, copies := 0 }

/-- fw with a replication job of group 31, whose multicast group has a list of one entry. -/
def replState : State :=
  { fw with
    groups := [(31, { repl := [jobOf] })]
    clusters := [(3, { buckets := [(0, 2 ^ 31 + 4096)] })]
    buf := { mcastLog2 := 20, chains := [(0, cellOf 0 31)], metas := [(0, metaRec)] } }

theorem ex_some {α : Type} {o : Option α} (h : o.isSome = true) : ∃ a, o = some a := Option.isSome_iff_exists.mp h

/-- fw with the table of clause 3, an age queue and the entry on it. -/
def ageState : State :=
  withTable 63 { ageMode := 1 } { fw with clusters := [(3, { rr := 2, ageQ := [⟨0, 0, 63, 2 ^ 31 + 63 * 2 ^ 23 + 1⟩], buckets := [(0, 2 ^ 31 + 63 * 2 ^ 23 + 1)] })] }

/-- A request that a chip of this stack sent and has not had an answer to. -/
def outOf (tries : Nat) (mb : Option Nat) : Outstanding := { mb := mb, seq := 7, dst := 2 ^ 40, levels := 1, tries := tries, sent := 4872, payload := [], rest := [], answers := [] }

/-- fw with a staged frame of one cell on port 511, microcode and one free cell. -/
def issueState : State :=
  { onPort { upPort with staged := [frameOf 64 true] } with uc := { active := bank }, buf := { sections := [(0, { list := [(0, 1)] })] } }

/-- The chain that the frame gets when port 511 has its turn. -/
def issueChain : Nat × State :=
  (newChain 31 1 64 (zeros 64) (modGrp 31 (fun y => { y with arb := arbServe (arbWeight { upPort with staged := [frameOf 64 true] }) 511 y.arb }) issueState)).getD (0, fw)

/-- A Sync message with a TLV of key 0, whose ICV is the CMAC of nothing. -/
def icvMsg : PtpIn :=
  { domain := 1, port := 511, msgType := 0, clockId := 1, portNum := 1, tlv := some ⟨0, 0, cmacBytes 0 [], false⟩, covered := [], iv := 0 }

/-- A domain that takes only messages with a TLV, and its key. -/
def icvState : State :=
  { onPort upPort with
    time := { doms := [(1, { listSeen := true, authSeen := true, rxRequired := true })] }
    ciph := { slots := [(0, { key := some 0 })] } }

theorem icv_good : icvGood icvState icvMsg 0 = true := by
  have h : icvOf icvState (dom icvState icvMsg.domain) 0 icvMsg.iv icvMsg.covered = some (cmacBytes 0 []) := rfl
  have e : icvGood icvState icvMsg 0 = decide (icvOf icvState (dom icvState icvMsg.domain) 0 icvMsg.iv icvMsg.covered = some (cmacBytes 0 [])) := by
    unfold icvGood
    rfl
  rw [e]
  exact decide_eq_true h

/-- DMA channel 27 runs a program at host address 0 whose first instruction has these 16 bytes as a number; ring 63 is its CQ. -/
def dmaState (v : Nat) : State :=
  { fw with
    chans := [(27, { st := .running, cq := 63 })]
    rings := [(63, { typ := .cq, st := .run, enable := true })]
    hostMem := memWriteL [] 0 (leBytes 16 v) }

/-- A data instruction: opcode, flags, spaces, length, source, destination (15 Table 15.3). -/
def dmaWord (opc flags ss sd len src dst : Nat) : Nat :=
  opc + flags * 2 ^ 8 + ss * 2 ^ 12 + sd * 2 ^ 15 + len * 2 ^ 18 + src * 2 ^ 42 + dst * 2 ^ 85

/-- fw with an SQ 0 that completes into CQ 63, and host memory with a 64-byte entry at its base. -/
def sqState (e : List Byte) : State :=
  { fw with
    rings := [(0, { typ := .sq, st := .run, enable := true, cq := 63, base := 4096 }), (63, { typ := .cq, st := .run, enable := true })]
    hostMem := memWriteL [] 4096 e }

theorem pairs {n : Nat} {P : Nat → Nat → Prop} (h : ∀ j, j < n → ∀ i, i < j → P i j) : ∀ i j, i < j → j < n → P i j := fun i j a b => h j b i a

theorem rings_fw : ringsOk fw := by
  refine ⟨fun r => ⟨?_, ?_, ?_⟩, fun k b hb => ?_⟩
  · intro e he
    exact absurd he (by simp [ring, tabGetD, tabGet, fw, State.reset])
  · intro b hb
    exact absurd hb (by simp [ring, tabGetD, tabGet, fw, State.reset])
  · intro h
    exact absurd rfl h
  · exact absurd hb (by simp [chan, tabGetD, tabGet, fw, State.reset])

/-! ## Images, a board table and a token that verify, whatever the fused keys are -/

/-- An image of a kind with an empty body and a tag. -/
def img (kind : Byte) (t : List Byte) : Mem :=
  [(0, 0xC5), (1, 0x48), (2, 0x20), (3, 0x4E), (4, kind), (5, 3), (6, 64), (8, 1)] ++ (List.range 16).map (fun i => (48 + i, t.getD i 0))

/-- The bytes that the tag covers. -/
def imgBody (kind : Byte) : List Byte := [0xC5, 0x48, 0x20, 0x4E, kind, 3, 64, 0, 1] ++ zeros 39

/-- The image with the tag that the fused key gives it. -/
def sealed (kind : Byte) : Mem := img kind (cmacBytes Config.imageKey (imgBody kind))

theorem getD_list {t : List Byte} (h : t.length = 16) : (List.range 16).map (fun i => t.getD i 0) = t := by
  apply List.ext_getElem
  · simp [h]
  · intro i h1 h2
    simp [List.getD, List.getElem?_eq_getElem h2]

theorem img_tag (kind : Byte) (t : List Byte) (h : t.length = 16) : memReadN (img kind t) 48 16 = t := by
  conv_rhs => rw [← getD_list h]
  rfl

theorem img_body (kind : Byte) (t : List Byte) : memReadN (img kind t) 0 48 ++ memReadN (img kind t) 64 (memFld (img kind t) 20 4) = imgBody kind := by
  rfl

theorem sealed_verifies (kind : Byte) (h : imgHeaderOk (sealed kind) = true) : imgVerifies (sealed kind) = true := by
  unfold imgVerifies
  rw [h, Bool.true_and]
  unfold sealed
  rw [img_tag _ _ (Laws.cmacBytes_length _ _), img_body]
  simp

theorem img_slice (kind : Byte) (t : List Byte) : memSlice (img kind t) 0 64 = img kind t := rfl

theorem sealed_slice (kind : Byte) : memSlice (sealed kind) 0 64 = sealed kind := img_slice kind _

/-- A board table with nothing but a header, and a check value. -/
def board (v : Nat) : Mem :=
  [(0, 0xC5), (1, 0xD7), (2, 0xA4), (3, 0xB0), (4, 1), (17, 0x50), (18, 4), (24, 0x28), (25, 0x23), (29, 0x10)]
    ++ [(64, byte (v % 256)), (65, byte (v / 256 % 256)), (66, byte (v / 256 / 256 % 256)), (67, byte (v / 256 / 256 / 256 % 256))]

/-- The check value of that table. -/
@[irreducible] def boardSum : Nat := crc32c 0xFFFFFFFF (memReadN (memClear (board 0) 64 4) 0 boardLen)

theorem board_check (v : Nat) (h : v < 2 ^ 32) : memFld (board v) 64 4 = v := by
  have e : memFld (board v) 64 4 = leVal [byte (v % 256), byte (v / 256 % 256), byte (v / 256 / 256 % 256), byte (v / 256 / 256 / 256 % 256)] := rfl
  rw [e]
  simp only [leVal, byte, List.foldr, BitVec.toNat_ofNat]
  omega

theorem board_clear (v : Nat) : memClear (board v) 64 4 = memClear (board 0) 64 4 := rfl

theorem board_header (v : Nat) : ¬ (memFld (board v) 0 4 ≠ 0xB0A4D7C5 ∨ memFld (board v) 4 2 ≠ 1 ∨ memFld (board v) 16 4 ≠ boardLen ∨ memFld (board v) 28 4 ≠ 4096
    ∨ 1000000 < memFld (board v) 20 4 ∨ memFld (board v) 24 4 < 9000 ∨ 58000 < memFld (board v) 24 4) := by
  have g1 : memReadN (board v) 0 4 = [0xC5, 0xD7, 0xA4, 0xB0] := rfl
  have h1 : memFld (board v) 0 4 = 0xB0A4D7C5 := by
    unfold memFld
    rw [g1]
    decide
  have g2 : memReadN (board v) 4 2 = [1, 0] := rfl
  have h2 : memFld (board v) 4 2 = 1 := by
    unfold memFld
    rw [g2]
    decide
  have g3 : memReadN (board v) 16 4 = [0, 0x50, 4, 0] := rfl
  have h3 : memFld (board v) 16 4 = boardLen := by
    unfold memFld
    rw [g3]
    decide
  have g4 : memReadN (board v) 28 4 = [0, 0x10, 0, 0] := rfl
  have h4 : memFld (board v) 28 4 = 4096 := by
    unfold memFld
    rw [g4]
    decide
  have g5 : memReadN (board v) 20 4 = [0, 0, 0, 0] := rfl
  have h5 : memFld (board v) 20 4 = 0 := by
    unfold memFld
    rw [g5]
    decide
  have g6 : memReadN (board v) 24 4 = [0x28, 0x23, 0, 0] := rfl
  have h6 : memFld (board v) 24 4 = 9000 := by
    unfold memFld
    rw [g6]
    decide
  rw [h1, h2, h3, h4, h5, h6]
  decide

theorem board_valid : boardState (board boardSum) = 1 := by
  have hlt : boardSum < 2 ^ 32 := by
    unfold boardSum
    exact Laws.crc32c_lt _
  unfold boardState
  rw [if_neg (board_header boardSum), board_check _ hlt, board_clear, if_neg]
  unfold boardSum
  simp

theorem board_slice (v : Nat) : memSlice (board v) 0 boardLen = board v := rfl

/-- A challenge and the payload of FLT_TEST_UNLOCK with its token. -/
def unlockReq : List Byte := pathBytes ⟨1, 0, 0, 0, 0⟩ ++ (List.range 16).map (fun i => (tokenOf (zeros 16)).getD i 0)

theorem token_slice : tokenOf (zeros 16) = slice unlockReq 16 16 := by
  have h : (tokenOf (zeros 16)).length = 16 := Laws.cmacBytes_length _ _
  conv_lhs => rw [← getD_list h]
  rfl

theorem waiting_sent (m code : Nat) (p : List Byte) (s : State) (h : s.order = []) (h1 : s.boot.fwRunning = true) (h2 : changesNone code = false) (h3 : s.boot.patchAt = none) :
    waiting m code p (sent m code p s) = true := by
  have e : mbox (sent m code p s) m = { st := .pending, cmd := some { code := code, len := p.length, seq := 1, dirty := false, payload := p } } := by
    simp [mbox, sent, Laws.tabGetD_tabPut_same]
  have e2 : myTurn (sent m code p s) m code = true := by
    have : (sent m code p s).order = [m] := by simp [sent, h]
    simp [myTurn, this, e, h2]
  have e3 : (sent m code p s).boot.fwRunning = true := h1
  have e4 : (sent m code p s).boot.patchAt = none := h3
  simp [waiting, e, e2, e3, e4]

theorem seal_at (kind : Byte) {m : Mem} {a n : Nat} (ho : imgHeaderOk (sealed kind) = true) (hm : m = sealed kind) (ha : a = 0) (hn : n = 64) :
    imgVerifies (memSlice m a n) = true := by
  subst hm ha hn
  rw [sealed_slice]
  exact sealed_verifies kind ho

theorem board_at {m : Mem} {a n : Nat} (hm : m = board boardSum) (ha : a = 0) (hn : n = boardLen) : boardState (memSlice m a n) = 1 := by
  subst hm ha hn
  rw [board_slice]
  exact board_valid

theorem slot_sealed {s : State} {k : Nat} (h : slotOf s k = { img := sealed 1, blank := false }) : slotState s k = 1 := by
  have h1 : imgHeaderOk (sealed 1) = true := by decide +kernel
  have h2 := sealed_verifies 1 h1
  unfold slotState
  rw [h]
  simp only [h1, h2]
  decide

theorem choose_sealed {s : State} (h : slotOf s 0 = { img := sealed 1, blank := false }) (h1 : slotOf s 1 = {}) : chooseSlot s = some (0, false, false) := by
  have e0 : headerSeq s 0 = 1 := by
    unfold headerSeq
    rw [h]
    decide +kernel
  have e1 : headerSeq s 1 = 0 := by
    unfold headerSeq
    rw [h1]
    decide +kernel
  simp [chooseSlot, e0, e1, slot_sealed h]

/-! ## Terms that well-formedness refuses, one for each check, and a term that it takes -/

theorem test_wf_takes : wf (.mbDoorbell .host 31) = true := by decide
theorem test_wf_mailbox : wf (.deviceInfoGet 32) = false := by decide
theorem test_wf_port : wf (.transmitEnd 512) = false := by decide
theorem test_wf_lane : wf (.fecUncorrectable 512) = false := by decide
theorem test_wf_cluster : wf (.agerVisit 4) = false := by decide
theorem test_wf_ring : wf (.cqHoldDrain 64) = false := by decide
theorem test_wf_channel : wf (.dmaAbort 32) = false := by decide
theorem test_wf_group : wf (.replication 32) = false := by decide
theorem test_wf_requester : wf (.chainFree 36 0) = false := by decide
theorem test_wf_section : wf (.freeListRebuildEnd 8) = false := by decide
theorem test_wf_synce_output : wf (.synceOutResume 2) = false := by decide
theorem test_wf_reference : wf (.refclkLoss 6) = false ∧ wf (.refclkReturn 6) = false := by decide
theorem test_wf_domain : wf (.timeDomainSrcLost 2) = false ∧ wf (.timeSampleWrite .host 2 64 0) = false := by decide
theorem test_wf_pin : wf (.tpioOneShotFire 8 0) = false ∧ wf (.tpioPeriodicEdge 8 0) = false ∧ wf (.tpioCapture 9 true 0 false) = false := by decide
theorem test_wf_pin_block : wf (.tpioModeWrite .host 9 0) = false ∧ wf (.tpioCapLatch .host 9) = false ∧ wf (.tpioCapPop .host 9) = false := by decide
theorem test_wf_member : wf (.stackMemberExpiry 1 64) = false := by decide
theorem test_wf_vector : wf (.irqModTimeout 128) = false ∧ wf (.msixUnmask 128) = false := by decide
theorem test_wf_window : wf (.tblWinCtlWrite .host 5 0) = false := by decide
theorem test_wf_fault_register : wf (.fltStickyClear .host 4 0) = false ∧ wf (.fltSevereClear .host 4 0) = false := by decide
theorem test_wf_key_slot : wf (.ciphKeyLoad .host 16) = false ∧ wf (.ciphKeyClear .host 16) = false := by decide
theorem test_wf_pfc_times : wf (.pfcReceive 0 0 [0]) = false := by decide
theorem test_wf_frame_longer : wf (.frameReceive 0 1 [1, 2] false true ⟨0, 0⟩) = false := by decide
theorem test_wf_frame_short_last : wf (.frameReceive 0 2 [1] true true ⟨0, 0⟩) = false := by decide
theorem test_wf_access_both : wf (.hostDevmemAccess 0 [1] 4 false) = false := by decide

/-! ## Functions that other documents fix -/

/-- Check value of CRC-32C over the digits 1 to 9 (RFC 3720's polynomial). -/
theorem test_crc32c : crc32c 0xFFFFFFFF [0x31, 0x32, 0x33, 0x34, 0x35, 0x36, 0x37, 0x38, 0x39] = 0xE3069283 := by decide +kernel

/-- Check value of the CRC-32 of IEEE 802.3 over the same digits. -/
theorem test_crc32 : crc32 0xFFFFFFFF [0x31, 0x32, 0x33, 0x34, 0x35, 0x36, 0x37, 0x38, 0x39] = 0xCBF43926 := by decide +kernel

/-- AES-256 of FIPS 197, appendix C.3. -/
theorem test_aes : aesBlock (aesKeys (List.range 32)) ((List.range 16).map (fun i => 17 * i)) =
    [0x8E, 0xA2, 0xB7, 0xCA, 0x51, 0x67, 0x45, 0xBF, 0xEA, 0xFC, 0x49, 0x90, 0x4B, 0x49, 0x60, 0x89] := by decide +kernel

/-! ## One step each -/

/-- State of a step's answer. -/
def after (o : Host.Outcome State Fault Refusal) : State :=
  match o with
  | .next t => t
  | _ => State.reset

/-- Host software reads DEV_ID of the full device (00 R7). -/
theorem test_ident_read : tabGet (after (exec (.rcRegisterRead .host 0 32) fw)).bus.rdata 0 = some 0x204800A1 := by decide +kernel

/-- A doorbell without a message is stale (13 R398, Table 13.7). -/
theorem test_doorbell_stale : (mbox (after (exec (.mbDoorbell .host 5) fw)) 5).staleDoorbell = true := by decide +kernel

/-- A host doorbell on a mailbox of firmware does nothing to it (13 R396). -/
theorem test_doorbell_foreign : (after (exec (.mbDoorbell .host 31) fw)).mboxes = [] := by decide +kernel

/-- A status command leaves its response in the mailbox (13 R400). -/
theorem test_device_info : ((mbox (after (exec (.deviceInfoGet 31) (sent 31 0x0101 (req 16 1 0 0 []) fw))) 31).cmd).map (fun c => fld c.resp 0 4) = some 0x204800A1 := by
  decide +kernel

/-- A row of another code does nothing to a waiting command. -/
theorem test_other_row : exec (.laneStatusGet 31) (sent 31 0x0101 (req 16 1 0 0 []) fw) = .next (sent 31 0x0101 (req 16 1 0 0 []) fw) := by rfl

/-- A path that no chip has is refused (13 R408). -/
theorem test_bad_path : ((mbox (after (exec (.deviceInfoGet 31) (sent 31 0x0101 (req 16 12 0 0 []) fw))) 31).cmd).map (fun c => c.status == stOk) = some false := by
  decide +kernel

/-- An offset of 200.1 ppm does not lock (03 R63). -/
theorem test_cdr_far : (lane (after (exec (.laneCdrLock 0 2001) (withLane 0 { rung := 0, signal := true } fw))) 0).cdr = false := by decide +kernel

/-- An offset of 200 ppm does (03 R63). -/
theorem test_cdr_near : (lane (after (exec (.laneCdrLock 0 2000) (withLane 0 { rung := 0, signal := true } fw))) 0).cdr = true := by decide +kernel

/-- A pause of 0 quanta ends a pause (09 R276). -/
theorem test_pause_zero : ((port (after (exec (.pauseReceive 511 0) (onPort { upPort with pauseRx := true, timers := [0, 0, 0, 0, 0, 0, 0, 0, 9] }))) 511).map (fun x => at0 x.timers 8)) = some 0 := by
  decide +kernel

/-- An address off a cell boundary counts at its requester (08 R223). -/
theorem test_free_misaligned : evGet (after (exec (.chainFree 35 1) fw)) 0x0502 0 35 = 1 := by decide +kernel

/-- The limiter engages at 40 A and not below (16 R469). -/
theorem test_limiter : (after (exec (.limiterEngage 39999) fw)).power.limiter = false ∧ (after (exec (.limiterEngage 40000) fw)).power.issue = 1 := by decide +kernel

/-- 125 degrees stops conversion, a sixteenth below does not (16 Table 16.5). -/
theorem test_trip : (after (exec (.thermalTrip 1999) fw)).boot.phase = .ready ∧ (after (exec (.thermalTrip 2000) fw)).boot.phase = .off := by decide +kernel

/-- An assertion of PERST shorter than 100 microseconds is ignored (19, sideband lands; 18 R534). -/
theorem test_perst_short : (after (exec (.perstAssert 99) fw)).link.trained = true ∧ (after (exec (.perstAssert 100) fw)).link.trained = false := by decide +kernel

/-- DMA_END stops the channel (15 R454). -/
theorem test_dma_end : (chan (after (exec (.dmaEnd 27 none) (dmaState 0x100))) 27).st = .stopped := by decide +kernel

/-- FILL writes its 32-bit value over and over (15 Table 15.4). -/
theorem test_dma_fill : devRead (after (exec (.dmaFill 27 none) (dmaState (dmaWord 3 0 0 1 64 0x04030201 64)))) 64 8 = [1, 2, 3, 4, 1, 2, 3, 4] := by decide +kernel

/-- A release gives the engine to firmware that waits (13 R420). -/
theorem test_release_waiting : (after (exec (.ciphRelease .host) { fw with ciph := { owner := 1, waiting := true } })).ciph.owner = 3 := by decide +kernel

/-- An empty queue idles; a command at the front runs and leaves the queue. -/
theorem test_step : step fw = .next fw ∧ (after (step { fw with pending := [.timePllLock] })).pending = [] := ⟨rfl, by decide +kernel⟩


/-- Eight corrected cycles of one rubber make a row failing, seven do not; a fifth row drops the oldest watched (17 R507). -/
theorem test_watched :
    rowFailing (rowCorrected ⟨.table, 3, 511, 7, []⟩ 7 fw) ⟨.table, 3, 511, 7, []⟩ = false ∧
    rowFailing (rowCorrected ⟨.table, 3, 511, 7, []⟩ 8 fw) ⟨.table, 3, 511, 7, []⟩ = true ∧
    watchRow 9 1 [(1, 1), (2, 1), (3, 1), (4, 1)] = [(2, 1), (3, 1), (4, 1), (9, 1)] := by decide +kernel

/-- Each stalled cycle counts and raises an event of TABLE_BANK (06 R149); a chip has its clusters only. -/
theorem test_stall : let t := linkCounts { rate := 0, late := [], vin := 0, iin := 0, rails := [], temps := [], fec := [], stalled := [(3, 511, 2), (4, 0, 9)] } fw
    evGet t 0x0405 3 0 = 2 ∧ (fltInst t 52 3).total = 2 ∧ (fltInst t 52 3).detail = 511 ∧ evGet t 0x0405 4 0 = 0 := by decide +kernel

/-- A comma of the last lane of an 8-lane port carries Table 4.4's fields and a CHECK that holds (04 R99). -/
theorem test_comma_block :
    let c := commaBlock 8 true false 65539 7
    commaDiff c = 0 ∧ commaCrc c = commaFld c 72 79 ∧ (commaFld c 40 42, commaFld c 43 45, commaFld c 46 47, commaFld c 48 63) = (4, 7, 3, 3) ∧
      c.getLsbD 64 = true ∧ c.getLsbD 65 = false := by decide +kernel

/-- Comma alignment repeats every 4,096 codewords of 5,440 bits (04 R99). -/
theorem test_comma_period : ((List.range 5).map commaGap).sum = 4096 * 5440 := by decide +kernel

/-- The Gray code of 04 Table 4.3 step 6, and the receiver's undoing of it (R100). -/
theorem test_inner_code :
    [gray false false, gray false true, gray true true, gray true false] = [0, 1, 2, 3] ∧
      innerCode [true, true, true, false] 1 = [1, 2] ∧ innerUndo [1, 1, 2] = [true, true, true, false] := by decide +kernel

/-- The generator of RS(544,514) has the 30 roots α^0 to α^29. -/
theorem test_rs_roots : (List.range 30).all (fun i =>
    let a := (List.range i).foldl (fun r _ => gfMul r 2) 1
    (1 :: rsGen).foldl (fun r c => gfMul r a ^^^ c) 0 == 0) = true := by decide +kernel

/-- The ingress arbiter serves a port of 800 Gb/s twice as often as one of 400 (01 R32). -/
theorem test_arbiter :
    ((List.range 6).foldl (fun (acc : Arb × List Nat) _ =>
      let q := if arbTurn acc.1 [4, 9] 4 then 4 else 9
      (arbServe (if q = 4 then 8 else 4) q acc.1, acc.2 ++ [q])) ({}, [])).2 = [4, 9, 4, 4, 9, 4] := by decide +kernel

/-- A table write waits once the 64 slots of the trick are used up (02 R51). -/
theorem test_slots : (after (exec (.tableEngineOp 3) { fw with clusters := [(3, { slotsUsed := 65, cmdQ := [.bucket 0 1 none] })] })).clusters =
    [(3, { slotsUsed := 65, cmdQ := [.bucket 0 1 none] })] := by decide +kernel

/-! ## The hypotheses of the statements are met -/

/-- States and operands that meet the hypotheses of LaneCommandsComplete, one for each of its clauses. -/
theorem witness_LaneCommandsComplete :
    (∃ (m : Nat) (p : List Byte) (s : State), waiting m 0x0201 p s = true ∧ addressed s p 24 [2] = true ∧ fld p 16 1 ≤ 15 ∧ fld p 17 1 < 4 ∧ (fld p 18 2 = 0 ∨ 500 ≤ fld p 18 2 ∧ fld p 18 2 ≤ 1000) ∧ fld p 20 4 = 0 ∧ ((fld p 17 1).testBit 0 = true ∨ ∀ y, portOfLane s (pathOf p).index = some y → y.2.link ≠ .up) ∧ (¬ (fld p 16 1 = 5 ∧ (linearOk s (pathOf p).index = false ∨ laneMode s (pathOf p).index = 1))) ∧ (laneMode s (pathOf p).index ≠ 0 → fld p 16 1 ≠ 0 → firSelect s (pathOf p).index (fld p 16 1) (laneMode s (pathOf p).index) ((fld p 17 1).testBit 1) ≠ none)) ∧
    (∃ (m : Nat) (p : List Byte) (s : State), waiting m 0x0202 p s = true ∧ addressed s p 16 [2] = true) ∧
    (∃ (m : Nat) (p : List Byte) (s : State), waiting m 0x0203 p s = true ∧ addressed s p 24 [2] = true ∧ (fld p 16 1 = 0 ∨ 8 ≤ fld p 16 1 ∧ fld p 16 1 ≤ 16) ∧ fld p 17 7 = 0 ∧ (lane s (pathOf p).index).cls ∈ [0, 1, 2, 6] ∧ (∀ y, portOfLane s (pathOf p).index = some y → y.2.link ≠ .up ∧ y.2.link ≠ .training) ∧ (lane s (pathOf p).index).echo = none) ∧
    (∃ (m : Nat) (p : List Byte) (s : State), waiting m 0x0204 p s = true ∧ addressed s p 24 [2] = true ∧ fld p 17 7 = 0 ∧ (fld p 16 1 ≤ 2 → (lane s (pathOf p).index).rung = 0 ∧ (lane s (pathOf p).index).moving = false) ∧ fld p 16 1 = 0) ∧
    (∃ (m : Nat) (p : List Byte) (s : State), waiting m 0x0204 p s = true ∧ addressed s p 24 [2] = true ∧ fld p 17 7 = 0 ∧ (fld p 16 1 ≤ 2 → (lane s (pathOf p).index).rung = 0 ∧ (lane s (pathOf p).index).moving = false) ∧ fld p 16 1 = 1) ∧
    (∃ (m : Nat) (p : List Byte) (s : State), waiting m 0x0204 p s = true ∧ addressed s p 24 [2] = true ∧ fld p 17 7 = 0 ∧ (fld p 16 1 ≤ 2 → (lane s (pathOf p).index).rung = 0 ∧ (lane s (pathOf p).index).moving = false) ∧ fld p 16 1 = 2) ∧
    (∃ (m : Nat) (p : List Byte) (s : State), waiting m 0x0204 p s = true ∧ addressed s p 24 [2] = true ∧ fld p 17 7 = 0 ∧ (fld p 16 1 ≤ 2 → (lane s (pathOf p).index).rung = 0 ∧ (lane s (pathOf p).index).moving = false) ∧ fld p 16 1 = 3) := by
  and_intros
  · exact ⟨31, (req 24 2 511 0 [(16, 1, 15), (17, 1, 3), (18, 2, 1000)]), (sent 31 0x0201 (req 24 2 511 0 [(16, 1, 15), (17, 1, 3), (18, 2, 1000)]) fw), by decide +kernel⟩
  · exact ⟨31, (req 16 2 511 0 []), (sent 31 0x0202 (req 16 2 511 0 []) fw), by decide +kernel⟩
  · exact ⟨31, (req 24 2 511 0 [(16, 1, 16)]), (sent 31 0x0203 (req 24 2 511 0 [(16, 1, 16)]) fw), by and_intros <;> first | exact some_all (by decide +kernel) | decide +kernel⟩
  · exact ⟨31, (req 24 2 511 0 [(16, 1, 0)]), (sent 31 0x0204 (req 24 2 511 0 [(16, 1, 0)]) (withLane 511 { rung := 0, cdr := true } fw)), by decide +kernel⟩
  · exact ⟨31, (req 24 2 511 0 [(16, 1, 1)]), (sent 31 0x0204 (req 24 2 511 0 [(16, 1, 1)]) (withLane 511 { rung := 0, frozen := true } fw)), by decide +kernel⟩
  · exact ⟨31, (req 24 2 511 0 [(16, 1, 2)]), (sent 31 0x0204 (req 24 2 511 0 [(16, 1, 2)]) (withLane 511 { rung := 0 } fw)), by decide +kernel⟩
  · exact ⟨31, (req 24 2 511 0 [(16, 1, 3)]), (sent 31 0x0204 (req 24 2 511 0 [(16, 1, 3)]) fw), by decide +kernel⟩

/-- States and operands that meet the hypotheses of PortConfigComplete, one for each of its clauses. -/
theorem witness_PortConfigComplete :
    (∃ (m : Nat) (p : List Byte) (s : State), waiting m 0x0210 p s = true ∧ addressedAny s p 32 [2] = true ∧ fld p 22 10 = 0 ∧ fld p 16 1 = 0 ∧ (pathOf p).index < laneCount s ∧ (port s (pathOf p).index).isSome = true) ∧
    (∃ (m : Nat) (p : List Byte) (s : State), waiting m 0x0210 p s = true ∧ addressedAny s p 32 [2] = true ∧ fld p 22 10 = 0 ∧ fld p 16 1 ∈ [1, 2, 4, 8] ∧ (pathOf p).index % fld p 16 1 = 0 ∧ (1 ≤ fld p 17 1 ∧ fld p 17 1 ≤ 3) ∧ fld p 18 1 ≤ 2 ∧ fld p 19 1 < 16 ∧ (fld p 20 2 = 0 ∨ 64 ≤ fld p 20 2 ∧ fld p 20 2 ≤ 16000) ∧ (pathOf p).index + fld p 16 1 ≤ laneCount s ∧ portOverlap s (pathOf p).index (fld p 16 1) = false ∧ (∀ i < fld p 16 1, (fld p 17 1 = 3 → noN400 s ((pathOf p).index + i) = false) ∧ classFits s (fld p 17 1) ((pathOf p).index + i) = true) ∧ atRun s (64 + groupOf (pathOf p).index) = true ∧ entryValid s.uc.active 0 = true ∧ (s.uc.st = .committed → entryValid s.uc.standby 0 = true)) := by
  and_intros
  · exact ⟨31, (req 32 2 511 0 [(16, 1, 0)]), (sent 31 0x0210 (req 32 2 511 0 [(16, 1, 0)]) (withPort 511 { } fw)), by decide +kernel⟩
  · exact ⟨31, (req 32 2 504 0 [(16, 1, 8), (17, 1, 3), (18, 1, 2), (19, 1, 15), (20, 2, 16000)]), (sent 31 0x0210 (req 32 2 504 0 [(16, 1, 8), (17, 1, 3), (18, 1, 2), (19, 1, 15), (20, 2, 16000)]) fwUc), by decide +kernel⟩

/-- States and operands that meet the hypotheses of PortCommandsComplete, one for each of its clauses. -/
theorem witness_PortCommandsComplete :
    (∃ (m : Nat) (p : List Byte) (s : State), waiting m 0x0211 p s = true ∧ addressed s p 16 [3] = true) ∧
    (∃ (m : Nat) (p : List Byte) (s : State), waiting m 0x0212 p s = true ∧ addressed s p 16 [3] = true) ∧
    (∃ (m : Nat) (p : List Byte) (s : State), waiting m 0x0213 p s = true ∧ addressed s p 36 [3] = true ∧ 1 ≤ fld p 18 2 ∧ (1 ≤ fld p 20 1 ∧ fld p 20 1 ≤ 4) ∧ (4 ≤ fld p 21 1 ∧ fld p 21 1 ≤ 16) ∧ 1 ≤ fld p 24 2 ∧ fld p 24 2 < fld p 22 2 ∧ fld p 26 2 = 0 ∧ fld p 28 4 ≤ 16777215 ∧ (1 ≤ fld p 32 4 ∧ fld p 32 4 ≤ 2 ^ 31)) ∧
    (∃ (m : Nat) (p : List Byte) (s : State), waiting m 0x0214 p s = true ∧ 48 ≤ p.length ∧ (p.drop 48).all (fun b => decide (b = 0)) = true ∧ synceBad p 0 = false ∧ synceBad p 16 = false ∧ (∀ a ∈ [0, 16], allZero (slice p a 16) = false → target s (pathOf (slice p a 16)) = .here ∧ unitExists s (pathOf (slice p a 16)) = true ∧ (portOfLane s (pathOf (slice p a 16)).index).isSome = true) ∧ fld p 32 1 < 4 ∧ fld p 33 1 < 16 ∧ fld p 34 14 = 0 ∧ (s.ident.half = true → fld p 33 1 < 4)) ∧
    (∃ (m : Nat) (p : List Byte) (s : State), waiting m 0x0220 p s = true ∧ addressed s p 24 [3] = true ∧ fld p 16 1 ≤ 15 ∧ fld p 17 7 = 0 ∧ entryValid s.uc.active (fld p 16 1) = true ∧ (s.uc.st = .committed → entryValid s.uc.standby (fld p 16 1) = true)) ∧
    (∃ (m : Nat) (p : List Byte) (s : State), waiting m 0x0221 p s = true ∧ addressed s p 24 [6] = true ∧ fld p 16 1 ≤ 1 ∧ fld p 17 7 = 0) := by
  and_intros
  · exact ⟨31, (req 16 3 511 0 []), (sent 31 0x0211 (req 16 3 511 0 []) (withPort 511 { } fw)), by decide +kernel⟩
  · exact ⟨31, (req 16 3 511 0 []), (sent 31 0x0212 (req 16 3 511 0 []) (withPort 511 { } fw)), by decide +kernel⟩
  · exact ⟨31, (req 36 3 511 0 [(16, 2, 65535), (18, 2, 1), (20, 1, 4), (21, 1, 16), (22, 2, 65535), (24, 2, 65534), (28, 4, 16777215), (32, 4, 2147483648)]), (sent 31 0x0213 (req 36 3 511 0 [(16, 2, 65535), (18, 2, 1), (20, 1, 4), (21, 1, 16), (22, 2, 65535), (24, 2, 65534), (28, 4, 16777215), (32, 4, 2147483648)]) (withPort 511 { } fw)), by decide +kernel⟩
  · exact ⟨31, (req 48 2 511 0 [(32, 1, 3), (33, 1, 15)]), (sent 31 0x0214 (req 48 2 511 0 [(32, 1, 3), (33, 1, 15)]) (withPort 511 { } fw)), by decide +kernel⟩
  · exact ⟨31, (req 24 3 511 0 [(16, 1, 15)]), (sent 31 0x0220 (req 24 3 511 0 [(16, 1, 15)]) (withPort 511 { } fwUc)), by decide +kernel⟩
  · exact ⟨31, (req 24 6 31 0 [(16, 1, 1)]), (sent 31 0x0221 (req 24 6 31 0 [(16, 1, 1)]) fw), by decide +kernel⟩

/-- States and operands that meet the hypotheses of TableCommandsComplete, one for each of its clauses. -/
theorem witness_TableCommandsComplete :
    (∃ (m : Nat) (p : List Byte) (s : State), waiting m 0x0301 p s = true ∧ addressed s p 48 [1] = true ∧ fld p 16 1 ≤ 63 ∧ fld p 17 1 = 0 ∧ fld p 31 1 = 0 ∧ fld p 40 8 = 0 ∧ tableHolds s (fld p 16 1) = false) ∧
    (∃ (m : Nat) (p : List Byte) (s : State), waiting m 0x0301 p s = true ∧ addressed s p 48 [1] = true ∧ fld p 16 1 ≤ 63 ∧ (fld p 17 1 = 1 ∨ fld p 17 1 = 2) ∧ fld p 31 1 = 0 ∧ fld p 40 8 = 0 ∧ fld p 18 1 ≤ 1 ∧ (10 ≤ fld p 19 1 ∧ fld p 19 1 ≤ 20) ∧ (fld p 20 4 % 2 ^ fld p 19 1 = 0 ∧ fld p 20 4 + 2 ^ fld p 19 1 ≤ 1048576) ∧ (1 ≤ fld p 24 2 ∧ fld p 24 2 ≤ (if fld p 18 1 = 1 then 216 else 88)) ∧ (fld p 17 1 = 2 → 40 ≤ fld p 24 2 ∧ fld p 24 2 + 66 ≤ (if fld p 18 1 = 1 then 256 else 128)) ∧ fld p 26 1 ≤ 2 ∧ fld p 27 1 ≤ 15 ∧ (fld p 26 1 ≠ 0 → 1 ≤ fld p 28 2 ∧ fld p 28 2 ≤ 32767) ∧ fld p 30 1 < 4 ∧ widthsOk s (fld p 16 1) (descOf p) = true ∧ mcastClear s (descOf p) = true ∧ tableHolds s (fld p 16 1) = false) ∧
    (∃ (m : Nat) (p : List Byte) (s : State) (d : TableDesc), waiting m 0x0302 p s = true ∧ addressed s p 64 [1] = true ∧ fwTable s (fld p 16 1) = some d ∧ d.ladder = true ∧ fld p 19 1 < 2 ∧ fld p 55 9 = 0 ∧ (fld p 19 1 = 0 → fld p 17 1 ≤ 31 ∧ (fld p 18 1 = 32 ∨ fld p 18 1 = 128) ∧ fld p 18 1 + 8 ≤ d.keyBits ∧ rungsOk p = true ∧ tableHolds s (fld p 16 1) = false)) ∧
    (∃ (m : Nat) (p : List Byte) (s : State) (d : TableDesc), waiting m 0x0303 p s = true ∧ addressed s p 64 [7] = true ∧ fwTable s (fld p 16 1) = some d ∧ (1 ≤ fld p 17 1 ∧ fld p 17 1 ≤ 5) ∧ fld p 18 1 < 2 ∧ fld p 19 1 = 0 ∧ fld p 20 4 = 0 ∧ fld p 24 8 = 0 ∧ (d.wide = true ∨ fld p 48 16 = 0) ∧ 1 ≤ cmdRoom s (pathOf p).index) ∧
    (∃ (m : Nat) (p : List Byte) (s : State) (d : TableDesc), waiting m 0x0303 p s = true ∧ addressed s p 64 [7] = true ∧ fwTable s (fld p 16 1) = some d ∧ fld p 17 1 = 6 ∧ fld p 18 1 < 2 ∧ fld p 19 1 < 4 ∧ (d.wide = true → fld p 19 1 % 2 = 0) ∧ inRegion d (fld p 20 4) = true ∧ fld p 24 8 = 0 ∧ (d.wide = true ∨ fld p 48 16 = 0) ∧ 1 ≤ cmdRoom s (pathOf p).index) ∧
    (∃ (m : Nat) (p : List Byte) (s : State) (d : TableDesc), waiting m 0x0303 p s = true ∧ addressed s p 64 [1] = true ∧ fwTable s (fld p 16 1) = some d ∧ d.learn = false ∧ (1 ≤ fld p 17 1 ∧ fld p 17 1 ≤ 5) ∧ fld p 18 1 < 2 ∧ fld p 19 1 = 0 ∧ fld p 20 4 = 0 ∧ fld p 24 8 = 0 ∧ (d.wide = true ∨ fld p 48 16 = 0) ∧ (∀ n < clusterCount s, 1 ≤ cmdRoom s n) ∧ tableBusy s m (fld p 16 1) = false) ∧
    (∃ (m : Nat) (p : List Byte) (s : State) (d : TableDesc), waiting m 0x0304 p s = true ∧ addressed s p 24 [1, 7] = true ∧ fld p 16 1 ≤ 63 ∧ fld p 17 7 = 0 ∧ fwTable s (fld p 16 1) = some d) := by
  and_intros
  · exact ⟨31, (req 48 1 0 0 [(16, 1, 63)]), (sent 31 0x0301 (req 48 1 0 0 [(16, 1, 63)]) fw), by decide +kernel⟩
  · exact ⟨31, (req 48 1 0 0 [(16, 1, 63), (17, 1, 2), (18, 1, 1), (19, 1, 20), (24, 2, 190), (26, 1, 2), (27, 1, 15), (28, 2, 32767), (30, 1, 3)]), (sent 31 0x0301 (req 48 1 0 0 [(16, 1, 63), (17, 1, 2), (18, 1, 1), (19, 1, 20), (24, 2, 190), (26, 1, 2), (27, 1, 15), (28, 2, 32767), (30, 1, 3)]) fw), by decide +kernel⟩
  · exact ⟨31, (req 64 1 0 0 [(16, 1, 63), (17, 1, 0), (18, 1, 128), (19, 1, 1)]), (sent 31 0x0302 (req 64 1 0 0 [(16, 1, 63), (17, 1, 0), (18, 1, 128), (19, 1, 1)]) (withTable 63 { ladder := true, wide := true, keyBits := 216, log2 := 10 } fw)), { ladder := true, wide := true, keyBits := 216, log2 := 10 }, by decide +kernel⟩
  · exact ⟨31, (req 64 7 3 0 [(16, 1, 63), (17, 1, 5), (18, 1, 1)]), (sent 31 0x0303 (req 64 7 3 0 [(16, 1, 63), (17, 1, 5), (18, 1, 1)]) (withTable 63 { ladder := true, wide := true, keyBits := 216, log2 := 10 } fw)), { ladder := true, wide := true, keyBits := 216, log2 := 10 }, by decide +kernel⟩
  · exact ⟨31, (req 64 7 3 0 [(16, 1, 63), (17, 1, 6), (18, 1, 1), (19, 1, 2), (20, 4, 1023)]), (sent 31 0x0303 (req 64 7 3 0 [(16, 1, 63), (17, 1, 6), (18, 1, 1), (19, 1, 2), (20, 4, 1023)]) (withTable 63 { ladder := true, wide := true, keyBits := 216, log2 := 10 } fw)), { ladder := true, wide := true, keyBits := 216, log2 := 10 }, by decide +kernel⟩
  · exact ⟨31, (req 64 1 0 0 [(16, 1, 63), (17, 1, 5), (18, 1, 1)]), (sent 31 0x0303 (req 64 1 0 0 [(16, 1, 63), (17, 1, 5), (18, 1, 1)]) (withTable 63 { ladder := true, wide := true, keyBits := 216, log2 := 10 } fw)), { ladder := true, wide := true, keyBits := 216, log2 := 10 }, by decide +kernel⟩
  · exact ⟨31, (req 24 7 3 0 [(16, 1, 63)]), (sent 31 0x0304 (req 24 7 3 0 [(16, 1, 63)]) (withTable 63 { ladder := true, wide := true, keyBits := 216, log2 := 10 } fw)), { ladder := true, wide := true, keyBits := 216, log2 := 10 }, by decide +kernel⟩

/-- States and operands that meet the hypotheses of MeterCommandsComplete, one for each of its clauses. -/
theorem witness_MeterCommandsComplete :
    (∃ (m : Nat) (p : List Byte) (s : State), waiting m 0x0305 p s = true ∧ addressed s p 56 [1, 7] = true ∧ fld p 16 4 ≤ 262079 ∧ fld p 20 4 = 0 ∧ ((meterOf (slice p 24 32)).rfc4115 = true ∨ (meterOf (slice p 24 32)).cir ≤ (meterOf (slice p 24 32)).pir) ∧ fld (slice p 24 32) 27 1 < 16 ∧ fld (slice p 24 32) 29 3 = 0) ∧
    (∃ (m : Nat) (p : List Byte) (s : State), waiting m 0x0306 p s = true ∧ addressed s p 24 [7] = true ∧ fld p 16 4 ≤ 262143 ∧ fld p 20 4 = 0) ∧
    (∃ (m : Nat) (p : List Byte) (s : State), waiting m 0x0307 p s = true ∧ addressed s p 32 [1, 7] = true ∧ (1 ≤ fld p 16 1 ∧ fld p 16 1 ≤ 0x3F) ∧ fld p 16 1 ≠ 0x0E ∧ fld p 16 1 ≠ 0x0F ∧ fld p 17 1 ≤ 1 ∧ fld p 18 1 ≤ 63 ∧ fld p 19 1 < 2 ∧ fld p 20 8 < 2 ^ 40 ∧ (64 ≤ fld p 28 4 ∧ fld p 28 4 ≤ 16777215)) := by
  and_intros
  · exact ⟨31, (req 56 7 3 0 [(16, 4, 262079)]), (sent 31 0x0305 (req 56 7 3 0 [(16, 4, 262079)]) fw), by decide +kernel⟩
  · exact ⟨31, (req 24 7 3 0 [(16, 4, 262143)]), (sent 31 0x0306 (req 24 7 3 0 [(16, 4, 262143)]) fw), by decide +kernel⟩
  · exact ⟨31, (req 32 1 0 0 [(16, 1, 63), (17, 1, 1), (18, 1, 63), (19, 1, 1), (20, 8, 1099511627775), (28, 4, 16777215)]), (sent 31 0x0307 (req 32 1 0 0 [(16, 1, 63), (17, 1, 1), (18, 1, 63), (19, 1, 1), (20, 8, 1099511627775), (28, 4, 16777215)]) fw), by decide +kernel⟩

/-- States and operands that meet the hypotheses of BufferCommandsComplete, one for each of its clauses. -/
theorem witness_BufferCommandsComplete :
    (∃ (m : Nat) (p : List Byte) (s : State), waiting m 0x0401 p s = true ∧ addressed s p 68 [4, 5] = true ∧ fld p 16 4 ≤ fld p 20 4 ∧ (1 ≤ fld p 20 4 ∧ fld p 20 4 ≤ 1310720) ∧ fld p 28 1 ≤ 11 ∧ fld p 29 1 < 2 ∧ fld p 30 2 = 0 ∧ (∀ i < 3, fld p (41 + 12 * i) 3 = 0) ∧ (fld p 29 1 = 1 → ∀ i < 3, (redOf p i).min < (redOf p i).max ∧ (redOf p i).max ≤ fld p 20 4) ∧ (fld p 29 1 = 1 → ∀ x, port (bufView s) (pathOf p).index = some x → ((List.range 20).filter (fun i => decide (i ≠ queueNo (pathOf p)) && (queue x i).priv)).length < 2) ∧ overdrawn (bufView s) (queueSetApply p (bufView s)) = false) ∧
    (∃ (m : Nat) (p : List Byte) (s : State), waiting m 0x0402 p s = true ∧ addressed s p 120 [3] = true ∧ fld p 17 1 < 2 ∧ fld p 20 4 = 0 ∧ (∀ i < 8, (fld p 16 1).testBit i = true → fld p (88 + 4 * i) 4 < fld p (56 + 4 * i) 4)) ∧
    (∃ (m : Nat) (p : List Byte) (s : State), waiting m 0x0403 p s = true ∧ addressed s p 48 [1] = true ∧ fld p 20 4 ≤ 65536 ∧ fld p 24 4 ≤ 262144 ∧ fld p 28 4 ≤ 65536 ∧ fld p 32 4 ≤ 65536 ∧ fld p 36 1 ≤ 63 ∧ fld p 37 1 ≤ 63 ∧ fld p 39 1 = 0 ∧ fld p 44 4 = 0 ∧ (fld p 38 1 = 0 ∨ 13 ≤ fld p 38 1 ∧ fld p 38 1 ≤ 20 ∧ fld p 40 4 % 2 ^ fld p 38 1 = 0 ∧ fld p 40 4 + 2 ^ fld p 38 1 ≤ 1048576) ∧ mcastFree s (fld p 40 4) (fld p 38 1) = true ∧ overdrawn (bufView s) (bufGlobalSetApply p (bufView s)) = false) ∧
    (∃ (m : Nat) (p : List Byte) (s : State), waiting m 0x0404 p s = true ∧ addressed s p 24 [8] = true ∧ fld p 16 1 ≤ 1 ∧ fld p 17 7 = 0 ∧ overdrawn (bufView s) (bufSectionSetApply p (bufView s)) = false) ∧
    (∃ (m : Nat) (p : List Byte) (s : State), waiting m 0x0405 p s = true ∧ addressed s p 32 [1] = true ∧ fld p 16 2 ≤ 32767 ∧ fld p 18 2 ≤ 512 ∧ fld p 24 8 = 0 ∧ (mcastRegion s).2 ≠ 0 ∧ (fld p 18 2 = 0 ∨ (mcastRegion s).1 + 4096 ≤ fld p 20 4 ∧ fld p 20 4 + cdiv (fld p 18 2) 16 ≤ (mcastRegion s).1 + 2 ^ (mcastRegion s).2)) ∧
    (∃ (m : Nat) (p : List Byte) (s : State), waiting m 0x0406 p s = true ∧ addressed s p 16 [1, 8] = true) ∧
    (∃ (m : Nat) (p : List Byte) (s : State) (x : Port), waiting m 0x0407 p s = true ∧ addressed s p 16 [4, 5] = true ∧ port s (pathOf p).index = some x) ∧
    (∃ (m : Nat) (p : List Byte) (s : State) (x : Port), waiting m 0x0408 p s = true ∧ addressed s p 16 [3] = true ∧ port s (pathOf p).index = some x) := by
  and_intros
  · exact ⟨31, (req 68 4 511 15 [(16, 4, 1000), (20, 4, 1310720), (28, 1, 11)]), (sent 31 0x0401 (req 68 4 511 15 [(16, 4, 1000), (20, 4, 1310720), (28, 1, 11)]) (withPort 511 { } fw)), by decide +kernel⟩
  · exact ⟨31, (req 120 3 511 0 [(16, 1, 1), (17, 1, 1), (56, 4, 1), (88, 4, 0)]), (sent 31 0x0402 (req 120 3 511 0 [(16, 1, 1), (17, 1, 1), (56, 4, 1), (88, 4, 0)]) (withPort 511 { } fw)), by decide +kernel⟩
  · exact ⟨31, (req 48 1 0 0 [(16, 4, 0), (20, 4, 65536), (24, 4, 262144), (28, 4, 65536), (32, 4, 65536), (36, 1, 63), (37, 1, 63), (38, 1, 20)]), (sent 31 0x0403 (req 48 1 0 0 [(16, 4, 0), (20, 4, 65536), (24, 4, 262144), (28, 4, 65536), (32, 4, 65536), (36, 1, 63), (37, 1, 63), (38, 1, 20)]) fw), by decide +kernel⟩
  · exact ⟨31, (req 24 8 7 0 [(16, 1, 1)]), (sent 31 0x0404 (req 24 8 7 0 [(16, 1, 1)]) fw), by decide +kernel⟩
  · exact ⟨31, (req 32 1 0 0 [(16, 2, 32767), (18, 2, 512), (20, 4, 1048544)]), (sent 31 0x0405 (req 32 1 0 0 [(16, 2, 32767), (18, 2, 512), (20, 4, 1048544)]) { fw with buf := { mcastLog2 := 20 } }), by decide +kernel⟩
  · exact ⟨31, (req 16 8 7 0 []), (sent 31 0x0406 (req 16 8 7 0 []) fw), by decide +kernel⟩
  · exact ⟨31, (req 16 4 511 15 []), (sent 31 0x0407 (req 16 4 511 15 []) (withPort 511 { } fw)), { }, by decide +kernel⟩
  · exact ⟨31, (req 16 3 511 0 []), (sent 31 0x0408 (req 16 3 511 0 []) (withPort 511 { } fw)), { }, by decide +kernel⟩

/-- States and operands that meet the hypotheses of SchedulerCommandsComplete, one for each of its clauses. -/
theorem witness_SchedulerCommandsComplete :
    (∃ (m : Nat) (p : List Byte) (s : State), waiting m 0x0501 p s = true ∧ addressed s p 56 [3] = true ∧ fld p 16 1 < 2 ∧ fld p 30 2 = 0 ∧ fld p 48 8 = 0 ∧ (∀ g < 8, groupByte p g < 4) ∧ (∀ g < 8, (groupByte p g).testBit 0 = false → groupBw p g = 0) ∧ (((List.range 8).filter (fun g => (groupByte p g).testBit 0)) ≠ [] → (((List.range 8).filter (fun g => (groupByte p g).testBit 0)).map (groupBw p)).sum = 100)) ∧
    (∃ (m : Nat) (p : List Byte) (s : State), waiting m 0x0502 p s = true ∧ addressed s p 24 [4, 5] = true ∧ fld p 16 1 ≤ 7 ∧ fld p 17 1 ≠ 0 ∧ (fld p 18 1 ≤ 7 ∨ fld p 18 1 = 255) ∧ fld p 19 5 = 0) ∧
    (∃ (m : Nat) (p : List Byte) (s : State), waiting m 0x0503 p s = true ∧ addressed s p 32 [3, 4, 5] = true ∧ levelOk (pathOf p) (fld p 16 1) = true ∧ fld p 17 1 < 4 ∧ fld p 18 2 = 0 ∧ fld p 20 8 < 2 ^ 40 ∧ (64 ≤ fld p 28 4 ∧ fld p 28 4 ≤ 16777215)) ∧
    (∃ (m : Nat) (p : List Byte) (s : State) (x : Port), waiting m 0x0504 p s = true ∧ addressed s p 24 [3, 4, 5] = true ∧ port s (pathOf p).index = some x ∧ levelOk (pathOf p) (fld p 16 1) = true ∧ fld p 17 7 = 0) ∧
    (∃ (m : Nat) (p : List Byte) (s : State), waiting m 0x0505 p s = true ∧ addressed s p 16 [3] = true) := by
  and_intros
  · exact ⟨31, (req 56 3 511 0 [(16, 1, 1)]), (sent 31 0x0501 (req 56 3 511 0 [(16, 1, 1)]) (withPort 511 { } fw)), by decide +kernel⟩
  · exact ⟨31, (req 24 4 511 15 [(16, 1, 7), (17, 1, 255), (18, 1, 255)]), (sent 31 0x0502 (req 24 4 511 15 [(16, 1, 7), (17, 1, 255), (18, 1, 255)]) (withPort 511 { } fw)), by decide +kernel⟩
  · exact ⟨31, (req 32 3 511 0 [(16, 1, 8), (17, 1, 3), (20, 8, 1099511627775), (28, 4, 16777215)]), (sent 31 0x0503 (req 32 3 511 0 [(16, 1, 8), (17, 1, 3), (20, 8, 1099511627775), (28, 4, 16777215)]) (withPort 511 { } fw)), by decide +kernel⟩
  · exact ⟨31, (req 24 3 511 0 [(16, 1, 8)]), (sent 31 0x0504 (req 24 3 511 0 [(16, 1, 8)]) (withPort 511 { } fw)), { }, by decide +kernel⟩
  · exact ⟨31, (req 16 3 511 0 []), (sent 31 0x0505 (req 16 3 511 0 []) (withPort 511 { } fw)), by decide +kernel⟩

/-- States and operands that meet the hypotheses of TimeCommandsComplete, one for each of its clauses. -/
theorem witness_TimeCommandsComplete :
    (∃ (m : Nat) (p : List Byte) (s : State), waiting m 0x0601 p s = true ∧ addressed s p 32 [1] = true ∧ fld p 16 1 < 4 ∧ fld p 17 1 = 0 ∧ fld p 20 4 < 10 ^ 9 ∧ fld p 30 2 = 0) ∧
    (∃ (m : Nat) (p : List Byte) (s : State), waiting m 0x0602 p s = true ∧ addressed s p 40 [3] = true ∧ fld p 16 1 < 32 ∧ fld p 17 3 = 0 ∧ adjOk (sInt 16 (fld p 20 2)) = true ∧ adjOk (sInt 16 (fld p 22 2)) = true ∧ (fld p 16 1).testBit 3 = false) ∧
    (∃ (m : Nat) (p : List Byte) (s : State) (x : Port), waiting m 0x0602 p s = true ∧ addressed s p 40 [3] = true ∧ fld p 16 1 < 32 ∧ fld p 17 3 = 0 ∧ adjOk (sInt 16 (fld p 20 2)) = true ∧ adjOk (sInt 16 (fld p 22 2)) = true ∧ (fld p 16 1).testBit 3 = true ∧ port s (pathOf p).index = some x ∧ s.power.stateRo = false ∧ s.power.logWait.length + s.power.stateWait.length < 256) ∧
    (∃ (m : Nat) (p : List Byte) (s : State), waiting m 0x0603 p s = true ∧ addressed s p 56 [1] = true ∧ fld p 16 1 ≤ 1 ∧ fld p 17 1 ≤ 4 ∧ (fld p 17 1 = 3 → fld p 18 1 ≤ 7) ∧ fld p 19 1 < 2 ∧ fld p 21 3 = 0 ∧ fld p 24 4 < 2 ^ 24 ∧ fld p 28 4 < 2 ^ 24 ∧ (1 ≤ fld p 32 4 ∧ fld p 32 4 ≤ 500000) ∧ fld p 40 4 ≠ 0 ∧ (1 ≤ fld p 44 4 ∧ fld p 44 4 ≤ 16777215) ∧ fld p 52 4 = 0) ∧
    (∃ (m : Nat) (p : List Byte) (s : State), waiting m 0x0604 p s = true ∧ addressed s p 32 [1] = true ∧ fld p 16 1 ≤ 63 ∧ fld p 17 1 ≤ 63 ∧ fld p 18 1 ≤ 63 ∧ fld p 19 1 < 4 ∧ (1 ≤ fld p 24 4 ∧ fld p 24 4 ≤ 100000) ∧ fld p 28 4 = 0) ∧
    (∃ (m : Nat) (p : List Byte) (s : State), waiting m 0x0605 p s = true ∧ addressed s p 24 [1] = true ∧ fld p 16 1 ≤ 1 ∧ fld p 17 1 < 2 ∧ fld p 18 6 = 0 ∧ (fld p 17 1 = 1 ∨ (dom s (fld p 16 1)).locked = true ∧ s.time.split = false)) ∧
    (∃ (m : Nat) (p : List Byte) (s : State), waiting m 0x0607 p s = true ∧ fld p 17 1 ≤ 32 ∧ addressed s p (32 + 16 * fld p 17 1) [1] = true ∧ fld p 16 1 ≤ 1 ∧ fld p 18 14 = 0 ∧ (∀ j < fld p 17 1, (fld p (42 + 16 * j) 2 < laneCount s ∨ fld p (42 + 16 * j) 2 = 0xFFFF) ∧ fld p (44 + 16 * j) 4 = 0)) ∧
    (∃ (m : Nat) (p : List Byte) (s : State), waiting m 0x0608 p s = true ∧ addressed s p 32 [1] = true ∧ fld p 16 1 ≤ 1 ∧ fld p 17 1 < 4 ∧ fld p 19 1 ≤ 1 ∧ fld p 28 1 ≤ 15 ∧ fld p 29 1 ≤ 15 ∧ fld p 30 1 ≤ 1 ∧ fld p 31 1 = 0) ∧
    (∃ (m : Nat) (p : List Byte) (s : State), waiting m 0x0606 p s = true ∧ addressed s p 16 [1] = true) ∧
    (∃ (m : Nat) (p : List Byte) (s : State) (x : Port), waiting m 0x0606 p s = true ∧ addressed s p 16 [3] = true ∧ port s (pathOf p).index = some x) := by
  and_intros
  · exact ⟨31, (req 32 1 0 0 [(16, 1, 3), (20, 4, 999999999)]), (sent 31 0x0601 (req 32 1 0 0 [(16, 1, 3), (20, 4, 999999999)]) fw), by decide +kernel⟩
  · exact ⟨31, (req 40 3 511 0 [(16, 1, 23)]), (sent 31 0x0602 (req 40 3 511 0 [(16, 1, 23)]) (withPort 511 { } fw)), by decide +kernel⟩
  · exact ⟨31, (req 40 3 511 0 [(16, 1, 31)]), (sent 31 0x0602 (req 40 3 511 0 [(16, 1, 31)]) (withPort 511 { } fw)), { }, by decide +kernel⟩
  · exact ⟨31, (req 56 1 0 0 [(16, 1, 1), (17, 1, 4), (19, 1, 1), (24, 4, 16777215), (28, 4, 16777215), (32, 4, 500000), (40, 4, 1), (44, 4, 16777215)]), (sent 31 0x0603 (req 56 1 0 0 [(16, 1, 1), (17, 1, 4), (19, 1, 1), (24, 4, 16777215), (28, 4, 16777215), (32, 4, 500000), (40, 4, 1), (44, 4, 16777215)]) fw), by decide +kernel⟩
  · exact ⟨31, (req 32 1 0 0 [(16, 1, 63), (17, 1, 63), (18, 1, 63), (19, 1, 3), (24, 4, 100000)]), (sent 31 0x0604 (req 32 1 0 0 [(16, 1, 63), (17, 1, 63), (18, 1, 63), (19, 1, 3), (24, 4, 100000)]) fw), by decide +kernel⟩
  · exact ⟨31, (req 24 1 0 0 [(16, 1, 1), (17, 1, 1)]), (sent 31 0x0605 (req 24 1 0 0 [(16, 1, 1), (17, 1, 1)]) fw), by decide +kernel⟩
  · exact ⟨31, (req 544 1 0 0 [(16, 1, 1), (17, 1, 32)]), (sent 31 0x0607 (req 544 1 0 0 [(16, 1, 1), (17, 1, 32)]) fw), by decide +kernel⟩
  · exact ⟨31, (req 32 1 0 0 [(16, 1, 1), (17, 1, 3), (19, 1, 1), (28, 1, 15), (29, 1, 15), (30, 1, 1)]), (sent 31 0x0608 (req 32 1 0 0 [(16, 1, 1), (17, 1, 3), (19, 1, 1), (28, 1, 15), (29, 1, 15), (30, 1, 1)]) fw), by decide +kernel⟩
  · exact ⟨31, (req 16 1 0 0 []), (sent 31 0x0606 (req 16 1 0 0 []) fw), by decide +kernel⟩
  · exact ⟨31, (req 16 3 511 0 []), (sent 31 0x0606 (req 16 3 511 0 []) (withPort 511 { } fw)), { }, by decide +kernel⟩

/-- States and operands that meet the hypotheses of TelemetrySettingsComplete, one for each of its clauses. -/
theorem witness_TelemetrySettingsComplete :
    (∃ (m : Nat) (p : List Byte) (s : State), waiting m 0x0701 p s = true ∧ addressed s p 56 [1] = true ∧ fld p 16 1 < 32 ∧ (10 ≤ fld p 17 1 ∧ fld p 17 1 ≤ 20) ∧ (10 ≤ fld p 18 1 ∧ fld p 18 1 ≤ 22) ∧ fld p 19 1 = 0 ∧ (2 ≤ fld p 20 2 ∧ fld p 20 2 ≤ 256) ∧ fld p 22 2 = 0 ∧ (memChecks p).all (fun c => c.1) = true ∧ (∀ e ∈ List.zip (memNow (telemView s)) (memAreas p), e.1.1 = true → e.2.1 = true → e.1.2.1 = e.2.2.1 ∧ e.1.2.2 = e.2.2.2.1)) ∧
    (∃ (m : Nat) (p : List Byte) (s : State), waiting m 0x0702 p s = true ∧ addressed s p 32 [1] = true ∧ (1 ≤ fld p 20 4 ∧ fld p 20 4 ≤ 4194304) ∧ (1 ≤ fld p 24 4 ∧ fld p 24 4 ≤ 4194304) ∧ fld p 28 4 = 0 ∧ (fld p 16 4 = s.telem.seed.toNat ∨ flowAnyValid s = false)) ∧
    (∃ (m : Nat) (p : List Byte) (s : State), waiting m 0x0703 p s = true ∧ addressed s p 40 [1] = true ∧ fld p 16 1 ≤ 63 ∧ fld p 17 1 = 0 ∧ (∀ i < 10, fld p (18 + 2 * i) 2 < 4096) ∧ (∀ v ∈ profileSegs p, v / 32 % 128 ≤ 88) ∧ ((profileSegs p).map (fun v => v % 32 + 1)).sum ≤ 320 ∧ fld p 38 2 = 0) ∧
    (∃ (m : Nat) (p : List Byte) (s : State), waiting m 0x0704 p s = true ∧ fld p 18 1 ≤ 48 ∧ addressed s p (24 + 16 * fld p 18 1) [1] = true ∧ fld p 16 2 ≤ 255 ∧ fld p 16 2 + fld p 18 1 ≤ 256 ∧ fld p 19 1 < 4 ∧ fld p 20 4 = 0 ∧ (∀ j < fld p 18 1, (itemChecks s p j).all (fun c => c.1) = true ∧ itemFused s (dumpItem p j) = false) ∧ (fld p 19 1).testBit 0 = false) ∧
    (∃ (m : Nat) (p : List Byte) (s : State), waiting m 0x0704 p s = true ∧ fld p 18 1 ≤ 48 ∧ addressed s p (24 + 16 * fld p 18 1) [1] = true ∧ fld p 16 2 ≤ 255 ∧ fld p 16 2 + fld p 18 1 ≤ 256 ∧ fld p 19 1 < 4 ∧ fld p 20 4 = 0 ∧ (∀ j < fld p 18 1, (itemChecks s p j).all (fun c => c.1) = true ∧ itemFused s (dumpItem p j) = false) ∧ let t1 := (List.range (fld p 18 1)).foldl (fun t j => tabPut t (fld p 16 2 + j) (dumpItem p j)) (if (fld p 19 1).testBit 1 then [] else s.telem.staged); (fld p 19 1).testBit 0 = true ∧ ((stagedItems t1).map itemBytes).sum ≤ 1048512) ∧
    (∃ (m : Nat) (p : List Byte) (s : State) (r : Nat × Nat × Bool), waiting m 0x0705 p s = true ∧ addressed s p 32 [1] = true ∧ fld p 16 2 ≤ 1023 ∧ watchRange (fld p 18 2) = some r ∧ (fld p 20 1 = 0 ∨ r.2.2 = true ∧ (fld p 20 1 = 1 ∨ fld p 20 1 = 2) ∨ r.2.2 = false ∧ fld p 20 1 = 3) ∧ fld p 21 1 ≤ r.2.1 ∧ fld p 22 2 < r.1 ∧ watchFused s (fld p 18 2) (fld p 22 2) = false) ∧
    (∃ (m : Nat) (p : List Byte) (s : State), waiting m 0x0706 p s = true ∧ addressed s p 24 [3, 6] = true ∧ fld p 16 4 ≤ 16777216 ∧ fld p 20 4 = 0) ∧
    (∃ (m : Nat) (p : List Byte) (s : State), waiting m 0x0707 p s = true ∧ addressed s p 96 [3] = true) ∧
    (∃ (m : Nat) (p : List Byte) (s : State), waiting m 0x0707 p s = true ∧ addressed s p 96 [1] = true ∧ fld p 16 1 = 0 ∧ fld p 17 1 ≤ 63 ∧ fld p 18 1 ≤ 63 ∧ fld p 19 1 ≤ 63 ∧ fld p 20 4 = 0 ∧ fld p 31 1 = 0 ∧ (∀ j < 4, fld p (34 + 16 * j) 1 < 2 ∧ fld p (35 + 16 * j) 1 = 0) ∧ (∀ j < 4, ∀ k < j, (ioamNs p j).valid = true → (ioamNs p k).valid = true → (ioamNs p k).id ≠ (ioamNs p j).id)) := by
  and_intros
  · exact ⟨31, (req 56 1 0 0 [(16, 1, 0), (17, 1, 20), (18, 1, 22), (20, 2, 256)]), (sent 31 0x0701 (req 56 1 0 0 [(16, 1, 0), (17, 1, 20), (18, 1, 22), (20, 2, 256)]) fw), by decide +kernel⟩
  · exact ⟨31, (req 32 1 0 0 [(16, 4, 1), (20, 4, 4194304), (24, 4, 4194304)]), (sent 31 0x0702 (req 32 1 0 0 [(16, 4, 1), (20, 4, 4194304), (24, 4, 4194304)]) fw), by decide +kernel⟩
  · exact ⟨31, (req 40 1 0 0 [(16, 1, 63)]), (sent 31 0x0703 (req 40 1 0 0 [(16, 1, 63)]) fw), by decide +kernel⟩
  · exact ⟨31, (req 24 1 0 0 [(16, 2, 255)]), (sent 31 0x0704 (req 24 1 0 0 [(16, 2, 255)]) fw), by decide +kernel⟩
  · exact ⟨31, (req 24 1 0 0 [(16, 2, 255), (19, 1, 3)]), (sent 31 0x0704 (req 24 1 0 0 [(16, 2, 255), (19, 1, 3)]) fw), by and_intros <;> decide +kernel⟩
  · exact ⟨31, (req 32 1 0 0 [(16, 2, 1023), (18, 2, 1543), (20, 1, 2), (21, 1, 7), (22, 2, 511)]), (sent 31 0x0705 (req 32 1 0 0 [(16, 2, 1023), (18, 2, 1543), (20, 1, 2), (21, 1, 7), (22, 2, 511)]) fw), (512, 7, true), by decide +kernel⟩
  · exact ⟨31, (req 24 6 31 0 [(16, 4, 16777216)]), (sent 31 0x0706 (req 24 6 31 0 [(16, 4, 16777216)]) fw), by decide +kernel⟩
  · exact ⟨31, (req 96 3 511 0 []), (sent 31 0x0707 (req 96 3 511 0 []) (withPort 511 { } fw)), by decide +kernel⟩
  · exact ⟨31, (req 96 1 0 0 [(17, 1, 63), (18, 1, 63), (19, 1, 63)]), (sent 31 0x0707 (req 96 1 0 0 [(17, 1, 63), (18, 1, 63), (19, 1, 63)]) fw), by decide +kernel⟩

/-- States and operands that meet the hypotheses of StackCommandsComplete, one for each of its clauses. -/
theorem witness_StackCommandsComplete :
    (∃ (m : Nat) (p : List Byte) (s : State), waiting m 0x0801 p s = true ∧ addressed s p 32 [1] = true ∧ fld p 16 1 ≤ 8 ∧ fld p 18 1 < 4 ∧ (fld p 19 1 = 0 ∨ 2 ≤ fld p 19 1 ∧ fld p 19 1 ≤ 16) ∧ (fld p 20 2 = 0 ∨ 100 ≤ fld p 20 2 ∧ fld p 20 2 ≤ 4000) ∧ fld p 22 2 = 0 ∧ pathPrefix (fld p 24 6) (fld p 16 1) = fld p 24 6 ∧ fld p 30 2 = 0 ∧ (fld p 16 1 = s.stack.levels ∧ fld p 24 6 = s.stack.own ∨ anyLive s = false)) ∧
    (∃ (m : Nat) (p : List Byte) (s : State) (x : Port), waiting m 0x0802 p s = true ∧ addressed s p 24 [3] = true ∧ port s (pathOf p).index = some x ∧ 800 ≤ cfgRate x ∧ x.neg ≠ 1 ∧ fld p 16 1 < 2 ∧ fld p 17 1 ≤ 15 ∧ fld p 18 6 = 0) ∧
    (∃ (m : Nat) (p : List Byte) (s : State), waiting m 0x0803 p s = true ∧ addressed s p 24 [1] = true ∧ (1 ≤ fld p 16 1 ∧ fld p 16 1 ≤ 8) ∧ fld p 17 1 ≤ 63 ∧ (fld p 18 1 ≤ 15 ∨ fld p 18 1 = 255) ∧ fld p 19 5 = 0) ∧
    (∃ (m : Nat) (p : List Byte) (s : State), waiting m 0x0804 p s = true ∧ addressed s p 32 [1] = true ∧ fld p 16 2 ≤ 4095 ∧ fld p 18 1 ≤ 8 ∧ fld p 19 1 = 0 ∧ pathPrefix (fld p 20 6) (fld p 18 1) = fld p 20 6 ∧ fld p 26 6 = 0) ∧
    (∃ (m : Nat) (p : List Byte) (s : State), waiting m 0x0805 p s = true ∧ addressed s p 16 [1] = true) ∧
    (∃ (m : Nat) (p : List Byte) (s : State) (x : Port), waiting m 0x0806 p s = true ∧ addressed s p 16 [3] = true ∧ port s (pathOf p).index = some x) ∧
    (∃ (m : Nat) (p : List Byte) (s : State), waiting m 0x0807 p s = true ∧ addressed s p 24 [1] = true ∧ fld p 17 7 = 0) := by
  and_intros
  · exact ⟨31, (req 32 1 0 0 [(16, 1, 8), (18, 1, 3), (19, 1, 16), (20, 2, 4000)]), (sent 31 0x0801 (req 32 1 0 0 [(16, 1, 8), (18, 1, 3), (19, 1, 16), (20, 2, 4000)]) fw), by decide +kernel⟩
  · exact ⟨31, (req 24 3 504 0 [(16, 1, 1), (17, 1, 15)]), (sent 31 0x0802 (req 24 3 504 0 [(16, 1, 1), (17, 1, 15)]) (withPort 504 { width := 8, mode := 2 } fw)), { width := 8, mode := 2 }, by decide +kernel⟩
  · exact ⟨31, (req 24 1 0 0 [(16, 1, 8), (17, 1, 63), (18, 1, 255)]), (sent 31 0x0803 (req 24 1 0 0 [(16, 1, 8), (17, 1, 63), (18, 1, 255)]) fw), by decide +kernel⟩
  · exact ⟨31, (req 32 1 0 0 [(16, 2, 4095), (18, 1, 8)]), (sent 31 0x0804 (req 32 1 0 0 [(16, 2, 4095), (18, 1, 8)]) fw), by decide +kernel⟩
  · exact ⟨31, (req 16 1 0 0 []), (sent 31 0x0805 (req 16 1 0 0 []) fw), by decide +kernel⟩
  · exact ⟨31, (req 16 3 511 0 []), (sent 31 0x0806 (req 16 3 511 0 []) (withPort 511 { } fw)), { }, by decide +kernel⟩
  · exact ⟨31, (req 24 1 0 0 [(16, 1, 255)]), (sent 31 0x0807 (req 24 1 0 0 [(16, 1, 255)]) fw), by decide +kernel⟩

/-- States and operands that meet the hypotheses of UnitStatusComplete, one for each of its clauses. -/
theorem witness_UnitStatusComplete :
    (∃ (m : Nat) (p : List Byte) (s : State), waiting m 0x0101 p s = true ∧ addressed s p 16 [1] = true) ∧
    (∃ (m : Nat) (p : List Byte) (s : State), waiting m 0x0102 p s = true ∧ addressed s p 16 [1, 2, 3, 4, 5, 6, 7, 8, 9] = true) ∧
    (∃ (m : Nat) (p : List Byte) (s : State), waiting m 0x0103 p s = true ∧ addressed s p 24 [1, 2, 3, 4, 5, 6, 7, 8, 9] = true ∧ (1 ≤ fld p 18 1 ∧ fld p 18 1 ≤ 64) ∧ fld p 20 4 = 0) ∧
    (∃ (m : Nat) (p : List Byte) (s : State), waiting m 0x0105 p s = true ∧ addressed s p 16 [1, 2, 3, 4, 5, 6, 7, 8, 9] = true) := by
  and_intros
  · exact ⟨31, (req 16 1 0 0 []), (sent 31 0x0101 (req 16 1 0 0 []) fw), by decide +kernel⟩
  · exact ⟨31, (req 16 9 63 0 []), (sent 31 0x0102 (req 16 9 63 0 []) fw), by decide +kernel⟩
  · exact ⟨31, (req 24 1 0 0 [(16, 2, 65535), (18, 1, 64)]), (sent 31 0x0103 (req 24 1 0 0 [(16, 2, 65535), (18, 1, 64)]) fw), by decide +kernel⟩
  · exact ⟨31, (req 16 8 7 0 []), (sent 31 0x0105 (req 16 8 7 0 []) fw), by decide +kernel⟩

/-- States and operands that meet the hypotheses of RungCommandsComplete, one for each of its clauses. -/
theorem witness_RungCommandsComplete :
    (∃ (m : Nat) (p : List Byte) (s : State), waiting m 0x0104 p s = true ∧ addressed s p 24 [2] = true ∧ fld p 16 1 ≤ 5 ∧ fld p 17 7 = 0) ∧
    (∃ (m : Nat) (p : List Byte) (s : State), waiting m 0x0104 p s = true ∧ addressed s p 24 [9] = true ∧ fld p 16 1 ≤ 5 ∧ fld p 17 7 = 0) ∧
    (∃ (m : Nat) (p : List Byte) (s : State) (d : Nat), waiting m 0x0104 p s = true ∧ addressed s p 24 [6, 7, 8] = true ∧ fld p 16 1 ≤ 5 ∧ fld p 17 7 = 0 ∧ unitDom (pathOf p).kind (pathOf p).index = some d ∧ rungRefused s d (fld p 16 1) = false ∧ ((pathOf p).kind = 8 → fld p 16 1 ≠ 0 → overdrawn (bufView s) (modSect (d - 96) (fun x => { x with drain := true }) (bufView s)) = false)) ∧
    (∃ (m : Nat) (p : List Byte) (s : State) (d : Nat), waiting m 0x0104 p s = true ∧ addressed s p 24 [6, 7, 8] = true ∧ fld p 16 1 ≤ 5 ∧ fld p 17 7 = 0 ∧ unitDom (pathOf p).kind (pathOf p).index = some d ∧ rungRefused s d (fld p 16 1) = false ∧ (pathOf p).kind = 8 ∧ fld p 16 1 ≠ 0 ∧ overdrawn (bufView s) (modSect (d - 96) (fun x => { x with drain := true }) (bufView s)) = false) ∧
    (∃ (m : Nat) (p : List Byte) (s : State) (d : Nat), waiting m 0x0104 p s = true ∧ addressed s p 24 [6, 7, 8] = true ∧ fld p 16 1 ≤ 5 ∧ fld p 17 7 = 0 ∧ unitDom (pathOf p).kind (pathOf p).index = some d ∧ rungRefused s d (fld p 16 1) = false ∧ (pathOf p).kind = 8 ∧ fld p 16 1 ≠ 0 ∧ overdrawn (bufView s) (modSect (d - 96) (fun x => { x with drain := true }) (bufView s)) = true) ∧
    (∃ (m : Nat) (p : List Byte) (s : State), waiting m 0x0903 p s = true ∧ addressed s p 24 [1] = true ∧ fld p 16 1 ∈ [108, 109, 111, 112] ∧ fld p 17 1 ≤ (if fld p 16 1 = 109 then 3 else 5) ∧ fld p 18 6 = 0 ∧ rungRefused s (fld p 16 1) (fld p 17 1) = false) := by
  and_intros
  · exact ⟨31, (req 24 2 511 0 [(16, 1, 5)]), (sent 31 0x0104 (req 24 2 511 0 [(16, 1, 5)]) fw), by decide +kernel⟩
  · exact ⟨31, (req 24 9 63 0 [(16, 1, 5)]), (sent 31 0x0104 (req 24 9 63 0 [(16, 1, 5)]) fw), by decide +kernel⟩
  · exact ⟨31, (req 24 6 31 0 [(16, 1, 3)]), (sent 31 0x0104 (req 24 6 31 0 [(16, 1, 3)]) fw), 95, by decide +kernel⟩
  · exact ⟨31, (req 24 8 7 0 [(16, 1, 1)]), (sent 31 0x0104 (req 24 8 7 0 [(16, 1, 1)]) fw), 103, by decide +kernel⟩
  · exact ⟨31, (req 24 8 7 0 [(16, 1, 1)]), (sent 31 0x0104 (req 24 8 7 0 [(16, 1, 1)]) { fw with buf := { kitty := 1310720 } }), 103, by decide +kernel⟩
  · exact ⟨31, (req 24 1 0 0 [(16, 1, 112), (17, 1, 3)]), (sent 31 0x0903 (req 24 1 0 0 [(16, 1, 112), (17, 1, 3)]) fw), by decide +kernel⟩

/-- States and operands that meet the hypotheses of PowerCommandsComplete, one for each of its clauses. -/
theorem witness_PowerCommandsComplete :
    (∃ (m : Nat) (p : List Byte) (s : State), waiting m 0x0901 p s = true ∧ addressed s p 32 [1] = true ∧ (fld p 16 4 = 0 ∨ 100 ≤ fld p 16 4 ∧ fld p 16 4 ≤ 1200) ∧ fld p 20 1 < 2 ∧ fld p 21 1 ≤ 5 ∧ fld p 26 6 = 0) ∧
    (∃ (m : Nat) (p : List Byte) (s : State), waiting m 0x0902 p s = true ∧ addressed s p 88 [1] = true ∧ fld p 16 1 ≤ 64 ∧ fld p 17 7 = 0 ∧ (∀ i < fld p 16 1, fld p (24 + i) 1 < octetCount s) ∧ (∀ i < fld p 16 1, ∀ j < i, fld p (24 + j) 1 ≠ fld p (24 + i) 1) ∧ (∀ i < 64, fld p 16 1 ≤ i → fld p (24 + i) 1 = 0) ∧ s.power.shedOcts = []) ∧
    (∃ (m : Nat) (p : List Byte) (s : State), waiting m 0x0904 p s = true ∧ addressed s p 16 [1] = true) ∧
    (∃ (m : Nat) (p : List Byte) (s : State), waiting m 0x0905 p s = true ∧ addressed s p 24 [1] = true) := by
  and_intros
  · exact ⟨31, (req 32 1 0 0 [(16, 4, 1200), (20, 1, 1), (21, 1, 5)]), (sent 31 0x0901 (req 32 1 0 0 [(16, 4, 1200), (20, 1, 1), (21, 1, 5)]) fw), by decide +kernel⟩
  · exact ⟨31, (req 88 1 0 0 [(16, 1, 2), (24, 1, 63), (25, 1, 62)]), (sent 31 0x0902 (req 88 1 0 0 [(16, 1, 2), (24, 1, 63), (25, 1, 62)]) fw), by decide +kernel⟩
  · exact ⟨31, (req 16 1 0 0 []), (sent 31 0x0904 (req 16 1 0 0 []) fw), by decide +kernel⟩
  · exact ⟨31, (req 24 1 0 0 [(16, 8, 2 ^ 64 - 1)]), (sent 31 0x0905 (req 24 1 0 0 [(16, 8, 2 ^ 64 - 1)]) fw), by decide +kernel⟩

/-- States and operands that meet the hypotheses of FaultCommandsComplete, one for each of its clauses. -/
theorem witness_FaultCommandsComplete :
    (∃ (m : Nat) (p : List Byte) (s : State), waiting m 0x0A01 p s = true ∧ addressed s p 32 [1] = true ∧ fld p 16 1 ≤ 68 ∧ fld p 17 1 ≤ 2 ∧ (fld p 17 1 = 2 → 49 ≤ fld p 16 1 ∧ fld p 16 1 ≤ 51) ∧ fld p 20 4 < 2 ^ 24 ∧ fld p 24 8 = 0 ∧ (srcFixed (fld p 16 1) = true → fld p 17 1 = (fltDefault (fld p 16 1)).cls ∧ fld p 18 2 = (fltDefault (fld p 16 1)).n ∧ fld p 20 4 = (fltDefault (fld p 16 1)).w)) ∧
    (∃ (m : Nat) (p : List Byte) (s : State) (l : List (Nat × Nat × FltInst)), waiting m 0x0A02 p s = true ∧ addressed s p 24 [1, 2, 3, 4, 5, 6, 7, 8, 9] = true ∧ fld p 17 7 = 0 ∧ statusInsts s (pathOf p) (fld p 16 1) = some l) ∧
    (∃ (m : Nat) (p : List Byte) (s : State), waiting m 0x0A03 p s = true ∧ addressed s p 24 [1, 2, 3, 4, 5, 6, 7, 8, 9] = true ∧ (fld p 16 1 ≤ 68 ∨ fld p 16 1 = 255) ∧ fld p 17 1 < 4 ∧ fld p 18 6 = 0) ∧
    (∃ (m : Nat) (p : List Byte) (s : State), waiting m 0x0A04 p s = true ∧ addressed s p 16 [1] = true) ∧
    (∃ (m : Nat) (p : List Byte) (s : State) (ch : List Byte), waiting m 0x0A05 p s = true ∧ addressed s p 32 [1] = true ∧ s.ciph.owner ≠ 1 ∧ s.ciph.owner ≠ 2 ∧ s.flt.challenge = some ch ∧ tokenOf ch = slice p 16 16) ∧
    (∃ (m : Nat) (p : List Byte) (s : State), waiting m 0x0A05 p s = true ∧ addressed s p 32 [1] = true ∧ s.ciph.owner ≠ 1 ∧ s.ciph.owner ≠ 2 ∧ (∀ ch, s.flt.challenge = some ch → tokenOf ch ≠ slice p 16 16)) ∧
    (∃ (m : Nat) (p : List Byte) (s : State), waiting m 0x0A06 p s = true ∧ addressed s p 16 [1] = true) ∧
    (∃ (m : Nat) (p : List Byte) (s : State), waiting m 0x0C01 p s = true ∧ addressed s p 32 [1, 2, 3, 4, 5, 6, 7, 8, 9] = true ∧ fld p 16 1 ≤ 68 ∧ srcFixed (fld p 16 1) = false ∧ (srcKinds (fld p 16 1)).contains (pathOf p).kind = true ∧ fld p 17 1 = 0 ∧ (1 ≤ fld p 18 2 ∧ fld p 18 2 ≤ 1024) ∧ fld p 24 8 = 0) := by
  and_intros
  · exact ⟨31, (req 32 1 0 0 [(16, 1, 51), (17, 1, 2), (18, 2, 65535), (20, 4, 16777215)]), (sent 31 0x0A01 (req 32 1 0 0 [(16, 1, 51), (17, 1, 2), (18, 2, 65535), (20, 4, 16777215)]) fw), by decide +kernel⟩
  · exact ⟨31, (req 24 1 0 0 [(16, 1, 68)]), (sent 31 0x0A02 (req 24 1 0 0 [(16, 1, 68)]) fw), [], by decide +kernel⟩
  · exact ⟨31, (req 24 9 63 0 [(16, 1, 255), (17, 1, 3)]), (sent 31 0x0A03 (req 24 9 63 0 [(16, 1, 255), (17, 1, 3)]) fw), by decide +kernel⟩
  · exact ⟨31, (req 16 1 0 0 []), (sent 31 0x0A04 (req 16 1 0 0 []) fw), by decide +kernel⟩
  · exact ⟨31, unlockReq, (sent 31 0x0A05 unlockReq { fw with flt := { challenge := some (zeros 16) } }), (zeros 16), waiting_sent _ _ _ _ rfl rfl (by decide) rfl, by and_intros <;> first | exact token_slice | decide +kernel⟩
  · exact ⟨31, (req 32 1 0 0 []), (sent 31 0x0A05 (req 32 1 0 0 []) fw), by and_intros <;> first | exact some_all (by decide +kernel) | decide +kernel⟩
  · exact ⟨31, (req 16 1 0 0 []), (sent 31 0x0A06 (req 16 1 0 0 []) fw), by decide +kernel⟩
  · exact ⟨31, (req 32 8 7 0 [(16, 1, 65), (18, 2, 1024)]), (sent 31 0x0C01 (req 32 8 7 0 [(16, 1, 65), (18, 2, 1024)]) fw), by decide +kernel⟩

/-- States and operands that meet the hypotheses of ImageCommandsComplete, one for each of its clauses. -/
theorem witness_ImageCommandsComplete :
    (∃ (m : Nat) (p : List Byte) (s : State), waiting m 0x0B01 p s = true ∧ storeOk s true = true ∧ addressed s p 32 [1] = true ∧ s.boot.flash = none ∧ s.ciph.owner ≠ 1 ∧ s.ciph.owner ≠ 2 ∧ fld p 28 4 = 0 ∧ fld p 16 8 % 64 = 0 ∧ fld p 16 8 + fld p 24 4 ≤ windowLen ∧ fld p 24 4 = 64 + memFld s.devMem (fld p 16 8 + 20) 4 ∧ imgVerifies (memSlice s.devMem (fld p 16 8) (fld p 24 4)) = true ∧ memFld (memSlice s.devMem (fld p 16 8) (fld p 24 4)) 4 1 = 1 ∧ imgRuns s (memSlice s.devMem (fld p 16 8) (fld p 24 4)) = true ∧ (s.boot.phase ≠ .recovery → memFld (slotOf s s.boot.slot).img 8 8 < memFld (memSlice s.devMem (fld p 16 8) (fld p 24 4)) 8 8) ∧ (s.boot.phase = .recovery → 0 < memFld (memSlice s.devMem (fld p 16 8) (fld p 24 4)) 8 8)) ∧
    (∃ (m : Nat) (p : List Byte) (s : State), waiting m 0x0B01 p s = true ∧ (s.ciph.owner = 1 ∨ s.ciph.owner = 2)) ∧
    (∃ (m : Nat) (p : List Byte) (s : State), waiting m 0x0B02 p s = true ∧ addressed s p 16 [1] = true) ∧
    (∃ (m : Nat) (p : List Byte) (s : State), waiting m 0x0B03 p s = true ∧ addressed s p 32 [1] = true ∧ midway s = false ∧ s.ciph.owner ≠ 1 ∧ s.ciph.owner ≠ 2 ∧ fld p 28 4 = 0 ∧ fld p 16 8 % 64 = 0 ∧ fld p 16 8 + fld p 24 4 ≤ windowLen ∧ fld p 24 4 = 64 + memFld s.devMem (fld p 16 8 + 20) 4 ∧ imgVerifies (memSlice s.devMem (fld p 16 8) (fld p 24 4)) = true ∧ memFld (memSlice s.devMem (fld p 16 8) (fld p 24 4)) 4 1 = 3 ∧ imgRuns s (memSlice s.devMem (fld p 16 8) (fld p 24 4)) = true ∧ memFld (memSlice s.devMem (fld p 16 8) (fld p 24 4)) 24 4 = s.boot.fwVersion.toNat ∧ memFld (memSlice s.devMem (fld p 16 8) (fld p 24 4)) 28 1 = s.boot.patches ∧ s.boot.patches < 7) ∧
    (∃ (m : Nat) (p : List Byte) (s : State), waiting m 0x0C02 p s = true ∧ storeOk s true = true ∧ addressed s p 32 [1] = true ∧ s.boot.flash = none ∧ fld p 28 4 = 0 ∧ fld p 16 8 % 64 = 0 ∧ fld p 16 8 + fld p 24 4 ≤ windowLen ∧ fld p 24 4 = boardLen ∧ boardState (memSlice s.devMem (fld p 16 8) (fld p 24 4)) = 1 ∧ (∀ c, s.boot.chosen = some c → copySeq (tabGetD s.boot.copies c []) < copySeq (memSlice s.devMem (fld p 16 8) (fld p 24 4)))) ∧
    (∃ (m : Nat) (p : List Byte) (s : State), waiting m 0x0C03 p s = true ∧ addressed s p 16 [1] = true) := by
  and_intros
  · exact ⟨31, (req 32 1 0 0 [(24, 4, 64)]), (sent 31 0x0B01 (req 32 1 0 0 [(24, 4, 64)]) ({ fw with boot := { phase := .ready, fwRunning := true, cBoard := 1000000 }, power := { vins := [58000] }, devMem := sealed 1 })), by and_intros; (iterate 10 decide +kernel); exact seal_at 1 (by decide +kernel) rfl (by decide +kernel) (by decide +kernel); all_goals decide +kernel⟩
  · exact ⟨31, (req 32 1 0 0 [(24, 4, 64)]), (sent 31 0x0B01 (req 32 1 0 0 [(24, 4, 64)]) { fw with ciph := { owner := 2 } }), by decide +kernel⟩
  · exact ⟨31, (req 16 1 0 0 []), (sent 31 0x0B02 (req 16 1 0 0 []) fw), by decide +kernel⟩
  · exact ⟨31, (req 32 1 0 0 [(24, 4, 64)]), (sent 31 0x0B03 (req 32 1 0 0 [(24, 4, 64)]) ({ fw with boot := { phase := .ready, fwRunning := true, cBoard := 1000000 }, power := { vins := [58000] }, devMem := sealed 3 })), by and_intros; (iterate 9 decide +kernel); exact seal_at 3 (by decide +kernel) rfl (by decide +kernel) (by decide +kernel); all_goals decide +kernel⟩
  · exact ⟨31, (req 32 1 0 0 [(24, 4, 282624)]), (sent 31 0x0C02 (req 32 1 0 0 [(24, 4, 282624)]) ({ fw with boot := { phase := .ready, fwRunning := true, cBoard := 1000000 }, power := { vins := [58000] }, devMem := board boardSum })), by and_intros; (iterate 8 decide +kernel); exact board_at rfl (by decide +kernel) (by decide +kernel); exact some_all (by decide +kernel)⟩
  · exact ⟨31, (req 16 1 0 0 []), (sent 31 0x0C03 (req 16 1 0 0 []) fw), by decide +kernel⟩

/-- States and operands that meet the hypotheses of MicrocodeCommandsComplete, one for each of its clauses. -/
theorem witness_MicrocodeCommandsComplete :
    (∃ (m : Nat) (p : List Byte) (s : State), waiting m 0x0B04 p s = true ∧ addressed s p 32 [1] = true ∧ s.uc.st ≠ .committed ∧ s.uc.st ≠ .staging ∧ fld p 28 4 = 0 ∧ fld p 16 8 % 64 = 0 ∧ fld p 16 8 + fld p 24 4 ≤ windowLen ∧ fld p 24 4 = 64 + memFld s.devMem (fld p 16 8 + 20) 4) ∧
    (∃ (s : State), s.boot.fwRunning = true ∧ s.ciph.owner ≠ 1 ∧ s.ciph.owner ≠ 2 ∧ s.uc.st = .staging) ∧
    (∃ (m : Nat) (p : List Byte) (s : State), waiting m 0x0B05 p s = true ∧ addressed s p 16 [1] = true ∧ (s.uc.st = .valid ∨ s.uc.st = .previous) ∧ (∀ e ∈ portEntries s, entryValid s.uc.standby e = true)) ∧
    (∃ (m : Nat) (p : List Byte) (s : State), waiting m 0x0B06 p s = true ∧ addressed s p 16 [1] = true ∧ s.uc.st = .previous ∧ (∀ e ∈ portEntries s, entryValid s.uc.standby e = true)) := by
  and_intros
  · exact ⟨31, (req 32 1 0 0 [(24, 4, 64)]), (sent 31 0x0B04 (req 32 1 0 0 [(24, 4, 64)]) fw), by decide +kernel⟩
  · exact ⟨{ fw with uc := { st := .staging, stageMb := 31, stageLen := 64 } }, by decide +kernel⟩
  · exact ⟨31, (req 16 1 0 0 []), (sent 31 0x0B05 (req 16 1 0 0 []) (withPort 511 { entry := 15 } { fw with uc := { st := .previous, standby := bank } })), by decide +kernel⟩
  · exact ⟨31, (req 16 1 0 0 []), (sent 31 0x0B06 (req 16 1 0 0 []) (withPort 511 { entry := 15 } { fw with uc := { st := .previous, standby := bank } })), by decide +kernel⟩

/-- States and operands that meet the hypotheses of LaneRowsComplete, one for each of its clauses. -/
theorem witness_LaneRowsComplete :
    (∃ (l : Nat) (s : State), (lane s l).rung = 0 ∧ (lane s l).moving = false ∧ (lane s l).signal = true ∧ (lane s l).cdr = true ∧ (∀ q x, portOfLane s l = some (q, x) → x.link ≠ .training ∧ ∀ y, port s q = some y → y.link ≠ .aligning)) ∧
    (∃ (l : Nat) (offset : Int) (s : State), (lane s l).rung = 0 ∧ (lane s l).moving = false ∧ offset.natAbs ≤ 2000 ∧ (lane s l).wasLost = true ∧ (∀ q x y, portOfLane s l = some (q, x) → port s q = some y → y.link ≠ .aligning)) ∧
    (∃ (l : Nat) (offset : Int) (s : State), (lane s l).rung = 0 ∧ (lane s l).moving = false ∧ 2000 < offset.natAbs) ∧
    (∃ (l : Nat) (s : State), ∃ q x, portOfLane s l = some (q, x) ∧ port s q = some x) ∧
    (∃ (l : Nat) (s : State) (w : Echo), (lane s l).echo = some w ∧ (lane s l).rung = 0 ∧ (lane s l).moving = false) ∧
    (∃ (l : Nat) (s : State) (y : Nat × Port), portOfLane s l = some y ∧ y.2.link = .training) ∧
    (∃ (l : Nat) (s : State) (y : Nat × Port), portOfLane s l = some y ∧ laneMode s l = 3 ∧ (lane s l).rung = 0 ∧ (lane s l).cdr = true) := by
  and_intros
  · exact ⟨511, withLane 511 runLane fw, by and_intros <;> first | exact fun q x h => absurd h (by simp [portOfLane, withLane, fw, State.reset]) | decide +kernel⟩
  · exact ⟨511, 2000, withLane 511 { runLane with wasLost := true } fw, by and_intros <;> first | exact fun q x y h => absurd h (by simp [portOfLane, withLane, fw, State.reset]) | decide +kernel⟩
  · exact ⟨511, -2001, (withLane 511 runLane fw), by decide +kernel⟩
  · exact ⟨511, onPort upPort, 511, upPort, by decide +kernel⟩
  · exact ⟨511, (sent 31 0x0203 (req 24 2 511 0 []) (withLane 511 { rung := 0, echo := some ⟨16, 31⟩ } fw)), ⟨16, 31⟩, by decide +kernel⟩
  · exact ⟨511, (onPort { link := .training }), (511, { link := .training }), by decide +kernel⟩
  · exact ⟨511, (onPort { link := .aligning, mode := 3, resolved := 3 }), (511, { link := .aligning, mode := 3, resolved := 3 }), by decide +kernel⟩

/-- States and operands that meet the hypotheses of LinkRowsComplete, one for each of its clauses. -/
theorem witness_LinkRowsComplete :
    (∃ (p : Nat) (k : Nat) (a : PartnerIn) (s : State) (x : Port), port s p = some x ∧ pagesSent s p x ≠ none ∧ let s1 := modPort p (fun y => { y with basePage := a.basePage, ability := (if x.neg = 2 then a.ability else none).getD 0, partnerN400 := (if x.neg = 2 then a.ability else none).isSome, quiet := 0 }) s; resolveMode s1 p x a = some k) ∧
    (∃ (p : Nat) (a : PartnerIn) (s : State) (x : Port), port s p = some x ∧ pagesSent s p x ≠ none ∧ let s1 := modPort p (fun y => { y with basePage := a.basePage, ability := (if x.neg = 2 then a.ability else none).getD 0, partnerN400 := (if x.neg = 2 then a.ability else none).isSome, quiet := 0 }) s; resolveMode s1 p x a = none) ∧
    (∃ (p : Nat) (s : State) (x : Port), port s p = some x ∧ x.link = .training ∧ (∀ l ∈ portLanes p x, (lane s l).echo = none)) ∧
    (∃ (p : Nat) (s : State) (x : Port), port s p = some x ∧ x.link = .training ∧ (∀ l ∈ portLanes p x, (lane s l).echo = none)) ∧
    (∃ (p : Nat) (skew : Nat) (s : State) (x : Port), port s p = some x ∧ x.link = .aligning ∧ lanesLocked s p x = true ∧ commaLocked s p x = true ∧ commasAgree s p x = true ∧ skew ≤ 180 ∧ freqOk s p x = true) ∧
    (∃ (p : Nat) (s : State) (x : Port) (from_ : Nat), port s p = some x ∧ x.link = .aligning ∧ x.alignFrom = some from_ ∧ 4000000 ≤ (now s - from_) * 1024 ∧ x.neg = 0) ∧
    (∃ (p : Nat) (s : State) (x : Port) (from_ : Nat), port s p = some x ∧ x.link = .aligning ∧ x.alignFrom = some from_ ∧ 4000000 ≤ (now s - from_) * 1024 ∧ x.neg ≠ 0) ∧
    (∃ (p : Nat) (s : State) (x : Port), port s p = some x ∧ (∀ from_, x.alignFrom = some from_ → (now s - from_) * 1024 < 4000000)) ∧
    (∃ (p : Nat) (e : DownEvent) (s : State) (x : Port), port s p = some x ∧ x.link = .up ∧ downNow s p x e = true) := by
  and_intros
  · exact ⟨511, 2, ⟨0, true, true, none⟩, (withPort 511 { neg := 1, mode := 2 } (withLane 511 { runLane with fir := some 0 } fw)), { neg := 1, mode := 2 }, by and_intros <;> decide +kernel⟩
  · exact ⟨511, ⟨0, false, false, none⟩, (withPort 511 { neg := 1, mode := 2 } (withLane 511 { runLane with fir := some 0 } fw)), { neg := 1, mode := 2 }, by and_intros <;> decide +kernel⟩
  · exact ⟨511, (onPort { link := .training }), { link := .training }, by decide +kernel⟩
  · exact ⟨511, (onPort { link := .training }), { link := .training }, by decide +kernel⟩
  · exact ⟨511, 180, (onPort { link := .aligning, resolved := 1 }), { link := .aligning, resolved := 1 }, by decide +kernel⟩
  · exact ⟨511, onPort { link := .aligning, resolved := 1, neg := 0, alignFrom := some 1093 }, { link := .aligning, resolved := 1, neg := 0, alignFrom := some 1093 }, 1093, by decide +kernel⟩
  · exact ⟨511, onPort { link := .aligning, resolved := 1, neg := 1, alignFrom := some 1093 }, { link := .aligning, resolved := 1, neg := 1, alignFrom := some 1093 }, 1093, by decide +kernel⟩
  · exact ⟨511, onPort { link := .aligning, resolved := 1, alignFrom := some 1094 }, { link := .aligning, resolved := 1, alignFrom := some 1094 }, by decide +kernel, some_all (by decide +kernel)⟩
  · exact ⟨511, .remoteFault, (onPort upPort), upPort, by decide +kernel⟩

/-- States and operands that meet the hypotheses of GuardRowsComplete, one for each of its clauses. -/
theorem witness_GuardRowsComplete :
    (∃ (p : Nat) (s : State) (x : Port), port s p = some x ∧ x.link = .negotiating ∧ x.guard.parkDelay ≠ 0 ∧ 1024 * x.guard.parkDelay ≤ x.quiet ∧ allQuiet s p x = true) ∧
    (∃ (p : Nat) (s : State) (x : Port), port s p = some x ∧ x.link = .parked ∧ 1024 * x.guard.probe ≤ x.probe ∧ (∀ l ∈ portLanes p x, (lane s l).echo = none)) ∧
    (∃ (p : Nat) (s : State) (x : Port), port s p = some x ∧ x.link = .parked ∧ (∀ l ∈ portLanes p x, (lane s l).echo = none) ∧ (∃ l ∈ portLanes p x, (lane s l).rung < 5)) ∧
    (∃ (p : Nat) (s : State) (x : Port), port s p = some x ∧ (∀ l ∈ portLanes p x, 5 ≤ (lane s l).rung)) ∧
    (∃ (l : Nat) (s : State) (y : Nat × Port), portOfLane s l = some y) ∧
    (∃ (p : Nat) (i : Nat) (s : State) (x : Port), port s p = some x ∧ x.link = .up ∧ i ≤ 8 ∧ watched x i = true ∧ inStorm x i = false ∧ x.guard.storm ≠ 0 ∧ x.guard.storm ≤ at0 x.pausedRun i) ∧
    (∃ (p : Nat) (i : Nat) (s : State) (x : Port), port s p = some x ∧ i ≤ 8 ∧ inStorm x i = true ∧ x.guard.storm ≤ at0 x.stormQuiet i) := by
  and_intros
  · exact ⟨511, (withPort 511 { quiet := 1048576 } fw), { quiet := 1048576 }, by decide +kernel⟩
  · exact ⟨511, (onPort { link := .parked, probe := 65536 }), { link := .parked, probe := 65536 }, by decide +kernel⟩
  · exact ⟨511, (onPort { link := .parked }), { link := .parked }, by decide +kernel⟩
  · exact ⟨511, withPort 511 { link := .parked } fw, { link := .parked }, by decide +kernel⟩
  · exact ⟨511, (onPort upPort), (511, upPort), by decide +kernel⟩
  · exact ⟨511, 8, (onPort { link := .up, pauseRx := true, pausedRun := [0, 0, 0, 0, 0, 0, 0, 0, 102400] }), { link := .up, pauseRx := true, pausedRun := [0, 0, 0, 0, 0, 0, 0, 0, 102400] }, by decide +kernel⟩
  · exact ⟨511, 8, (onPort { link := .up, storm31 := true, stormQuiet := [0, 0, 0, 0, 0, 0, 0, 0, 102400] }), { link := .up, storm31 := true, stormQuiet := [0, 0, 0, 0, 0, 0, 0, 0, 102400] }, by decide +kernel⟩

/-- States and operands that meet the hypotheses of ProtocolRowsComplete, one for each of its clauses. -/
theorem witness_ProtocolRowsComplete :
    (∃ (p : Nat) (s : State) (x : Port), port s p = some x ∧ x.link = .up ∧ x.lldp = true ∧ s.boot.fwRunning = true ∧ pduDue s x.lldpAt (30 * 10 ^ 9) = true) ∧
    (∃ (p : Nat) (pdu : List Byte) (s : State) (x : Port) (n : Neighbour), port s p = some x ∧ x.link = .up ∧ x.lldp = true ∧ s.boot.fwRunning = true ∧ neighbourOf pdu (now s) = some n) ∧
    (∃ (p : Nat) (s : State) (x : Port) (n : Neighbour), port s p = some x ∧ x.neighbour = some n ∧ n.ttl * 10 ^ 9 ≤ (now s - n.at_) * 1024) ∧
    (∃ (p : Nat) (s : State) (x : Port), port s p = some x ∧ x.link = .up ∧ x.esmc = true ∧ s.boot.fwRunning = true ∧ pduDue s x.esmcAt (10 ^ 9) = true) ∧
    (∃ (p : Nat) (s : State) (x : Port), port s p = some x ∧ x.link = .up ∧ x.esmc = true ∧ s.boot.fwRunning = true) ∧
    (∃ (o : Nat) (l : Nat) (s : State), o < 2 ∧ s.refs.out.getD o none = some l ∧ synceGood s l = true ∧ s.refs.upAt.getD o 0 + 64 ≤ now s) ∧
    (∃ (r : Nat), r < 6) ∧
    (∃ (s : State), s.refs.lost.contains 4 = false) := by
  and_intros
  · exact ⟨511, (onPort { link := .up, lldp := true, esmc := true }), { link := .up, lldp := true, esmc := true }, by decide +kernel⟩
  · exact ⟨511, [2, 2, 4, 1, 4, 2, 5, 2, 6, 2, 0, 120], (onPort { link := .up, lldp := true, esmc := true }), { link := .up, lldp := true, esmc := true }, { chassisSub := 4, portSub := 5, ttl := 120, chassis := [1], portId := [2], at_ := 5000 }, by decide +kernel⟩
  · exact ⟨511, (onPort { neighbour := some { chassisSub := 4, portSub := 5, ttl := 0, chassis := [], portId := [], at_ := 5000 } }), { neighbour := some { chassisSub := 4, portSub := 5, ttl := 0, chassis := [], portId := [], at_ := 5000 } }, { chassisSub := 4, portSub := 5, ttl := 0, chassis := [], portId := [], at_ := 5000 }, by decide +kernel⟩
  · exact ⟨511, (onPort { link := .up, lldp := true, esmc := true }), { link := .up, lldp := true, esmc := true }, by decide +kernel⟩
  · exact ⟨511, (onPort { link := .up, lldp := true, esmc := true }), { link := .up, lldp := true, esmc := true }, by decide +kernel⟩
  · exact ⟨1, 511, { onPort upPort with refs := { out := [none, some 511], upAt := [0, 4936] } }, by decide +kernel⟩
  · exact ⟨5, by decide +kernel⟩
  · exact ⟨fw, by decide +kernel⟩

/-- States and operands that meet the hypotheses of PauseRowsComplete, one for each of its clauses. -/
theorem witness_PauseRowsComplete :
    (∃ (p : Nat) (i : Nat) (s : State) (x : Port), port s p = some x ∧ x.link = .up ∧ i < 8 ∧ x.pfcRx.toNat.testBit i = true ∧ pauseIgnored x i = false ∧ i < x.timers.length) ∧
    (∃ (p : Nat) (s : State) (x : Port), port s p = some x ∧ x.link = .up ∧ x.pauseRx = true ∧ x.storm31 = false) ∧
    (∃ (p : Nat) (i : Nat) (s : State) (x : Port), port s p = some x ∧ i ≤ 8 ∧ 0 < at0 x.timers i) ∧
    (∃ (p : Nat) (i : Nat) (s : State) (x : Port), port s p = some x ∧ x.link = .up ∧ x.advert.toNat.testBit i = true ∧ i < 8) ∧
    (∃ (p : Nat) (i : Nat) (s : State) (x : Port), port s p = some x ∧ x.link = .up ∧ x.advert.toNat.testBit i = true ∧ i = 8) ∧
    (∃ (p : Nat) (h : Nat) (s : State) (x : Port), port s p = some x ∧ x.hold = some h ∧ h ≤ now s ∧ x.link ≠ .up) := by
  and_intros
  · exact ⟨511, 7, (onPort { link := .up, pfcRx := 128, pauseRx := true, timers := [0, 0, 0, 0, 0, 0, 0, 0, 1], advert := 384 }), { link := .up, pfcRx := 128, pauseRx := true, timers := [0, 0, 0, 0, 0, 0, 0, 0, 1], advert := 384 }, by decide +kernel⟩
  · exact ⟨511, (onPort { link := .up, pfcRx := 128, pauseRx := true, timers := [0, 0, 0, 0, 0, 0, 0, 0, 1], advert := 384 }), { link := .up, pfcRx := 128, pauseRx := true, timers := [0, 0, 0, 0, 0, 0, 0, 0, 1], advert := 384 }, by decide +kernel⟩
  · exact ⟨511, 8, (onPort { link := .up, pfcRx := 128, pauseRx := true, timers := [0, 0, 0, 0, 0, 0, 0, 0, 1], advert := 384 }), { link := .up, pfcRx := 128, pauseRx := true, timers := [0, 0, 0, 0, 0, 0, 0, 0, 1], advert := 384 }, by decide +kernel⟩
  · exact ⟨511, 7, (onPort { link := .up, pfcRx := 128, pauseRx := true, timers := [0, 0, 0, 0, 0, 0, 0, 0, 1], advert := 384 }), { link := .up, pfcRx := 128, pauseRx := true, timers := [0, 0, 0, 0, 0, 0, 0, 0, 1], advert := 384 }, by decide +kernel⟩
  · exact ⟨511, 8, (onPort { link := .up, pfcRx := 128, pauseRx := true, timers := [0, 0, 0, 0, 0, 0, 0, 0, 1], advert := 384 }), { link := .up, pfcRx := 128, pauseRx := true, timers := [0, 0, 0, 0, 0, 0, 0, 0, 1], advert := 384 }, by decide +kernel⟩
  · exact ⟨511, 5000, (onPort { hold := some 5000 }), { hold := some 5000 }, by decide +kernel⟩

/-- States and operands that meet the hypotheses of FrameArrivalComplete, one for each of its clauses. -/
theorem witness_FrameArrivalComplete :
    (∃ (p : Nat) (data : List Byte) (s : State) (x : Port), port s p = some x ∧ x.link = .up ∧ x.stk.enable = false ∧ x.arriving = none ∧ x.early = none ∧ (∀ f ∈ x.staged, f.whole = true) ∧ 64 ≤ data.length ∧ data.length ≤ x.maxFrame ∧ bfld data 12 2 ≠ 0x8808 ∧ stagedBytes x < 4096 * x.width) ∧
    (∃ (p : Nat) (s : State) (x : Port), port s p = some x ∧ x.link = .up ∧ x.stk.enable = false ∧ x.arriving = none ∧ x.early = none ∧ (∀ f ∈ x.staged, f.whole = true)) ∧
    (∃ (p : Nat) (len : Nat) (data : List Byte) (s : State) (x : Port), port s p = some x ∧ x.link = .up ∧ x.stk.enable = false ∧ x.arriving = none ∧ x.early = none ∧ (∀ f ∈ x.staged, f.whole = true) ∧ data.length < len ∧ 14 ≤ data.length ∧ bfld data 12 2 ≠ 0x8808 ∧ stagedBytes x < 4096 * x.width) ∧
    (∃ (p : Nat) (len : Nat) (data : List Byte) (s : State) (x : Port), port s p = some x ∧ x.link = .up ∧ x.stk.enable = false ∧ x.arriving = none ∧ x.early = none ∧ (∀ f ∈ x.staged, f.whole = true) ∧ data.length < len ∧ (data.length < 14 ∨ bfld data 12 2 = 0x8808)) ∧
    (∃ (p : Nat) (len : Nat) (data : List Byte) (s : State) (x : Port), port s p = some x ∧ x.link = .up ∧ x.stk.enable = false ∧ x.arriving = none ∧ x.early = none ∧ (∀ f ∈ x.staged, f.whole = true) ∧ data.length < len ∧ bfld data 12 2 = 0x8808) ∧
    (∃ (p : Nat) (data : List Byte) (s : State) (x : Port), port s p = some x ∧ x.link = .up ∧ x.stk.enable = true ∧ x.stk.st = .live ∧ x.arriving = none ∧ x.early = none ∧ (∀ f ∈ x.staged, f.whole = true) ∧ hdrGood (slice data 0 16) = true ∧ hdrType (slice data 0 16) = 0 ∧ ownGroup s (slice data 0 16) = false ∧ s.flt.tpOn.enable = false ∧ 64 ≤ (data.drop 16).length ∧ (data.drop 16).length ≤ x.maxFrame ∧ bfld (data.drop 16) 12 2 ≠ 0x8808 ∧ stagedBytes x < 4096 * x.width) ∧
    (∃ (p : Nat) (head : Nat) (s : State) (s0 : State) (x : Port) (f : Staged) (rest : List Staged), port s p = some x ∧ x.staged = f :: rest ∧ slotReady s p x f = true ∧ arbTurn (grp s (groupOf p)).arb (wantSlots s (groupOf p)) p = true ∧ newChain (groupOf p) (max 1 (cellsOf f.data.length)) f.len f.data (modGrp (groupOf p) (fun y => { y with arb := arbServe (arbWeight x) p y.arb }) s) = some (head, s0)) ∧
    (∃ (p : Nat) (rest : List Byte) (s : State) (x : Port) (f : Staged), port s p = some x ∧ x.arriving = none ∧ x.early = none ∧ x.rxBad = false ∧ x.staged.getLast? = some f ∧ f.whole = false ∧ 64 ≤ f.data.length + rest.length ∧ f.data.length + rest.length ≤ x.maxFrame) ∧
    (∃ (p : Nat) (s : State) (x : Port) (a : Arriving), port s p = some x ∧ x.arriving = some a ∧ x.early = none) ∧
    (∃ (p : Nat) (ts : Nat) (data : List Byte) (s : State) (x : Port), port s p = some x ∧ x.early = some (data, ts) ∧ x.stk.enable = false) := by
  and_intros
  · exact ⟨511, (zeros 64), (onPort upPort), upPort, by decide +kernel⟩
  · exact ⟨511, (onPort upPort), upPort, by decide +kernel⟩
  · exact ⟨511, 9216, (zeros 64), (onPort { upPort with staged := [frameOf 64 true] }), { upPort with staged := [frameOf 64 true] }, by decide +kernel⟩
  · exact ⟨511, 14, zeros 13, onPort upPort, upPort, by decide +kernel⟩
  · exact ⟨511, 64, zeros 12 ++ [0x88, 8], onPort upPort, upPort, by decide +kernel⟩
  · exact ⟨511, (zeros 80), { onPort { upPort with stk := { enable := true, st := .live } } with stack := { levels := 1 } }, { upPort with stk := { enable := true, st := .live } }, by decide +kernel⟩
  · exact ⟨511, issueChain.1, issueState, issueChain.2, { upPort with staged := [frameOf 64 true] }, frameOf 64 true, [], by decide +kernel⟩
  · exact ⟨511, [0], (onPort { upPort with staged := [frameOf 63 false] }), { upPort with staged := [frameOf 63 false] }, (frameOf 63 false), by decide +kernel⟩
  · exact ⟨511, { onPort { upPort with arriving := some { head := 0, mta := 0, got := 63, len := 64 } } with buf := { chains := [(0, cellOf 0 31)] } }, { upPort with arriving := some { head := 0, mta := 0, got := 63, len := 64 } }, { head := 0, mta := 0, got := 63, len := 64 }, by decide +kernel⟩
  · exact ⟨511, 0, zeros 12 ++ [0x88, 8], onPort { upPort with early := some (zeros 12 ++ [0x88, 8], 0) }, { upPort with early := some (zeros 12 ++ [0x88, 8], 0) }, by decide +kernel⟩

/-- States and operands that meet the hypotheses of FrameDepartureComplete, one for each of its clauses. -/
theorem witness_FrameDepartureComplete :
    (∃ (p : Nat) (s : State) (x : Port) (c : MacCtl) (r : List MacCtl), port s p = some x ∧ x.link = .up ∧ macCtlNext x = some (c, r)) ∧
    (∃ (p : Nat) (s : State) (x : Port) (e : CtlTx), port s p = some x ∧ x.link = .up ∧ macCtlNext x = none ∧ stackNext s p x = some e) ∧
    (∃ (p : Nat) (q : Nat) (s : State) (x : Port) (y : Port), port s p = some x ∧ x.link = .up ∧ macCtlNext x = none ∧ stackNext s p x = none ∧ pickFrame s p x = some (q, y) ∧ selTurn s p x = true) ∧
    (∃ (p : Nat) (s : State) (x : Port), port s p = some x ∧ x.link = .up ∧ macCtlNext x = none ∧ stackNext s p x = none ∧ pickFrame s p x = none) ∧
    (∃ (p : Nat) (s : State) (x : Port) (f : Sent), port s p = some x ∧ x.inflight.find? (fun g => !g.dropped) = some f ∧ f.desc.prov = false) ∧
    (∃ (g : Nat) (list : Nat) (cnt : Nat) (s : State) (j : ReplJob) (rest : List ReplJob) (m : Meta), (grp s g).repl = j :: rest ∧ metaOf s j.mta = some m ∧ let s0 := modGrp g (fun x => { x with repl := rest }) s; mcastHead s0 (clusterOf g) j.group = some (list, cnt)) := by
  and_intros
  · exact ⟨511, (onPort { upPort with macCtl := [{ annex31 := true, vec := 0, quanta := [65535] }] }), { upPort with macCtl := [{ annex31 := true, vec := 0, quanta := [65535] }] }, { annex31 := true, vec := 0, quanta := [65535] }, [], by decide +kernel⟩
  · exact ⟨511, { onPort { upPort with stk := { enable := true, st := .live } } with stack := { tx := [⟨511, 0x40 :: zeros 191⟩] } }, { upPort with stk := { enable := true, st := .live } }, ⟨511, 0x40 :: zeros 191⟩, by decide +kernel⟩
  · exact ⟨511, 15, queueState, queuePort, (match pickFrame queueState 511 queuePort with | some r => r.2 | none => queuePort), by decide +kernel⟩
  · exact ⟨511, (onPort upPort), upPort, by decide +kernel⟩
  · exact ⟨511, { onPort { upPort with inflight := [{ queue := 15, desc := oneDesc 0, counted := 84, wire := zeros 64, dropped := false, ts := 0 }] } with buf := { chains := [(0, cellOf 0 31)] } }, { upPort with inflight := [{ queue := 15, desc := oneDesc 0, counted := 84, wire := zeros 64, dropped := false, ts := 0 }] }, { queue := 15, desc := oneDesc 0, counted := 84, wire := zeros 64, dropped := false, ts := 0 }, by decide +kernel⟩
  · exact ⟨31, 4096, 1, replState, jobOf, [], metaRec, by and_intros <;> decide +kernel⟩

/-- States and operands that meet the hypotheses of ChainRowsComplete, one for each of its clauses. -/
theorem witness_ChainRowsComplete :
    (∃ (r : Nat) (c : Nat) (s : State) (x : Chain), r ≤ 35 ∧ c < bufCells ∧ sectRun s (sectOf c) = true ∧ chain s c = some x ∧ x.owner = r) ∧
    (∃ (r : Nat) (c : Nat) (s : State), r ≤ 35 ∧ c < bufCells ∧ sectRun s (sectOf c) = true ∧ (∀ x, chain s c = some x → x.owner ≠ r)) ∧
    (∃ (r : Nat) (addr : Nat), r ≤ 35 ∧ (addr % 256 ≠ 0 ∨ bufCells ≤ addr / 256)) ∧
    (∃ (n : Nat) (s : State), n ≤ 7 ∧ (sect s n).rebuilding = true) ∧
    (∃ (n : Nat) (s : State), n ≤ 7 ∧ (sect s n).rebuilding = false ∧ (sect s n).listRebuild = true) := by
  and_intros
  · exact ⟨35, 1310719, { fw with buf := { chains := [(1310719, cellOf 1310719 35)] } }, (cellOf 1310719 35), by decide +kernel⟩
  · exact ⟨35, 1310719, { fw with buf := { chains := [(1310719, cellOf 1310719 34)] } }, by decide +kernel, by decide +kernel, by decide +kernel, some_all (by decide +kernel)⟩
  · exact ⟨35, (1310720 * 256), by decide +kernel⟩
  · exact ⟨7, { fw with buf := { sections := [(7, { rebuilding := true })] } }, by decide +kernel⟩
  · exact ⟨7, { fw with buf := { sections := [(7, { listRebuild := true })] } }, by decide +kernel⟩

/-- States and operands that meet the hypotheses of TableRowsComplete, one for each of its clauses. -/
theorem witness_TableRowsComplete :
    (∃ (n : Nat) (b : Nat) (v : BitVec 512) (ch : Option Nat) (s : State) (rest : List EngineOp), engineTurn (cluster s n) = some 0 ∧ (cluster s n).cmdQ = .bucket b v ch :: rest ∧ (cluster s n).slotsUsed < 64) ∧
    (∃ (n : Nat) (t : Nat) (op : Nat) (slot : Nat) (b : Nat) (why : OpWhy) (force : Bool) (img : BitVec 256) (s : State) (rest : List EngineOp), engineTurn (cluster s n) = some 0 ∧ (cluster s n).cmdQ = .keyed why t op force slot b img :: rest ∧ (cluster s n).slotsUsed < 64) ∧
    (∃ (n : Nat) (s : State), 64 < (cluster s n).slotsUsed) ∧
    (∃ (n : Nat) (s : State) (r : LearnReq), engineTurn (cluster s n) = some 1 ∧ (cluster s n).learnQ.find? (fun r => !(cluster s n).learnHold.contains r.table) = some r ∧ (cluster s n).slotsUsed < 64) ∧
    (∃ (n : Nat) (s : State) (a : AgeDel) (rest : List AgeDel) (d : TableDesc), engineTurn (cluster s n) = some 2 ∧ (cluster s n).ageQ = a :: rest ∧ fwTable s a.table = some d ∧ (cluster s n).slotsUsed < 64 ∧ stillIdle (cluster s n) d a = true) ∧
    (∃ (n : Nat) (s : State) (a : AgeDel) (rest : List AgeDel) (d : TableDesc), engineTurn (cluster s n) = some 2 ∧ (cluster s n).ageQ = a :: rest ∧ fwTable s a.table = some d ∧ (cluster s n).slotsUsed < 64 ∧ stillIdle (cluster s n) d a = false) ∧
    (∃ (n : Nat) (b : Nat) (t : Nat) (s : State) (d : TableDesc), notifRoom (cluster s n) = true ∧ (cluster s n).ageQ.length < 256 ∧ agerBucket s (cluster s n).ager = some b ∧ isRetired (cluster s n) b = false ∧ regionTable s b = some (t, d)) ∧
    (∃ (n : Nat) (s : State) (r : Notif) (rest : List Notif), let s1 := reinsertNext (replicateNext n s); (cluster s1 n).notif = r :: rest ∧ r.done = true ∧ s1.link.evtValid = true ∧ rxTo s1 s1.link.evtRing 2 ≠ .dropped) ∧
    (∃ (f : FailRow) (s : State), powered s = true ∧ rowFailing s f = true ∧ rowExists s f = true ∧ tabGetD (rowBad f (rowDone f s)).flt.spares (bankKey f) 0 < 4) ∧
    (∃ (f : FailRow) (s : State), powered s = true ∧ rowFailing s f = true ∧ rowExists s f = true ∧ 4 ≤ tabGetD (rowBad f (rowDone f s)).flt.spares (bankKey f) 0) := by
  and_intros
  · exact ⟨3, 1048575, (2 ^ 512 - 1), (some 31), { fw with clusters := [(3, { cmdQ := [.bucket 1048575 (2 ^ 512 - 1) (some 31)] })] }, [], by decide +kernel⟩
  · exact ⟨3, 63, 1, 0, 0, .repair, true, 1, { fw with clusters := [(3, { cmdQ := [.keyed .repair 63 1 true 0 0 1] })] }, [], by decide +kernel⟩
  · exact ⟨3, { fw with clusters := [(3, { slotsUsed := 65 })] }, by decide +kernel⟩
  · exact ⟨3, { fw with clusters := [(3, { rr := 1, learnQ := [⟨63, 1, 1⟩] })] }, ⟨63, 1, 1⟩, by decide +kernel⟩
  · exact ⟨3, ageState, ⟨0, 0, 63, 2 ^ 31 + 63 * 2 ^ 23 + 1⟩, [], { ageMode := 1 }, by decide +kernel⟩
  · exact ⟨3, withTable 63 { ageMode := 1 } { fw with clusters := [(3, { rr := 2, ageQ := [⟨0, 0, 63, 1⟩] })] }, ⟨0, 0, 63, 1⟩, [], { ageMode := 1 }, by decide +kernel⟩
  · exact ⟨3, 1023, 63, (withTable 63 { ageMode := 1 } { fw with clusters := [(3, { ager := 1023 })] }), { ageMode := 1 }, by decide +kernel⟩
  · exact ⟨3, { fw with clusters := [(3, { notif := [{ typ := 1, cluster := 3, table := 63, slot := 0, bucket := 0, trick := 0, entry := 0, done := true }] })], rings := [(0, { typ := .rx, st := .run, enable := true, log2 := 9 })] }, { typ := 1, cluster := 3, table := 63, slot := 0, bucket := 0, trick := 0, entry := 0, done := true }, [], by decide +kernel⟩
  · exact ⟨⟨.buffer, 7, 159, 16383, [3]⟩, fw, by decide +kernel⟩
  · exact ⟨⟨.table, 3, 511, 2047, []⟩, { fw with flt := { spares := [(bankKey ⟨.table, 3, 511, 2047, []⟩, 4)], failing := [(bankKey ⟨.table, 3, 511, 2047, []⟩, 2047)] } }, by decide +kernel⟩

/-- States and operands that meet the hypotheses of StackRowsComplete, one for each of its clauses. -/
theorem witness_StackRowsComplete :
    (∃ (p : Nat) (frame : List Byte) (s : State) (x : Port), port s p = some x ∧ x.link = .up ∧ x.stk.enable = true ∧ x.stk.st ≠ .down ∧ s.stack.levels ≠ 0 ∧ hdrGood frame = true ∧ hdrType frame = 1 ∧ frame.length = 192 ∧ s.flt.tpOn.enable = false) ∧
    (∃ (p : Nat) (s : State) (x : Port), port s p = some x ∧ x.stk.enable = true ∧ x.stk.st = .live ∧ x.stk.lastHb + s.stack.missLimit < now s) ∧
    (∃ (s : State), s.boot.fwRunning = true) ∧
    (∃ (p : Nat) (frame : List Byte) (s : State) (x : Port), port s p = some x ∧ x.link = .up ∧ x.stk.enable = true ∧ x.stk.st = .live ∧ s.stack.levels ≠ 0 ∧ hdrGood frame = true ∧ hdrType frame = 2 ∧ hdrDst frame = (s.stack.own, s.stack.levels) ∧ 12 ≤ frame.length) ∧
    (∃ (seq : Nat) (s : State) (o : Outstanding), s.stack.out.find? (fun o => o.seq == seq) = some o ∧ o.sent + 128 ≤ now s ∧ s.boot.fwRunning = true ∧ o.tries < 3) ∧
    (∃ (seq : Nat) (s : State) (o : Outstanding) (m : Nat), s.stack.out.find? (fun o => o.seq == seq) = some o ∧ o.sent + 128 ≤ now s ∧ s.boot.fwRunning = true ∧ 3 ≤ o.tries ∧ o.mb = some m) ∧
    (∃ (seq : Nat) (s : State) (o : Outstanding), s.stack.out.find? (fun o => o.seq == seq) = some o ∧ o.sent + 128 ≤ now s ∧ s.boot.fwRunning = true ∧ 3 ≤ o.tries ∧ o.mb = none) ∧
    (∃ (r : Nat) (s : State), (1 ≤ r ∧ r ≤ 8) ∧ s.boot.fwRunning = true) := by
  and_intros
  · exact ⟨511, ([0x40] ++ zeros 191), { onPort { upPort with stk := { enable := true, st := .live } } with stack := { levels := 1 } }, { upPort with stk := { enable := true, st := .live } }, by decide +kernel⟩
  · exact ⟨511, (onPort { upPort with stk := { enable := true, st := .live, lastHb := 4995 } }), { upPort with stk := { enable := true, st := .live, lastHb := 4995 } }, by decide +kernel⟩
  · exact ⟨fw, by decide +kernel⟩
  · exact ⟨511, ([0x80] ++ zeros 11), { onPort { upPort with stk := { enable := true, st := .live } } with stack := { levels := 1 } }, { upPort with stk := { enable := true, st := .live } }, by decide +kernel⟩
  · exact ⟨7, { fw with stack := { out := [outOf 2 none] } }, outOf 2 none, by decide +kernel⟩
  · exact ⟨7, { sent 31 0x0101 (req 16 1 0 0 []) fw with stack := { out := [outOf 3 (some 31)] } }, outOf 3 (some 31), 31, by decide +kernel⟩
  · exact ⟨7, { fw with stack := { out := [outOf 3 none] } }, outOf 3 none, by decide +kernel⟩
  · exact ⟨8, fw, by decide +kernel⟩

/-- States and operands that meet the hypotheses of PowerRowsComplete, one for each of its clauses. -/
theorem witness_PowerRowsComplete :
    (∃ (iin : Nat) (s : State), pmRuns s = true ∧ 40000 ≤ iin ∧ s.power.limiter = false) ∧
    (∃ (s : State), s.power.limiter = true ∧ 64 ≤ s.power.limiterLow) ∧
    (∃ (o : Nat) (s : State), 64 ≤ s.power.limiterHigh ∧ s.power.emergency = false ∧ nextShed s.power = some o ∧ s.power.shedAt ≠ now s + 1) ∧
    (∃ (s : State), 64 ≤ s.power.limiterHigh ∧ s.power.emergency = false ∧ nextShed s.power = none ∧ 64 ≤ s.power.exhausted) ∧
    (∃ (r : ShedTrigger) (s : State), pmRuns s = true ∧ ¬ (r = .pwrFail ∧ scanHolds s = true)) ∧
    (∃ (s : State), s.power.emergency = true ∧ 16384 ≤ s.power.absent) ∧
    (∃ (tj : Int) (s : State), pmRuns s = true ∧ 2000 ≤ tj) ∧
    (∃ (vin : Nat), vin < 9000) ∧
    (∃ (n : Nat) (s : State), s.power.plan = .enter n ∧ n ≤ now s ∧ sprintForbidden s = false) ∧
    (∃ (n : Nat) (s : State), s.power.plan = .rails n ∧ n ≤ now s) := by
  and_intros
  · exact ⟨40000, fw, by decide +kernel⟩
  · exact ⟨{ fw with power := { limiter := true, limiterLow := 64 } }, by decide +kernel⟩
  · exact ⟨63, { fw with power := { limiterHigh := 64, shedList := [63] } }, by decide +kernel⟩
  · exact ⟨{ fw with power := { limiterHigh := 64, exhausted := 64 } }, by decide +kernel⟩
  · exact ⟨.pwrFail, fw, by decide +kernel⟩
  · exact ⟨{ fw with power := { emergency := true, absent := 16384 } }, by decide +kernel⟩
  · exact ⟨2000, fw, by decide +kernel⟩
  · exact ⟨8999, by decide +kernel⟩
  · exact ⟨5000, { fw with power := { plan := .enter 5000 } }, by decide +kernel⟩
  · exact ⟨5000, { fw with power := { plan := .rails 5000 } }, by decide +kernel⟩

/-- States and operands that meet the hypotheses of RungRowsComplete, one for each of its clauses. -/
theorem witness_RungRowsComplete :
    (∃ (l : Nat) (s : State), l < laneCount s ∧ (lane s l).moving = true ∧ (lane s l).rung = 0) ∧
    (∃ (l : Nat) (s : State), l < laneCount s ∧ (lane s l).moving = true ∧ (lane s l).rung ≠ 0) ∧
    (∃ (d : Nat) (s : State), 64 ≤ d ∧ d < 113 ∧ (pdom s d).moving = true) ∧
    (∃ (l : Nat) (s : State), l < laneCount s ∧ (lane s l).moving = true ∧ (lane s l).rung ≠ 0) ∧
    (∃ (d : Nat) (s : State), 64 ≤ d ∧ d < 113 ∧ (pdom s d).moving = true ∧ (pdom s d).held ≠ 0) := by
  and_intros
  · exact ⟨511, (withLane 511 { rung := 0, moving := true } fw), by decide +kernel⟩
  · exact ⟨511, (withLane 511 { rung := 4, moving := true } fw), by decide +kernel⟩
  · exact ⟨112, { fw with power := { doms := [(112, { moving := true })] } }, by decide +kernel⟩
  · exact ⟨511, (withLane 511 { rung := 4, moving := true } fw), by decide +kernel⟩
  · exact ⟨112, { fw with power := { doms := [(112, { moving := true, held := 5 })] } }, by decide +kernel⟩

/-- States and operands that meet the hypotheses of TimeRowsComplete, one for each of its clauses. -/
theorem witness_TimeRowsComplete :
    (∃ (x : Nat) (s : State), x < 2 ∧ (dom s x).srcLost = false ∧ (dom s x).lossTimeout ≤ (dom s x).since) ∧
    (∃ (s : State), scanHolds s = false ∧ s.time.running = true ∧ edgeOn (pin s 8) true = true) ∧
    (∃ (s : State), scanHolds s = false ∧ s.time.running = true ∧ edgeOn (pin s 8) true = false) ∧
    (∃ (s : State), scanHolds s = false ∧ s.time.running = true) ∧
    (∃ (n : Nat) (s : State), n < 9 ∧ scanHolds s = false ∧ s.time.running = true ∧ (n < 8 → (pin s n).mode = 1) ∧ edgeOn (pin s n) true = true) ∧
    (∃ (n : Nat) (s : State), n < 9 ∧ scanHolds s = false ∧ s.time.running = true ∧ (n < 8 → (pin s n).mode = 1) ∧ edgeOn (pin s n) true = false) ∧
    (∃ (n : Nat) (s : State), n < 9 ∧ scanHolds s = false ∧ s.time.running = true ∧ (n < 8 → (pin s n).mode = 1) ∧ edgeOn (pin s n) false = true) ∧
    (∃ (n : Nat) (s : State), n < 9 ∧ scanHolds s = false ∧ s.time.running = true ∧ (n < 8 → (pin s n).mode = 1) ∧ edgeOn (pin s n) false = false) ∧
    (∃ (n : Nat) (s : State), n < 9 ∧ scanHolds s = false ∧ s.time.running = true ∧ (n < 8 → (pin s n).mode = 1) ∧ n < 8 ∧ edgeOn (pin s n) true = true) ∧
    (∃ (n : Nat) (ph : Nat) (s : State), n < 8 ∧ (pin s n).mode = 2 ∧ (pin s n).armed = true ∧ (pin s n).sStart * 4096 ≤ t16At s ph) ∧
    (∃ (n : Nat) (ph : Nat) (s : State), n < 8 ∧ ((pin s n).mode = 3 ∨ (pin s n).mode = 4) ∧ (pin s n).armed = true ∧ (pin s n).due ≤ t16At s ph) ∧
    (∃ (m : PtpIn) (s : State) (x : Port), port s m.port = some x ∧ x.link = .up ∧ ptpRuns s m.domain = true ∧ ptpCheck s m = .notAcceptable) ∧
    (∃ (m : PtpIn) (s : State) (x : Port), port s m.port = some x ∧ x.link = .up ∧ ptpRuns s m.domain = true ∧ ptpCheck s m = .authFail) ∧
    (∃ (m : PtpIn) (s : State) (x : Port), port s m.port = some x ∧ x.link = .up ∧ ptpRuns s m.domain = true ∧ ptpCheck s m = .ok) ∧
    (∃ (m : PtpIn) (s : State) (x : Port) (k : Nat), port s m.port = some x ∧ x.link = .up ∧ ptpRuns s m.domain = true ∧ ptpCheck s m = .icv k ∧ engineTaken s = true) ∧
    (∃ (m : PtpIn) (s : State) (x : Port) (k : Nat), port s m.port = some x ∧ x.link = .up ∧ ptpRuns s m.domain = true ∧ ptpCheck s m = .icv k ∧ engineTaken s = false ∧ icvGood s m k = true) ∧
    (∃ (m : PtpIn) (s : State) (x : Port) (k : Nat), port s m.port = some x ∧ x.link = .up ∧ ptpRuns s m.domain = true ∧ ptpCheck s m = .icv k ∧ engineTaken s = false ∧ icvGood s m k = false) ∧
    (∃ (x : Nat) (p : Nat) (k : Nat) (msg : List Byte) (s : State) (y : Port), port s p = some y ∧ y.link = .up ∧ ptpRuns s x = true ∧ 34 ≤ msg.length ∧ let m := ptpFill x p k y msg s; let r := if (dom s x).tx then ptpSigned (dom s x) m.1 m.2 else m; let bs := ptpDst k ++ y.srcMac ++ [0x88, 0xF7] ++ r.1; let s1 := modTime (fun u => { u with lastPtpTx := some (p, r.1) }) r.2; let s2 := if k = 2 then modPdelay p (fun c => { c with runs := true }) s1 else s1; let f := ownFrame 32 { out := p, q := 15, pri := 7, req := ptpReq (dom s x) y k, ptpOff := 14, tag := ptpTag x k (bfld msg 30 2), t2 := y.pdelay.reqTs, fw := true } bs s2; ∃ o, f = some o) ∧
    (∃ (x : Nat) (p : Nat) (k : Nat) (msg : List Byte) (s : State) (y : Port), port s p = some y ∧ y.link = .up ∧ ptpRuns s x = true ∧ 34 ≤ msg.length ∧ let m := ptpFill x p k y msg s; let r := if (dom s x).tx then ptpSigned (dom s x) m.1 m.2 else m; let bs := ptpDst k ++ y.srcMac ++ [0x88, 0xF7] ++ r.1; let s1 := modTime (fun u => { u with lastPtpTx := some (p, r.1) }) r.2; let s2 := if k = 2 then modPdelay p (fun c => { c with runs := true }) s1 else s1; let f := ownFrame 32 { out := p, q := 15, pri := 7, req := ptpReq (dom s x) y k, ptpOff := 14, tag := ptpTag x k (bfld msg 30 2), t2 := y.pdelay.reqTs, fw := true } bs s2; f = none) ∧
    (∃ (s : State), s.time.running = true ∧ s.time.d.natAbs ≤ (slewStep s * 1024).natAbs) := by
  and_intros
  · exact ⟨1, { fw with time := { doms := [(1, { since := 500000 })] } }, by decide +kernel⟩
  · exact ⟨{ fw with time := { running := true, pins := [(8, { mode := 1, edge := 1 })] } }, by decide +kernel⟩
  · exact ⟨{ fw with time := { running := true, pins := [(8, { mode := 1, edge := 2 })] } }, by decide +kernel⟩
  · exact ⟨{ fw with time := { running := true } }, by decide +kernel⟩
  · exact ⟨8, { fw with time := { running := true, pins := [(8, { mode := 1, edge := 3 })] } }, by decide +kernel⟩
  · exact ⟨8, { fw with time := { running := true, pins := [(8, { mode := 1, edge := 2 })] } }, by decide +kernel⟩
  · exact ⟨8, { fw with time := { running := true, pins := [(8, { mode := 1, edge := 2 })] } }, by decide +kernel⟩
  · exact ⟨8, { fw with time := { running := true, pins := [(8, { mode := 1, edge := 1 })] } }, by decide +kernel⟩
  · exact ⟨7, { fw with time := { running := true, pins := [(7, { mode := 1, edge := 1 })] } }, by decide +kernel⟩
  · exact ⟨7, 0, { fw with time := { pins := [(7, { mode := 2, armed := true })] } }, by decide +kernel⟩
  · exact ⟨7, 0, { fw with time := { pins := [(7, { mode := 4, armed := true })] } }, by decide +kernel⟩
  · exact ⟨{ domain := 1, port := 511, msgType := 0, clockId := 1, portNum := 1, tlv := none, covered := [], iv := 0 }, { onPort upPort with time := { doms := [(1, { listSeen := true, authSeen := true, masters := [(2, 1, 511)] })] } }, upPort, by decide +kernel⟩
  · exact ⟨{ domain := 1, port := 511, msgType := 0, clockId := 1, portNum := 1, tlv := none, covered := [], iv := 0 }, { onPort upPort with time := { doms := [(1, { listSeen := true, authSeen := true, rxRequired := true })] } }, upPort, by decide +kernel⟩
  · exact ⟨{ domain := 1, port := 511, msgType := 0, clockId := 1, portNum := 1, tlv := none, covered := [], iv := 0 }, { onPort upPort with time := { doms := [(1, { listSeen := true, authSeen := true })] } }, upPort, by decide +kernel⟩
  · exact ⟨{ domain := 1, port := 511, msgType := 0, clockId := 1, portNum := 1, tlv := some ⟨0, 0, [], false⟩, covered := [], iv := 0 }, { onPort upPort with time := { doms := [(1, { listSeen := true, authSeen := true, rxRequired := true })] }, ciph := { owner := 2 } }, upPort, 0, by decide +kernel⟩
  · exact ⟨icvMsg, icvState, upPort, 0, by and_intros; (iterate 5 decide +kernel); exact icv_good⟩
  · exact ⟨{ domain := 1, port := 511, msgType := 0, clockId := 1, portNum := 1, tlv := some ⟨0, 0, [], false⟩, covered := [], iv := 0 }, { onPort upPort with time := { doms := [(1, { listSeen := true, authSeen := true, rxRequired := true })] } }, upPort, 0, by decide +kernel⟩
  · exact ⟨1, 511, 0, (zeros 34), { onPort upPort with time := { doms := [(1, { listSeen := true, authSeen := true })] }, buf := { sections := [(0, { list := [(0, 1)] })] } }, upPort, by and_intros <;> first | exact ex_some (by decide +kernel) | decide +kernel⟩
  · exact ⟨1, 511, 0, (zeros 34), { onPort upPort with time := { doms := [(1, { listSeen := true, authSeen := true })] } }, upPort, by and_intros <;> decide +kernel⟩
  · exact ⟨{ fw with time := { running := true } }, by decide +kernel⟩

/-- States and operands that meet the hypotheses of FlashRowsComplete, one for each of its clauses. -/
theorem witness_FlashRowsComplete :
    (∃ (erase : Bool) (s : State) (j : FlashJob), s.boot.storing = none ∧ fwThere s = true ∧ s.boot.flash = some j ∧ storeOk s erase = true ∧ (erase = true → j.erases ≠ 0) ∧ (erase = false → j.pages ≠ 0 ∧ jobPage j / 16 < jobErased j)) ∧
    (∃ (erase : Bool) (s : State) (j : FlashJob), s.boot.storing = none ∧ fwThere s = true ∧ s.boot.flash = some j ∧ storeOk s erase = false ∧ (erase = true → j.erases ≠ 0) ∧ (erase = false → j.pages ≠ 0 ∧ jobPage j / 16 < jobErased j)) ∧
    (∃ (erase : Bool) (s : State) (j : FlashJob), s.boot.storing = some erase ∧ s.boot.flash = some j ∧ j.area < 2 ∧ j.mb ≠ 32 ∧ let r := jobStore erase j { s with boot := { s.boot with storing := none } }; ¬ (r.1.erases = 0 ∧ r.1.pages = 0)) ∧
    (∃ (erase : Bool) (s : State) (j : FlashJob), s.boot.storing = some erase ∧ s.boot.flash = some j ∧ j.area < 2 ∧ j.mb ≠ 32 ∧ let r := jobStore erase j { s with boot := { s.boot with storing := none } }; r.1.erases = 0 ∧ r.1.pages = 0) ∧
    (∃ (erase : Bool) (s : State) (j : FlashJob), s.boot.storing = some erase ∧ s.boot.flash = some j ∧ j.area < 2 ∧ j.mb ≠ 32) ∧
    (∃ (s : State), s.boot.fwRunning = true) := by
  and_intros
  · exact ⟨true, { { fw with boot := { phase := .ready, fwRunning := true, cBoard := 1000000, flash := some { mb := 31, area := 0, idx := 1, src := [], len := 4096, erases := 1, pages := 16 } } } with power := { vins := [58000] } }, { mb := 31, area := 0, idx := 1, src := [], len := 4096, erases := 1, pages := 16 }, by decide +kernel⟩
  · exact ⟨true, { fw with boot := { phase := .ready, fwRunning := true, cBoard := 0, flash := some { mb := 31, area := 0, idx := 1, src := [], len := 4096, erases := 1, pages := 16 } } }, { mb := 31, area := 0, idx := 1, src := [], len := 4096, erases := 1, pages := 16 }, by decide +kernel⟩
  · exact ⟨true, (sent 31 0x0C02 (req 32 1 0 0 []) { fw with boot := { phase := .ready, fwRunning := true, storing := some true, flash := some { mb := 31, area := 0, idx := 1, src := [], len := 4096, erases := 1, pages := 16 } } }), { mb := 31, area := 0, idx := 1, src := [], len := 4096, erases := 1, pages := 16 }, by and_intros <;> decide +kernel⟩
  · exact ⟨false, (sent 31 0x0C02 (req 32 1 0 0 []) { fw with boot := { phase := .ready, fwRunning := true, storing := some false, flash := some { mb := 31, area := 0, idx := 1, src := [], len := 256, erases := 0, pages := 1 } } }), { mb := 31, area := 0, idx := 1, src := [], len := 256, erases := 0, pages := 1 }, by and_intros <;> decide +kernel⟩
  · exact ⟨true, (sent 31 0x0C02 (req 32 1 0 0 []) { fw with boot := { phase := .ready, fwRunning := true, storing := some true, flash := some { mb := 31, area := 0, idx := 1, src := [], len := 4096, erases := 1, pages := 16 } } }), { mb := 31, area := 0, idx := 1, src := [], len := 4096, erases := 1, pages := 16 }, by decide +kernel⟩
  · exact ⟨fw, by decide +kernel⟩

/-- States and operands that meet the hypotheses of MailboxRowsComplete, one for each of its clauses. -/
theorem witness_MailboxRowsComplete :
    (∃ (who : Who) (m : Nat) (off : Nat) (data : List Byte) (s : State), m < 32 ∧ mbOwner m = who ∧ reaches s who = true ∧ 0x40 ≤ off ∧ off + data.length ≤ 0x400 ∧ data ≠ [] ∧ (who = .host → (data.length = 4 ∨ data.length = 8) ∧ off % data.length = 0) ∧ (mbox s m).st = .idle) ∧
    (∃ (who : Who) (m : Nat) (off : Nat) (data : List Byte) (s : State), m < 32 ∧ mbOwner m = who ∧ reaches s who = true ∧ 0x40 ≤ off ∧ off + data.length ≤ 0x400 ∧ data ≠ [] ∧ (who = .host → (data.length = 4 ∨ data.length = 8) ∧ off % data.length = 0) ∧ (mbox s m).st = .done) ∧
    (∃ (who : Who) (m : Nat) (off : Nat) (data : List Byte) (s : State), m < 32 ∧ mbOwner m = who ∧ reaches s who = true ∧ 0x40 ≤ off ∧ off + data.length ≤ 0x400 ∧ data ≠ [] ∧ (who = .host → (data.length = 4 ∨ data.length = 8) ∧ off % data.length = 0) ∧ (mbox s m).st = .pending) ∧
    (∃ (who : Who) (m : Nat) (off : Nat) (data : List Byte) (s : State), m < 32 ∧ mbOwner m ≠ who ∧ reaches s who = true ∧ (who = .host → (data.length = 4 ∨ data.length = 8) ∧ off % data.length = 0)) ∧
    (∃ (who : Who) (m : Nat) (s : State), m < 32 ∧ mbOwner m = who ∧ reaches s who = true ∧ (mbox s m).st = .pending) ∧
    (∃ (who : Who) (m : Nat) (s : State), m < 32 ∧ mbOwner m = who ∧ reaches s who = true ∧ (mbox s m).st ≠ .pending ∧ (mbox s m).written = false) ∧
    (∃ (who : Who) (m : Nat) (s : State), m < 32 ∧ mbOwner m = who ∧ reaches s who = true ∧ (mbox s m).st ≠ .pending ∧ (mbox s m).written = true ∧ s.boot.fwRunning = true) ∧
    (∃ (who : Who) (m : Nat) (s : State) (c : Cmd), m < 32 ∧ mbOwner m = who ∧ reaches s who = true ∧ (mbox s m).cmd = some c ∧ (mbox s m).st = .done) ∧
    (∃ (who : Who) (m : Nat) (s : State) (c : Cmd), m < 32 ∧ mbOwner m = who ∧ reaches s who = true ∧ (mbox s m).cmd = some c ∧ (mbox s m).st = .pending ∧ c.wait = .exec) ∧
    (∃ (who : Who) (m : Nat) (s : State) (c : Cmd), m < 32 ∧ mbOwner m = who ∧ reaches s who = true ∧ (mbox s m).cmd = some c ∧ (mbox s m).st = .pending ∧ c.wait = .outside) ∧
    (∃ (who : Who) (m : Nat) (s : State) (c : Cmd), m < 32 ∧ mbOwner m = who ∧ reaches s who = true ∧ (mbox s m).cmd = some c ∧ (mbox s m).st = .pending ∧ c.wait = .boundary) ∧
    (∃ (m : Nat) (s : State) (c : Cmd), (mbox s m).cmd = some c ∧ (mbox s m).st = .pending ∧ c.wait = .answered ∧ c.notBefore ≤ now s ∧ tabGet s.stack.serving m = none) ∧
    (∃ (m : Nat) (s : State) (c : Cmd), (mbox s m).cmd = some c ∧ (mbox s m).st = .pending ∧ c.wait = .answered ∧ c.notBefore ≤ now s) := by
  and_intros
  · exact ⟨.host, 0, 0x3F8, (zeros 8), fw, by decide +kernel⟩
  · exact ⟨.host, 0, 0x40, [255, 255, 255, 255], { fw with mboxes := [(0, { st := .done })], order := [0] }, by decide +kernel⟩
  · exact ⟨.bmc, 16, 0x3FF, [1], { fw with mboxes := [(16, { st := .pending })] }, by decide +kernel⟩
  · exact ⟨.bmc, 15, 0x40, [1], fw, by decide +kernel⟩
  · exact ⟨.host, 0, { fw with mboxes := [(0, { st := .pending })], order := [0] }, by decide +kernel⟩
  · exact ⟨.host, 0, fw, by decide +kernel⟩
  · exact ⟨.fw, 31, { fw with mboxes := [(31, { written := true })] }, by decide +kernel⟩
  · exact ⟨.host, 0, { fw with mboxes := [(0, { st := .done, cmd := some { code := 0x0101, len := 16, seq := 1, dirty := false, payload := req 16 1 0 0 [] } })], order := [0] }, { code := 0x0101, len := 16, seq := 1, dirty := false, payload := req 16 1 0 0 [] }, by decide +kernel⟩
  · exact ⟨.host, 0, { fw with mboxes := [(0, { st := .pending, cmd := some { code := 0x0101, len := 16, seq := 1, dirty := false, payload := req 16 1 0 0 [] } })], order := [0] }, { code := 0x0101, len := 16, seq := 1, dirty := false, payload := req 16 1 0 0 [] }, by decide +kernel⟩
  · exact ⟨.host, 0, { fw with mboxes := [(0, { st := .pending, cmd := some { code := 0x0101, len := 16, seq := 1, dirty := false, payload := req 16 1 0 0 [], wait := .outside } })], order := [0] }, { code := 0x0101, len := 16, seq := 1, dirty := false, payload := req 16 1 0 0 [], wait := .outside }, by decide +kernel⟩
  · exact ⟨.host, 0, { fw with mboxes := [(0, { st := .pending, cmd := some { code := 0x0101, len := 16, seq := 1, dirty := false, payload := req 16 1 0 0 [], wait := .boundary } })], order := [0] }, { code := 0x0101, len := 16, seq := 1, dirty := false, payload := req 16 1 0 0 [], wait := .boundary }, by decide +kernel⟩
  · exact ⟨0, { fw with mboxes := [(0, { st := .pending, cmd := some { code := 0x0101, len := 16, seq := 1, dirty := false, payload := req 16 1 0 0 [], wait := .answered } })], order := [0] }, { code := 0x0101, len := 16, seq := 1, dirty := false, payload := req 16 1 0 0 [], wait := .answered }, by decide +kernel⟩
  · exact ⟨0, { fw with mboxes := [(0, { st := .pending, cmd := some { code := 0x0101, len := 16, seq := 1, dirty := false, payload := req 16 1 0 0 [], wait := .answered } })], order := [0] }, { code := 0x0101, len := 16, seq := 1, dirty := false, payload := req 16 1 0 0 [], wait := .answered }, by decide +kernel⟩

/-- States and operands that meet the hypotheses of BootRowsComplete, one for each of its clauses. -/
theorem witness_BootRowsComplete :
    (∃ (vin : Nat) (s : State), 9500 ≤ vin ∧ s.boot.phase = .off ∧ s.boot.tripped = false) ∧
    (∃ (s : State), s.boot.phase = .aon ∧ s.refs.lost.contains 4 = false) ∧
    (∃ (tmin : Int) (s : State), s.boot.phase = .rails ∧ -80 ≤ tmin) ∧
    (∃ (s : State) (k : Nat) (tie : Bool) (bad : Bool), (s.boot.phase = .rails ∨ s.boot.phase = .regulated) ∧ s.boot.tempWait = false ∧ (s.boot.cold = false → s.boot.perst = false) ∧ chooseSlot s = some (k, tie, bad)) ∧
    (∃ (s : State), (s.boot.phase = .rails ∨ s.boot.phase = .regulated) ∧ s.boot.tempWait = false ∧ (s.boot.cold = false → s.boot.perst = false) ∧ chooseSlot s = none) ∧
    (∃ (s : State), s.boot.phase = .fwStart ∧ let s1 := modSlot s.boot.slot (fun x => { x with failed := true }) s; slotState s1 (1 - s.boot.slot) = 1) ∧
    (∃ (s : State), s.boot.phase = .fwStart ∧ let s1 := modSlot s.boot.slot (fun x => { x with failed := true }) s; slotState s1 (1 - s.boot.slot) ≠ 1) ∧
    (∃ (s : State), s.boot.phase = .fwStart) ∧
    (∃ (s : State), s.boot.phase = .fwRun ∧ s.boot.refMLost = false) ∧
    (∃ (s : State), (s.boot.phase = .fwStart ∨ s.boot.phase = .fwRun ∨ s.boot.phase = .ready)) := by
  and_intros
  · exact ⟨9500, State.reset, by decide +kernel⟩
  · exact ⟨{ fw with boot := { phase := .aon } }, by decide +kernel⟩
  · exact ⟨-80, { fw with boot := { phase := .rails } }, by decide +kernel⟩
  · exact ⟨{ fw with boot := { phase := .regulated, slots := [(0, { img := sealed 1, blank := false })] } }, 0, false, false, by decide +kernel, by decide +kernel, by decide +kernel, choose_sealed rfl rfl⟩
  · exact ⟨{ fw with boot := { phase := .regulated } }, by decide +kernel⟩
  · exact ⟨{ fw with boot := { phase := .fwStart, slot := 1, slots := [(0, { img := sealed 1, blank := false })] } }, by decide +kernel, slot_sealed rfl⟩
  · exact ⟨{ fw with boot := { phase := .fwStart } }, by decide +kernel, by decide +kernel⟩
  · exact ⟨{ fw with boot := { phase := .fwStart } }, by decide +kernel⟩
  · exact ⟨{ fw with boot := { phase := .fwRun } }, by decide +kernel⟩
  · exact ⟨{ fw with boot := { phase := .fwStart } }, by decide +kernel⟩

/-- States and operands that meet the hypotheses of HostRowsComplete, one for each of its clauses. -/
theorem witness_HostRowsComplete :
    (∃ (bar : Nat) (s : State), powered s = true ∧ s.boot.tempWait = false ∧ s.boot.perst = false ∧ bar ≤ 6) ∧
    (∃ (s : State), s.link.trained = true) ∧
    (∃ (us : Nat) (s : State), 100 ≤ us ∧ scanHolds s = false) ∧
    (∃ (us : Nat), us < 100) ∧
    (∃ (s : State), scanHolds s = false) ∧
    (∃ (addr : Nat) (wr : List Byte) (s : State), s.link.trained = true ∧ s.link.d0 = true ∧ s.link.cxl = true ∧ memServed s = true ∧ wr ≠ [] ∧ addr + wr.length ≤ windowLen) ∧
    (∃ (addr : Nat) (rd : Nat) (s : State), s.link.trained = true ∧ s.link.d0 = true ∧ s.link.cxl = true ∧ memServed s = true ∧ 0 < rd ∧ addr + rd ≤ windowLen) ∧
    (∃ (addr : Nat) (rd : Nat) (s : State), s.link.trained = true ∧ s.link.d0 = true ∧ s.link.cxl = false ∧ memServed s = true ∧ 0 < rd ∧ addr + rd ≤ s.link.bar2 * 2 ^ 30 ∧ s.link.aptBase * 2 ^ 30 + addr + rd ≤ windowLen) ∧
    (∃ (v : Nat) (s : State), v < 128 ∧ 0 < (vec s v).pend ∧ (if (vec s v).tricks = 0 then 64 else (vec s v).tricks) ≤ now s - (vec s v).t0) ∧
    (∃ (v : Nat) (s : State), v < 128 ∧ s.link.trained = true) := by
  and_intros
  · exact ⟨6, fw, by decide +kernel⟩
  · exact ⟨fw, by decide +kernel⟩
  · exact ⟨100, fw, by decide +kernel⟩
  · exact ⟨99, by decide +kernel⟩
  · exact ⟨fw, by decide +kernel⟩
  · exact ⟨(windowLen - 4), [1, 2, 3, 4], { fw with link := { trained := true, cxl := true } }, by decide +kernel⟩
  · exact ⟨(windowLen - 4), 4, { fw with link := { trained := true, cxl := true } }, by decide +kernel⟩
  · exact ⟨0, 4, { fw with link := { trained := true, aptBase := 47, bar2 := 1 } }, by decide +kernel⟩
  · exact ⟨127, { fw with irq := { vecs := [(127, { pend := 1, t0 := 4936 })] } }, by decide +kernel⟩
  · exact ⟨127, fw, by decide +kernel⟩

/-- States and operands that meet the hypotheses of RegisterAccessComplete, one for each of its clauses. -/
theorem witness_RegisterAccessComplete :
    (∃ (who : Who) (s : State), reaches s who = true) ∧
    (∃ (who : Who) (addr : Nat) (s : State), reaches s who = true ∧ addr < barSize ∧ addr % 4 = 0 ∧ regSpan addr = none) ∧
    (∃ (who : Who) (s : State), reaches s who = true) ∧
    (∃ (s : State), reaches s .host = true) ∧
    (∃ (who : Who) (s : State), reaches s who = false) := by
  and_intros
  · exact ⟨.host, fw, by decide +kernel⟩
  · exact ⟨.bmc, 0x3FFFFC, fw, by decide +kernel⟩
  · exact ⟨.bmc, fw, by decide +kernel⟩
  · exact ⟨fw, by decide +kernel⟩
  · exact ⟨.host, State.reset, by decide +kernel⟩

/-- States and operands that meet the hypotheses of LatchedReadsComplete, one for each of its clauses. -/
theorem witness_LatchedReadsComplete :
    (∃ (who : Who) (s : State), reaches s who = true) ∧
    (∃ (who : Who) (s : State), reaches s who = true) ∧
    (∃ (who : Who) (s : State), reaches s who = true) := by
  and_intros
  · exact ⟨.host, fw, by decide +kernel⟩
  · exact ⟨.bmc, fw, by decide +kernel⟩
  · exact ⟨.fw, fw, by decide +kernel⟩

/-- States and operands that meet the hypotheses of TrickRegistersLatch, one for each of its clauses. -/
theorem witness_TrickRegistersLatch :
    (∃ (who : Who) (s : State), reaches s who = true ∧ ∃ h, tabGet s.trick.latIndex (whoNo who) = some h) ∧
    (∃ (who : Who) (s : State), reaches s who = true ∧ ∃ h, tabGet s.trick.latCount (whoNo who) = some h) ∧
    (∃ (who : Who) (s : State), reaches s who = true) := by
  and_intros
  · exact ⟨.bmc, { fw with trick := { latIndex := [(1, 7)] } }, by decide +kernel, (7 : BitVec 32), by decide +kernel⟩
  · exact ⟨.host, { fw with trick := { latCount := [(0, 7)] } }, by decide +kernel, (7 : BitVec 32), by decide +kernel⟩
  · exact ⟨.fw, fw, by decide +kernel⟩

/-- States and operands that meet the hypotheses of MisshapenAccessIsAnError, one for each of its clauses. -/
theorem witness_MisshapenAccessIsAnError :
    (∃ (who : Who) (addr : Nat) (width : Nat) (s : State), who ≠ .fw ∧ reaches s who = true ∧ addr < barSize ∧ ((width ≠ 32 ∧ width ≠ 64) ∨ addr % (width / 8) ≠ 0)) := by
  exact ⟨.host, 4, 64, fw, by decide +kernel⟩

/-- States and operands that meet the hypotheses of TimeRegistersComplete, one for each of its clauses. -/
theorem witness_TimeRegistersComplete :
    (∃ (who : Who) (s : State), reaches s who = true) ∧
    (∃ (who : Who) (s : State) (e : TsqEntry) (r : List TsqEntry), reaches s who = true ∧ s.time.tsq = e :: r ∧ (∀ x, tabGet s.time.tsqLatch (whoNo who) = some x → x = some e)) ∧
    (∃ (who : Who) (s : State), reaches s who = true ∧ s.time.tsq = [] ∧ tabGet s.time.tsqLatch (whoNo who) = none) ∧
    (∃ (who : Who) (d : Nat) (s : State), reaches s who = true ∧ d < 2 ∧ (dom s d).source = 4 ∧ (dom s d).queue.length < 4) ∧
    (∃ (who : Who) (d : Nat) (s : State), reaches s who = true ∧ d < 2 ∧ ((dom s d).source ≠ 4 ∨ 4 ≤ (dom s d).queue.length)) ∧
    (∃ (who : Who) (d : Nat) (s : State), reaches s who = true ∧ d < 2) ∧
    (∃ (who : Who) (k : Nat) (v : BitVec 32) (s : State), reaches s who = true ∧ k < 9 ∧ (v.toNat % 8 < 3 ∨ ((v.toNat % 8 = 3 ∨ v.toNat % 8 = 4) ∧ trainOk (pin s k) (v.toNat % 8) = true)) ∧ (k = 8 → v.toNat % 8 < 2)) ∧
    (∃ (who : Who) (k : Nat) (s : State), reaches s who = true ∧ k < 9 ∧ ∃ c, ∃ r, (pin s k).fifo = c :: r ∧ (∀ x, tabGet (pin s k).latch (whoNo who) = some x → x = some c)) ∧
    (∃ (who : Who) (k : Nat) (s : State), reaches s who = true ∧ k < 9) := by
  and_intros
  · exact ⟨.host, fw, by decide +kernel⟩
  · exact ⟨.bmc, { fw with time := { tsq := [{ ts := 1, gap := true, notSent := false, timeValid := true, port := 511, tag := 65535 }] } }, { ts := 1, gap := true, notSent := false, timeValid := true, port := 511, tag := 65535 }, [], by decide +kernel, by decide +kernel, some_all (by decide +kernel)⟩
  · exact ⟨.bmc, fw, by decide +kernel⟩
  · exact ⟨.host, 1, { fw with time := { doms := [(1, { source := 4, queue := [0, 0, 0] })] } }, by decide +kernel⟩
  · exact ⟨.host, 1, { fw with time := { doms := [(1, { source := 4, queue := [0, 0, 0, 0] })] } }, by decide +kernel⟩
  · exact ⟨.host, 1, fw, by decide +kernel⟩
  · exact ⟨.host, 7, 3, { fw with time := { pins := [(7, { period := 1048576, width := 4 })] } }, by decide +kernel⟩
  · exact ⟨.bmc, 8, { fw with time := { pins := [(8, { fifo := [⟨0, 0, true, true⟩] })] } }, by decide +kernel, by decide +kernel, (⟨0, 0, true, true⟩ : Capture), ([] : List Capture), by decide +kernel, some_all (by decide +kernel)⟩
  · exact ⟨.host, 8, fw, by decide +kernel⟩

/-- States and operands that meet the hypotheses of FaultAndWindowRegistersComplete, one for each of its clauses. -/
theorem witness_FaultAndWindowRegistersComplete :
    (∃ (who : Who) (k : Nat) (s : State), reaches s who = true ∧ k < 4 ∧ ∃ src, ∃ unit, ∃ i, tabGet s.flt.inst (fltKey src unit) = some i ∧ unit < 1024) ∧
    (∃ (who : Who) (k : Nat) (s : State), reaches s who = true ∧ k < 4 ∧ ∃ src, ∃ unit, ∃ i, tabGet s.flt.inst (fltKey src unit) = some i ∧ unit < 1024 ∧ condHolds s src = false) ∧
    (∃ (who : Who) (addr : Nat) (n : Nat) (s : State), reaches s who = true ∧ 0x800000 ≤ addr ∧ addr < 0xD00000 ∧ (n = 4 ∨ n = 8) ∧ addr % n = 0 ∧ let w := (addr - 0x800000) / 0x100000; winHere s w = false) ∧
    (∃ (who : Who) (addr : Nat) (n : Nat) (s : State), reaches s who = true ∧ 0x800000 ≤ addr ∧ addr < 0xD00000 ∧ (n = 4 ∨ n = 8) ∧ addr % n = 0 ∧ let w := (addr - 0x800000) / 0x100000; (win s w).stable = true ∧ winHere s w = true) ∧
    (∃ (who : Who) (addr : Nat) (n : Nat) (s : State), reaches s who = true ∧ 0x800000 ≤ addr ∧ addr < 0xD00000 ∧ (n = 4 ∨ n = 8) ∧ addr % n = 0 ∧ let w := (addr - 0x800000) / 0x100000; (win s w).stable = false ∧ winHere s w = true ∧ addr % 64 < 56) ∧
    (∃ (who : Who) (addr : Nat) (n : Nat) (s : State), reaches s who = true ∧ 0x800000 ≤ addr ∧ addr < 0xD00000 ∧ (n = 4 ∨ n = 8) ∧ addr % n = 0 ∧ let w := (addr - 0x800000) / 0x100000; (win s w).stable = false ∧ winHere s w = true ∧ 56 ≤ addr % 64) ∧
    (∃ (who : Who) (w : Nat) (s : State), reaches s who = true ∧ w < 5 ∧ winHere s w = true) ∧
    (∃ (who : Who) (w : Nat) (s : State), reaches s who = true ∧ w < 5 ∧ winHere s w = false) := by
  and_intros
  · exact ⟨.host, 1, { fw with flt := { inst := [(fltKey 68 0, { sticky := true, severe := true })] } }, by decide +kernel, by decide +kernel, 68, 0, ({ sticky := true, severe := true } : FltInst), by decide +kernel⟩
  · exact ⟨.host, 1, { fw with flt := { inst := [(fltKey 68 0, { sticky := true, severe := true })] } }, by decide +kernel, by decide +kernel, 68, 0, ({ sticky := true, severe := true } : FltInst), by decide +kernel⟩
  · exact ⟨.host, 0xBFFFF4, 4, { fw with ident := { half := true } }, by and_intros <;> decide +kernel⟩
  · exact ⟨.host, 0xCFFFF8, 8, { fw with wins := [(4, { stable := true })] }, by and_intros <;> decide +kernel⟩
  · exact ⟨.host, 0xBFFFF4, 4, fw, by and_intros <;> decide +kernel⟩
  · exact ⟨.host, 0xCFFFF8, 8, fw, by and_intros <;> decide +kernel⟩
  · exact ⟨.host, 4, fw, by decide +kernel⟩
  · exact ⟨.host, 3, { fw with ident := { half := true } }, by decide +kernel⟩

/-- States and operands that meet the hypotheses of CiphRowsComplete, one for each of its clauses. -/
theorem witness_CiphRowsComplete :
    (∃ (who : Who) (s : State), reaches s who = true ∧ s.boot.fwRunning = true ∧ s.ciph.owner = 0) ∧
    (∃ (who : Who) (s : State), reaches s who = true ∧ s.boot.fwRunning = true ∧ s.ciph.owner ≠ 0 ∧ s.ciph.owner ≠ 3 ∧ who = .fw) ∧
    (∃ (who : Who) (s : State), reaches s who = true ∧ s.boot.fwRunning = true ∧ s.ciph.owner ≠ 0 ∧ who ≠ .fw) ∧
    (∃ (who : Who) (s : State), reaches s who = true ∧ s.boot.fwRunning = true ∧ s.ciph.owner = ownerCode who) ∧
    (∃ (who : Who) (s : State), reaches s who = true ∧ s.boot.fwRunning = true ∧ s.ciph.owner ≠ ownerCode who) ∧
    (∃ (who : Who) (s : State), reaches s who = true ∧ s.boot.fwRunning = false) ∧
    (∃ (s : State), s.ciph.waiting = true ∧ s.ciph.lease ≤ s.ciph.held ∧ (s.ciph.owner = 1 ∨ s.ciph.owner = 2)) ∧
    (∃ (who : Who) (v : BitVec 32) (s : State) (k : BitVec 256), reaches s who = true ∧ s.ciph.owner = ownerCode who ∧ s.ciph.busy = false ∧ (tabGetD s.ciph.slots (bits v.toNat 7 4) {}).key = some k ∧ (who = .fw ∨ (tabGetD s.ciph.slots (bits v.toNat 7 4) {}).owner = ownerCode who) ∧ s.ciph.src.toNat / 64 * 64 + s.ciph.len.toNat ≤ windowLen) ∧
    (∃ (s : State), s.ciph.busy = true ∧ atRun s 112 = true) ∧
    (∃ (who : Who) (n : Nat) (s : State), reaches s who = true ∧ s.ciph.owner = ownerCode who ∧ n < 16 ∧ let x := tabGetD s.ciph.slots n {}; (x.owner = 0 ∨ x.owner = ownerCode who)) ∧
    (∃ (who : Who) (n : Nat) (s : State), reaches s who = true ∧ s.ciph.owner = ownerCode who ∧ n < 16 ∧ let x := tabGetD s.ciph.slots n {}; x.owner ≠ 0 ∧ x.owner ≠ ownerCode who) ∧
    (∃ (who : Who) (n : Nat) (s : State), reaches s who = true ∧ s.ciph.owner = ownerCode who ∧ n < 16 ∧ let x := tabGetD s.ciph.slots n {}; x.owner = ownerCode who) := by
  and_intros
  · exact ⟨.bmc, fw, by decide +kernel⟩
  · exact ⟨.fw, { fw with ciph := { owner := 2 } }, by decide +kernel⟩
  · exact ⟨.host, { fw with ciph := { owner := 3 } }, by decide +kernel⟩
  · exact ⟨.bmc, { fw with ciph := { owner := 2, waiting := true } }, by decide +kernel⟩
  · exact ⟨.host, { fw with ciph := { owner := 2 } }, by decide +kernel⟩
  · exact ⟨.bmc, { fw with boot := { phase := .recovery } }, by decide +kernel⟩
  · exact ⟨{ fw with ciph := { owner := 2, waiting := true, held := 32 } }, by decide +kernel⟩
  · exact ⟨.bmc, 0xF1, { fw with ciph := { owner := 2, slots := [(15, { owner := 2, key := some 0 })] } }, 0, by decide +kernel⟩
  · exact ⟨{ fw with ciph := { busy := true } }, by decide +kernel⟩
  · exact ⟨.bmc, 15, { fw with ciph := { owner := 2 } }, by and_intros <;> decide +kernel⟩
  · exact ⟨.bmc, 15, { fw with ciph := { owner := 2, slots := [(15, { owner := 1 })] } }, by and_intros <;> decide +kernel⟩
  · exact ⟨.bmc, 15, { fw with ciph := { owner := 2, slots := [(15, { owner := 2 })] } }, by and_intros <;> decide +kernel⟩

/-- States and operands that meet the hypotheses of OnlyTheHolderDrivesTheEngine, one for each of its clauses. -/
theorem witness_OnlyTheHolderDrivesTheEngine :
    (∃ (who : Who) (s : State), reaches s who = true ∧ s.ciph.owner ≠ ownerCode who ∧ ∃ (a : Nat), a ∈ [0x60008, 0x60010, 0x60018, 0x60020, 0x60028, 0x60060, 0x60068, 0x60070, 0x60078, 0x60080]) ∧
    (∃ (who : Who) (s : State), reaches s who = true ∧ s.ciph.owner ≠ ownerCode who ∧ ∃ (a : Nat), a ∈ [0x60010, 0x60020, 0x60060, 0x60068, 0x60070, 0x60078]) ∧
    (∃ (who : Who) (s : State), reaches s who = true ∧ s.ciph.owner ≠ ownerCode who) ∧
    (∃ (who : Who) (s : State), reaches s who = true ∧ s.ciph.owner ≠ ownerCode who) ∧
    (∃ (who : Who) (s : State), reaches s who = true) ∧
    (∃ (who : Who) (s : State), reaches s who = true ∧ who ≠ .host) ∧
    (∃ (who : Who) (s : State), reaches s who = true ∧ ∃ (v : BitVec 64), who = .host ∧ v.toNat % 65536 ≠ 0) := by
  and_intros
  · exact ⟨.host, fw, by decide +kernel, by decide +kernel, 0x60080, by decide +kernel⟩
  · exact ⟨.host, fw, by decide +kernel, by decide +kernel, 0x60078, by decide +kernel⟩
  · exact ⟨.bmc, fw, by decide +kernel⟩
  · exact ⟨.host, fw, by decide +kernel⟩
  · exact ⟨.host, fw, by decide +kernel⟩
  · exact ⟨.bmc, fw, by decide +kernel⟩
  · exact ⟨.host, fw, by decide +kernel, 65535, by decide +kernel⟩

/-- States and operands that meet the hypotheses of RingSwitchComplete, one for each of its clauses. -/
theorem witness_RingSwitchComplete :
    (∃ (r : Nat) (v : BitVec 32) (s : State), r < 64 ∧ reaches s .host = true ∧ s.boot.fwRunning = true ∧ (ring s r).st = .off ∧ bits v.toNat 30 29 ≠ 0 ∧ bits v.toNat 28 24 ≤ 16 ∧ 6 ≤ bits v.toNat 28 24 ∧ (bits v.toNat 30 29 = 3 → 9 ≤ bits v.toNat 28 24) ∧ (bits v.toNat 30 29 = 1 → (ring s (bits v.toNat 13 8)).typ = .cq)) ∧
    (∃ (r : Nat) (v : BitVec 32) (s : State), r < 64 ∧ reaches s .host = true ∧ typeOf (bits v.toNat 30 29) = (ring s r).typ ∧ bits v.toNat 28 24 = (ring s r).log2 ∧ bits v.toNat 13 8 = (ring s r).cq ∧ ((ring s r).st = .halted ∨ ((ring s r).st = .run ∧ (ring s r).typ = .sq ∧ (ring s r).wait = none ∧ (ring s r).stalled = none) ∨ ((ring s r).st = .run ∧ (ring s r).typ = .cq ∧ (ring s r).hold = [] ∧ cqNamed s r = false) ∨ ((ring s r).st = .run ∧ (ring s r).typ = .rx ∧ (ring s r).hold = []))) ∧
    (∃ (r : Nat) (v : BitVec 32) (s : State), r < 64 ∧ reaches s .host = true ∧ typeOf (bits v.toNat 30 29) = (ring s r).typ ∧ bits v.toNat 28 24 = (ring s r).log2 ∧ bits v.toNat 13 8 = (ring s r).cq ∧ (ring s r).st = .run ∧ (ring s r).typ = .cq ∧ (ring s r).hold ≠ []) := by
  and_intros
  · exact ⟨63, 2952790016, { fw with rings := [(0, { typ := .cq, st := .run })] }, by decide +kernel⟩
  · exact ⟨63, 805306368, { fw with rings := [(63, { typ := .sq, log2 := 16, st := .halted })] }, by decide +kernel⟩
  · exact ⟨63, 1342177280, { fw with rings := [(63, { typ := .cq, log2 := 16, st := .run, hold := [(zeros 64, none)] })] }, by decide +kernel⟩

/-- States and operands that meet the hypotheses of RingRowsComplete, one for each of its clauses. -/
theorem witness_RingRowsComplete :
    (∃ (r : Nat) (host : List (Nat × Byte)) (s : State), let s1 := modRing r (fun y => { y with rung := false }) (hostStores host s); let x := ring s r; r < 64 ∧ reaches s .host = true ∧ x.typ = .sq ∧ x.st = .run ∧ x.wait = none ∧ x.stalled = none ∧ atRun s 111 = true ∧ posted s1 x x.c = false) ∧
    (∃ (r : Nat) (host : List (Nat × Byte)) (s : State), let s1 := modRing r (fun y => { y with rung := false }) (hostStores host s); let x := ring s r; r < 64 ∧ reaches s .host = true ∧ x.typ = .sq ∧ x.st = .run ∧ x.wait = none ∧ x.stalled = none ∧ atRun s 111 = true ∧ posted s1 x x.c = true ∧ let h := ringRead s1 x x.c 1; (fld h 2 2 % 64 ≠ 0 ∨ fld h 2 2 = 0 ∨ entryMax x < fld h 2 2)) ∧
    (∃ (r : Nat) (host : List (Nat × Byte)) (s : State), let s1 := modRing r (fun y => { y with rung := false }) (hostStores host s); let x := ring s r; r < 64 ∧ reaches s .host = true ∧ x.typ = .sq ∧ x.st = .run ∧ x.wait = none ∧ x.stalled = none ∧ atRun s 111 = true ∧ posted s1 x x.c = true ∧ let t := sqEntry none r s1; (ring t r).st = .run ∧ (ring t r).wait = none ∧ (ring t r).stalled = none ∧ (ring t r).c ≠ x.c ∧ posted t (ring t r) (ring t r).c = false) ∧
    (∃ (r : Nat) (s : State) (w : SqWait) (u : State), (ring s r).wait = some w ∧ atRun s 111 = true ∧ ownFrame 33 { out := sqPort w.hdr, q := fld w.hdr 8 2 % 16, pri := fld w.hdr 10 1 % 8, req := sqTime w.hdr, tag := fld w.hdr 6 2, ptpOff := fld w.hdr 12 2, t2 := fld w.hdr 24 8, profile := fld w.hdr 14 1 % 64 } w.frame s = some (none, u)) ∧
    (∃ (r : Nat) (v : Nat) (s : State), r < 64 ∧ reaches s .host = true ∧ ((ring s r).typ = .cq ∨ (ring s r).typ = .rx) ∧ v < 2 ^ 17 ∧ hostIdxOk (ring s r) v = true) ∧
    (∃ (r : Nat) (v : Nat) (s : State), r < 64 ∧ reaches s .host = true ∧ ((ring s r).typ = .cq ∨ (ring s r).typ = .rx) ∧ v < 2 ^ 17 ∧ hostIdxOk (ring s r) v = false) ∧
    (∃ (r : Nat) (bs : List Byte) (h : Option Nat) (s : State), (ring s r).typ = .cq ∧ (ring s r).st = .run ∧ (ring s r).hold = [(bs, h)] ∧ ringFits (ring s r) 1 = true ∧ (ring s r).waiters = []) ∧
    (∃ (r : Nat) (bs : List Byte) (h : Nat) (s : State), (ring s r).typ = .rx ∧ (ring s r).st = .run ∧ (ring s r).hold = [(bs, some h)] ∧ ringFits (ring s r) (bs.length / 64) = true) := by
  and_intros
  · exact ⟨0, [], (sqState []), by decide +kernel⟩
  · exact ⟨0, [], (sqState ([0x81] ++ zeros 63)), by and_intros <;> decide +kernel⟩
  · exact ⟨0, [], (sqState (patch ([0x81] ++ zeros 63) 2 [64])), by and_intros <;> decide +kernel⟩
  · exact ⟨0, { withPort 0 upPort fw with rings := [(0, { typ := .sq, st := .run, enable := true, cq := 63, wait := some { index := 0, slots := 1, hdr := zeros 64, frame := zeros 60 } }), (63, { typ := .cq, st := .run, enable := true })], buf := { sections := [(0, { list := [(0, 1)] })] } }, { index := 0, slots := 1, hdr := zeros 64, frame := zeros 60 }, (match ownFrame 33 { out := 0, q := 0, pri := 0, req := .none, tag := 0, ptpOff := 0, t2 := 0, profile := 0 } (zeros 60) ({ withPort 0 upPort fw with rings := [(0, { typ := .sq, st := .run, enable := true, cq := 63, wait := some { index := 0, slots := 1, hdr := zeros 64, frame := zeros 60 } }), (63, { typ := .cq, st := .run, enable := true })], buf := { sections := [(0, { list := [(0, 1)] })] } }) with | some r => r.2 | none => fw), by decide +kernel⟩
  · exact ⟨63, 127, { fw with rings := [(63, { typ := .cq, st := .run, p := 0 })] }, by decide +kernel⟩
  · exact ⟨63, 128, { fw with rings := [(63, { typ := .cq, st := .run, p := 0 })] }, by decide +kernel⟩
  · exact ⟨63, (zeros 64), none, { fw with rings := [(63, { typ := .cq, st := .run, p := 63, hold := [(zeros 64, none)] })] }, by and_intros <;> decide +kernel⟩
  · exact ⟨63, (zeros 64), 0, { fw with rings := [(63, { typ := .rx, st := .run, log2 := 9, hold := [(zeros 64, some 0)] })], buf := { chains := [(0, cellOf 0 32)] } }, by decide +kernel⟩

/-- States and operands that meet the hypotheses of DmaControlComplete, one for each of its clauses. -/
theorem witness_DmaControlComplete :
    (∃ (k : Nat) (s : State), k < 28 ∧ reaches s .host = true ∧ s.boot.fwRunning = true ∧ (chan s k).st = .stopped ∧ (ring s (chan s k).cq).typ = .cq ∧ (ring s (chan s k).cq).st = .run) ∧
    (∃ (k : Nat) (s : State), k < 28 ∧ reaches s .host = true ∧ s.boot.fwRunning = true ∧ (chan s k).st = .stopped ∧ (ring s (chan s k).cq).typ ≠ .cq) ∧
    (∃ (k : Nat) (s : State), 28 ≤ k ∧ k < 32 ∧ reaches s .host = true) ∧
    (∃ (k : Nat) (s : State), k < 28 ∧ reaches s .host = true ∧ (chan s k).st = .stopped) ∧
    (∃ (k : Nat) (s : State), k < 28 ∧ reaches s .host = true ∧ (chan s k).st ≠ .stopped) ∧
    (∃ (k : Nat) (s : State), k < 28 ∧ reaches s .host = true ∧ (chan s k).st ≠ .stopped ∧ drained s k = true ∧ cqRoom (modChan k (fun x => { x with st := .running }) s) (chan s k).cq (.dma k) = true) ∧
    (∃ (k : Nat) (s : State), k < 28 ∧ reaches s .host = true ∧ (chan s k).st ≠ .parked) ∧
    (∃ (k : Nat) (host : List (Nat × Byte)) (s : State), k < 28 ∧ reaches s .host = true ∧ ∃ i, (chan s k).st = .parked ∧ dmaFetch (hostStores host s) k none = .inr i) ∧
    (∃ (k : Nat) (b : List Byte) (s : State), (chan s k).due = [b] ∧ drained s k = true ∧ cqRoom s (chan s k).cq (.dma k) = true) ∧
    (∃ (k : Nat) (s : State), (chan s k).st = .waiting ∧ atRun s 111 = true ∧ ∃ n, (chan s k).wait = some (.tricks n) ∧ n ≤ now s) ∧
    (∃ (k : Nat) (s : State), (chan s k).st = .waiting ∧ atRun s 111 = true ∧ ∃ f, (chan s k).wait = some (.flags f) ∧ (chan s k).flags &&& f = f) := by
  and_intros
  · exact ⟨27, { fw with chans := [(27, { cq := 63 })], rings := [(63, { typ := .cq, st := .run, enable := true })] }, by decide +kernel⟩
  · exact ⟨27, { fw with chans := [(27, { cq := 62 })], rings := [(63, { typ := .cq, st := .run, enable := true })] }, by decide +kernel⟩
  · exact ⟨31, fw, by decide +kernel⟩
  · exact ⟨27, fw, by decide +kernel⟩
  · exact ⟨27, { fw with chans := [(27, { cq := 63, st := .stalled })], rings := [(63, { typ := .cq, st := .run, enable := true })] }, by decide +kernel⟩
  · exact ⟨27, { fw with chans := [(27, { cq := 63, st := .running })], rings := [(63, { typ := .cq, st := .run, enable := true })] }, by decide +kernel⟩
  · exact ⟨27, fw, by decide +kernel⟩
  · exact ⟨27, [], { dmaState 0x100 with chans := [(27, { st := .parked, cq := 63 })] }, by decide +kernel, by decide +kernel, (dmaIns (leBytes 16 0x100)), by decide +kernel⟩
  · exact ⟨27, (dmaRecord 27 0 1 0 0 0 0 0 0), { fw with chans := [(27, { cq := 63, st := .stalled, due := [dmaRecord 27 0 1 0 0 0 0 0 0], dueEnds := true })], rings := [(63, { typ := .cq, st := .run, enable := true })] }, by decide +kernel⟩
  · exact ⟨27, { fw with chans := [(27, { st := .waiting, wait := some (.tricks 5000) })], rings := [(63, { typ := .cq, st := .run, enable := true })] }, by decide +kernel, by decide +kernel, 5000, by decide +kernel⟩
  · exact ⟨27, { fw with chans := [(27, { st := .waiting, wait := some (.flags 1), flags := 3 })], rings := [(63, { typ := .cq, st := .run, enable := true })] }, by decide +kernel, by decide +kernel, 1, by decide +kernel⟩

/-- States and operands that meet the hypotheses of DmaDataComplete, one for each of its clauses. -/
theorem witness_DmaDataComplete :
    (∃ (k : Nat) (i : DmaIns) (s : State), dmaReady s k = true ∧ dmaFetch s k none = .inr i ∧ dmaBad i = false ∧ dmaDataCheck s i = none ∧ i.opc = 1) ∧
    (∃ (k : Nat) (i : DmaIns) (s : State), dmaReady s k = true ∧ dmaFetch s k none = .inr i ∧ dmaBad i = false ∧ dmaDataCheck s i = none ∧ i.opc = 3) ∧
    (∃ (k : Nat) (i : DmaIns) (s : State), dmaReady s k = true ∧ dmaFetch s k none = .inr i ∧ dmaBad i = false ∧ dmaDataCheck s i = none ∧ i.opc = 2 ∧ i.flags.testBit 1 = false) ∧
    (∃ (k : Nat) (i : DmaIns) (s : State), dmaReady s k = true ∧ dmaFetch s k none = .inr i ∧ dmaBad i = false ∧ dmaDataCheck s i = none ∧ i.opc = 2 ∧ i.flags.testBit 1 = true ∧ i.sd ≤ 1) ∧
    (∃ (k : Nat) (i : DmaIns) (s : State), dmaReady s k = true ∧ dmaFetch s k none = .inr i ∧ dmaBad i = false ∧ dmaDataCheck s i = none ∧ i.opc = 4 ∧ compareRecords s k i (i.len / 64) = []) ∧
    (∃ (k : Nat) (i : DmaIns) (s : State), dmaReady s k = true ∧ dmaFetch s k none = .inr i ∧ dmaBad i = false ∧ dmaDataCheck s i = none ∧ ∃ r, ∃ rs, i.opc = 4 ∧ i.flags.testBit 0 = false ∧ compareRecords s k i (i.len / 64) = r :: rs) ∧
    (∃ (k : Nat) (i : DmaIns) (s : State), dmaReady s k = true ∧ dmaFetch s k none = .inr i ∧ dmaBad i = false ∧ dmaDataCheck s i = none ∧ ∃ r, ∃ rs, i.opc = 4 ∧ i.flags.testBit 0 = true ∧ compareRecords s k i (i.len / 64) = r :: rs) ∧
    (∃ (k : Nat) (st : Nat) (i : DmaIns) (s : State), dmaReady s k = true ∧ dmaFetch s k none = .inr i ∧ dmaBad i = false ∧ dmaDataCheck s i = some st ∧ (i.opc = 1 ∨ i.opc = 3)) := by
  and_intros
  · exact ⟨27, (dmaIns (leBytes 16 (dmaWord 1 0 0 1 64 0 64))), (dmaState (dmaWord 1 0 0 1 64 0 64)), by decide +kernel⟩
  · exact ⟨27, (dmaIns (leBytes 16 (dmaWord 3 0 0 1 64 1 64))), (dmaState (dmaWord 3 0 0 1 64 1 64)), by decide +kernel⟩
  · exact ⟨27, (dmaIns (leBytes 16 (dmaWord 2 1 0 1 64 0 64))), (dmaState (dmaWord 2 1 0 1 64 0 64)), by decide +kernel⟩
  · exact ⟨27, (dmaIns (leBytes 16 (dmaWord 2 2 0 1 64 0 64))), (dmaState (dmaWord 2 2 0 1 64 0 64)), by decide +kernel⟩
  · exact ⟨27, (dmaIns (leBytes 16 (dmaWord 4 0 0 0 64 0 0))), (dmaState (dmaWord 4 0 0 0 64 0 0)), by decide +kernel⟩
  · exact ⟨27, (dmaIns (leBytes 16 (dmaWord 4 0 0 1 64 0 0))), (dmaState (dmaWord 4 0 0 1 64 0 0)), by and_intros; (iterate 4 decide +kernel); exact ⟨dmaRecord 27 3 0 0 0 0 0 0 16, [], by decide +kernel⟩⟩
  · exact ⟨27, (dmaIns (leBytes 16 (dmaWord 4 1 0 1 64 0 0))), (dmaState (dmaWord 4 1 0 1 64 0 0)), by and_intros; (iterate 4 decide +kernel); exact ⟨dmaRecord 27 3 0 0 0 0 0 0 16, [], by decide +kernel⟩⟩
  · exact ⟨27, 2, (dmaIns (leBytes 16 (dmaWord 1 0 0 0 128 0 64))), (dmaState (dmaWord 1 0 0 0 128 0 64)), by decide +kernel⟩

/-- States and operands that meet the hypotheses of DmaFlowComplete, one for each of its clauses. -/
theorem witness_DmaFlowComplete :
    (∃ (k : Nat) (i : DmaIns) (s : State), dmaReady s k = true ∧ dmaFetch s k none = .inr i ∧ dmaBad i = false ∧ i.opc = 0 ∧ i.lo.testBit 8 = false) ∧
    (∃ (k : Nat) (i : DmaIns) (s : State), dmaReady s k = true ∧ dmaFetch s k none = .inr i ∧ dmaBad i = false ∧ i.opc = 0 ∧ i.lo.testBit 8 = true) ∧
    (∃ (k : Nat) (i : DmaIns) (s : State), dmaReady s k = true ∧ dmaFetch s k none = .inr i ∧ dmaBad i = false ∧ i.opc = 8 ∧ bits i.lo 39 16 = 0) ∧
    (∃ (k : Nat) (i : DmaIns) (s : State), dmaReady s k = true ∧ dmaFetch s k none = .inr i ∧ dmaBad i = false ∧ i.opc = 8 ∧ bits i.lo 39 16 ≠ 0) ∧
    (∃ (k : Nat) (i : DmaIns) (s : State), dmaReady s k = true ∧ dmaFetch s k none = .inr i ∧ dmaBad i = false ∧ i.opc = 9 ∧ i.flags = 0 ∧ 0 < bits i.lo 63 32) ∧
    (∃ (k : Nat) (i : DmaIns) (s : State), dmaReady s k = true ∧ dmaFetch s k none = .inr i ∧ dmaBad i = false ∧ i.opc = 9 ∧ i.flags = 1) ∧
    (∃ (k : Nat) (i : DmaIns) (s : State), dmaReady s k = true ∧ dmaFetch s k none = .inr i ∧ dmaBad i = false ∧ i.opc = 9 ∧ i.flags = 3 ∧ drained s k = true) ∧
    (∃ (k : Nat) (i : DmaIns) (s : State), dmaReady s k = true ∧ dmaFetch s k none = .inr i ∧ dmaBad i = false ∧ i.opc = 10 ∧ i.lo.testBit 9 = true ∧ i.lo.testBit 8 = false ∧ bits i.lo 20 16 ≠ k) ∧
    (∃ (k : Nat) (i : DmaIns) (s : State), dmaReady s k = true ∧ dmaFetch s k none = .inr i ∧ dmaBad i = false ∧ i.opc = 10 ∧ i.lo.testBit 9 = false ∧ i.lo.testBit 8 = true) ∧
    (∃ (k : Nat) (i : DmaIns) (s : State), dmaReady s k = true ∧ dmaFetch s k none = .inr i ∧ dmaBad i = false ∧ i.opc = 11) := by
  and_intros
  · exact ⟨27, (dmaIns (leBytes 16 (0))), (dmaState (0)), by decide +kernel⟩
  · exact ⟨27, (dmaIns (leBytes 16 (0x1FF - 0xFF))), (dmaState (0x1FF - 0xFF)), by decide +kernel⟩
  · exact ⟨27, (dmaIns (leBytes 16 (8 + 3 * 2 ^ 8))), (dmaState (8 + 3 * 2 ^ 8)), by decide +kernel⟩
  · exact ⟨27, (dmaIns (leBytes 16 (8 + 3 * 2 ^ 8 + (2 ^ 24 - 1) * 2 ^ 16))), (dmaState (8 + 3 * 2 ^ 8 + (2 ^ 24 - 1) * 2 ^ 16)), by decide +kernel⟩
  · exact ⟨27, (dmaIns (leBytes 16 (9 + (2 ^ 32 - 1) * 2 ^ 32))), (dmaState (9 + (2 ^ 32 - 1) * 2 ^ 32)), by decide +kernel⟩
  · exact ⟨27, (dmaIns (leBytes 16 (9 + 2 ^ 8))), (dmaState (9 + 2 ^ 8)), by decide +kernel⟩
  · exact ⟨27, (dmaIns (leBytes 16 (9 + 3 * 2 ^ 8))), (dmaState (9 + 3 * 2 ^ 8)), by decide +kernel⟩
  · exact ⟨27, (dmaIns (leBytes 16 (10 + 2 ^ 9 + 31 * 2 ^ 16 + 2 ^ 32))), (dmaState (10 + 2 ^ 9 + 31 * 2 ^ 16 + 2 ^ 32)), by decide +kernel⟩
  · exact ⟨27, (dmaIns (leBytes 16 (10 + 2 ^ 8 + 7 * 2 ^ 32))), (dmaState (10 + 2 ^ 8 + 7 * 2 ^ 32)), by decide +kernel⟩
  · exact ⟨27, (dmaIns (leBytes 16 (11 + 16 * 2 ^ 8))), (dmaState (11 + 16 * 2 ^ 8)), by decide +kernel⟩

/-- States and operands that meet the hypotheses of PackageRowsComplete, one for each of its clauses. -/
theorem witness_PackageRowsComplete :
    (∃ (o : Nat) (n : Nat) (s : State), powered s = true ∧ o < 0x2000 ∧ 0x40 ≤ o % 0x400 ∧ 0 < n ∧ n ≤ s.pins.mrl) ∧
    (∃ (bs : List Byte) (s : State), powered s = true ∧ bs.length = 8 ∧ 10 ≤ s.pins.mwl) ∧
    (∃ (s : State), powered s = true ∧ s.pins.i3cAddr = none) ∧
    (∃ (arg : List Byte) (s : State), powered s = true ∧ s.pins.i3cAddr = none ∧ fld arg 0 1 = 0x4C) ∧
    (∃ (s : State), powered s = true ∧ s.pins.i3cAddr ≠ none) ∧
    (∃ (s : State), powered s = true) ∧
    (∃ (s : State), s.boot.phase ≠ .off) := by
  and_intros
  · exact ⟨0x1C40, 960, { fw with pins := { mrl := 1026 } }, by decide +kernel⟩
  · exact ⟨[1, 2, 3, 4, 5, 6, 7, 8], { fw with pins := { mwl := 10 } }, by decide +kernel⟩
  · exact ⟨fw, by decide +kernel⟩
  · exact ⟨[0x4C], fw, by decide +kernel⟩
  · exact ⟨{ fw with pins := { i3cAddr := some 0x4C } }, by decide +kernel⟩
  · exact ⟨fw, by decide +kernel⟩
  · exact ⟨fw, by decide +kernel⟩

/-- States and operands that meet the hypotheses of TrickBoundaryComplete, one for each of its clauses. -/
theorem witness_TrickBoundaryComplete :
    (∃ (i : TrickIn) (s : State), powered s = true ∧ (∀ t ∈ i.temps, t < 2000)) ∧
    (∃ (s : State), powered s = false) := by
  and_intros
  · exact ⟨{ rate := 2 ^ 40, late := [], vin := 12000, iin := 0, rails := [], temps := [1999], fec := [] }, fw, by decide +kernel⟩
  · exact ⟨State.reset, by decide +kernel⟩

/-- States and operands that meet the hypotheses of StepRunsTheFront, one for each of its clauses. -/
theorem witness_StepRunsTheFront :
    (∃ (s : State), s.pending = []) := by
  exact ⟨fw, by decide +kernel⟩

/-- States and operands that meet the hypotheses of MemoriesStayCanonical, one for each of its clauses. -/
theorem witness_MemoriesStayCanonical :
    (∃ (s : State) (t : State), memoriesWf s = true ∧ step s = .next t) := by
  exact ⟨fw, fw, by decide +kernel, rfl⟩

/-- States and operands that meet the hypotheses of OnlyBoundariesCount, one for each of its clauses. -/
theorem witness_OnlyBoundariesCount :
    (∃ (c : Instr) (s : State) (t : State), exec c s = .next t ∧ t.boot.phase ≠ .off) := by
  exact ⟨.timePllLock, fw, fw, rfl, by decide +kernel⟩

/-- States and operands that meet the hypotheses of RingsNeverOverflow, one for each of its clauses. -/
theorem witness_RingsNeverOverflow :
    (∃ (c : Instr) (s : State) (t : State), ringRow c = true ∧ ringsOk s ∧ exec c s = .next t) := by
  exact ⟨(.dmaAbort 27), fw, (modChan 27 (fun x => { x with abortResult := 5 }) fw), by decide +kernel, rings_fw, rfl⟩

/-- States and operands that meet the hypotheses of ShedListIsChecked, one for each of its clauses. -/
theorem witness_ShedListIsChecked :
    (∃ (m : Nat) (p : List Byte) (s : State), waiting m 0x0902 p s = true ∧ addressed s p 88 [1] = true ∧ ((∃ i, i < fld p 16 1 ∧ i < 64 ∧ 63 < fld p (24 + i) 1) ∨ (∃ i j, i < j ∧ j < fld p 16 1 ∧ j < 64 ∧ fld p (24 + i) 1 = fld p (24 + j) 1))) ∧
    (∃ (m : Nat) (p : List Byte) (s : State), waiting m 0x0902 p s = true ∧ addressed s p 88 [1] = true ∧ fld p 16 1 ≤ 64 ∧ fld p 17 7 = 0 ∧ (∀ i, i < fld p 16 1 → fld p (24 + i) 1 ≤ 63) ∧ (∀ i j, i < j → j < fld p 16 1 → fld p (24 + i) 1 ≠ fld p (24 + j) 1) ∧ (∀ i, fld p 16 1 ≤ i → i < 64 → fld p (24 + i) 1 = 0) ∧ (∃ i, i < fld p 16 1 ∧ octetCount s ≤ fld p (24 + i) 1)) ∧
    (∃ (m : Nat) (p : List Byte) (s : State), waiting m 0x0902 p s = true ∧ addressed s p 88 [1] = true ∧ fld p 16 1 ≤ 64 ∧ fld p 17 7 = 0 ∧ (∀ i, i < fld p 16 1 → fld p (24 + i) 1 ≤ 63) ∧ (∀ i j, i < j → j < fld p 16 1 → fld p (24 + i) 1 ≠ fld p (24 + j) 1) ∧ (∀ i, fld p 16 1 ≤ i → i < 64 → fld p (24 + i) 1 = 0) ∧ (∀ i, i < fld p 16 1 → fld p (24 + i) 1 < octetCount s) ∧ s.power.shedOcts ≠ []) ∧
    (∃ (m : Nat) (p : List Byte) (s : State), waiting m 0x0902 p s = true ∧ addressed s p 88 [1] = true ∧ fld p 16 1 ≤ 64 ∧ fld p 17 7 = 0 ∧ (∀ i, i < fld p 16 1 → fld p (24 + i) 1 ≤ 63) ∧ (∀ i j, i < j → j < fld p 16 1 → fld p (24 + i) 1 ≠ fld p (24 + j) 1) ∧ (∀ i, fld p 16 1 ≤ i → i < 64 → fld p (24 + i) 1 = 0) ∧ (∀ i, i < fld p 16 1 → fld p (24 + i) 1 < octetCount s) ∧ s.power.shedOcts = []) := by
  and_intros
  · exact ⟨31, (req 88 1 0 0 [(16, 1, 64), (87, 1, 64)]), (sent 31 0x0902 (req 88 1 0 0 [(16, 1, 64), (87, 1, 64)]) fw), by decide +kernel, by decide +kernel, .inl ⟨63, by and_intros <;> decide +kernel⟩⟩
  · exact ⟨31, (req 88 1 0 0 [(16, 1, 3), (24, 1, 63), (25, 1, 0), (26, 1, 1)]), (sent 31 0x0902 (req 88 1 0 0 [(16, 1, 3), (24, 1, 63), (25, 1, 0), (26, 1, 1)]) { fw with ident := { half := true } }), by and_intros <;> first | exact pairs (by decide +kernel) | decide +kernel⟩
  · exact ⟨31, (req 88 1 0 0 [(16, 1, 3), (24, 1, 63), (25, 1, 0), (26, 1, 1)]), (sent 31 0x0902 (req 88 1 0 0 [(16, 1, 3), (24, 1, 63), (25, 1, 0), (26, 1, 1)]) { fw with power := { shedOcts := [1] } }), by and_intros <;> first | exact pairs (by decide +kernel) | decide +kernel⟩
  · exact ⟨31, (req 88 1 0 0 [(16, 1, 3), (24, 1, 63), (25, 1, 0), (26, 1, 1)]), (sent 31 0x0902 (req 88 1 0 0 [(16, 1, 3), (24, 1, 63), (25, 1, 0), (26, 1, 1)]) fw), by and_intros <;> first | exact pairs (by decide +kernel) | decide +kernel⟩

/-- States and operands that meet the hypotheses of ParserGroupSetIsChecked, one for each of its clauses. -/
theorem witness_ParserGroupSetIsChecked :
    (∃ (m : Nat) (p : List Byte) (s : State), waiting m 0x0221 p s = true ∧ addressed s p 24 [6] = true ∧ fld p 16 1 ≤ 1 ∧ fld p 17 7 = 0) ∧
    (∃ (m : Nat) (p : List Byte) (s : State), waiting m 0x0221 p s = true ∧ addressed s p 24 [6] = true ∧ 1 < fld p 16 1) ∧
    (∃ (p : List Byte), fld p 16 1 ≤ 1 ∧ ∃ g, g ≠ (pathOf p).index) := by
  and_intros
  · exact ⟨31, (req 24 6 31 0 [(16, 1, 1)]), (sent 31 0x0221 (req 24 6 31 0 [(16, 1, 1)]) fw), by decide +kernel⟩
  · exact ⟨31, (req 24 6 31 0 [(16, 1, 2)]), (sent 31 0x0221 (req 24 6 31 0 [(16, 1, 2)]) fw), by decide +kernel⟩
  · exact ⟨(req 24 6 31 0 [(16, 1, 1)]), by decide +kernel, 30, by decide +kernel⟩

/-- States and operands that meet the hypotheses of LinkModeIsFixedByTheFirstTraining, one for each of its clauses. -/
theorem witness_LinkModeIsFixedByTheFirstTraining :
    (∃ (s : State), powered s = true ∧ s.boot.tempWait = false ∧ s.boot.perst = false) ∧
    (∃ (us : Nat) (s : State), 100 ≤ us ∧ scanHolds s = false) ∧
    (∃ (s : State), reaches s .host = true) := by
  and_intros
  · exact ⟨fw, by decide +kernel⟩
  · exact ⟨100, fw, by decide +kernel⟩
  · exact ⟨fw, by decide +kernel⟩

/-- States and operands that meet the hypotheses of ShaperSetKeepsDebt, one for each of its clauses. -/
theorem witness_ShaperSetKeepsDebt :
    (∃ (p : List Byte) (s : State) (x : Port), (pathOf p).kind = 3 ∧ fld p 16 1 = 0 ∧ port s (pathOf p).index = some x) ∧
    (∃ (p : List Byte) (s : State) (x : Port), ((pathOf p).kind = 4 ∨ (pathOf p).kind = 5) ∧ port s (pathOf p).index = some x ∧ ∃ q, q ≠ queueNo (pathOf p)) ∧
    (∃ (h : Shaper), h.enable = true) := by
  and_intros
  · exact ⟨(req 32 3 511 0 [(17, 1, 3), (20, 8, 65536), (28, 4, 64)]), (withPort 511 { shaper := { credit := -1 } } fw), { shaper := { credit := -1 } }, by decide +kernel⟩
  · exact ⟨(req 32 4 511 15 [(17, 1, 3), (20, 8, 65536), (28, 4, 64)]), (withPort 511 { } fw), { }, by decide +kernel, by decide +kernel, 14, by decide +kernel⟩
  · exact ⟨{ enable := true, rate := 1, burst := 64, credit := 64 * 65536 }, by decide +kernel⟩

/-- States and operands that meet the hypotheses of FaultsCountToSeverity, one for each of its clauses. -/
theorem witness_FaultsCountToSeverity :
    (∃ (src : Nat) (unit : Nat) (s : State), src ≤ 68 ∧ let i := fltInst s src unit; i.sticky = true) ∧
    (∃ (src : Nat) (unit : Nat) (s : State), src ≤ 68 ∧ let i := fltInst s src unit; i.sticky = false) ∧
    (∃ (src : Nat) (unit : Nat), src ≤ 68 ∧ ∃ n, n ≠ fltKey src unit) ∧
    (∃ (src : Nat), src ≤ 68) := by
  and_intros
  · exact ⟨68, 0, { fw with flt := { inst := [(fltKey 68 0, { sticky := true, severe := true })] } }, by decide +kernel, by decide +kernel⟩
  · exact ⟨68, 1023, { fw with flt := { inst := [(fltKey 68 0, { sticky := true, severe := true })] } }, by decide +kernel, by decide +kernel⟩
  · exact ⟨68, 0, by decide +kernel, 0, by decide +kernel⟩
  · exact ⟨68, by decide +kernel⟩

/-- States and operands that meet the hypotheses of SettingsTakeEffect, one for each of its clauses. -/
theorem witness_SettingsTakeEffect :
    (∃ (p : List Byte) (s : State), ∃ x, port s (pathOf p).index = some x) ∧
    (∃ (p : List Byte) (s : State), ∃ x, port s (pathOf p).index = some x) ∧
    (∃ (p : List Byte) (s : State), ∃ x, port s (pathOf p).index = some x) := by
  and_intros
  · exact ⟨(req 68 4 511 15 [(16, 4, 1000), (20, 4, 1310720), (28, 1, 11)]), (withPort 511 { } fw), ({ } : Port), by decide +kernel⟩
  · exact ⟨(req 24 4 511 15 [(16, 1, 7), (17, 1, 1)]), (withPort 511 { } fw), ({ } : Port), by decide +kernel⟩
  · exact ⟨(req 40 3 511 0 [(16, 1, 7)]), (withPort 511 { } fw), ({ } : Port), by decide +kernel⟩

end Sys2Proof.Tests
end

/-! PROOFS. Register access over BAR0 (00 R19 to R21; 14 R427): what a read or write does that reaches one register, that reaches none, and that is misshapen. -/

section
namespace Sys2Proof.Proofs

open Sys2Proof Sys2Proof.Machine Sys2Proof.Safety Sys2Proof.Laws

/-! ## Fault events -/

/-- The record of a fault is read from the list of records alone. -/
theorem fltInst_congr {s t : State} (h : t.flt.inst = s.flt.inst) (src unit : Nat) : fltInst t src unit = fltInst s src unit := by
  simp [fltInst, h]

@[simp] theorem irqEvent_flt (n : Nat) (s : State) : (irqEvent n s).flt = s.flt := by
  rw [irqEvent_frame]

@[simp] theorem severeActs_inst (src : Nat) (s : State) : (severeActs src s).flt.inst = s.flt.inst := by
  unfold severeActs
  split <;> split <;> simp

@[simp] theorem fltInst_modFlt_same (src unit : Nat) (f : FltInst → FltInst) (s : State) :
    fltInst (modFlt src unit f s) src unit = f (fltInst s src unit) := by
  simp [fltInst, modFlt]

/-- A fault that becomes severe has seen no further event. -/
@[simp] theorem makeSevere_total (src unit : Nat) (s : State) :
    (fltInst (makeSevere src unit s) src unit).total = (fltInst s src unit).total := by
  rw [makeSevere, fltInst_congr (severeActs_inst _ _), fltInst_modFlt_same]

/-- Each event counts once in its record (17 R501), whatever else it sets off. -/
theorem raiseFault_total {src : Nat} (h : src ≤ 68) (unit detail : Nat) (inj : Bool) (s : State) :
    (fltInst (raiseFault src unit detail inj s) src unit).total = (fltInst s src unit).total + 1 := by
  unfold raiseFault
  rw [if_neg (by omega)]
  extract_lets i n c i1 fresh i2 block s1 s2
  have counted : i2.total = i.total + 1 := by
    simp only [i2]
    split <;> rfl
  have stored : fltInst s1 src unit = i2 := tabGetD_tabPut_same _ _ _ _
  have kept : s2.flt.inst = s1.flt.inst := by
    simp only [s2]
    split <;> simp
  have total : (fltInst s2 src unit).total = i.total + 1 := by
    rw [fltInst_congr kept, stored, counted]
  split
  · rw [makeSevere_total, total]
  · exact total

theorem regionOf_le (a : Nat) : regionOf a ≤ 11 := by
  unfold regionOf
  split_ifs <;> decide

/-- A register access error is one REG_ACCESS event of its region (17 Table 17.1). -/
theorem regError_total (a : Nat) (s : State) :
    (fltInst (regError a s) (36 + regionOf a) 0).total = (fltInst s (36 + regionOf a) 0).total + 1 := by
  have := regionOf_le a
  exact raiseFault_total (by omega) 0 a false s

/-! ## Accesses on the bus -/

/-- An access that arrives within BAR0 is carried out, and the requester receives what it read. -/
theorem busRead_reached {who : Who} {addr : Nat} {s : State} (hr : reaches s who = true) (ha : addr < barSize) (width ph : Nat) :
    busRead who addr width ph s = received who (regRead who addr width ph s).1 (regRead who addr width ph s).2 := by
  rw [busRead, if_neg (by simp [hr, ha])]
  rfl

theorem busWrite_reached {who : Who} {addr : Nat} {s : State} (hr : reaches s who = true) (ha : addr < barSize) (width v : Nat) :
    busWrite who addr width v s = regWrite who addr width v s := by
  rw [busWrite, if_neg (by simp [hr, ha])]

/-- An access that does not arrive changes nothing (log entry 12). -/
theorem busRead_unreached {who : Who} {s : State} (hr : reaches s who = false) (addr width ph : Nat) : busRead who addr width ph s = s := by
  rw [busRead, if_pos (.inl hr)]

theorem busWrite_unreached {who : Who} {s : State} (hr : reaches s who = false) (addr width v : Nat) : busWrite who addr width v s = s := by
  rw [busWrite, if_pos (.inl hr)]

/-! ## Shape of an access -/

/-- No access of a register: neither 32 nor 64 bits wide, or not naturally aligned (00 R21). -/
def misshapen (addr width : Nat) : Prop := (width ≠ 32 ∧ width ≠ 64) ∨ addr % (width / 8) ≠ 0

theorem regRead_misshapen {addr width : Nat} (h : misshapen addr width) (who : Who) (ph : Nat) (s : State) :
    regRead who addr width ph s = (2 ^ 64 - 1, regError addr s) := if_pos h

theorem regWrite_misshapen {addr width : Nat} (h : misshapen addr width) (who : Who) (v : Nat) (s : State) :
    regWrite who addr width v s = regError addr s := if_pos h

theorem readBad_of_misshapen {addr width : Nat} (h : misshapen addr width) (who : Who) : readBad who addr width = true := by
  rcases h with ⟨h32, h64⟩ | hal
  · simp [readBad, h32, h64]
  · simp [readBad, hal]

/-- An aligned access of 32 bits reaches one register at most. -/
theorem regRead_word {addr : Nat} (h : addr % 4 = 0) (who : Who) (ph : Nat) (s : State) :
    regRead who addr 32 ph s = readPart who addr 4 ph s := by
  simp [regRead, h]

theorem regWrite_word {addr : Nat} (h : addr % 4 = 0) (who : Who) (v : Nat) (s : State) :
    regWrite who addr 32 v s = writePart who addr 4 v s := by
  simp [regWrite, h]

/-- An aligned access of 64 bits to a register of 8 bytes is one access. -/
theorem regRead_wide {addr : Nat} (h : addr % 8 = 0) (hw : isWide addr = true) (who : Who) (ph : Nat) (s : State) :
    regRead who addr 64 ph s = readPart who addr 8 ph s := by
  simp [regRead, h, hw]

/-! ## One register, or none -/

theorem readPart_unassigned {a : Nat} (h : regSpan a = none) (who : Who) (n ph : Nat) (s : State) : readPart who a n ph s = (0, regError a s) := by
  simp [readPart, h]

theorem writePart_unassigned {a : Nat} (h : regSpan a = none) (who : Who) (n v : Nat) (s : State) : writePart who a n v s = regError a s := by
  simp [writePart, h]

theorem readPart_assigned {who : Who} {a b sz : Nat} (hr : regReach who a = true) (h : regSpan a = some (b, sz)) (n ph : Nat) (s : State) :
    readPart who a n ph s = readReg who b (a - b) n ph s := by
  simp [readPart, hr, h]

theorem writePart_assigned {who : Who} {a b sz : Nat} (hr : regReach who a = true) (h : regSpan a = some (b, sz)) (n v : Nat) (s : State) :
    writePart who a n v s = writeReg who b (a - b) n v s := by
  simp [writePart, hr, h]

theorem readBad_of_unassigned {addr : Nat} (h : regSpan addr = none) (who : Who) (width : Nat) : readBad who addr width = true := by
  simp [readBad, h]

/-! ## Rows of register access -/

theorem exec_registerWrite (who : Who) (addr width : Nat) (v : BitVec 64) (s : State) :
    exec (.registerWrite who addr width v) s = .next (busWrite who addr width v.toNat s) := rfl

theorem exec_rcRegisterRead (who : Who) (addr width : Nat) (s : State) :
    exec (.rcRegisterRead who addr width) s = .next (busRead who addr width 0 s) := rfl

/-- A read that is an error is carried out by the row of erroneous reads as by any other. -/
theorem exec_registerReadError {who : Who} {addr width : Nat} (h : readBad who addr width = true) (s : State) :
    exec (.registerReadError who addr width) s = .next (busRead who addr width 0 s) :=
  congrArg _ (if_pos h)

/-- Settles O37: by their shape alone such accesses end in the access error, which counts once. -/
theorem misshapenAccessIsAnError : Obligations.MisshapenAccessIsAnError := by
  intro who addr width v s _ hr ha hbad
  have hm : misshapen addr width := hbad
  refine ⟨?_, ?_, ?_, regError_total addr s⟩
  · rw [exec_registerWrite, busWrite_reached hr ha, regWrite_misshapen hm]
  · rw [exec_rcRegisterRead, busRead_reached hr ha, regRead_misshapen hm]
  · rw [exec_registerReadError (readBad_of_misshapen hm who), busRead_reached hr ha, regRead_misshapen hm]

/-! ## Fields and bits -/

/-- A bit that the write covers takes the written value, any other keeps its own (00 R19). -/
theorem mix_testBit {i : Nat} (hi : i < 64) (old v m : Nat) : (mix old v m).testBit i = if m.testBit i then v.testBit i else old.testBit i := by
  simp only [mix, Nat.testBit_or, Nat.testBit_and, Nat.testBit_xor, Nat.testBit_two_pow_sub_one, hi, decide_true]
  cases m.testBit i <;> simp

/-- A write of a whole 32-bit register puts the data's low bits into it. -/
theorem mix_word_testBit {i : Nat} (hi : i < 32) (old : Nat) (v : BitVec 64) :
    (mix old (v.toNat % 2 ^ 32) (2 ^ 32 - 1)).testBit i = v.getLsbD i := by
  rw [mix_testBit (by omega), Nat.testBit_two_pow_sub_one, Nat.testBit_mod_two_pow, decide_eq_true hi, if_pos rfl, Bool.true_and, BitVec.getLsbD]

/-- A read that covers the whole register returns its value. -/
theorem partOf_whole {v n : Nat} (h : v < 2 ^ (8 * n)) : partOf v 0 n = v := by
  simpa [partOf] using Nat.mod_eq_of_lt h

/-! ## TRICK_CFG, PULSE_CNT and IRQ_CAUSE -/

/-- Every requester reaches the blocks between the mailboxes and the channels (14 Table 14.2). -/
theorem regReach_blocks {a : Nat} (h1 : 0x20000 ≤ a) (h2 : a < 0x80000) (who : Who) : regReach who a = true := by
  have h0 : ¬ a < 0x10000 := by omega
  have hm : ¬ a < 0x20000 := by omega
  cases who <;> simp [regReach, bmcReach, h0, hm, h2]

/-- A write of 32 bits to TRICK_CFG sets its four fields and no other (02 Table 2.6). -/
theorem writeReg_trickCfg (who : Who) (v : BitVec 64) (s : State) :
    writeReg who 0x30014 0 4 v.toNat s = { s with trick := { s.trick with
      irqStep := v.getLsbD 3, irqRubber := v.getLsbD 2, irqHand := v.getLsbD 1, fixedFreq := v.getLsbD 0,
      fixedActive := if v.getLsbD 0 then s.trick.fixedActive || !s.trick.sprint else s.trick.fixedActive } } := by
  have bit {i : Nat} (hi : i < 32) := mix_word_testBit hi (trickReg s 0x14) v
  simp only [← bit (i := 0) (by decide), ← bit (i := 1) (by decide), ← bit (i := 2) (by decide), ← bit (i := 3) (by decide)]
  rfl

/-- PULSE_CNT clears as it is read (00 R19; 17 Table 17.8). -/
theorem readReg_pulseCnt (who : Who) (ph : Nat) (s : State) :
    readReg who 0x40060 0 4 ph s = (s.flt.pulseCnt.toNat, { s with flt := { s.flt with pulseCnt := 0 } }) := by
  have h : partOf s.flt.pulseCnt.toNat 0 4 = s.flt.pulseCnt.toNat := partOf_whole s.flt.pulseCnt.isLt
  rw [← h]
  rfl

/-- The low half of IRQ_CAUSE clears as it is read; the upper half stays (00 R19; 14 Table 14.3). -/
theorem readReg_irqCauseLow (who : Who) (ph : Nat) (s : State) :
    readReg who 0x600 0 8 ph s = (s.irq.cause.toNat % 2 ^ 64, { s with irq := { s.irq with cause := s.irq.cause &&& ~~~ BitVec.ofNat 128 (2 ^ 64 - 1) } }) := by
  have h : partOf (s.irq.cause.toNat % 2 ^ 64) 0 8 = s.irq.cause.toNat % 2 ^ 64 := partOf_whole (Nat.mod_lt _ (by decide))
  rw [← h]
  rfl

/-- Settles O34: each access is brought to its register, or to none, and the rule of that register applied. -/
theorem registerAccessComplete : Obligations.RegisterAccessComplete := by
  refine ⟨?trickCfg, ?unassigned, ?pulseCnt, ?irqCause, ?unreached⟩
  case trickCfg =>
    intro who v s hr
    rw [exec_registerWrite, busWrite_reached hr (by decide), regWrite_word (by decide),
      writePart_assigned (regReach_blocks (by decide) (by decide) who) (by decide : regSpan 0x30014 = some (0x30014, 4)), Nat.sub_self,
      writeReg_trickCfg]
  case unassigned =>
    intro who addr v s hr ha hal hn
    constructor
    · rw [exec_registerWrite, busWrite_reached hr ha, regWrite_word hal, writePart_unassigned hn]
    · rw [exec_registerReadError (readBad_of_unassigned hn who 32), busRead_reached hr ha, regRead_word hal, readPart_unassigned hn]
  case pulseCnt =>
    intro who s hr
    rw [exec_rcRegisterRead, busRead_reached hr (by decide), regRead_word (by decide),
      readPart_assigned (regReach_blocks (by decide) (by decide) who) (by decide : regSpan 0x40060 = some (0x40060, 4)), Nat.sub_self,
      readReg_pulseCnt]
  case irqCause =>
    intro s hr
    rw [exec_rcRegisterRead, busRead_reached hr (by decide), regRead_wide (by decide) (by decide),
      readPart_assigned rfl (by decide : regSpan 0x600 = some (0x600, 8)), Nat.sub_self, readReg_irqCauseLow]
  case unreached =>
    intro who addr width v s hr
    exact ⟨by rw [exec_registerWrite, busWrite_unreached hr], by rw [exec_rcRegisterRead, busRead_unreached hr]⟩

end Sys2Proof.Proofs
end

/-! PROOFS. Frames that arrive on a port (01 R24, R32; 04 R97, R102; 05 R117; 08 R221): which operation FRAME_RECEIVE, SLOT_ISSUE and FRAME_LAST_BYTE run, and what that operation does to a good frame and to a bad one. -/

section
namespace Sys2Proof.Proofs

open Sys2Proof Sys2Proof.Machine Sys2Proof.Laws

/-! ## Changes of a port -/

/-- Two changes of one port are their composition. -/
theorem modPort_modPort (p : Nat) (f g : Port → Port) (s : State) : modPort p g (modPort p f s) = modPort p (fun y => g (f y)) s := by
  unfold modPort tabUpd
  cases h : tabGet s.ports p <;> simp [h]

/-! ## Counts of arrivals -/

/-- The counts of an arrival are event counters. -/
theorem rxCount_frame (p len : Nat) (fcsOk big : Bool) (s : State) : rxCount p len fcsOk big s = { s with evc := (rxCount p len fcsOk big s).evc } := by
  unfold rxCount
  split_ifs <;> rfl

@[simp] theorem port_rxCount (k p len : Nat) (fcsOk big : Bool) (s : State) : port (rxCount p len fcsOk big s) k = port s k := by
  rw [rxCount_frame]
  rfl

/-- A change of a port, and the counts of an arrival after it, leave all but ports and event counters alone. -/
theorem rxCount_modPort_frame (p len k : Nat) (fcsOk big : Bool) (f : Port → Port) (s : State) :
    rxCount p len fcsOk big (modPort k f s) =
      { s with ports := (rxCount p len fcsOk big (modPort k f s)).ports, evc := (rxCount p len fcsOk big (modPort k f s)).evc } := by
  rw [rxCount_frame]
  rfl

/-! ## Staging (01 R32) -/

/-- A frame that finds room in its port's share is staged behind the others. -/
theorem stage_room {x : Port} (h : stagedBytes x < 4096 * x.width) (p : Nat) (f : Staged) (s : State) :
    stage p x f s = modPort p (fun y => { y with staged := y.staged ++ [f] }) s :=
  if_neg (by omega)

/-! ## Whole frames -/

/-- A frame with a bad FCS is counted in RX_FCS_ERRORS alone (01 R24). -/
theorem wholeFrame_badFcs (p : Nat) (x : Port) (hdr : Option (List Byte)) (data : List Byte) (ts : Nat) (s : State) :
    wholeFrame p x hdr data false ts s = ev 0x0105 p s := by
  simp [wholeFrame, rxCount]

/-- A good frame is staged and counted. -/
theorem wholeFrame_good {x : Port} {data : List Byte} (hlen : 64 ≤ data.length ∧ data.length ≤ x.maxFrame) (hmac : bfld data 12 2 ≠ 0x8808)
    (hroom : stagedBytes x < 4096 * x.width) (p : Nat) (hdr : Option (List Byte)) (ts : Nat) (s : State) :
    wholeFrame p x hdr data true ts s = rxCount p data.length true false (modPort p (fun y => { y with
      staged := y.staged ++ [{ data := data, len := data.length, whole := true, ts := ts, hdr := hdr }] }) s) := by
  obtain ⟨hmin, hmax⟩ := hlen
  simp [wholeFrame, stage_room hroom, hmac, Nat.not_lt.mpr hmin, Nat.not_lt.mpr hmax, Nat.not_le.mpr hroom]

/-- A good frame joins the staged frames of its port; event counters are all else that it changes. -/
theorem wholeFrame_stages {p : Nat} {s : State} {x : Port} (hx : port s p = some x) {data : List Byte}
    (hlen : 64 ≤ data.length ∧ data.length ≤ x.maxFrame) (hmac : bfld data 12 2 ≠ 0x8808) (hroom : stagedBytes x < 4096 * x.width)
    (hdr : Option (List Byte)) (ts : Nat) :
    let t := wholeFrame p x hdr data true ts s
    t = { s with ports := t.ports, evc := t.evc } ∧
      port t p = some { x with staged := x.staged ++ [{ data := data, len := data.length, whole := true, ts := ts, hdr := hdr }] } := by
  intro t
  have ht : t = _ := wholeFrame_good hlen hmac hroom p hdr ts s
  rw [ht]
  exact ⟨rxCount_modPort_frame .., by simp [hx]⟩

/-! ## FRAME_RECEIVE -/

/-- No frame has arrived in part on the port. -/
def noneInPart (x : Port) : Prop := x.arriving = none ∧ x.early = none ∧ ∀ f ∈ x.staged, f.whole = true

section
variable {p : Nat} {s : State} {x : Port} (hx : port s p = some x) (hup : x.link = .up) (hidle : noneInPart x)
include hx hup hidle

/-- A frame, or the first bytes of one, comes in on a port that is UP and on which no other frame is arriving. -/
theorem exec_frameReceive {len : Nat} {data : List Byte} {last : Bool} (h : last = true ∨ data.length < len) (fcsOk : Bool) (ph ln : Nat) :
    exec (.frameReceive p len data last fcsOk ⟨ph, ln⟩) s = .next (frameIn p x data len last fcsOk (ingressTs s p x ln ph) s) := by
  obtain ⟨ha, he, hw⟩ := hidle
  have hpart : (x.staged.any fun f => !f.whole) = false := by simpa using hw
  have hrest : ¬ (last = false ∧ len ≤ data.length) := by
    rintro ⟨hl, hle⟩
    rcases h with h | h
    · simp [h] at hl
    · omega
  change execFrameReceive p len data last fcsOk ⟨ph, ln⟩ s = _
  simp only [execFrameReceive, hx]
  rw [if_neg (by simp [hup, ha, he, hpart, hrest])]

variable (hplain : x.stk.enable = false)
include hplain

/-- A whole frame on a port without stack link is judged at once. -/
theorem exec_frameReceive_whole (len : Nat) (data : List Byte) (fcsOk : Bool) (ph ln : Nat) :
    exec (.frameReceive p len data true fcsOk ⟨ph, ln⟩) s = .next (wholeFrame p x none data fcsOk (ingressTs s p x ln ph) s) := by
  rw [exec_frameReceive hx hup hidle (.inl rfl)]
  simp [frameIn, hplain]

/-- First bytes that name another EtherType than that of MAC control are staged. -/
theorem exec_frameReceive_part {len : Nat} {data : List Byte} (hlen : data.length < len) (h14 : 14 ≤ data.length) (hmac : bfld data 12 2 ≠ 0x8808)
    (fcsOk : Bool) (ph ln : Nat) :
    exec (.frameReceive p len data false fcsOk ⟨ph, ln⟩) s = .next (partFrame p x none data len (ingressTs s p x ln ph) s) := by
  rw [exec_frameReceive hx hup hidle (.inr hlen)]
  simp [frameIn, hplain, h14, hmac]

/-- First bytes that do not yet name an EtherType, or name that of MAC control, are kept aside. -/
theorem exec_frameReceive_early {len : Nat} {data : List Byte} (hlen : data.length < len) (h : data.length < 14 ∨ bfld data 12 2 = 0x8808)
    (fcsOk : Bool) (ph ln : Nat) :
    exec (.frameReceive p len data false fcsOk ⟨ph, ln⟩) s = .next (hold p data (ingressTs s p x ln ph) s) := by
  have hno : ¬ (14 ≤ data.length ∧ bfld data 12 2 ≠ 0x8808) := by
    rintro ⟨h14, hmac⟩
    exact h.elim (by omega) hmac
  rw [exec_frameReceive hx hup hidle (.inr hlen)]
  simp [frameIn, hplain, hno]

end

/-- A stack link that is LIVE takes a good DATA header whose destination group is not this chip's own (12 R370, R371). -/
theorem dataTaken_live {s : State} {x : Port} {h : List Byte} (hgood : hdrGood h = true) (htype : hdrType h = 0) (hlive : x.stk.st = .live)
    (hother : ownGroup s h = false) : dataTaken s x h = true := by
  simp [dataTaken, hgood, htype, hlive, hother]

/-- A whole DATA frame that a stack link takes goes on without its header, which is kept beside it. -/
theorem stackWhole_dataTaken {s : State} {x : Port} {data : List Byte} (h : dataTaken s x (slice data 0 16) = true) (p : Nat) (fcsOk : Bool) (ts : Nat) :
    stackWhole p x data fcsOk ts s = wholeFrame p x (some (slice data 0 16)) (data.drop 16) fcsOk ts s := by
  simp [stackWhole, h]

/-- Without receive delay of the perturbation registers a whole frame on a stack link keeps its timestamp (17 R518). -/
theorem frameIn_stackWhole {s : State} {x : Port} (hstk : x.stk.enable = true) (htp : s.flt.tpOn.enable = false) (p : Nat) (data : List Byte)
    (len : Nat) (fcsOk : Bool) (ts : Nat) : frameIn p x data len true fcsOk ts s = stackWhole p x data fcsOk ts s := by
  simp [frameIn, hstk, htp]

/-! ## SLOT_ISSUE -/

/-- The oldest staged frame takes the cells of a chain of its group and enters the pipeline (05 R117; 08 R221). -/
theorem exec_slotIssue {p head : Nat} {s s0 : State} {x : Port} {f : Staged} {rest : List Staged} (hx : port s p = some x) (hst : x.staged = f :: rest)
    (hready : slotReady s p x f = true) (hturn : arbTurn (grp s (groupOf p)).arb (wantSlots s (groupOf p)) p = true)
    (hchain : newChain (groupOf p) (max 1 (cellsOf f.data.length)) f.len f.data
      (modGrp (groupOf p) (fun y => { y with arb := arbServe (arbWeight x) p y.arb }) s) = some (head, s0)) (banks : BankIn) :
    let arr := if f.whole then none else some { head := head, mta := head, got := f.data.length, len := f.len }
    let s1 := chainRef head (modPort p (fun y => { y with staged := rest, arriving := arr }) s0)
    let sel := preciseSelect (groupOf p) (watchEvent 0x0701 p 0 f.len s1)
    exec (.slotIssue p banks) s = .next (ingress p head (if f.whole then cellsOf f.len else cellsOf x.maxFrame) x f sel.1 banks
      (mirrorSelect p (clusterOf (groupOf p)) f.len f.ts f.data sel.2)) := by
  intro arr s1 sel
  change execSlotIssue p banks s = _
  simp only [execSlotIssue, slotIssue, hx, hst]
  rw [if_neg (by simp [hready, hturn]), hchain]

/-! ## FRAME_LAST_BYTE -/

/-- What the arrival of the last byte closes on the port before the frame is judged. -/
def closeArrival (y : Port) : Port := { y with rxBad := false, early := none }

theorem closeArrival_of_closed {x : Port} (hbad : x.rxBad = false) (he : x.early = none) : closeArrival x = x := by
  rw [closeArrival, ← hbad, ← he]

section
variable {p : Nat} {s : State} {x : Port} (hx : port s p = some x)
include hx

/-- Without a frame kept aside the last byte is that of the frame admitted or staged; uncorrectable FEC makes it bad (04 R102). -/
theorem exec_frameLastByte_noEarly (he : x.early = none) (rest : List Byte) (fcsOk : Bool) :
    exec (.frameLastByte p rest fcsOk) s = .next (frameLastByte p rest (fcsOk && !x.rxBad) (modPort p closeArrival s)) := by
  change execFrameLastByte p rest fcsOk s = _
  simp only [execFrameLastByte, hx, he]
  rfl

/-- A frame kept aside on a port without stack link arrives whole. -/
theorem exec_frameLastByte_early {data : List Byte} {ts : Nat} (he : x.early = some (data, ts)) (hplain : x.stk.enable = false)
    (rest : List Byte) (fcsOk : Bool) :
    exec (.frameLastByte p rest fcsOk) s = .next (wholeFrame p x none (data ++ rest) (fcsOk && !x.rxBad) ts (modPort p closeArrival s)) := by
  change execFrameLastByte p rest fcsOk s = _
  simp only [execFrameLastByte, hx, he, hplain]
  rfl

/-- The last byte of an admitted frame is counted, settles the frame and lets its exception copies go (08 R230, R242). -/
theorem frameLastByte_admitted {a : Arriving} (ha : x.arriving = some a) (rest : List Byte) (fcsOk : Bool) :
    let len := a.got + rest.length
    let big := decide (x.maxFrame < len)
    frameLastByte p rest fcsOk s = releaseCopies p a len (!fcsOk || big) (settleFrame a (rest.take (x.maxFrame - a.got)) (!fcsOk || big)
      (rxCount p len fcsOk big (modPort p (fun y => { y with arriving := none }) s))) := by
  simp only [frameLastByte, hx, ha]

/-- The last byte of a good frame that is still staged makes it whole, and the frame is counted. -/
theorem frameLastByte_staged {f : Staged} (ha : x.arriving = none) (hlast : x.staged.getLast? = some f) (hpart : f.whole = false) {rest : List Byte}
    (hlen : 64 ≤ f.data.length + rest.length ∧ f.data.length + rest.length ≤ x.maxFrame) :
    frameLastByte p rest true s = rxCount p (f.data.length + rest.length) true false (modPort p (fun y => { y with
      staged := x.staged.dropLast ++ [{ f with data := f.data ++ rest, len := f.data.length + rest.length, whole := true }] }) s) := by
  obtain ⟨hmin, hmax⟩ := hlen
  simp [frameLastByte, hx, ha, hlast, hpart, hmin, Nat.not_lt.mpr hmin, Nat.not_lt.mpr hmax]

end

/-- Settles O22: each clause names the operation that its row runs in such a state, and that operation's rule gives the state after it. -/
theorem frameArrivalComplete : Obligations.FrameArrivalComplete := by
  refine ⟨?whole, ?badFcs, ?part, ?early, ?stackData, ?slot, ?lastStaged, ?lastAdmitted, ?lastEarly⟩
  case whole =>
    intro p len ph ln data s x hx hup hplain ha he hw hlen hmac hroom
    exact ⟨_, exec_frameReceive_whole hx hup ⟨ha, he, hw⟩ hplain .., wholeFrame_stages hx hlen hmac hroom none _⟩
  case badFcs =>
    intro p len ph ln data s x hx hup hplain ha he hw
    rw [exec_frameReceive_whole hx hup ⟨ha, he, hw⟩ hplain, wholeFrame_badFcs]
  case part =>
    intro p len ph ln fcsOk data s x hx hup hplain ha he hw hlen h14 hmac hroom
    rw [exec_frameReceive_part hx hup ⟨ha, he, hw⟩ hplain hlen h14 hmac, partFrame, stage_room hroom]
  case early =>
    intro p len ph ln fcsOk data s x hx hup hplain ha he hw hlen h
    rw [exec_frameReceive_early hx hup ⟨ha, he, hw⟩ hplain hlen h, hold]
  case stackData =>
    intro p len ph ln data s x hx hup hstk hlive ha he hw hgood htype hother htp hlen hmac hroom
    refine ⟨_, ?_, wholeFrame_stages hx hlen hmac hroom (some (slice data 0 16)) (ingressTs s p x ln ph)⟩
    rw [exec_frameReceive hx hup ⟨ha, he, hw⟩ (.inl rfl), frameIn_stackWhole hstk htp, stackWhole_dataTaken (dataTaken_live hgood htype hlive hother)]
  case slot =>
    intro p head banks s s0 x f rest hx hst hready hturn hchain
    exact exec_slotIssue hx hst hready hturn hchain banks
  case lastStaged =>
    intro p rest s x f hx ha he hbad hlast hpart hlen
    have hx1 : port (modPort p closeArrival s) p = some x := by simp [hx, closeArrival_of_closed hbad he]
    refine ⟨_, exec_frameLastByte_noEarly hx he rest true, ?_⟩
    have hok : (true && !x.rxBad) = true := by rw [hbad]; rfl
    rw [hok, frameLastByte_staged hx1 ha hlast hpart hlen]
    exact ⟨rxCount_modPort_frame .., by rw [port_rxCount, port_modPort_same, hx1, Option.map_some]⟩
  case lastAdmitted =>
    intro p rest s x a hx ha he
    have hx1 : port (modPort p closeArrival s) p = some (closeArrival x) := by simp [hx]
    rw [exec_frameLastByte_noEarly hx he, frameLastByte_admitted hx1 ha, modPort_modPort, Bool.true_and, Bool.not_not]
    rfl
  case lastEarly =>
    intro p ts rest data fcsOk s x hx he hplain
    exact exec_frameLastByte_early hx he hplain rest fcsOk

end Sys2Proof.Proofs
end

/-! PROOFS. Registers that latch (02 R55, R57; 10 R286; 16 R473): what a read of each half of TRICK_INDEX, TRICK_COUNT, TIME_NOW and PWR_ENERGY returns and what it leaves latched for its requester. -/

section
namespace Sys2Proof.Proofs

open Sys2Proof Sys2Proof.Machine Sys2Proof.Safety Sys2Proof.Laws

/-! ## Reads in the register blocks -/

/-- A requester takes the low 64 bits of what it is sent. -/
theorem received_mod (who : Who) (v : Nat) (s : State) : received who (v % 2 ^ 64) s = received who v s := by
  have h : BitVec.ofNat 64 (v % 2 ^ 64) = BitVec.ofNat 64 v := BitVec.eq_of_toNat_eq (by simp)
  rw [received, received, h]

section
variable {who : Who} {s : State} {addr b sz : Nat} (hr : reaches s who = true)
include hr

/-- A read of 32 bits in the register blocks reads a part of one register. -/
theorem busRead_word (h : 0x20000 ≤ addr ∧ addr < 0x80000 ∧ addr % 4 = 0 ∧ regSpan addr = some (b, sz)) (ph : Nat) :
    busRead who addr 32 ph s = received who (readReg who b (addr - b) 4 ph s).1 (readReg who b (addr - b) 4 ph s).2 := by
  obtain ⟨hlo, hhi, hal, hs⟩ := h
  rw [busRead_reached hr (by unfold barSize; omega), regRead_word hal, readPart_assigned (regReach_blocks hlo hhi who) hs]

/-- A read of 64 bits of a register of 8 bytes reads it whole. -/
theorem busRead_wide (h : 0x20000 ≤ addr ∧ addr < 0x80000 ∧ addr % 8 = 0 ∧ regSpan addr = some (addr, 8)) (ph : Nat) :
    busRead who addr 64 ph s = received who (readReg who addr 0 8 ph s).1 (readReg who addr 0 8 ph s).2 := by
  obtain ⟨hlo, hhi, hal, hs⟩ := h
  rw [busRead_reached hr (by unfold barSize; omega), regRead_wide hal (by simp [isWide, hs]), readPart_assigned (regReach_blocks hlo hhi who) hs,
    Nat.sub_self]

end

/-! ## Rows of latched reads -/

/-- Within its two registers the row is a read on the bus. -/
theorem exec_trickCounterLatchRead {addr : Nat} (h : 0x30000 ≤ addr ∧ addr < 0x30010) (who : Who) (width : Nat) (s : State) :
    exec (.trickCounterLatchRead who addr width) s = .next (busRead who addr width 0 s) := congrArg _ (if_pos h)

theorem exec_timeNowRead {addr : Nat} (h : 0x20000 ≤ addr ∧ addr < 0x20010) (who : Who) (width ph : Nat) (s : State) :
    exec (.timeNowRead who addr width ph) s = .next (busRead who addr width ph s) := congrArg _ (if_pos h)

theorem exec_pwrEnergyRead {addr : Nat} (h : 0x50010 ≤ addr ∧ addr < 0x50018) (who : Who) (width : Nat) (s : State) :
    exec (.pwrEnergyRead who addr width) s = .next (busRead who addr width 0 s) := congrArg _ (if_pos h)

theorem exec_fixedFreqSet {who : Who} {s : State} (hr : reaches s who = true) (on : Bool) :
    exec (.fixedFreqSet who on) s = .next (fixedFreq on s) := congrArg _ (if_pos hr)

/-! ## Halves and their latches (02 R57) -/

/-- The low half comes with a latch of the high half. -/
theorem readHalf_low (cur : Nat) (lat : Tab (BitVec 32)) (w : Nat) :
    readHalf cur lat w 0 4 = (cur % 2 ^ 32, tabPut lat w (BitVec.ofNat 32 (cur / 2 ^ 32))) := rfl

/-- The high half is what was latched, and the latch is spent. -/
theorem readHalf_high {lat : Tab (BitVec 32)} {w : Nat} {h : BitVec 32} (hl : tabGet lat w = some h) (cur : Nat) :
    readHalf cur lat w 4 4 = (h.toNat, tabErase lat w) := by simp [readHalf, hl]

/-- Both halves at once leave the latches alone. -/
theorem readHalf_whole (cur : Nat) (lat : Tab (BitVec 32)) (w : Nat) : readHalf cur lat w 0 8 = (cur, lat) := rfl

theorem readReg_trickIndex (who : Who) (off n ph : Nat) (s : State) :
    readReg who 0x30000 off n ph s =
      ((readHalf s.trick.index.toNat s.trick.latIndex (whoNo who) off n).1,
        { s with trick := { s.trick with latIndex := (readHalf s.trick.index.toNat s.trick.latIndex (whoNo who) off n).2 } }) := rfl

theorem readReg_trickCount (who : Who) (off n ph : Nat) (s : State) :
    readReg who 0x30008 off n ph s =
      ((readHalf s.trick.count.toNat s.trick.latCount (whoNo who) off n).1,
        { s with trick := { s.trick with latCount := (readHalf s.trick.count.toNat s.trick.latCount (whoNo who) off n).2 } }) := rfl

theorem readReg_pwrEnergy (who : Who) (off n ph : Nat) (s : State) :
    readReg who 0x50010 off n ph s =
      ((readHalf s.power.energy.toNat s.power.energyLat (whoNo who) off n).1,
        modPower (fun p => { p with energyLat := (readHalf s.power.energy.toNat s.power.energyLat (whoNo who) off n).2 }) s) := rfl

/-- Settles O36: each read reaches its register, and the rule of the halves gives value and latch. -/
theorem trickRegistersLatch : Obligations.TrickRegistersLatch := by
  intro who s hr
  refine ⟨?indexLow, ?countLow, ?indexHigh, ?countHigh, ?index, ?count⟩
  case indexLow =>
    rw [exec_trickCounterLatchRead (by decide), busRead_word (b := 0x30000) (sz := 8) hr (by decide), readReg_trickIndex, Nat.sub_self, readHalf_low]
  case countLow =>
    rw [exec_trickCounterLatchRead (by decide), busRead_word (b := 0x30008) (sz := 8) hr (by decide), readReg_trickCount, Nat.sub_self, readHalf_low]
  case indexHigh =>
    intro h hl
    rw [exec_trickCounterLatchRead (by decide), busRead_word (b := 0x30000) (sz := 8) hr (by decide), readReg_trickIndex, readHalf_high hl]
  case countHigh =>
    intro h hl
    rw [exec_trickCounterLatchRead (by decide), busRead_word (b := 0x30008) (sz := 8) hr (by decide), readReg_trickCount, readHalf_high hl]
  case index =>
    rw [exec_trickCounterLatchRead (by decide), busRead_wide hr (by decide), readReg_trickIndex, readHalf_whole]
  case count =>
    rw [exec_trickCounterLatchRead (by decide), busRead_wide hr (by decide), readReg_trickCount, readHalf_whole]

/-! ## Device time (10 R286) -/

theorem readReg_timeNowLow (who : Who) (ph : Nat) (s : State) :
    readReg who 0x20000 0 8 ph s = ((timeNow s ph).1 % 2 ^ 64, modTime (fun u => { u with
      latLo := tabPut u.latLo (whoNo who) (BitVec.ofNat 64 (timeNow s ph).1), latHi := tabPut u.latHi (whoNo who) (BitVec.ofNat 64 (timeNow s ph).2) }) s) := rfl

theorem readReg_timeNowLowLatched (who : Who) (ph : Nat) (s : State) :
    readReg who 0x20000 4 4 ph s = ((tabGetD s.time.latLo (whoNo who) 0).toNat / 2 ^ 32, s) := by
  have h : (tabGetD s.time.latLo (whoNo who) 0).toNat / 2 ^ 32 < 2 ^ 32 := Nat.div_lt_of_lt_mul (tabGetD s.time.latLo (whoNo who) 0).isLt
  calc readReg who 0x20000 4 4 ph s
      = (((tabGetD s.time.latLo (whoNo who) 0).toNat >>> 32) % 2 ^ 32, s) := rfl
    _ = _ := by rw [Nat.shiftRight_eq_div_pow, Nat.mod_eq_of_lt h]

theorem readReg_timeNowHigh (who : Who) (ph : Nat) (s : State) :
    readReg who 0x20008 0 8 ph s = ((tabGetD s.time.latHi (whoNo who) 0).toNat, s) :=
  Prod.ext (partOf_whole (n := 8) (tabGetD s.time.latHi (whoNo who) 0).isLt) rfl

/-- Settles O35: each read reaches its register, whose rule gives value and latch. -/
theorem latchedReadsComplete : Obligations.LatchedReadsComplete := by
  refine ⟨?fixedFreq, ?timeNow, ?energy⟩
  case fixedFreq =>
    intro who on s hr
    exact exec_fixedFreqSet hr on
  case timeNow =>
    intro who ph s hr
    refine ⟨?_, ?_, ?_⟩
    · rw [exec_timeNowRead (by decide), busRead_wide hr (by decide), readReg_timeNowLow, received_mod]
    · rw [exec_timeNowRead (by decide), busRead_wide hr (by decide), readReg_timeNowHigh]
    · rw [exec_timeNowRead (by decide), busRead_word (b := 0x20000) (sz := 8) hr (by decide),
        readReg_timeNowLowLatched]
  case energy =>
    intro who s hr
    constructor
    · rw [exec_pwrEnergyRead (by decide), busRead_wide hr (by decide), readReg_pwrEnergy, readHalf_whole]
      rfl
    · rw [exec_pwrEnergyRead (by decide), busRead_word (b := 0x50010) (sz := 8) hr (by decide), readReg_pwrEnergy,
        Nat.sub_self, readHalf_low]
      rfl

end Sys2Proof.Proofs
end

/-! PROOFS. What an operation leaves of the trick's count, index and length (02 R44, R45), which nothing but an emitted boundary sets. -/

section
namespace Sys2Proof.Proofs

open Sys2Proof Sys2Proof.Machine Sys2Proof.Laws

/-! ## What an emitted boundary sets -/

/-- What an emitted boundary sets and nothing else does: the trick count, the trick index and the length of the trick that ended (02 R44, R45). -/
def beat (t : Trick) : BitVec 64 × BitVec 64 × Nat := (t.count, t.index, t.lenLast)

/-- Between two states what a boundary sets is kept. -/
def Kept (s t : State) : Prop := beat t.trick = beat s.trick

/-- Proved by `id`, not by `Iff.rfl`: simp takes a rule that holds by `rfl` without a proof term, and then has none for the premises below. -/
@[simp] theorem kept_iff {s t : State} : Kept s t ↔ beat t.trick = beat s.trick := ⟨id, id⟩

theorem Kept.trans {s t u : State} (h : Kept s t) (k : Kept t u) : Kept s u := Eq.trans k h

theorem Kept.eq {s t : State} (h : Kept s t) : beat t.trick = beat s.trick := h

/-- The state that a command's answer leaves. -/
def ansAfter : Ans → State
  | .done _ _ _ s => s
  | .hold _ s => s

@[simp] theorem ansAfter_done (st d : Nat) (r : List Byte) (s : State) : ansAfter (.done st d r s) = s := rfl
@[simp] theorem ansAfter_hold (w : Wait) (s : State) : ansAfter (.hold w s) = s := rfl

/-- The state that an outcome leaves; a stop leaves the state in which it came. -/
def after (s : State) : Host.Outcome State Fault Refusal → State
  | .next t => t
  | _ => s

@[simp] theorem after_next (s t : State) : after s (.next t) = t := rfl

section
variable {c : Prop} [Decidable c]

@[simp] theorem trick_ite (s t : State) : (if c then s else t).trick = if c then s.trick else t.trick := apply_ite ..
@[simp] theorem beat_ite (t u : Trick) : beat (if c then t else u) = if c then beat t else beat u := apply_ite ..
@[simp] theorem ansAfter_ite (a b : Ans) : ansAfter (if c then a else b) = if c then ansAfter a else ansAfter b := apply_ite ..
@[simp] theorem snd_ite {α β : Type} (a b : α × β) : (if c then a else b).2 = if c then a.2 else b.2 := apply_ite ..

end

@[simp] theorem beat_foldl {α : Type} {s : State} {f : State → α → State} (h : ∀ s a, Kept s (f s a)) (l : List α) :
    beat (l.foldl f s).trick = beat s.trick := by
  induction l generalizing s with
  | nil => rfl
  | cons a r ih => exact ih.trans (h s a)

@[simp] theorem beat_forAll {s : State} {f : Nat → State → State} (h : ∀ i s, Kept s (f i s)) (l : List Nat) :
    beat (forAll l f s).trick = beat s.trick := beat_foldl (fun s i => h i s) l

theorem beat_foldl_snd {α σ : Type} {f : σ × State → α → σ × State} (h : ∀ r a, Kept r.2 (f r a).2) (l : List α) (r : σ × State) :
    beat (l.foldl f r).2.trick = beat r.2.trick := by
  induction l generalizing r with
  | nil => rfl
  | cons a l ih => exact (ih _).trans (h r a)

section
variable (s : State)

/-! One rule for each operation, in the order of the model's files, so that each follows from the rules of the operations it calls. -/

/-! ## Units and memories -/

@[simp] theorem beat_modQueue (p q f) : beat (modQueue p q f s).trick = beat s.trick := rfl
@[simp] theorem beat_drawFree (n) : beat (drawFree n s).2.trick = beat s.trick := rfl
@[simp] theorem beat_hostStores (l) : beat (hostStores l s).trick = beat s.trick := rfl

/-! ## Counters, interrupts and fault events -/

@[simp] theorem beat_ev (code unit) : beat (ev code unit s).trick = beat s.trick := rfl
@[simp] theorem beat_watchEvent (code unit param value) : beat (watchEvent code unit param value s).trick = beat s.trick := rfl
@[simp] theorem beat_fireVec (v) : beat (fireVec v s).trick = beat s.trick := rfl
@[simp] theorem beat_vecEvent (v) : beat (vecEvent v s).trick = beat s.trick := by simp [vecEvent]
@[simp] theorem beat_irqEvent (src) : beat (irqEvent src s).trick = beat s.trick := by unfold irqEvent; split <;> simp
@[simp] theorem beat_ringIrq (r) : beat (ringIrq r s).trick = beat s.trick := by simp [ringIrq]
@[simp] theorem beat_vecTimeout (v) : beat (vecTimeout v s).trick = beat s.trick := by simp [vecTimeout]
@[simp] theorem beat_severeActs (src) : beat (severeActs src s).trick = beat s.trick := by simp [severeActs]
@[simp] theorem beat_makeSevere (src unit) : beat (makeSevere src unit s).trick = beat s.trick := by simp [makeSevere]
@[simp] theorem beat_raiseFault (src unit detail inj) : beat (raiseFault src unit detail inj s).trick = beat s.trick := by simp [raiseFault]
@[simp] theorem beat_fault (src unit detail) : beat (fault src unit detail s).trick = beat s.trick := by simp [fault]
@[simp] theorem beat_regError (a) : beat (regError a s).trick = beat s.trick := by simp [regError]
@[simp] theorem beat_closeWindows : beat (closeWindows s).trick = beat s.trick := rfl

/-! ## The shared buffer (08) -/

theorem beat_takeCell {s r x} (h : takeCell r s = some x) : beat x.2.trick = beat s.trick := by
  unfold takeCell at h
  split at h
  · cases h
  split at h
  · cases h
  · cases h
    simp

theorem beat_takeCells {s n r x} (h : takeCells n r s = some x) : beat x.2.trick = beat s.trick := by
  induction n generalizing s x with
  | zero =>
    cases h
    rfl
  | succ n ih =>
    unfold takeCells at h
    split at h
    · cases h
    next hc =>
      obtain ⟨y, hy, rfl⟩ := Option.map_eq_some_iff.mp h
      exact (ih hy).trans (beat_takeCell hc)

@[simp] theorem beat_giveCells (cs) : beat (giveCells cs s).trick = beat s.trick := beat_foldl (fun _ _ => by rfl) _
@[simp] theorem beat_stakeAdd (r n) : beat (stakeAdd r n s).trick = beat s.trick := rfl
@[simp] theorem beat_stakeSub (r n) : beat (stakeSub r n s).trick = beat s.trick := rfl

theorem beat_newChain {s r n len bs x} (h : newChain r n len bs s = some x) : beat x.2.trick = beat s.trick := by
  unfold newChain at h
  split at h
  next hc =>
    cases h
    simpa using beat_takeCells hc
  · cases h

@[simp] theorem beat_orphan (h) : beat (orphan h s).trick = beat s.trick := by simp [orphan]
@[simp] theorem beat_unstake (h) : beat (unstake h s).trick = beat s.trick := by unfold unstake; split <;> simp
@[simp] theorem beat_dropChain (h) : beat (dropChain h s).trick = beat s.trick := by unfold dropChain; split <;> simp
@[simp] theorem beat_chainUnref (h) : beat (chainUnref h s).trick = beat s.trick := by unfold chainUnref; split <;> simp
@[simp] theorem beat_chainRef (h) : beat (chainRef h s).trick = beat s.trick := rfl
@[simp] theorem beat_freeRequest (r addr) : beat (freeRequest r addr s).trick = beat s.trick := by unfold freeRequest; dsimp only; (repeat' split) <;> simp
@[simp] theorem beat_pushMacCtl (p m) : beat (pushMacCtl p m s).trick = beat s.trick := rfl
@[simp] theorem beat_announce (p) : beat (announce p s).trick = beat s.trick := by unfold announce; split <;> simp
@[simp] theorem beat_pauseUpdate (p i kitty) : beat (pauseUpdate p i kitty s).trick = beat s.trick := by unfold pauseUpdate; split <;> simp
@[simp] theorem beat_modUK (p i acc f) : beat (modUK p i acc f s).trick = beat s.trick := rfl
@[simp] theorem beat_modUsed (acc f) : beat (modUsed acc f s).trick = beat s.trick := by unfold modUsed; split <;> simp
@[simp] theorem beat_charge (p q inp i acc n) : beat (charge p q inp i acc n s).trick = beat s.trick := by unfold charge; split <;> simp
@[simp] theorem beat_refund (p q inp i acc n) : beat (refund p q inp i acc n s).trick = beat s.trick := by unfold refund; split <;> simp

@[simp] theorem beat_takeIn (p q d lossless ect) : beat (takeIn p q d lossless ect s).2.trick = beat s.trick := by
  unfold takeIn
  dsimp only
  repeat' split
  all_goals simp

/-! ## Answers and checks of a command (13 R401, R402) -/

@[simp] theorem beat_ansOk (resp) : beat (ansAfter (ansOk resp s)).trick = beat s.trick := rfl
@[simp] theorem beat_ansBad (off) : beat (ansAfter (ansBad off s)).trick = beat s.trick := rfl
@[simp] theorem beat_ansSt (st) : beat (ansAfter (ansSt st s)).trick = beat s.trick := rfl

/-- Every check of a list holds. -/
def allHold (l : List (Bool × Nat)) : Bool := l.all (fun c => c.1)

/-- A failed check leaves the state as it was. -/
@[simp] theorem ansAfter_checks (l) (go : Unit → Ans) : ansAfter (checks l s go) = if allHold l then ansAfter (go ()) else s := by
  cases h : allHold l
  · obtain ⟨c, hc⟩ := Option.ne_none_iff_exists'.mp (mt List.find?_eq_none.mp (by simpa [allHold] using h : ¬ ∀ c ∈ l, ¬ (!c.1) = true))
    rw [checks_fail hc]
    rfl
  · rw [checks_pass h]
    rfl

/-! ## Mailboxes and control traffic (13 R399; 12 R383) -/

@[simp] theorem beat_answer (m st detail resp) : beat (answer m st detail resp s).trick = beat s.trick := rfl
@[simp] theorem beat_acceptMb (m) : beat (acceptMb m s).trick = beat s.trick := by unfold acceptMb; dsimp only; (repeat' split) <;> simp
@[simp] theorem beat_storeMsg (m off bs) : beat (storeMsg m off bs s).trick = beat s.trick := rfl
@[simp] theorem beat_sendControl (dst dl kind seq payload) : beat (sendControl dst dl kind seq payload s).trick = beat s.trick := by unfold sendControl; split <;> simp
@[simp] theorem beat_serveNext : beat (serveNext s).trick = beat s.trick := by unfold serveNext; (repeat' split) <;> simp
@[simp] theorem beat_enqueueRequest (q n seq bs) : beat (enqueueRequest q n seq bs s).trick = beat s.trick := by simp [enqueueRequest]
@[simp] theorem beat_request (m q n bytes rest answers agg) : beat (request m q n bytes rest answers agg s).trick = beat s.trick := by simp [request]
@[simp] theorem beat_sendRequest (m code q n payload rest answers agg) : beat (sendRequest m code q n payload rest answers agg s).trick = beat s.trick := by simp [sendRequest]
@[simp] theorem beat_remoteCmd (m code payload p) : beat (ansAfter (remoteCmd m code payload p s)).trick = beat s.trick := by unfold remoteCmd; dsimp only; (repeat' split) <;> simp
@[simp] theorem beat_handleResponse (seq bs) : beat (handleResponse seq bs s).trick = beat s.trick := by unfold handleResponse; dsimp only; (repeat' split) <;> simp
@[simp] theorem beat_sendResponse (m bs) : beat (sendResponse m bs s).trick = beat s.trick := by unfold sendResponse; split <;> simp
@[simp] theorem beat_completeNow (m) : beat (completeNow m s).trick = beat s.trick := by unfold completeNow; split <;> simp

@[simp] theorem beat_settle (m a) : beat (settle m a).trick = beat (ansAfter a).trick := by cases a <;> simp [settle]
@[simp] theorem beat_runCmd {body : Cmd → State → Ans} (h : ∀ c s, Kept s (ansAfter (body c s))) (code m) :
    beat (runCmd code m body s).trick = beat s.trick := by
  unfold runCmd
  split <;> simp [(h _ _).eq]

@[simp] theorem beat_onPathAny {go : Path → List Byte → Ans} (h : ∀ q p, Kept s (ansAfter (go q p))) (m code len kinds c) :
    beat (ansAfter (onPathAny m code len kinds c s go)).trick = beat s.trick := by
  unfold onPathAny
  dsimp only
  repeat' split
  all_goals simp [(h _ _).eq]

@[simp] theorem beat_onPath {go : Path → List Byte → Ans} (h : ∀ q p, Kept s (ansAfter (go q p))) (m code len kinds c) :
    beat (ansAfter (onPath m code len kinds c s go)).trick = beat s.trick := by
  simp [onPath, (h _ _).eq]

/-! ## The time unit (10) -/

@[simp] theorem beat_runTime (n) : beat (runTime n s).trick = beat s.trick := rfl
@[simp] theorem beat_tsqPush (fw e) : beat (tsqPush fw e s).trick = beat s.trick := by simp [tsqPush]
@[simp] theorem beat_markStep : beat (markStep s).trick = beat s.trick := rfl
@[simp] theorem beat_stepDom (x e) : beat (stepDom x e s).trick = beat s.trick := by simp [stepDom]
@[simp] theorem beat_switchDom (x) : beat (switchDom x s).trick = beat s.trick := by simp [switchDom]
@[simp] theorem beat_enterHoldover : beat (enterHoldover s).trick = beat s.trick := by simp [enterHoldover]
@[simp] theorem beat_offerSample (x src e) : beat (offerSample x src e s).trick = beat s.trick := by simp [offerSample]
@[simp] theorem beat_servoSample (x e) : beat (servoSample x e s).trick = beat s.trick := by simp [servoSample]
@[simp] theorem beat_servoDomain (x) : beat (servoDomain x s).trick = beat s.trick := by simp [servoDomain]
@[simp] theorem beat_splitCheck : beat (splitCheck s).trick = beat s.trick := by simp [splitCheck]
@[simp] theorem beat_recordOfs : beat (recordOfs s).trick = beat s.trick := rfl
@[simp] theorem beat_applyTimeSet (flags frac ns sec) : beat (applyTimeSet flags frac ns sec s).trick = beat s.trick := by simp [applyTimeSet]
@[simp] theorem beat_pinsBoundary (stepped) : beat (pinsBoundary stepped s).trick = beat s.trick := rfl
@[simp] theorem beat_pinCapture (n rising ph) : beat (pinCapture n rising ph s).trick = beat s.trick := by simp [pinCapture]
@[simp] theorem beat_edgeSamples (src pinNo ph) : beat (edgeSamples src pinNo ph s).trick = beat s.trick := by simp [edgeSamples]

/-! ## Telemetry (11) -/

@[simp] theorem beat_modSlice (g f) : beat (modSlice g f s).trick = beat s.trick := rfl

@[simp] theorem beat_flowUpdate (g f) : beat (flowUpdate g f s).trick = beat s.trick := by
  unfold flowUpdate
  extract_lets x base ways hit age v
  clear_value hit v
  cases hit with
  | some w => rfl
  | none =>
    dsimp only
    repeat' split
    all_goals rfl

@[simp] theorem beat_idleVisit (g i) : beat (idleVisit g i s).trick = beat s.trick := by unfold idleVisit; dsimp only; (repeat' split) <;> simp
@[simp] theorem beat_idleScan (g) : beat (idleScan g s).trick = beat s.trick := by simp [idleScan]
@[simp] theorem beat_overflowQueue (g) : beat (overflowQueue g s).trick = beat s.trick := by simp [overflowQueue]
@[simp] theorem beat_evictOne (g) : beat (evictOne g s).trick = beat s.trick := by unfold evictOne; split <;> simp
@[simp] theorem beat_flowEviction : beat (flowEviction s).trick = beat s.trick := by simp [flowEviction]
@[simp] theorem beat_sampleOffer (bs) : beat (sampleOffer bs s).trick = beat s.trick := by simp [sampleOffer]
@[simp] theorem beat_cellDone (cell) : beat (cellDone cell s).trick = beat s.trick := by unfold cellDone; split <;> simp
@[simp] theorem beat_captureOffer (bs cell) : beat (captureOffer bs cell s).trick = beat s.trick := by simp [captureOffer]
@[simp] theorem beat_fifoDrainOne : beat (fifoDrainOne s).trick = beat s.trick := by unfold fifoDrainOne; split <;> simp
@[simp] theorem beat_fifoDrain : beat (fifoDrain s).trick = beat s.trick := by simp [fifoDrain]
@[simp] theorem beat_sampleWrite (m r) : beat (sampleWrite m r s).trick = beat s.trick := by simp [sampleWrite]
@[simp] theorem beat_evZeroPort (p) : beat (evZeroPort p s).trick = beat s.trick := rfl
@[simp] theorem beat_evZeroStack : beat (evZeroStack s).trick = beat s.trick := rfl
@[simp] theorem beat_watchCycles (n passed) : beat (watchCycles n passed s).trick = beat s.trick := rfl
@[simp] theorem beat_dumpOpen : beat (dumpOpen s).trick = beat s.trick := by unfold dumpOpen; dsimp only; (repeat' split) <;> simp
@[simp] theorem beat_dumpWrite : beat (dumpWrite s).trick = beat s.trick := by unfold dumpWrite; split <;> simp

/-! ## Release of descriptors (08 R222, R232) -/

@[simp] theorem beat_notSentPush (p d) : beat (notSentPush p d s).trick = beat s.trick := by unfold notSentPush; split <;> simp
@[simp] theorem beat_sampleRelease (m r) : beat (sampleRelease m r s).trick = beat s.trick := by unfold sampleRelease; split <;> simp
@[simp] theorem beat_releaseDesc (p q d r) : beat (releaseDesc p q d r s).trick = beat s.trick := by simp [releaseDesc]
@[simp] theorem beat_dropDesc (p q d r) : beat (dropDesc p q d r s).trick = beat s.trick := by simp [dropDesc]
@[simp] theorem beat_flushDesc (p q d) : beat (flushDesc p q d s).trick = beat s.trick := by simp [flushDesc]
@[simp] theorem beat_idleDeficits (p) : beat (idleDeficits p s).trick = beat s.trick := rfl
@[simp] theorem beat_flushQueue (p q sel) : beat (flushQueue p q sel s).trick = beat s.trick := by unfold flushQueue; split <;> simp
@[simp] theorem beat_flushPort (p sel) : beat (flushPort p sel s).trick = beat s.trick := by simp [flushPort]
@[simp] theorem beat_holdFlush (p) : beat (holdFlush p s).trick = beat s.trick := by simp [holdFlush]

/-! ## Lanes and links (03, 04) -/

@[simp] theorem beat_applyFir (l) : beat (applyFir l s).trick = beat s.trick := by unfold applyFir; split <;> simp
@[simp] theorem beat_dropStored (l) : beat (dropStored l s).trick = beat s.trick := rfl
@[simp] theorem beat_unalign (l) : beat (unalign l s).trick = beat s.trick := by unfold unalign; split <;> simp
@[simp] theorem beat_laneEnter (l t) : beat (laneEnter l t s).trick = beat s.trick := by simp [laneEnter]
@[simp] theorem beat_laneExit (l t) : beat (laneExit l t s).trick = beat s.trick := rfl
@[simp] theorem beat_laneRunning (l) : beat (laneRunning l s).trick = beat s.trick := by simp [laneRunning]
@[simp] theorem beat_echoEnd (l) : beat (echoEnd l s).trick = beat s.trick := rfl
@[simp] theorem beat_echoStop (l) : beat (echoStop l s).trick = beat s.trick := by unfold echoStop; split <;> simp
@[simp] theorem beat_setLink (p st) : beat (setLink p st s).trick = beat s.trick := by unfold setLink; split <;> simp
@[simp] theorem beat_enterNegotiating (p) : beat (enterNegotiating p s).trick = beat s.trick := by simp [enterNegotiating]
@[simp] theorem beat_alignBegin (p) : beat (alignBegin p s).trick = beat s.trick := by unfold alignBegin; split <;> simp
@[simp] theorem beat_alignArm (l) : beat (alignArm l s).trick = beat s.trick := by unfold alignArm; split <;> simp

@[simp] theorem beat_enterAligning (p b) : beat (enterAligning p b s).trick = beat s.trick := by
  unfold enterAligning
  split
  · rfl
  · simp

@[simp] theorem beat_linkAgain (p) : beat (linkAgain p s).trick = beat s.trick := by unfold linkAgain; split <;> simp
@[simp] theorem beat_stackDown (p) : beat (stackDown p s).trick = beat s.trick := rfl
@[simp] theorem beat_stackUp (p) : beat (stackUp p s).trick = beat s.trick := by unfold stackUp; split <;> simp
@[simp] theorem beat_synceLow (p w) : beat (synceLow p w s).trick = beat s.trick := rfl
@[simp] theorem beat_synceDivs : beat (synceDivs s).trick = beat s.trick := rfl
@[simp] theorem beat_leaveUp (p) : beat (leaveUp p s).trick = beat s.trick := by unfold leaveUp; split <;> simp
@[simp] theorem beat_linkLost (p cause penalise) : beat (linkLost p cause penalise s).trick = beat s.trick := by unfold linkLost; split <;> simp
@[simp] theorem beat_containPort (p) : beat (containPort p s).trick = beat s.trick := by unfold containPort; split <;> simp
@[simp] theorem beat_portFaultI (src p detail inj) : beat (portFaultI src p detail inj s).trick = beat s.trick := by simp [portFaultI]
@[simp] theorem beat_portFault (src p detail) : beat (portFault src p detail s).trick = beat s.trick := by simp [portFault]
@[simp] theorem beat_containRelease (p was) : beat (containRelease p was s).trick = beat s.trick := by unfold containRelease; split <;> simp
@[simp] theorem beat_enterUp (p skew) : beat (enterUp p skew s).trick = beat s.trick := by unfold enterUp; split <;> simp

@[simp] theorem beat_lanesReq (p r) : beat (lanesReq p r s).trick = beat s.trick := by
  unfold lanesReq
  split
  · rfl
  · exact beat_forAll (fun _ _ => by rfl) _

@[simp] theorem beat_laneLinkDown (l cause penalise) : beat (laneLinkDown l cause penalise s).trick = beat s.trick := by unfold laneLinkDown; split <;> simp

/-! ## Ageing log and images of the power registers (16) -/

@[simp] theorem beat_powerIrq (on) : beat (powerIrq on s).trick = beat s.trick := by simp [powerIrq]
@[simp] theorem beat_ageRecord (kind old new unit value) : beat (ageRecord kind old new unit value s).trick = beat s.trick := by simp [ageRecord]

/-! ## Flash and the MAC engine in firmware's hands (13) -/

@[simp] theorem beat_modSlot (k f) : beat (modSlot k f s).trick = beat s.trick := rfl

@[simp] theorem beat_withEngine {f : State → State} (h : ∀ s, Kept s (f s)) (wants) :
    beat (withEngine wants f s).trick = beat s.trick := by simp [withEngine, (h _).eq]

@[simp] theorem beat_heldUp {ask f : State → State} (ha : ∀ s, Kept s (ask s)) (hf : ∀ s, Kept s (f s)) (busy m code) :
    beat (heldUp busy ask m code f s).trick = beat s.trick := by simp [heldUp, (ha _).eq, (hf _).eq]

@[simp] theorem beat_engineAsk : beat (engineAsk s).trick = beat s.trick := by simp [engineAsk]

@[simp] theorem beat_macCmd {f : State → State} (h : ∀ s, Kept s (f s)) (busy m code) :
    beat (macCmd busy m code f s).trick = beat s.trick := by simp [macCmd, (h _).eq]

@[simp] theorem beat_jobPut (j m) : beat (jobPut j m s).trick = beat s.trick := by simp [jobPut]
@[simp] theorem beat_jobStore (erase j) : beat (jobStore erase j s).2.trick = beat s.trick := by simp [jobStore]
@[simp] theorem beat_jobSpoil (erase j) : beat (jobSpoil erase j s).trick = beat s.trick := by simp [jobSpoil]
@[simp] theorem beat_jobEnd (j) : beat (jobEnd j s).trick = beat s.trick := by simp [jobEnd]
@[simp] theorem beat_jobStart (j) : beat (ansAfter (jobStart j s)).trick = beat s.trick := by simp [jobStart]
@[simp] theorem beat_recordStore (erase) : beat (recordStore erase s).trick = beat s.trick := by simp [recordStore]
@[simp] theorem beat_recordStored (area) : beat (recordStored area s).trick = beat s.trick := by unfold recordStored; (repeat' split) <;> simp
@[simp] theorem beat_takeSpare (area) : beat (takeSpare area s).trick = beat s.trick := by simp [takeSpare]
@[simp] theorem beat_dropWaiting (area) : beat (dropWaiting area s).trick = beat s.trick := by simp [dropWaiting]
@[simp] theorem beat_recordEnd (erase ok area) : beat (recordEnd erase ok area s).trick = beat s.trick := by simp [recordEnd]
@[simp] theorem beat_flashStore (erase) : beat (flashStore erase s).trick = beat s.trick := by unfold flashStore; (repeat' split) <;> simp
@[simp] theorem beat_flashStoreEnd (ok) : beat (flashStoreEnd ok s).trick = beat s.trick := by unfold flashStoreEnd; split <;> simp

/-! ## Charging of selections and the end of an admitted frame (09, 08) -/

@[simp] theorem beat_chargeSel (p q l) : beat (chargeSel p q l s).trick = beat s.trick := by unfold chargeSel; split <;> simp
@[simp] theorem beat_settleCharge (p q d n) : beat (settleCharge p q d n s).trick = beat s.trick := by simp [settleCharge]
@[simp] theorem beat_settleQueue (head len n bad p q) : beat (settleQueue head len n bad p q s).trick = beat s.trick := by unfold settleQueue; split <;> simp
@[simp] theorem beat_settleSent (head len n bad rest p) : beat (settleSent head len n bad rest p s).trick = beat s.trick := by unfold settleSent; split <;> simp
@[simp] theorem beat_dropBad (p q) : beat (dropBad p q s).trick = beat s.trick := by unfold dropBad; split <;> simp

@[simp] theorem beat_fitChain (h n) : beat (fitChain h n s).2.trick = beat s.trick := by
  unfold fitChain
  split
  · rfl
  dsimp only
  split
  · simp
  split
  next hc => simpa using beat_takeCells hc
  · rfl

@[simp] theorem beat_settleFrame (a rest0 bad0) : beat (settleFrame a rest0 bad0 s).trick = beat s.trick := by unfold settleFrame; dsimp only; (repeat' split) <;> simp

/-! ## Table clusters (06) -/

@[simp] theorem beat_notify (n typ table slot bucket entry) : beat (notify n typ table slot bucket entry s).trick = beat s.trick := rfl
@[simp] theorem beat_notifyRetired (n) : beat (notifyRetired n s).trick = beat s.trick := by unfold notifyRetired; split <;> simp
@[simp] theorem beat_lookup (n t key full) : beat (lookup n t key full s).2.trick = beat s.trick := by unfold lookup; (repeat' split) <;> simp

@[simp] theorem beat_bucketWrite (n b v) : beat (bucketWrite n b v s).trick = beat s.trick := by
  unfold bucketWrite
  split
  · exact beat_foldl (fun _ _ => by rfl) _
  · rfl

@[simp] theorem beat_pushOp (n o) : beat (pushOp n o s).trick = beat s.trick := rfl
@[simp] theorem beat_sendBucket (n b v ch) : beat (sendBucket n b v ch s).trick = beat s.trick := rfl

/-! ## Entries of host rings (14) -/

@[simp] theorem beat_ringWriteSlots (x i bs n) : beat (ringWriteSlots x i bs n s).trick = beat s.trick := beat_forAll (fun _ _ => by rfl) _
@[simp] theorem beat_ringWriteBack (r i) : beat (ringWriteBack r i s).trick = beat s.trick := by simp [ringWriteBack]
@[simp] theorem beat_ringPost (r bs) : beat (ringPost r bs s).trick = beat s.trick := by simp [ringPost]
@[simp] theorem beat_cqWrite (r bs) : beat (cqWrite r bs s).trick = beat s.trick := by simp [cqWrite]
@[simp] theorem beat_cqPost (r w bs) : beat (cqPost r w bs s).trick = beat s.trick := by simp [cqPost]
@[simp] theorem beat_cqStall (r w) : beat (cqStall r w s).trick = beat s.trick := rfl
@[simp] theorem beat_rxPost (r bs chain) : beat (rxPost r bs chain s).trick = beat s.trick := by unfold rxPost; dsimp only; (repeat' split) <;> simp

/-! ## Rows of the tables (06) -/

@[simp] theorem beat_engineTakes {t : State} (h : Kept s t) (n) : beat (engineTakes n t s).trick = beat s.trick := by
  simp [engineTakes, h.eq]

@[simp] theorem beat_slotsTick : beat (slotsTick s).trick = beat s.trick := rfl
@[simp] theorem beat_releaseHold (t) : beat (releaseHold t s).trick = beat s.trick := beat_forAll (fun _ _ => by rfl) _
@[simp] theorem beat_tableOpFinish (m undo) : beat (tableOpFinish m undo s).trick = beat s.trick := by unfold tableOpFinish; split <;> simp
@[simp] theorem beat_tableOpAnswer (m n undo o) : beat (tableOpAnswer m n undo o s).trick = beat s.trick := by unfold tableOpAnswer; (repeat' split) <;> simp
@[simp] theorem beat_copyRecord (r) : beat (copyRecord r s).trick = beat s.trick := by simp [copyRecord]
@[simp] theorem beat_replicateTable (t) : beat (replicateTable t s).trick = beat s.trick := by simp [replicateTable]
@[simp] theorem beat_holdLearn (t) : beat (holdLearn t s).trick = beat s.trick := beat_forAll (fun _ _ => by rfl) _
@[simp] theorem beat_wantReinsert (n t img) : beat (wantReinsert n t img s).trick = beat s.trick := rfl
@[simp] theorem beat_reinsertNext : beat (reinsertNext s).trick = beat s.trick := by unfold reinsertNext; split <;> simp
@[simp] theorem beat_resolveConflict (n src t slot b img d) : beat (resolveConflict n src t slot b img d s).trick = beat s.trick := by simp [resolveConflict]
@[simp] theorem beat_runKeyed (n why t op force slot b img) : beat (runKeyed n why t op force slot b img s).trick = beat s.trick := by unfold runKeyed; (repeat' split) <;> simp
@[simp] theorem beat_engineCmd (n) : beat (engineCmd n s).trick = beat s.trick := by unfold engineCmd; (repeat' split) <;> simp
@[simp] theorem beat_runLearn (n r) : beat (runLearn n r s).trick = beat s.trick := by unfold runLearn; dsimp only; (repeat' split) <;> simp
@[simp] theorem beat_execLearnExecute (n) : beat (after s (execLearnExecute n s)).trick = beat s.trick := by unfold execLearnExecute; dsimp only; (repeat' split) <;> simp

theorem beat_agerUnit {s n b i d t} (h : agerUnit n b i d s = some t) : beat t.trick = beat s.trick := by
  unfold agerUnit at h
  dsimp only at h
  split at h
  · cases h
    rfl
  · split_ifs at h <;> cases h <;> simp

@[simp] theorem beat_agerUnits (n b d l) : beat (agerUnits n b d l s).trick = beat s.trick := by
  induction l generalizing s with
  | nil => rfl
  | cons i r ih =>
    unfold agerUnits
    split
    next h => exact (ih _).trans (beat_agerUnit h)
    · rfl

@[simp] theorem beat_execAgerVisit (n) : beat (after s (execAgerVisit n s)).trick = beat s.trick := by unfold execAgerVisit; dsimp only; (repeat' split) <;> simp
@[simp] theorem beat_execAgeDeleteExecute (n) : beat (after s (execAgeDeleteExecute n s)).trick = beat s.trick := by unfold execAgeDeleteExecute; dsimp only; (repeat' split) <;> simp
@[simp] theorem beat_replicateNext (n) : beat (replicateNext n s).trick = beat s.trick := by unfold replicateNext; split <;> simp
@[simp] theorem beat_execNotificationForward (n) : beat (after s (execNotificationForward n s)).trick = beat s.trick := by unfold execNotificationForward; dsimp only; (repeat' split) <;> simp
@[simp] theorem beat_schedule (m c p) : beat (schedule m c p s).trick = beat s.trick := rfl
@[simp] theorem beat_tableCreate (m c p) : beat (ansAfter (tableCreate m c p s)).trick = beat s.trick := by simp [tableCreate]

@[simp] theorem beat_tableCreateApply (p) : beat (tableCreateApply p s).trick = beat s.trick :=
  beat_forAll (fun _ _ => beat_forAll (fun _ _ => by rfl) _) _

@[simp] theorem beat_tableLadderSet (m c p) : beat (ansAfter (tableLadderSet m c p s)).trick = beat s.trick := by unfold tableLadderSet; dsimp only; (repeat' split) <;> simp
@[simp] theorem beat_tableLadderApply (p) : beat (tableLadderApply p s).trick = beat s.trick := rfl
@[simp] theorem beat_tableOp (m q p) : beat (ansAfter (tableOp m q p s)).trick = beat s.trick := by unfold tableOp; dsimp only; (repeat' split) <;> simp

@[simp] theorem beat_tableStatus (q p) : beat (ansAfter (tableStatus q p s)).trick = beat s.trick := by
  rw [tableStatus, ansAfter_checks]
  repeat' split
  all_goals simp

/-! ## Buffer commands (08) -/

@[simp] theorem beat_queueSetApply (p) : beat (queueSetApply p s).trick = beat s.trick := rfl
@[simp] theorem beat_portBufSetApply (p) : beat (portBufSetApply p s).trick = beat s.trick := by simp [portBufSetApply]

@[simp] theorem beat_bufGlobalSetApply (p) : beat (bufGlobalSetApply p s).trick = beat s.trick := by
  unfold bufGlobalSetApply
  exact beat_forAll (fun _ _ => by rfl) _

@[simp] theorem beat_bufSectionSetApply (p) : beat (bufSectionSetApply p s).trick = beat s.trick := rfl
@[simp] theorem beat_mcastSetApply (m p) : beat (mcastSetApply m p s).trick = beat s.trick := by simp [mcastSetApply]
@[simp] theorem beat_sectsToStay : beat (sectsToStay s).trick = beat s.trick := by simp [sectsToStay]
@[simp] theorem beat_bufOrdered (d) : beat (bufOrdered s d).trick = beat s.trick := by simp [bufOrdered]
@[simp] theorem beat_bufView : beat (bufView s).trick = beat s.trick := by simp [bufView]
@[simp] theorem beat_queueSet (m c q p) : beat (ansAfter (queueSet m c q p s)).trick = beat s.trick := by simp [queueSet]
@[simp] theorem beat_portBufSet (m c p) : beat (ansAfter (portBufSet m c p s)).trick = beat s.trick := by simp [portBufSet]
@[simp] theorem beat_bufGlobalSet (m c p) : beat (ansAfter (bufGlobalSet m c p s)).trick = beat s.trick := by simp [bufGlobalSet]
@[simp] theorem beat_bufSectionSet (m c p) : beat (ansAfter (bufSectionSet m c p s)).trick = beat s.trick := by simp [bufSectionSet]
@[simp] theorem beat_mcastSet (m c p) : beat (ansAfter (mcastSet m c p s)).trick = beat s.trick := by simp [mcastSet]
@[simp] theorem beat_bufStatus (q) : beat (ansAfter (bufStatus q s)).trick = beat s.trick := rfl
@[simp] theorem beat_queueStatus (q) : beat (ansAfter (queueStatus q s)).trick = beat s.trick := by unfold queueStatus; split <;> simp
@[simp] theorem beat_portBufStatus (q) : beat (ansAfter (portBufStatus q s)).trick = beat s.trick := by unfold portBufStatus; split <;> simp

/-! ## Unit commands (13) -/

@[simp] theorem beat_unitRungSet (q p) : beat (ansAfter (unitRungSet q p s)).trick = beat s.trick := by simp [unitRungSet]

/-! ## Fault commands and row repair (17) -/

@[simp] theorem beat_fltSourceSet (m c p) : beat (ansAfter (fltSourceSet m c p s)).trick = beat s.trick := by simp [fltSourceSet]
@[simp] theorem beat_fltSourceApply (p) : beat (fltSourceApply p s).trick = beat s.trick := rfl
@[simp] theorem beat_fltClearWhere (pick sticky severe) : beat (fltClearWhere pick sticky severe s).trick = beat s.trick := by simp [fltClearWhere]
@[simp] theorem beat_fltClear (m c p) : beat (ansAfter (fltClear m c p s)).trick = beat s.trick := by simp [fltClear]
@[simp] theorem beat_fltClearApply (p) : beat (fltClearApply p s).trick = beat s.trick := by simp [fltClearApply]
@[simp] theorem beat_testChallenge : beat (ansAfter (testChallenge s)).trick = beat s.trick := rfl
@[simp] theorem beat_testUnlock (m p) : beat (ansAfter (testUnlock m p s)).trick = beat s.trick := by simp [testUnlock]
@[simp] theorem beat_testLock (m c p) : beat (ansAfter (testLock m c p s)).trick = beat s.trick := rfl
@[simp] theorem beat_testLockApply : beat (testLockApply s).trick = beat s.trick := rfl
@[simp] theorem beat_faultInject (m c q p) : beat (ansAfter (faultInject m c q p s)).trick = beat s.trick := by simp [faultInject]
@[simp] theorem beat_injectOne (p) : beat (injectOne p s).trick = beat s.trick := by simp [injectOne]
@[simp] theorem beat_injectAll (l) : beat (injectAll l s).trick = beat s.trick := by simp [injectAll]
@[simp] theorem beat_rowEvent (f) : beat (rowEvent f s).trick = beat s.trick := by unfold rowEvent; split <;> simp
@[simp] theorem beat_sparesEvent (f) : beat (sparesEvent f s).trick = beat s.trick := by simp [sparesEvent]
@[simp] theorem beat_stompSent (h p) : beat (stompSent h p s).trick = beat s.trick := by unfold stompSent; split <;> simp

@[simp] theorem beat_spoilChain (h) : beat (spoilChain h s).trick = beat s.trick := by
  unfold spoilChain
  refine ((beat_forAll ?_ _).trans (beat_forAll ?_ _)).trans ((beat_forAll ?_ _).trans (beat_forAll ?_ _))
  all_goals intros
  · simp
  · split <;> rfl
  · simp
  · refine beat_forAll (fun _ _ => ?_) _
    repeat' split
    all_goals rfl

@[simp] theorem beat_spoilCell (c word0) : beat (spoilCell c word0 s).trick = beat s.trick := by unfold spoilCell; split <;> simp
@[simp] theorem beat_rowBad (f) : beat (rowBad f s).trick = beat s.trick := by unfold rowBad; split <;> simp
@[simp] theorem beat_rowCorrected (f n) : beat (rowCorrected f n s).trick = beat s.trick := by unfold rowCorrected; (repeat' split) <;> simp
@[simp] theorem beat_rowsCorrected (l) : beat (rowsCorrected l s).trick = beat s.trick := by simp [rowsCorrected]
@[simp] theorem beat_watchRubber : beat (watchRubber s).trick = beat s.trick := rfl
@[simp] theorem beat_rowDone (f) : beat (rowDone f s).trick = beat s.trick := rfl
@[simp] theorem beat_rowCopy (f) : beat (rowCopy f s).trick = beat s.trick := by unfold rowCopy; split <;> simp
@[simp] theorem beat_retireCell (c) : beat (retireCell c s).trick = beat s.trick := by unfold retireCell; split <;> simp
@[simp] theorem beat_rowRetire (f) : beat (rowRetire f s).trick = beat s.trick := by unfold rowRetire; split <;> simp
@[simp] theorem beat_repairRow (f) : beat (repairRow f s).trick = beat s.trick := by simp [repairRow]

@[simp] theorem beat_execFltStatusGet (m) : beat (after s (execFltStatusGet m s)).trick = beat s.trick := by
  rw [execFltStatusGet, after_next]
  refine beat_runCmd s (fun c t => ?_) ..
  refine beat_onPath t (fun q p => ?_) ..
  rw [ansAfter_checks]
  repeat' split
  all_goals simp

@[simp] theorem beat_execFltTestUnlock (m) : beat (after s (execFltTestUnlock m s)).trick = beat s.trick := by
  rw [execFltTestUnlock, after_next]
  exact beat_macCmd s (fun _ => by simp) ..

/-! ## The parser (05) -/

@[simp] theorem beat_parseCounts (g p) : beat (parseCounts g p s).trick = beat s.trick := by simp [parseCounts]

/-! ## Match-action stages (07) -/

@[simp] theorem beat_meterUpdate (n i f colour) : beat (meterUpdate n i f colour s).2.trick = beat s.trick := by simp [meterUpdate]
@[simp] theorem beat_meterSweep : beat (meterSweep s).trick = beat s.trick := beat_forAll (fun _ _ => by rfl) _
@[simp] theorem beat_excPolice (n k f) : beat (excPolice n k f s).2.trick = beat s.trick := by simp [excPolice]
@[simp] theorem beat_raiseExc (k redirect p) : beat (raiseExc k redirect p s).2.trick = beat s.trick := by simp [raiseExc]
@[simp] theorem beat_misfit (k r p) : beat (misfit k r p s).2.trick = beat s.trick := rfl
@[simp] theorem beat_issueKey (k r p) : beat (issueKey k r p s).2.trick = beat s.trick := by simp [issueKey]
@[simp] theorem beat_keyPart (k p) : beat (keyPart k p s).2.trick = beat s.trick := by unfold keyPart; dsimp only; (repeat' split) <;> simp
@[simp] theorem beat_record (e p) : beat (record e p s).2.trick = beat s.trick := by simp [record]
@[simp] theorem beat_editSkip (p) : beat (editSkip p s).2.trick = beat s.trick := rfl
@[simp] theorem beat_wideOp (o p) : beat (wideOp o p s).2.trick = beat s.trick := by simp [wideOp]
@[simp] theorem beat_learnOp (o r p) : beat (learnOp o r p s).2.trick = beat s.trick := by simp [learnOp]
@[simp] theorem beat_runOp (o r prm pos p) : beat (runOp o r prm pos p s).2.trick = beat s.trick := by unfold runOp; (repeat' split) <;> simp

@[simp] theorem beat_runAction (k addr prm pos narrow r p) : beat (runAction k addr prm pos narrow r p s).2.trick = beat s.trick := by
  unfold runAction
  refine (beat_foldl_snd (fun _ _ => ?_) _ _).trans ?_
  · split <;> simp
  · simp

@[simp] theorem beat_actionPart (k pos p) : beat (actionPart k pos p s).2.trick = beat s.trick := by unfold actionPart; (repeat' split) <;> simp
@[simp] theorem beat_position (stages pos p) : beat (position stages pos p s).2.trick = beat s.trick := by simp [position]

@[simp] theorem beat_runPipe (positions stages p) : beat (runPipe positions stages p s).2.trick = beat s.trick := by
  unfold runPipe
  have h := beat_foldl_snd (fun r i => beat_position r.2 stages (i + 1) r.1) (List.range positions) (p, s)
  dsimp only
  split <;> simpa using h

/-! ## Meter and exception commands (07) -/

@[simp] theorem beat_meterSet (m c p) : beat (ansAfter (meterSet m c p s)).trick = beat s.trick := by simp [meterSet]
@[simp] theorem beat_meterSetApply (p) : beat (meterSetApply p s).trick = beat s.trick := beat_forAll (fun _ _ => by rfl) _
@[simp] theorem beat_meterGet (q p) : beat (ansAfter (meterGet q p s)).trick = beat s.trick := by simp [meterGet]
@[simp] theorem beat_excSet (m c p) : beat (ansAfter (excSet m c p s)).trick = beat s.trick := by simp [excSet]
@[simp] theorem beat_excSetApply (p) : beat (excSetApply p s).trick = beat s.trick := beat_forAll (fun _ _ => by rfl) _
@[simp] theorem beat_excMetersInit (n) : beat (excMetersInit n s).trick = beat s.trick := beat_forAll (fun _ _ => by rfl) _

/-! ## Start-up and warm restart (18) -/

@[simp] theorem beat_execTimePllLock : beat (after s (execTimePllLock s)).trick = beat s.trick := by
  unfold execTimePllLock
  rw [after_next]
  split <;> rfl

@[simp] theorem beat_startFw (k tie bad) : beat (startFw k tie bad s).trick = beat s.trick := rfl
@[simp] theorem beat_loadBoard : beat (loadBoard s).trick = beat s.trick := by unfold loadBoard; (repeat' split) <;> simp
@[simp] theorem beat_enterRecovery : beat (enterRecovery s).trick = beat s.trick := by simp [enterRecovery]
@[simp] theorem beat_execBootRomStart : beat (after s (execBootRomStart s)).trick = beat s.trick := by unfold execBootRomStart; (repeat' split) <;> simp
@[simp] theorem beat_bootColumn : beat (bootColumn s).trick = beat s.trick := by unfold bootColumn; split <;> simp

@[simp] theorem beat_selfTest (failing) : beat (selfTest failing s).trick = beat s.trick := by
  unfold selfTest
  exact (beat_forAll (fun _ _ => by rfl) _).trans ((beat_forAll (fun _ _ => by rfl) _).trans (beat_foldl (fun _ _ => by simp) _))

@[simp] theorem beat_bootMicrocode : beat (bootMicrocode s).trick = beat s.trick := rfl
@[simp] theorem beat_firmwareStart (failing) : beat (firmwareStart failing s).trick = beat s.trick := by simp [firmwareStart]
@[simp] theorem beat_dropHolds : beat (dropHolds s).trick = beat s.trick := by simp [dropHolds]
@[simp] theorem beat_resetSuilanil : beat (resetSuilanil s).trick = beat s.trick := rfl
@[simp] theorem beat_warmRestart : beat (warmRestart s).trick = beat s.trick := by simp [warmRestart]
@[simp] theorem beat_execFwWatchdogExpiry : beat (after s (execFwWatchdogExpiry s)).trick = beat s.trick := by unfold execFwWatchdogExpiry; split <;> simp
@[simp] theorem beat_hostData (bs poison) : beat (hostData bs poison s).trick = beat s.trick := rfl
@[simp] theorem beat_devmemDo (x wr rd inside bad) : beat (devmemDo x wr rd inside bad s).trick = beat s.trick := by simp [devmemDo]

/-! ## Whole ports (04) -/

@[simp] theorem beat_dropInflight (p) : beat (dropInflight p s).trick = beat s.trick := by
  unfold dropInflight
  split
  · rfl
  · refine (beat_foldl (fun _ _ => ?_) _).trans rfl
    dsimp only
    split <;> simp

@[simp] theorem beat_dropDeferred (p) : beat (dropDeferred p s).trick = beat s.trick := rfl
@[simp] theorem beat_removePort (p) : beat (removePort p s).trick = beat s.trick := by unfold removePort; (repeat' split) <;> simp
@[simp] theorem beat_laneModeSet (l m) : beat (laneModeSet l m s).trick = beat s.trick := by simp [laneModeSet]
@[simp] theorem beat_laneFree (l) : beat (laneFree l s).trick = beat s.trick := by simp [laneFree]
@[simp] theorem beat_unconfigPort (p) : beat (unconfigPort p s).trick = beat s.trick := by unfold unconfigPort; split <;> simp
@[simp] theorem beat_configPort (p w mode neg flags maxFrame) : beat (configPort p w mode neg flags maxFrame s).trick = beat s.trick := by simp [configPort]
@[simp] theorem beat_stormDrop (p q d) : beat (stormDrop p q d s).trick = beat s.trick := by simp [stormDrop]

@[simp] theorem beat_stormDiscard (p) : beat (stormDiscard p s).trick = beat s.trick := by
  unfold stormDiscard
  refine beat_forAll (fun _ _ => ?_) _
  split <;> simp

@[simp] theorem beat_setStorm (p i on) : beat (setStorm p i on s).trick = beat s.trick := rfl
@[simp] theorem beat_linksDown (ls cause) : beat (linksDown ls cause s).trick = beat s.trick := by simp [linksDown]
@[simp] theorem beat_quadDown (q) : beat (quadDown q s).trick = beat s.trick := by simp [quadDown]
@[simp] theorem beat_quadMove (q) : beat (quadMove q s).trick = beat s.trick := by simp [quadMove]
@[simp] theorem beat_refLoss (r) : beat (refLoss r s).trick = beat s.trick := by simp [refLoss]
@[simp] theorem beat_synceApply (p) : beat (synceApply p s).trick = beat s.trick := by simp [synceApply]
@[simp] theorem beat_wireOut (p w) : beat (wireOut p w s).trick = beat s.trick := rfl
@[simp] theorem beat_pcsTick (p) : beat (pcsTick p s).trick = beat s.trick := by unfold pcsTick; split <;> simp
@[simp] theorem beat_macSend (p bs) : beat (macSend p bs s).trick = beat s.trick := rfl

/-! ## Images, microcode and stores (13) -/

@[simp] theorem ansAfter_contentOk (ok) (go : Unit → Ans) : ansAfter (contentOk ok s go) = if ok then ansAfter (go ()) else s := apply_ite ..
@[simp] theorem beat_imageWrite (m p) : beat (ansAfter (imageWrite m p s)).trick = beat s.trick := by simp [imageWrite, sourceOf, imageOk]
@[simp] theorem beat_patchApply (m p) : beat (ansAfter (patchApply m p s)).trick = beat s.trick := by simp [patchApply, sourceOf, imageOk]
@[simp] theorem beat_patchBoundary : beat (patchBoundary s).trick = beat s.trick := by unfold patchBoundary; split <;> simp
@[simp] theorem beat_ucStage (m p) : beat (ansAfter (ucStage m p s)).trick = beat s.trick := by simp [ucStage, sourceOf]
@[simp] theorem beat_ucStagingEnd : beat (ucStagingEnd s).trick = beat s.trick := by unfold ucStagingEnd; dsimp only; (repeat' split) <;> simp
@[simp] theorem beat_ucSwitch (sts) : beat (ansAfter (ucSwitch sts s)).trick = beat s.trick := by simp [ucSwitch]
@[simp] theorem beat_ucBoundary : beat (ucBoundary s).trick = beat s.trick := by simp [ucBoundary]
@[simp] theorem beat_boardWrite (m p) : beat (ansAfter (boardWrite m p s)).trick = beat s.trick := by simp [boardWrite, sourceOf]
@[simp] theorem beat_laneAgeing (l ef) : beat (laneAgeing l ef s).trick = beat s.trick := by simp [laneAgeing]
@[simp] theorem beat_laneTrend (l) : beat (laneTrend l s).trick = beat s.trick := by simp [laneTrend]
@[simp] theorem beat_columnCheck (counts) : beat (columnCheck counts s).trick = beat s.trick := by simp [columnCheck]

/-! ## Rows of the lanes (03) -/

@[simp] theorem beat_laneAsk (l ef) : beat (laneAsk l ef s).trick = beat s.trick := by unfold laneAsk; split <;> simp
@[simp] theorem beat_execEchoMeasureEnd (l e) : beat (after s (execEchoMeasureEnd l e s)).trick = beat s.trick := by unfold execEchoMeasureEnd; split <;> simp
@[simp] theorem beat_execTrainingCoeffRequest (l r) : beat (after s (execTrainingCoeffRequest l r s)).trick = beat s.trick := by unfold execTrainingCoeffRequest; split <;> simp
@[simp] theorem beat_execCommaReceive (l i) : beat (after s (execCommaReceive l i s)).trick = beat s.trick := by unfold execCommaReceive; split <;> simp
@[simp] theorem beat_laneClassSet (q m c p) : beat (ansAfter (laneClassSet q m c p s)).trick = beat s.trick := by simp [laneClassSet]
@[simp] theorem beat_laneClassApply (p) : beat (laneClassApply p s).trick = beat s.trick := by simp [laneClassApply]
@[simp] theorem beat_laneEcho (q m p) : beat (ansAfter (laneEcho q m p s)).trick = beat s.trick := by simp [laneEcho]

@[simp] theorem beat_laneAdaptCtl (q p) : beat (ansAfter (laneAdaptCtl q p s)).trick = beat s.trick := by
  rw [laneAdaptCtl, ansAfter_checks]
  repeat' split
  all_goals simp

/-! ## Rows of the ports (04) -/

@[simp] theorem beat_resolved (p m) : beat (resolved p m s).trick = beat s.trick := by unfold resolved; split <;> simp
@[simp] theorem beat_execNegotiationResolved (p a) : beat (after s (execNegotiationResolved p a s)).trick = beat s.trick := by unfold execNegotiationResolved; dsimp only; (repeat' split) <;> simp

@[simp] theorem beat_execTrainingComplete (p) : beat (after s (execTrainingComplete p s)).trick = beat s.trick := by
  unfold execTrainingComplete
  rw [after_next]
  split
  · split
    · rw [beat_enterAligning]
      exact beat_forAll (fun _ _ => by rfl) _
    · rfl
  · rfl

@[simp] theorem beat_execTrainingTimeout (p) : beat (after s (execTrainingTimeout p s)).trick = beat s.trick := by unfold execTrainingTimeout; split <;> simp
@[simp] theorem beat_execPortAligned (p skew) : beat (after s (execPortAligned p skew s)).trick = beat s.trick := by unfold execPortAligned; split <;> simp
@[simp] theorem beat_execAlignTimeout (p localF remoteF skew) : beat (after s (execAlignTimeout p localF remoteF skew s)).trick = beat s.trick := by unfold execAlignTimeout; split <;> simp
@[simp] theorem beat_execLinkDown (p e) : beat (after s (execLinkDown p e s)).trick = beat s.trick := by unfold execLinkDown; split <;> simp
@[simp] theorem beat_execPortPark (p) : beat (after s (execPortPark p s)).trick = beat s.trick := by unfold execPortPark; split <;> simp
@[simp] theorem beat_unpark (p) : beat (unpark p s).trick = beat s.trick := by simp [unpark]
@[simp] theorem beat_execPortProbe (p) : beat (after s (execPortProbe p s)).trick = beat s.trick := by unfold execPortProbe; split <;> simp
@[simp] theorem beat_execParkedSignal (p) : beat (after s (execParkedSignal p s)).trick = beat s.trick := by unfold execParkedSignal; split <;> simp
@[simp] theorem beat_execFecUncorrectable (l) : beat (after s (execFecUncorrectable l s)).trick = beat s.trick := by unfold execFecUncorrectable; split <;> simp
@[simp] theorem beat_execStormEnter (p i) : beat (after s (execStormEnter p i s)).trick = beat s.trick := by unfold execStormEnter; split <;> simp
@[simp] theorem beat_execStormExit (p i) : beat (after s (execStormExit p i s)).trick = beat s.trick := by unfold execStormExit; split <;> simp
@[simp] theorem beat_execLldpTx (p) : beat (after s (execLldpTx p s)).trick = beat s.trick := by unfold execLldpTx; split <;> simp
@[simp] theorem beat_execLldpduReceive (p pdu) : beat (after s (execLldpduReceive p pdu s)).trick = beat s.trick := by unfold execLldpduReceive; (repeat' split) <;> simp
@[simp] theorem beat_execLldpTtlExpiry (p) : beat (after s (execLldpTtlExpiry p s)).trick = beat s.trick := by unfold execLldpTtlExpiry; (repeat' split) <;> simp
@[simp] theorem beat_execEsmcTx (p event) : beat (after s (execEsmcTx p event s)).trick = beat s.trick := by unfold execEsmcTx; split <;> simp
@[simp] theorem beat_execSynceOutResume (o) : beat (after s (execSynceOutResume o s)).trick = beat s.trick := by unfold execSynceOutResume; split <;> simp
@[simp] theorem beat_portConfig (q p) : beat (ansAfter (portConfig q p s)).trick = beat s.trick := by simp [portConfig]
@[simp] theorem beat_portGuardSet (m c p) : beat (ansAfter (portGuardSet m c p s)).trick = beat s.trick := by simp [portGuardSet]
@[simp] theorem beat_portGuardApply (p) : beat (portGuardApply p s).trick = beat s.trick := rfl
@[simp] theorem beat_synceSet (m c) : beat (ansAfter (synceSet m c s)).trick = beat s.trick := by unfold synceSet; dsimp only; (repeat' split) <;> simp
@[simp] theorem beat_parserPortSet (m c p) : beat (ansAfter (parserPortSet m c p s)).trick = beat s.trick := by simp [parserPortSet]
@[simp] theorem beat_parserGroupSet (m c p) : beat (ansAfter (parserGroupSet m c p s)).trick = beat s.trick := by simp [parserGroupSet]

/-! ## The egress side of a frame -/

@[simp] theorem beat_rxCopy (r bs head) : beat (rxCopy r bs head s).trick = beat s.trick := by unfold rxCopy; split <;> simp
@[simp] theorem beat_putMeta (h m) : beat (putMeta h m s).trick = beat s.trick := rfl
@[simp] theorem beat_excCopy (n f head inPort whole m k outPort disp) : beat (excCopy n f head inPort whole m k outPort disp s).trick = beat s.trick := by unfold excCopy; dsimp only; (repeat' split) <;> simp
@[simp] theorem beat_egressPipe (p x d m banks) : beat (egressPipe p x d m banks s).2.2.trick = beat s.trick := by simp [egressPipe]
@[simp] theorem beat_notSent (p q outcome d st) : beat (notSent p q outcome d st s).trick = beat s.trick := by simp [notSent]

@[simp] theorem beat_launch (p q d ph ln banks) : beat (launch p q d ph ln banks s).trick = beat s.trick := by
  unfold launch
  dsimp only
  repeat' split
  all_goals simp

/-! ## The ingress side of a frame -/

@[simp] theorem beat_preciseSelect (g) : beat (preciseSelect g s).2.trick = beat s.trick := by simp [preciseSelect]

@[simp] theorem beat_mirrorCopy (p n f inTs data) : beat (mirrorCopy p n f inTs data s).trick = beat s.trick := by
  unfold mirrorCopy
  dsimp only
  split
  · simp
  split
  · simp
  next hc =>
    have h := beat_newChain hc
    split <;> simpa using h

@[simp] theorem beat_mirrorSelect (p n f inTs data) : beat (mirrorSelect p n f inTs data s).trick = beat s.trick := by unfold mirrorSelect; split <;> simp
@[simp] theorem beat_stackDrop (code v) : beat (stackDrop code v s).2.trick = beat s.trick := rfl
@[simp] theorem beat_stackResolve (p hdr v key) : beat (stackResolve p hdr v key s).2.trick = beat s.trick := by unfold stackResolve; dsimp only; (repeat' split) <;> simp
@[simp] theorem beat_admitTo (out q d lossless ect) : beat (admitTo out q d lossless ect s).2.trick = beat s.trick := by unfold admitTo; dsimp only; (repeat' split) <;> simp
@[simp] theorem beat_admitCopy (out q d lossless ect a) : beat (admitCopy out q d lossless ect a s).2.trick = beat s.trick := by unfold admitCopy; dsimp only; (repeat' split) <;> simp
@[simp] theorem beat_closeChain (head owner) : beat (closeChain head owner s).trick = beat s.trick := by unfold closeChain; split <;> simp
@[simp] theorem beat_flowStation (g m a exc) : beat (flowStation g m a exc s).trick = beat s.trick := by simp [flowStation]
@[simp] theorem beat_sampleOut (m outcome) : beat (sampleOut m outcome s).trick = beat s.trick := by simp [sampleOut]
@[simp] theorem beat_replicateEntry (g n list i j v ptp ect a) : beat (replicateEntry g n list i j v ptp ect a s).2.trick = beat s.trick := by simp [replicateEntry]

@[simp] theorem beat_replicate (g) : beat (replicate g s).trick = beat s.trick := by
  unfold replicate
  dsimp only
  repeat' split
  all_goals simp [beat_foldl_snd]

@[simp] theorem beat_disposition (g w) : beat (disposition g w s).trick = beat s.trick := by simp [disposition]

@[simp] theorem beat_station6 (g l) : beat (station6 g l s).trick = beat s.trick := by
  induction l generalizing s with
  | nil => rfl
  | cons w r ih => simp [station6, ih]

@[simp] theorem beat_reach6 (g w) : beat (reach6 g w s).trick = beat s.trick := by simp [reach6]
@[simp] theorem beat_replicateNext6 (g) : beat (replicateNext6 g s).trick = beat s.trick := by simp [replicateNext6]
@[simp] theorem beat_ingress (p head n0 x f tracked banks) : beat (ingress p head n0 x f tracked banks s).trick = beat s.trick := by simp [ingress]

/-! ## Rows of frames in the buffer -/

@[simp] theorem beat_slotIssue (p banks) : beat (slotIssue p banks s).trick = beat s.trick := by
  unfold slotIssue
  dsimp only
  split
  · rfl
  split
  · rfl
  split
  · rfl
  split
  · rfl
  next hc => simpa using beat_newChain hc

@[simp] theorem beat_rxCount (p len fcsOk big) : beat (rxCount p len fcsOk big s).trick = beat s.trick := by simp [rxCount]

@[simp] theorem beat_releaseCopies (p a len bad) : beat (releaseCopies p a len bad s).trick = beat s.trick := by
  unfold releaseCopies
  refine beat_foldl (fun _ _ => ?_) _
  split <;> simp

@[simp] theorem beat_frameLastByte (p rest fcsOk) : beat (frameLastByte p rest fcsOk s).trick = beat s.trick := by unfold frameLastByte; (repeat' split) <;> simp

/-! ## The stack engine (12) -/

@[simp] theorem beat_modStk (p f) : beat (modStk p f s).trick = beat s.trick := rfl
@[simp] theorem beat_electBoundary : beat (electBoundary s).trick = beat s.trick := rfl
@[simp] theorem beat_distBoundary : beat (distBoundary s).trick = beat s.trick := by simp [distBoundary]
@[simp] theorem beat_takeSeq : beat (takeSeq s).2.trick = beat s.trick := rfl
@[simp] theorem beat_joinBoundary (rubber) : beat (joinBoundary rubber s).trick = beat s.trick := by simp [joinBoundary]
@[simp] theorem beat_logEpisode (e) : beat (logEpisode e s).trick = beat s.trick := rfl
@[simp] theorem beat_sendEpisode (start fin pace) : beat (sendEpisode start fin pace s).trick = beat s.trick := by simp [sendEpisode]
@[simp] theorem beat_setPace (r) : beat (setPace r s).trick = beat s.trick := by unfold setPace; split <;> simp
@[simp] theorem beat_issueSync : beat (issueSync s).trick = beat s.trick := rfl
@[simp] theorem beat_issueBoundary : beat (issueBoundary s).trick = beat s.trick := by unfold issueBoundary; split <;> simp
@[simp] theorem beat_orderIssue (r n) : beat (orderIssue r n s).trick = beat s.trick := by simp [orderIssue]
@[simp] theorem beat_heartbeatBoundary : beat (heartbeatBoundary s).trick = beat s.trick := by simp [heartbeatBoundary]
@[simp] theorem beat_followSuit (p pace x) : beat (followSuit p pace x s).trick = beat s.trick := by simp [followSuit]
@[simp] theorem beat_heartbeatIn (p x h b t4) : beat (heartbeatIn p x h b t4 s).trick = beat s.trick := by simp [heartbeatIn]
@[simp] theorem beat_heartbeatFrame (p bs ts) : beat (heartbeatFrame p bs ts s).trick = beat s.trick := by unfold heartbeatFrame; split <;> simp
@[simp] theorem beat_heardBoundary : beat (heardBoundary s).trick = beat s.trick := rfl
@[simp] theorem beat_linkMiss (p) : beat (linkMiss p s).trick = beat s.trick := by unfold linkMiss; split <;> simp
@[simp] theorem beat_joinIn (src sl pl) : beat (joinIn src sl pl s).trick = beat s.trick := by simp [joinIn]
@[simp] theorem beat_controlIn (src sl body) : beat (controlIn src sl body s).trick = beat s.trick := by unfold controlIn; dsimp only; (repeat' split) <;> simp
@[simp] theorem beat_controlHere (p bs ts) : beat (controlHere p bs ts s).trick = beat s.trick := by unfold controlHere; dsimp only; (repeat' split) <;> simp
@[simp] theorem beat_controlOn (p q n bs) : beat (controlOn p q n bs s).trick = beat s.trick := by unfold controlOn; split <;> simp
@[simp] theorem beat_controlFrame (p bs ts) : beat (controlFrame p bs ts s).trick = beat s.trick := by unfold controlFrame; split <;> simp
@[simp] theorem beat_controlResend (seq) : beat (controlResend seq s).trick = beat s.trick := by unfold controlResend; (repeat' split) <;> simp
@[simp] theorem beat_controlRound : beat (controlRound s).trick = beat s.trick := by simp [controlRound]
@[simp] theorem beat_stackHand : beat (stackHand s).trick = beat s.trick := by unfold stackHand; dsimp only; (repeat' split) <;> simp

/-! ## The power manager at a boundary (16) -/

@[simp] theorem beat_emergencyStart (t) : beat (emergencyStart t s).trick = beat s.trick := by simp [emergencyStart]
@[simp] theorem beat_holdOver : beat (holdOver s).trick = beat s.trick := by simp [holdOver]
@[simp] theorem beat_emergencyStop : beat (emergencyStop s).trick = beat s.trick := by simp [emergencyStop]
@[simp] theorem beat_powerSample (i) : beat (powerSample i s).trick = beat s.trick := rfl
@[simp] theorem beat_thermalAct (temps) : beat (thermalAct temps s).trick = beat s.trick := by simp [thermalAct]
@[simp] theorem beat_absentCount : beat (absentCount s).trick = beat s.trick := by simp [absentCount]
@[simp] theorem beat_leaveSprint : beat (leaveSprint s).trick = beat s.trick := rfl
@[simp] theorem beat_clockBoundary : beat (clockBoundary s).trick = beat s.trick := by unfold clockBoundary; (repeat' split) <;> simp

@[simp] theorem beat_clockChange : beat (clockChange s).trick = beat s.trick := by
  unfold clockChange
  repeat' split
  all_goals rfl

@[simp] theorem beat_shedOctet (o) : beat (shedOctet o s).trick = beat s.trick := rfl
@[simp] theorem beat_stepDown : beat (stepDown s).trick = beat s.trick := by unfold stepDown; (repeat' split) <;> simp
@[simp] theorem beat_capTrick : beat (capTrick s).trick = beat s.trick := by simp [capTrick]
@[simp] theorem beat_stepUp : beat (stepUp s).trick = beat s.trick := by unfold stepUp; split <;> simp
@[simp] theorem beat_capAnswer (v m) : beat (capAnswer v m s).trick = beat s.trick := by unfold capAnswer; (repeat' split) <;> simp
@[simp] theorem beat_capRubber : beat (capRubber s).trick = beat s.trick := by simp [capRubber]
@[simp] theorem beat_clusterFresh (n) : beat (clusterFresh n s).trick = beat s.trick := rfl

@[simp] theorem beat_domFresh (d cur) : beat (domFresh d cur s).trick = beat s.trick := by
  have slices := beat_forAll (s := s) (f := fun g acc => modGrp g (fun x => { x with slice := {} }) acc) (fun _ _ => rfl) (List.range 32)
  simp [domFresh, slices]

@[simp] theorem beat_domStep (d) : beat (domStep d s).trick = beat s.trick := by simp [domStep]
@[simp] theorem beat_laneStep (l) : beat (laneStep l s).trick = beat s.trick := by simp [laneStep]
@[simp] theorem beat_octetStart (o) : beat (octetStart o s).trick = beat s.trick := by simp [octetStart]
@[simp] theorem beat_rampStart : beat (rampStart s).trick = beat s.trick := by simp [rampStart]
@[simp] theorem beat_ladder : beat (ladder s).trick = beat s.trick := by simp [ladder]

/-! ## Power rows and commands (16) -/

@[simp] theorem beat_execInputLimitShed : beat (after s (execInputLimitShed s)).trick = beat s.trick := by unfold execInputLimitShed; (repeat' split) <;> simp
@[simp] theorem beat_rampDone (o) : beat (rampDone o s).trick = beat s.trick := rfl
@[simp] theorem beat_domReady (d) : beat (domReady d s).trick = beat s.trick := by simp [domReady]
@[simp] theorem beat_execRungExitComplete (u) : beat (after s (execRungExitComplete u s)).trick = beat s.trick := by unfold execRungExitComplete; split <;> simp
@[simp] theorem beat_execRungEntryComplete (u) : beat (after s (execRungEntryComplete u s)).trick = beat s.trick := by unfold execRungEntryComplete; split <;> simp
@[simp] theorem beat_pwrCapSet (m c p) : beat (ansAfter (pwrCapSet m c p s)).trick = beat s.trick := by simp [pwrCapSet]
@[simp] theorem beat_pwrCapApply (p) : beat (pwrCapApply p s).trick = beat s.trick := rfl
@[simp] theorem beat_pwrShedSet (m c p) : beat (ansAfter (pwrShedSet m c p s)).trick = beat s.trick := by simp [pwrShedSet]
@[simp] theorem beat_pwrShedApply (p) : beat (pwrShedApply p s).trick = beat s.trick := rfl
@[simp] theorem beat_pwrDomainSet (p) : beat (ansAfter (pwrDomainSet p s)).trick = beat s.trick := by simp [pwrDomainSet]

/-! ## Frames that the device itself sends -/

theorem beat_ownFrame {s who r bs x} (h : ownFrame who r bs s = some x) : beat x.2.trick = beat s.trick := by
  unfold ownFrame at h
  dsimp only at h
  split at h
  · cases h
  split at h
  · cases h
  next hc =>
    have hn := beat_newChain hc
    split at h
    · cases h
      simpa using hn
    · split at h <;> cases h <;> simpa using hn

/-! ## Firmware's PTP instances (10) -/

@[simp] theorem beat_takeStamp (p tag) : beat (takeStamp p tag s).2.trick = beat s.trick := by unfold takeStamp; dsimp only; (repeat' split) <;> simp
@[simp] theorem beat_ptpAnnounce (m) : beat (ptpAnnounce m s).trick = beat s.trick := by unfold ptpAnnounce; split <;> simp
@[simp] theorem beat_ptpSync (m arrival origin corr) : beat (ptpSync m arrival origin corr s).trick = beat s.trick := by unfold ptpSync; split <;> simp
@[simp] theorem beat_ptpDelayResp (m) : beat (ptpDelayResp m s).trick = beat s.trick := by unfold ptpDelayResp; dsimp only; (repeat' split) <;> simp
@[simp] theorem beat_peerMeasured (p d) : beat (peerMeasured p d s).trick = beat s.trick := rfl
@[simp] theorem beat_ptpPdelayResp (m ts) : beat (ptpPdelayResp m ts s).trick = beat s.trick := by unfold ptpPdelayResp; dsimp only; (repeat' split) <;> simp
@[simp] theorem beat_ptpPdelayFollow (m) : beat (ptpPdelayFollow m s).trick = beat s.trick := by unfold ptpPdelayFollow; split <;> simp
@[simp] theorem beat_ptpAct (m ts) : beat (ptpAct m ts s).trick = beat s.trick := by unfold ptpAct; (repeat' split) <;> simp
@[simp] theorem beat_ptpAccept (m ts) : beat (ptpAccept m ts s).trick = beat s.trick := by simp [ptpAccept]
@[simp] theorem beat_ptpJudge (m ts) : beat (ptpJudge m ts s).trick = beat s.trick := by unfold ptpJudge; split <;> simp
@[simp] theorem beat_ptpReceive (m ts) : beat (ptpReceive m ts s).trick = beat s.trick := by unfold ptpReceive; split <;> simp
@[simp] theorem beat_ptpRetry : beat (ptpRetry s).trick = beat s.trick := by simp [ptpRetry]
@[simp] theorem beat_execPtpMessageReceive (m) : beat (after s (execPtpMessageReceive m s)).trick = beat s.trick := by unfold execPtpMessageReceive; split <;> simp
@[simp] theorem beat_ptpSigned (d msg) : beat (ptpSigned d msg s).2.trick = beat s.trick := by unfold ptpSigned; dsimp only; (repeat' split) <;> simp
@[simp] theorem beat_ptpFill (x p t y msg) : beat (ptpFill x p t y msg s).2.trick = beat s.trick := by unfold ptpFill; dsimp only; (repeat' split) <;> simp

@[simp] theorem beat_ptpSend (x p t y msg) : beat (ptpSend x p t y msg s).trick = beat s.trick := by
  unfold ptpSend
  dsimp only
  split
  next h => simpa using beat_ownFrame h
  · simp

@[simp] theorem beat_execPtpMessageTx (x p t msg) : beat (after s (execPtpMessageTx x p t msg s)).trick = beat s.trick := by unfold execPtpMessageTx; split <;> simp

/-! ## Scheduling commands (09) -/

@[simp] theorem beat_schedPortSet (m c p) : beat (ansAfter (schedPortSet m c p s)).trick = beat s.trick := by
  rw [schedPortSet, ansAfter_checks]
  repeat' split
  all_goals simp

@[simp] theorem beat_schedPortSetApply (p) : beat (schedPortSetApply p s).trick = beat s.trick := by simp [schedPortSetApply]
@[simp] theorem beat_schedQueueSet (m c p) : beat (ansAfter (schedQueueSet m c p s)).trick = beat s.trick := by simp [schedQueueSet]
@[simp] theorem beat_schedQueueSetApply (p) : beat (schedQueueSetApply p s).trick = beat s.trick := rfl
@[simp] theorem beat_shaperSet (m c q p) : beat (ansAfter (shaperSet m c q p s)).trick = beat s.trick := by simp [shaperSet]
@[simp] theorem beat_shaperSetApply (p) : beat (shaperSetApply p s).trick = beat s.trick := by simp [shaperSetApply]
@[simp] theorem beat_shaperGet (q p) : beat (ansAfter (shaperGet q p s)).trick = beat s.trick := by unfold shaperGet; split <;> simp
@[simp] theorem beat_schedStatus (q) : beat (ansAfter (schedStatus q s)).trick = beat s.trick := by unfold schedStatus; split <;> simp

/-! ## Rows of stacks (12) -/

@[simp] theorem beat_stackRx {f : Nat → List Byte → Nat → State → State} (h : ∀ p bs ts s, Kept s (f p bs ts s)) (p bs at_) :
    beat (stackRx p bs at_ f s).trick = beat s.trick := by
  unfold stackRx
  split <;> simp [(h _ _ _ _).eq]

@[simp] theorem beat_stackConfig (m c p) : beat (ansAfter (stackConfig m c p s)).trick = beat s.trick := by simp [stackConfig]
@[simp] theorem beat_stackConfigApply (p) : beat (stackConfigApply p s).trick = beat s.trick := by simp [stackConfigApply]
@[simp] theorem beat_stackLinkSet (m c q p) : beat (ansAfter (stackLinkSet m c q p s)).trick = beat s.trick := by unfold stackLinkSet; split <;> simp
@[simp] theorem beat_stackLinkSetApply (p) : beat (stackLinkSetApply p s).trick = beat s.trick := by unfold stackLinkSetApply; dsimp only; (repeat' split) <;> simp
@[simp] theorem beat_stackRouteSet (m c p) : beat (ansAfter (stackRouteSet m c p s)).trick = beat s.trick := by simp [stackRouteSet]
@[simp] theorem beat_stackRouteSetApply (p) : beat (stackRouteSetApply p s).trick = beat s.trick := rfl
@[simp] theorem beat_stackMemberSet (m c p) : beat (ansAfter (stackMemberSet m c p s)).trick = beat s.trick := by simp [stackMemberSet]
@[simp] theorem beat_stackMemberSetApply (p) : beat (stackMemberSetApply p s).trick = beat s.trick := rfl
@[simp] theorem beat_stackStatus : beat (ansAfter (stackStatus s)).trick = beat s.trick := rfl
@[simp] theorem beat_stackLinkStatus (q) : beat (ansAfter (stackLinkStatus q s)).trick = beat s.trick := by unfold stackLinkStatus; split <;> simp
@[simp] theorem beat_stackEpisodes (p) : beat (ansAfter (stackEpisodes p s)).trick = beat s.trick := by simp [stackEpisodes]

/-! ## Telemetry commands (11) -/

@[simp] theorem beat_areaStart (was on base) : beat (areaStart was on base s).trick = beat s.trick := by simp [areaStart]
@[simp] theorem beat_telemMemSetApply (p) : beat (telemMemSetApply p s).trick = beat s.trick := by simp [telemMemSetApply]
@[simp] theorem beat_telemMemSet (m c p) : beat (ansAfter (telemMemSet m c p s)).trick = beat s.trick := by simp [telemMemSet]
@[simp] theorem beat_flowGlobalSet (m c p) : beat (ansAfter (flowGlobalSet m c p s)).trick = beat s.trick := by simp [flowGlobalSet]
@[simp] theorem beat_flowGlobalSetApply (p) : beat (flowGlobalSetApply p s).trick = beat s.trick := rfl
@[simp] theorem beat_flowProfileSet (m c p) : beat (ansAfter (flowProfileSet m c p s)).trick = beat s.trick := by simp [flowProfileSet]
@[simp] theorem beat_flowProfileSetApply (p) : beat (flowProfileSetApply p s).trick = beat s.trick := rfl
@[simp] theorem beat_dumpSet (p) : beat (ansAfter (dumpSet p s)).trick = beat s.trick := by simp [dumpSet]
@[simp] theorem beat_watchSet (m c p) : beat (ansAfter (watchSet m c p s)).trick = beat s.trick := by unfold watchSet; split <;> simp
@[simp] theorem beat_watchSetApply (p) : beat (watchSetApply p s).trick = beat s.trick := rfl
@[simp] theorem beat_sampleSet (m c p) : beat (ansAfter (sampleSet m c p s)).trick = beat s.trick := by simp [sampleSet]
@[simp] theorem beat_sampleSetApply (p) : beat (sampleSetApply p s).trick = beat s.trick := by simp [sampleSetApply]
@[simp] theorem beat_ioamSet (m c q p) : beat (ansAfter (ioamSet m c q p s)).trick = beat s.trick := by simp [ioamSet]
@[simp] theorem beat_ioamSetApply (p) : beat (ioamSetApply p s).trick = beat s.trick := by simp [ioamSetApply]

/-! ## Time commands (10) -/

@[simp] theorem beat_timeSet (m c p) : beat (ansAfter (timeSet m c p s)).trick = beat s.trick := by simp [timeSet]
@[simp] theorem beat_timeSetApply (m p) : beat (timeSetApply m p s).trick = beat s.trick := by simp [timeSetApply]

@[simp] theorem beat_timePortSet (m c q p) : beat (ansAfter (timePortSet m c q p s)).trick = beat s.trick := by
  rw [timePortSet, ansAfter_checks]
  repeat' split
  all_goals simp

@[simp] theorem beat_timePortSetApply (p) : beat (timePortSetApply p s).trick = beat s.trick := rfl
@[simp] theorem beat_timeDomainSet (m c p) : beat (ansAfter (timeDomainSet m c p s)).trick = beat s.trick := by simp [timeDomainSet]
@[simp] theorem beat_timeDomainSetApply (p) : beat (timeDomainSetApply p s).trick = beat s.trick := rfl
@[simp] theorem beat_timeGlobalSet (m c p) : beat (ansAfter (timeGlobalSet m c p s)).trick = beat s.trick := by simp [timeGlobalSet]
@[simp] theorem beat_timeGlobalSetApply (p) : beat (timeGlobalSetApply p s).trick = beat s.trick := rfl
@[simp] theorem beat_timeSelect (m c p) : beat (ansAfter (timeSelect m c p s)).trick = beat s.trick := by simp [timeSelect]
@[simp] theorem beat_timeSelectApply (p) : beat (timeSelectApply p s).trick = beat s.trick := by simp [timeSelectApply]
@[simp] theorem beat_timeStatus (q) : beat (ansAfter (timeStatus q s)).trick = beat s.trick := by unfold timeStatus; (repeat' split) <;> simp
@[simp] theorem beat_timeMasterListSet (m c p) : beat (ansAfter (timeMasterListSet m c p s)).trick = beat s.trick := by simp [timeMasterListSet]
@[simp] theorem beat_timeMasterListSetApply (p) : beat (timeMasterListSetApply p s).trick = beat s.trick := rfl
@[simp] theorem beat_timeAuthSet (m c p) : beat (ansAfter (timeAuthSet m c p s)).trick = beat s.trick := by simp [timeAuthSet]
@[simp] theorem beat_timeAuthSetApply (p) : beat (timeAuthSetApply p s).trick = beat s.trick := rfl

/-! ## The jobs of a boundary (02) -/

@[simp] theorem beat_runTrick (rate n) : beat (runTrick rate n s).trick = beat s.trick := by simp [runTrick]
@[simp] theorem beat_trickIrq (on) : beat (trickIrq on s).trick = beat s.trick := by simp [trickIrq]
@[simp] theorem beat_markTrick (gen) : beat (markTrick gen s).trick = beat s.trick := rfl

@[simp] theorem beat_stepGen : beat (stepGen s).trick = beat s.trick := by
  unfold stepGen
  split
  · rfl
  split
  · rw [beat_trickIrq]
    rfl
  · rfl

@[simp] theorem beat_lateJobs (l) : beat (lateJobs l s).trick = beat s.trick := by
  refine Eq.trans (beat_forAll (fun _ _ => ?_) _) rfl
  rw [kept_iff, beat_fault, beat_ev]
  rfl

theorem beat_setting : ∀ e ∈ settings, ∀ m p s, beat (e.2 m p s).trick = beat s.trick := by
  simp [settings]

@[simp] theorem beat_settle1 (d) : beat (settle1 d s).trick = beat s.trick := by
  unfold settle1
  split
  next h => exact beat_setting _ (List.mem_of_find?_eq_some h) _ _ _
  · rfl

@[simp] theorem beat_settingsApply : beat (settingsApply s).trick = beat s.trick := by simp [settingsApply]
@[simp] theorem beat_perturbApply : beat (perturbApply s).trick = beat s.trick := rfl
@[simp] theorem beat_boundaryAnswer (m) : beat (boundaryAnswer m s).trick = beat s.trick := by unfold boundaryAnswer; (repeat' split) <;> simp
@[simp] theorem beat_timeBoundary : beat (timeBoundary s).trick = beat s.trick := by simp [timeBoundary]

@[simp] theorem beat_fecCount (l) : beat (fecCount l s).trick = beat s.trick := by
  unfold fecCount
  refine beat_foldl (fun _ _ => ?_) _
  split <;> rfl

@[simp] theorem beat_fecHand : beat (fecHand s).trick = beat s.trick := by simp [fecHand]
@[simp] theorem beat_pauseTick (p x) : beat (pauseTick p x s).trick = beat s.trick := by simp [pauseTick]
@[simp] theorem beat_holdTick (p) : beat (holdTick p s).trick = beat s.trick := by unfold holdTick; split <;> simp
@[simp] theorem beat_portRubber (p x) : beat (portRubber p x s).trick = beat s.trick := by simp [portRubber]
@[simp] theorem beat_portTick (rubber p) : beat (portTick rubber p s).trick = beat s.trick := by unfold portTick; split <;> simp
@[simp] theorem beat_shaperRefill : beat (shaperRefill s).trick = beat s.trick := rfl
@[simp] theorem beat_fixedTick : beat (fixedTick s).trick = beat s.trick := rfl
@[simp] theorem beat_powerTick (rubber) : beat (powerTick rubber s).trick = beat s.trick := by simp [powerTick]
@[simp] theorem beat_dumpTick : beat (dumpTick s).trick = beat s.trick := by simp [dumpTick]
@[simp] theorem beat_consRead : beat (consRead s).trick = beat s.trick := rfl
@[simp] theorem beat_telemTick (hand) : beat (telemTick hand s).trick = beat s.trick := by simp [telemTick]
@[simp] theorem beat_stackTick (hand rubber) : beat (stackTick hand rubber s).trick = beat s.trick := by simp [stackTick]
@[simp] theorem beat_dmaHand : beat (dmaHand s).trick = beat s.trick := rfl
@[simp] theorem beat_mailboxAge : beat (mailboxAge s).trick = beat s.trick := rfl
@[simp] theorem beat_ciphTick : beat (ciphTick s).trick = beat s.trick := by simp [ciphTick]
@[simp] theorem beat_handTick : beat (handTick s).trick = beat s.trick := by simp [handTick]
@[simp] theorem beat_rubberTick : beat (rubberTick s).trick = beat s.trick := by simp [rubberTick]

@[simp] theorem beat_linkCounts (i) : beat (linkCounts i s).trick = beat s.trick := by
  unfold linkCounts
  refine (beat_foldl (fun _ _ => ?_) _).trans (beat_foldl (fun _ _ => ?_) _)
  · split <;> simp
  · simp

@[simp] theorem beat_cycleZero (i) : beat (cycleZero i s).trick = beat s.trick := by simp [cycleZero]

/-! ## The MAC engine (13) -/

@[simp] theorem beat_asHolder {f : State → State} (h : ∀ s, Kept s (f s)) (who a) :
    beat (asHolder who a f s).trick = beat s.trick := by simp [asHolder, (h _).eq]

@[simp] theorem beat_ciphTake (who) : beat (ciphTake who s).trick = beat s.trick := by simp [ciphTake]
@[simp] theorem beat_ciphRelease (who) : beat (ciphRelease who s).trick = beat s.trick := by simp [ciphRelease]

@[simp] theorem beat_lockWrite {f : State → State} (h : ∀ s, Kept s (f s)) (who) :
    beat (lockWrite who f s).trick = beat s.trick := by simp [lockWrite, (h _).eq]

@[simp] theorem beat_ciphStart (who) : beat (ciphStart who s).trick = beat s.trick := by unfold ciphStart; dsimp only; (repeat' split) <;> simp
@[simp] theorem beat_ciphCtl (who v) : beat (ciphCtl who v s).trick = beat s.trick := by simp [ciphCtl]
@[simp] theorem beat_ciphKeyLoad (who slot) : beat (ciphKeyLoad who slot s).trick = beat s.trick := by simp [ciphKeyLoad]
@[simp] theorem beat_ciphKeyClear (who slot) : beat (ciphKeyClear who slot s).trick = beat s.trick := by simp [ciphKeyClear]

/-! ## Host rings (14) -/

@[simp] theorem beat_sqComplete (r bs) : beat (sqComplete r bs s).trick = beat s.trick := by simp [sqComplete]
@[simp] theorem beat_sqSettle (r) : beat (sqSettle r s).trick = beat s.trick := rfl
@[simp] theorem beat_sqFinish (r i slots h st detail p trick) : beat (sqFinish r i slots h st detail p trick s).trick = beat s.trick := by simp [sqFinish]
@[simp] theorem beat_sqHalt (r i h st) : beat (sqHalt r i h st s).trick = beat s.trick := by simp [sqHalt]

@[simp] theorem beat_sqSend (r i slots h frame again) : beat (sqSend r i slots h frame again s).trick = beat s.trick := by
  unfold sqSend
  dsimp only
  split
  next hf => simpa using beat_ownFrame hf
  next hf => simpa using beat_ownFrame hf
  · simp

@[simp] theorem beat_sqEntry (err r) : beat (sqEntry err r s).trick = beat s.trick := by unfold sqEntry; dsimp only; (repeat' split) <;> simp

@[simp] theorem beat_sqScan (err r fuel) : beat (sqScan err r fuel s).trick = beat s.trick := by
  induction fuel generalizing s with
  | zero => rfl
  | succ n ih => simp [sqScan, ih]

@[simp] theorem beat_sqRun (err r) : beat (sqRun err r s).trick = beat s.trick := by simp [sqRun]
@[simp] theorem beat_sqResume (r) : beat (sqResume r s).trick = beat s.trick := by simp [sqResume]
@[simp] theorem beat_execSqStakeWaitEnd (r) : beat (after s (execSqStakeWaitEnd r s)).trick = beat s.trick := by unfold execSqStakeWaitEnd; split <;> simp
@[simp] theorem beat_rxDropHold (r) : beat (rxDropHold r s).trick = beat s.trick := by simp [rxDropHold]
@[simp] theorem beat_ringOff (r) : beat (ringOff r s).trick = beat s.trick := by unfold ringOff; dsimp only; (repeat' split) <;> simp
@[simp] theorem beat_ringOn (r) : beat (ringOn r s).trick = beat s.trick := rfl
@[simp] theorem beat_ringCfgWrite (r v) : beat (ringCfgWrite r v s).trick = beat s.trick := by simp [ringCfgWrite]
@[simp] theorem beat_ringHostIdx (r v) : beat (ringHostIdx r v s).trick = beat s.trick := by simp [ringHostIdx]

@[simp] theorem beat_cqDrain (r fuel) : beat (cqDrain r fuel s).trick = beat s.trick := by
  induction fuel generalizing s with
  | zero => rfl
  | succ n ih =>
    unfold cqDrain
    dsimp only
    split <;> simp [ih]

@[simp] theorem beat_cqServe (r fuel) : beat (cqServe r fuel s).2.trick = beat s.trick := by
  induction fuel generalizing s with
  | zero => rfl
  | succ n ih =>
    unfold cqServe
    dsimp only
    repeat' split
    all_goals simp [ih]

@[simp] theorem beat_cqWake (r) : beat (cqWake r s).trick = beat s.trick := by simp [cqWake]

@[simp] theorem beat_rxDrain (r fuel) : beat (rxDrain r fuel s).trick = beat s.trick := by
  induction fuel generalizing s with
  | zero => rfl
  | succ n ih =>
    unfold rxDrain
    dsimp only
    repeat' split
    all_goals simp [ih]

@[simp] theorem beat_unmaskVec (v) : beat (unmaskVec v s).trick = beat s.trick := rfl

/-! ## DMA channels (15) -/

@[simp] theorem beat_tabLineWrite (k a bs) : beat (tabLineWrite k a bs s).trick = beat s.trick := by
  unfold tabLineWrite
  dsimp only
  split
  · simp
  split
  · exact beat_forAll (fun _ _ => by rfl) _
  · exact beat_forAll (fun _ _ => by rfl) _

@[simp] theorem beat_spaceWrite (k sp a bs) : beat (spaceWrite k sp a bs s).trick = beat s.trick := by unfold spaceWrite; split <;> simp
@[simp] theorem beat_wrote (k) : beat (wrote k s).trick = beat s.trick := by simp [wrote]

@[simp] theorem beat_dmaFlush (k fuel) : beat (dmaFlush k fuel s).trick = beat s.trick := by
  have h : OnlyRings s (dmaFlush k fuel s) := dmaFlush_frame k fuel s
  rw [h]

@[simp] theorem beat_dmaDue (k l ends) : beat (dmaDue k l ends s).trick = beat s.trick := by simp [dmaDue]
@[simp] theorem beat_dmaFail (k st i) : beat (dmaFail k st i s).trick = beat s.trick := by simp [dmaFail]
@[simp] theorem beat_dmaPc (k pc) : beat (dmaPc k pc s).trick = beat s.trick := rfl
@[simp] theorem beat_dmaNext (k) : beat (dmaNext k s).trick = beat s.trick := rfl
@[simp] theorem beat_dmaCount (k n) : beat (dmaCount k n s).trick = beat s.trick := rfl
@[simp] theorem beat_dmaStop (k i line isSrc before) : beat (dmaStop k i line isSrc before s).trick = beat s.trick := by simp [dmaStop]
@[simp] theorem beat_dmaCopy (k i) : beat (dmaCopy k i s).trick = beat s.trick := by simp [dmaCopy]
@[simp] theorem beat_dmaCopyPart (k i line isSrc) : beat (dmaCopyPart k i line isSrc s).trick = beat s.trick := by simp [dmaCopyPart]
@[simp] theorem beat_dmaCompare (k i e) : beat (dmaCompare k i e s).trick = beat s.trick := by unfold dmaCompare; dsimp only; (repeat' split) <;> simp
@[simp] theorem beat_dmaDataRun (k i err) : beat (dmaDataRun k i err s).trick = beat s.trick := by unfold dmaDataRun; dsimp only; (repeat' split) <;> simp
@[simp] theorem beat_dmaEndRun (k i) : beat (dmaEndRun k i s).trick = beat s.trick := by simp [dmaEndRun]
@[simp] theorem beat_dmaLoopRun (k i) : beat (dmaLoopRun k i s).trick = beat s.trick := by simp [dmaLoopRun]

theorem beat_dmaWaitMet {s k w t} (h : dmaWaitMet k w s = some t) : beat t.trick = beat s.trick := by
  unfold dmaWaitMet at h
  split at h
  case h_2 => cases h
  all_goals
    split at h <;> cases h
    rfl

@[simp] theorem beat_dmaWaitRun (k i) : beat (dmaWaitRun k i s).trick = beat s.trick := by
  unfold dmaWaitRun
  dsimp only
  split
  next h => simpa using beat_dmaWaitMet h
  · rfl

@[simp] theorem beat_dmaSignalRun (k i) : beat (dmaSignalRun k i s).trick = beat s.trick := by simp [dmaSignalRun]
@[simp] theorem beat_dmaDo (k i err) : beat (dmaDo k i err s).trick = beat s.trick := by unfold dmaDo; (repeat' split) <;> simp
@[simp] theorem beat_dmaRow (k opc err) : beat (dmaRow k opc err s).trick = beat s.trick := by unfold dmaRow; (repeat' split) <;> simp

@[simp] theorem beat_asChanHost {f : State → State} (h : ∀ s, Kept s (f s)) (k off) :
    beat (asChanHost k off f s).trick = beat s.trick := by simp [asChanHost, (h _).eq]

@[simp] theorem beat_dmaStart (k) : beat (dmaStart k s).trick = beat s.trick := by simp [dmaStart]
@[simp] theorem beat_dmaAbort (k) : beat (dmaAbort k s).trick = beat s.trick := by simp [dmaAbort]
@[simp] theorem beat_dmaDoorbell (k) : beat (dmaDoorbell k s).trick = beat s.trick := by unfold dmaDoorbell; (repeat' split) <;> simp

@[simp] theorem beat_execDmaWaitEnd (k) : beat (after s (execDmaWaitEnd k s)).trick = beat s.trick := by
  unfold execDmaWaitEnd
  rw [after_next]
  dsimp only
  split
  · split
    · rfl
    split
    next h => simpa using beat_dmaWaitMet h
    · rfl
  · rfl

/-! ## Rows of pause (09) -/

@[simp] theorem beat_macRx (p) : beat (macRx p s).trick = beat s.trick := rfl
@[simp] theorem beat_loadPause (p i time) : beat (loadPause p i time s).trick = beat s.trick := rfl
@[simp] theorem beat_pfcIn (p x vec times) : beat (pfcIn p x vec times s).trick = beat s.trick := by simp [pfcIn]
@[simp] theorem beat_pauseIn (p x time) : beat (pauseIn p x time s).trick = beat s.trick := by simp [pauseIn]
@[simp] theorem beat_execPfcReceive (p vec times) : beat (after s (execPfcReceive p vec times s)).trick = beat s.trick := by unfold execPfcReceive; split <;> simp
@[simp] theorem beat_execPauseReceive (p time) : beat (after s (execPauseReceive p time s)).trick = beat s.trick := by unfold execPauseReceive; split <;> simp
@[simp] theorem beat_execPauseTimerExpiry (p i) : beat (after s (execPauseTimerExpiry p i s)).trick = beat s.trick := by unfold execPauseTimerExpiry; split <;> simp
@[simp] theorem beat_execPfcRefresh (p i) : beat (after s (execPfcRefresh p i s)).trick = beat s.trick := by unfold execPfcRefresh; split <;> simp
@[simp] theorem beat_execQueueHoldExpiry (p) : beat (after s (execQueueHoldExpiry p s)).trick = beat s.trick := by unfold execQueueHoldExpiry; (repeat' split) <;> simp

/-! ## Frames received (01) -/

@[simp] theorem beat_stage (p x f) : beat (stage p x f s).trick = beat s.trick := by simp [stage]
@[simp] theorem beat_macControlIn (p x bs) : beat (macControlIn p x bs s).trick = beat s.trick := by unfold macControlIn; split <;> simp
@[simp] theorem beat_wholeFrame (p x hdr data fcsOk ts) : beat (wholeFrame p x hdr data fcsOk ts s).trick = beat s.trick := by simp [wholeFrame]
@[simp] theorem beat_hold (p data ts) : beat (hold p data ts s).trick = beat s.trick := rfl
@[simp] theorem beat_partFrame (p x hdr data len ts) : beat (partFrame p x hdr data len ts s).trick = beat s.trick := by simp [partFrame]
@[simp] theorem beat_stackWhole (p x data fcsOk ts) : beat (stackWhole p x data fcsOk ts s).trick = beat s.trick := by unfold stackWhole; dsimp only; (repeat' split) <;> simp
@[simp] theorem beat_frameIn (p x data len last fcsOk ts) : beat (frameIn p x data len last fcsOk ts s).trick = beat s.trick := by simp [frameIn]
@[simp] theorem beat_execFrameReceive (p len data last fcsOk at_) : beat (after s (execFrameReceive p len data last fcsOk at_ s)).trick = beat s.trick := by unfold execFrameReceive; split <;> simp
@[simp] theorem beat_execFrameLastByte (p rest fcsOk) : beat (after s (execFrameLastByte p rest fcsOk s)).trick = beat s.trick := by unfold execFrameLastByte; (repeat' split) <;> simp

/-! ## Rows of mailboxes (13) -/

@[simp] theorem beat_mbStore (m off data) : beat (mbStore m off data s).trick = beat s.trick := by unfold mbStore; dsimp only; (repeat' split) <;> simp
@[simp] theorem beat_mbRing (m) : beat (mbRing m s).trick = beat s.trick := by unfold mbRing; dsimp only; (repeat' split) <;> simp
@[simp] theorem beat_mbStop (m) : beat (mbStop m s).trick = beat s.trick := by unfold mbStop; dsimp only; (repeat' split) <;> simp

@[simp] theorem beat_asOwner {f : State → State} (h : ∀ s, Kept s (f s)) (who m off) :
    beat (asOwner who m off s f).trick = beat s.trick := by simp [asOwner, (h _).eq]

@[simp] theorem beat_execCommandComplete (m) : beat (after s (execCommandComplete m s)).trick = beat s.trick := by unfold execCommandComplete; split <;> simp

/-! ## Registers (00, 14) -/

@[simp] theorem beat_readTimeNow (who hi off n ph) : beat (readTimeNow who hi off n ph s).2.trick = beat s.trick := by simp [readTimeNow]
@[simp] theorem beat_readTsqLo (who off n) : beat (readTsqLo who off n s).2.trick = beat s.trick := rfl
@[simp] theorem beat_readTsqHi (who off n) : beat (readTsqHi who off n s).2.trick = beat s.trick := rfl
@[simp] theorem beat_readCap (who k off n) : beat (readCap who k off n s).2.trick = beat s.trick := rfl
@[simp] theorem beat_readCapX (who k) : beat (readCapX who k s).2.trick = beat s.trick := rfl

@[simp] theorem beat_clearRead (a off n) : beat (clearRead a off n s).trick = beat s.trick := by
  unfold clearRead
  dsimp only
  repeat' split
  all_goals rfl

theorem Kept.snd_ite {s : State} {α : Type} {c : Prop} [Decidable c] {a b : α × State} (ha : Kept s a.2) (hb : Kept s b.2) :
    Kept s (if c then a else b).2 := by
  split
  · exact ha
  · exact hb

@[simp] theorem beat_readReg (who a off n ph) : beat (readReg who a off n ph s).2.trick = beat s.trick :=
  Kept.snd_ite (beat_readTimeNow ..) <| .snd_ite (beat_readTimeNow ..) <| .snd_ite (beat_readTsqLo ..) <| .snd_ite (beat_readTsqHi ..) <|
    .snd_ite (beat_readCap ..) <| .snd_ite (beat_readCapX ..) <| .snd_ite rfl <| .snd_ite rfl <| .snd_ite rfl <| beat_clearRead ..

@[simp] theorem beat_readPart (who a n ph) : beat (readPart who a n ph s).2.trick = beat s.trick := by unfold readPart; (repeat' split) <;> simp
@[simp] theorem beat_regRead (who addr width ph) : beat (regRead who addr width ph s).2.trick = beat s.trick := by simp [regRead]
@[simp] theorem beat_busRead (who addr width ph) : beat (busRead who addr width ph s).trick = beat s.trick := by simp [busRead]
@[simp] theorem beat_identPut (a off v m) : beat (identPut a off v m s).trick = beat s.trick := by unfold identPut; (repeat' split) <;> simp
@[simp] theorem beat_mbPut (who k o off n v m) : beat (mbPut who k o off n v m s).trick = beat s.trick := by unfold mbPut; (repeat' split) <;> simp
@[simp] theorem beat_pinCtl (k v m) : beat (pinCtl k v m s).trick = beat s.trick := by simp [pinCtl]
@[simp] theorem beat_pinPut (k o v m) : beat (pinPut k o v m s).trick = beat s.trick := by unfold pinPut; split <;> simp
@[simp] theorem beat_timeSample (d off n v) : beat (timeSample d off n v s).trick = beat s.trick := by simp [timeSample]
@[simp] theorem beat_timePut (o off n v m) : beat (timePut o off n v m s).trick = beat s.trick := by unfold timePut; (repeat' split) <;> simp
@[simp] theorem beat_fixedFreq (on) : beat (fixedFreq on s).trick = beat s.trick := rfl

@[simp] theorem beat_trickPut (o v m) : beat (trickPut o v m s).trick = beat s.trick := by
  unfold trickPut
  split <;> rfl

@[simp] theorem beat_fltPut (o v m) : beat (fltPut o v m s).trick = beat s.trick := by simp [fltPut]
@[simp] theorem beat_pwrPut (o v m) : beat (pwrPut o v m s).trick = beat s.trick := by unfold pwrPut; split <;> simp
@[simp] theorem beat_ciphLock (who x) : beat (ciphLock who x s).trick = beat s.trick := by simp [ciphLock]
@[simp] theorem beat_ciphPut (who o off v m) : beat (ciphPut who o off v m s).trick = beat s.trick := by unfold ciphPut; (repeat' split) <;> simp

@[simp] theorem beat_asChan {f : State → State} (h : ∀ s, Kept s (f s)) (who k off) :
    beat (asChan who k off f s).trick = beat s.trick := by simp [asChan, (h _).eq]

@[simp] theorem beat_chanPut (who k o off v m) : beat (chanPut who k o off v m s).trick = beat s.trick := by unfold chanPut; split <;> simp
@[simp] theorem beat_ringPut (r o off v m) : beat (ringPut r o off v m s).trick = beat s.trick := by unfold ringPut; split <;> simp
@[simp] theorem beat_winCtl (w v m) : beat (winCtl w v m s).trick = beat s.trick := by simp [winCtl]
@[simp] theorem beat_winSend (w b v) : beat (winSend w b v s).trick = beat s.trick := by simp [winSend]
@[simp] theorem beat_winPut (a n v) : beat (winPut a n v s).trick = beat s.trick := by simp [winPut]
@[simp] theorem beat_perturbPut (o off v m) : beat (perturbPut o off v m s).trick = beat s.trick := by unfold perturbPut; (repeat' split) <;> simp
@[simp] theorem beat_writeReg (who a off n v) : beat (writeReg who a off n v s).trick = beat s.trick := by simp [writeReg]
@[simp] theorem beat_writePart (who a n v) : beat (writePart who a n v s).trick = beat s.trick := by unfold writePart; (repeat' split) <;> simp
@[simp] theorem beat_regWrite (who addr width v) : beat (regWrite who addr width v s).trick = beat s.trick := by simp [regWrite]
@[simp] theorem beat_busWrite (who addr width v) : beat (busWrite who addr width v s).trick = beat s.trick := by simp [busWrite]

/-! ## The I3C target (19) -/

@[simp] theorem beat_i3cBarRead (a n ph) : beat (i3cBarRead a n ph s).2.trick = beat s.trick := by simp [i3cBarRead]
@[simp] theorem beat_i3cRead (o n ph) : beat (i3cRead o n ph s).2.trick = beat s.trick := by simp [i3cRead]
@[simp] theorem beat_i3cWrite (o bs) : beat (i3cWrite o bs s).trick = beat s.trick := by simp [i3cWrite]
@[simp] theorem beat_i3cMove (o) : beat (i3cMove o s).trick = beat s.trick := rfl
@[simp] theorem beat_cccAck (bs) : beat (cccAck bs s).trick = beat s.trick := rfl
@[simp] theorem beat_cccNack : beat (cccNack s).trick = beat s.trick := rfl

@[simp] theorem beat_cccDirect {f : State → State} (h : ∀ s, Kept s (f s)) :
    beat (cccDirect f s).trick = beat s.trick := by simp [cccDirect, (h _).eq]

@[simp] theorem beat_cccDo (code arg) : beat (cccDo code arg s).trick = beat s.trick := by unfold cccDo; split <;> simp
@[simp] theorem beat_scanTo (j dr) : beat (scanTo j dr s).trick = beat s.trick := by simp [scanTo]

/-! ## The scheduler of a port (09) -/

@[simp] theorem beat_stackOut (p ts bs) : beat (stackOut p ts bs s).2.trick = beat s.trick := by simp [stackOut]

theorem beat_rankOne {s p ph ln x t} (h : rankOne p ph ln x s = some t) : beat t.trick = beat s.trick := by
  unfold rankOne at h
  split at h
  · cases h
    simp
  split at h
  · cases h
  · cases h
    simp

@[simp] theorem beat_selectHead (p q ph ln banks) : beat (selectHead p q ph ln banks s).trick = beat s.trick := by unfold selectHead; (repeat' split) <;> simp

@[simp] theorem beat_execSchedulerSelect (p at_ banks) : beat (after s (execSchedulerSelect p at_ banks s)).trick = beat s.trick := by
  unfold execSchedulerSelect
  rw [after_next]
  split
  · split
    · rfl
    split
    next h => exact beat_rankOne h
    · split <;> simp
  · rfl

@[simp] theorem beat_watchSent (p f) : beat (watchSent p f s).trick = beat s.trick := by unfold watchSent; split <;> simp
@[simp] theorem beat_sentEnd (p f) : beat (sentEnd p f s).trick = beat s.trick := by simp [sentEnd]
@[simp] theorem beat_execTransmitEnd (p) : beat (after s (execTransmitEnd p s)).trick = beat s.trick := by unfold execTransmitEnd; (repeat' split) <;> simp

/-! ## Events of the time unit (10) -/

@[simp] theorem beat_lossSelect (x) : beat (lossSelect x s).trick = beat s.trick := by simp [lossSelect]
@[simp] theorem beat_srcLost (x) : beat (srcLost x s).trick = beat s.trick := by simp [srcLost]
@[simp] theorem beat_pinEdge (n rising ph narrow) : beat (pinEdge n rising ph narrow s).trick = beat s.trick := by simp [pinEdge]

end

end Sys2Proof.Proofs
end

/-! PROOFS. The trick boundary (02 R44, R45): the count, index and length that an emitted boundary sets, that they stand to its end, and that no other row changes the count. -/

section
namespace Sys2Proof.Proofs

open Sys2Proof Sys2Proof.Machine Sys2Proof.Laws

/-! ## The emitted boundary -/

section
variable {s t : State}

theorem Kept.count (h : Kept s t) : t.trick.count = s.trick.count := congrArg (fun b => b.1) h
theorem Kept.index (h : Kept s t) : t.trick.index = s.trick.index := congrArg (fun b => b.2.1) h
theorem Kept.lenLast (h : Kept s t) : t.trick.lenLast = s.trick.lenLast := congrArg (fun b => b.2.2) h

end

/-- An emitted boundary takes its index from device time and leaves count and length as the trick's end set them (02 R44). -/
theorem beat_emit (clamped : Bool) (s : State) :
    beat (emit clamped s).trick = (s.trick.count, BitVec.ofNat 64 ((tNs s + 512) / 1024), s.trick.lenLast) := by
  unfold emit
  rw [beat_trickIrq]
  rfl

/-- The end of a trick raises the count by one (02 R45); what comes before it and the emission after it leave the count alone. -/
theorem closeTrick_count (i : TrickIn) (s : State) : (closeTrick i s).trick.count = s.trick.count + 1 := by
  have before {n : Nat} : Kept s (runTrick i.rate n (watchCycles n i.passed (linkCounts i (rowsCorrected i.corrected (fecCount i.fec s))))) := by simp
  exact (congrArg (fun b => b.1) (beat_emit ..)).trans (congrArg (· + 1) before.count)

theorem closeTrick_lenLast (i : TrickIn) (s : State) :
    (closeTrick i s).trick.lenLast = (((trickPlan s i.rate).1 : Int) + (jitter s).2).toNat :=
  congrArg (fun b => b.2.2) (beat_emit ..)

/-! ## The device turns itself off -/

/-- What a boundary sets is kept, or the device has turned off. -/
def KeptOrOff (s t : State) : Prop := t.boot.phase = .off ∨ Kept s t

theorem KeptOrOff.kept {s t : State} (h : KeptOrOff s t) (hon : t.boot.phase ≠ .off) : Kept s t := h.resolve_left hon

/-- Without a sensor at the temperature of the thermal trip the sample keeps the device on (16 Table 16.5). -/
theorem kept_sampleTick {i : TrickIn} (h : ∀ t ∈ i.temps, t < 2000) (s : State) : Kept s (sampleTick i s) := by
  have cool : i.temps.any (fun t => decide (2000 ≤ t)) = false := by simpa using h
  simp [sampleTick, cool]

theorem keptOrOff_sampleTick (i : TrickIn) (s : State) : KeptOrOff s (sampleTick i s) := by
  by_cases h : ∀ t ∈ i.temps, t < 2000
  · exact .inr (kept_sampleTick h s)
  · have hot : i.temps.any (fun t => decide (2000 ≤ t)) = true := by simpa using h
    exact .inl (by rw [sampleTick, if_pos hot]; rfl)

theorem keptOrOff_execThermalTrip (tj : Int) (s : State) : KeptOrOff s (after s (execThermalTrip tj s)) := by
  rw [execThermalTrip, after_next]
  split
  · exact .inl rfl
  · exact .inr rfl

theorem keptOrOff_execVinLoss (vin : Nat) (s : State) : KeptOrOff s (after s (execVinLoss vin s)) := by
  rw [execVinLoss, after_next]
  split
  · exact .inl rfl
  · exact .inr rfl

/-! ## The whole boundary -/

/-- The jobs of a trick end with its sample, and what comes before keeps what the boundary set. -/
theorem trickJobs_sample (hand rubber : Bool) (i : TrickIn) (s : State) : ∃ u, Kept s u ∧ trickJobs hand rubber i s = sampleTick i u := by
  refine ⟨_, ?_, rfl⟩
  simp

/-- A boundary closes the trick and ends with the sample of the next, and what lies between keeps what the boundary set. -/
theorem boundary_sample (i : TrickIn) (s : State) : ∃ u, Kept (closeTrick i s) u ∧ boundary i s = sampleTick i u := by
  unfold boundary
  extract_lets s1 hand rubber s2
  obtain ⟨u, hu, he⟩ := trickJobs_sample hand rubber i (cycleZero i s2)
  have opened : Kept s1 (cycleZero i s2) := by simp [s2]
  exact ⟨u, opened.trans hu, he⟩

theorem exec_trickBoundary (i : TrickIn) (s : State) : exec (.trickBoundary i) s = .next (if powered s then boundary i s else s) := rfl

/-- Settles O48: what the closed trick emits stands to the end of the boundary, because no sensor is hot enough to turn the device off. -/
theorem trickBoundaryComplete : Obligations.TrickBoundaryComplete := by
  refine ⟨?powered, ?unpowered⟩
  case powered =>
    intro i s hp hcool
    obtain ⟨u, hu, he⟩ := boundary_sample i s
    have kept : Kept (closeTrick i s) (boundary i s) := he ▸ hu.trans (kept_sampleTick hcool u)
    refine ⟨boundary i s, ?_, kept.count.trans (closeTrick_count i s), kept.index, kept.lenLast.trans (closeTrick_lenLast i s)⟩
    rw [exec_trickBoundary, if_pos hp]
  case unpowered =>
    intro i s hp
    rw [exec_trickBoundary, if_neg (by simp [hp])]

/-! ## Every other command -/

/-- A command other than TRICK_BOUNDARY keeps what a boundary sets, unless it turns the device off: the cases are the rows of the table of operations. -/
theorem keptOrOff_exec {c : Instr} (hc : ∀ i, c ≠ .trickBoundary i) (s : State) : KeptOrOff s (after s (exec c s)) := by
  unfold exec
  cases c with
  | trickBoundary i => exact absurd rfl (hc i)
  | sprintClockChange => exact .inr (by simp [execSprintClockChange])
  | frameReceive => exact .inr (beat_execFrameReceive ..)
  | pfcReceive => exact .inr (beat_execPfcReceive ..)
  | pauseReceive => exact .inr (beat_execPauseReceive ..)
  | pauseTimerExpiry => exact .inr (beat_execPauseTimerExpiry ..)
  | slotIssue => exact .inr (by simp [execSlotIssue])
  | pfcRefresh => exact .inr (beat_execPfcRefresh ..)
  | replication => exact .inr (by simp [execReplication])
  | frameLastByte => exact .inr (beat_execFrameLastByte ..)
  | schedulerSelect => exact .inr (beat_execSchedulerSelect ..)
  | transmitEnd => exact .inr (beat_execTransmitEnd ..)
  | chainFree => exact .inr (by simp [execChainFree])
  | queueHoldExpiry => exact .inr (beat_execQueueHoldExpiry ..)
  | freeListRebuildEnd => exact .inr (by simp [execFreeListRebuildEnd])
  | learnExecute => exact .inr (beat_execLearnExecute ..)
  | tableEngineOp => exact .inr (by simp [execTableEngineOp])
  | agerVisit => exact .inr (beat_execAgerVisit ..)
  | ageDeleteExecute => exact .inr (beat_execAgeDeleteExecute ..)
  | notificationForward => exact .inr (beat_execNotificationForward ..)
  | rowRepair => exact .inr (by simp [execRowRepair])
  | eyeWindowEnd => exact .inr (by simp [execEyeWindowEnd])
  | laneCdrLock => exact .inr (by simp [execLaneCdrLock])
  | laneSignalLoss => exact .inr (by simp [execLaneSignalLoss])
  | echoMeasureEnd => exact .inr (beat_execEchoMeasureEnd ..)
  | negotiationResolved => exact .inr (beat_execNegotiationResolved ..)
  | trainingComplete => exact .inr (beat_execTrainingComplete ..)
  | trainingTimeout => exact .inr (beat_execTrainingTimeout ..)
  | portAligned => exact .inr (beat_execPortAligned ..)
  | alignTimeout => exact .inr (beat_execAlignTimeout ..)
  | linkDown => exact .inr (beat_execLinkDown ..)
  | portPark => exact .inr (beat_execPortPark ..)
  | portProbe => exact .inr (beat_execPortProbe ..)
  | parkedSignal => exact .inr (beat_execParkedSignal ..)
  | fecUncorrectable => exact .inr (beat_execFecUncorrectable ..)
  | stormEnter => exact .inr (beat_execStormEnter ..)
  | stormExit => exact .inr (beat_execStormExit ..)
  | lldpTx => exact .inr (beat_execLldpTx ..)
  | lldpduReceive => exact .inr (beat_execLldpduReceive ..)
  | lldpTtlExpiry => exact .inr (beat_execLldpTtlExpiry ..)
  | esmcTx => exact .inr (beat_execEsmcTx ..)
  | synceOutResume => exact .inr (beat_execSynceOutResume ..)
  | refclkLoss => exact .inr (by simp [execRefclkLoss])
  | refclkReturn => exact .inr (by simp [execRefclkReturn])
  | timeDomainSrcLost => exact .inr (by simp [execTimeDomainSrcLost])
  | ppsEdge => exact .inr (by simp [execPpsEdge])
  | tpioCapture => exact .inr (by simp [execTpioCapture])
  | tpioOneShotFire => exact .inr (by simp [execTpioOneShotFire])
  | tpioPeriodicEdge => exact .inr (by simp [execTpioPeriodicEdge])
  | ptpMessageReceive => exact .inr (beat_execPtpMessageReceive ..)
  | heartbeatReceive => exact .inr (by simp [execHeartbeatReceive])
  | stackLinkMiss => exact .inr (by simp [execStackLinkMiss])
  | stackMemberExpiry => exact .inr (by simp [execStackMemberExpiry])
  | controlFrameReceive => exact .inr (by simp [execControlFrameReceive])
  | controlResend => exact .inr (by simp [execControlResend])
  | issueRateChange => exact .inr (by simp [execIssueRateChange])
  | limiterEngage => exact .inr (by simp [execLimiterEngage])
  | limiterRelease => exact .inr (by simp [execLimiterRelease])
  | inputLimitShed => exact .inr (beat_execInputLimitShed ..)
  | emergencyShed => exact .inr (by simp [execEmergencyShed])
  | emergencyShedEnd => exact .inr (by simp [execEmergencyShedEnd])
  | thermalTrip => exact keptOrOff_execThermalTrip ..
  | vinLoss => exact keptOrOff_execVinLoss ..
  | rungExitComplete => exact .inr (beat_execRungExitComplete ..)
  | octetRampBatch => exact .inr (by simp [execOctetRampBatch])
  | flashStore => exact .inr (by simp [execFlashStore])
  | trendPeriodClose => exact .inr (by simp [execTrendPeriodClose])
  | irqModTimeout => exact .inr (by simp [execIrqModTimeout])
  | msixUnmask => exact .inr (by simp [execMsixUnmask])
  | conversionStart => exact .inr (by simp [execConversionStart])
  | bootRomStart => exact .inr (beat_execBootRomStart ..)
  | fwStartTimeout => exact .inr (by simp [execFwStartTimeout])
  | readyRise => exact .inr (by simp [execReadyRise])
  | hostLinkTrain => exact .inr (by simp [execHostLinkTrain])
  | perstAssert => exact .inr (by simp [execPerstAssert])
  | perstDeassert => exact .inr (by simp [execPerstDeassert])
  | fwWatchdogExpiry => exact .inr (beat_execFwWatchdogExpiry ..)
  | hostPowerState => exact .inr (by simp [execHostPowerState])
  | hostDevmemAccess => exact .inr (by simp [execHostDevmemAccess])
  | mbMessageWrite => exact .inr (by simp [execMbMessageWrite])
  | mbDoorbell => exact .inr (by simp [execMbDoorbell])
  | mbAbort => exact .inr (by simp [execMbAbort])
  | commandComplete => exact .inr (beat_execCommandComplete ..)
  | laneClassSet => exact .inr (by simp [execLaneClassSet])
  | laneStatusGet => exact .inr (by simp [execLaneStatusGet])
  | laneEchoMeasure => exact .inr (by simp [execLaneEchoMeasure])
  | laneAdaptCtl => exact .inr (by simp [execLaneAdaptCtl])
  | portConfig => exact .inr (by simp [execPortConfig])
  | portStatusGet => exact .inr (by simp [execPortStatusGet])
  | portPartnerGet => exact .inr (by simp [execPortPartnerGet])
  | portGuardSet => exact .inr (by simp [execPortGuardSet])
  | synceSet => exact .inr (by simp [execSynceSet])
  | parserPortSet => exact .inr (by simp [execParserPortSet])
  | parserGroupSet => exact .inr (by simp [execParserGroupSet])
  | tableCreate => exact .inr (by simp [execTableCreate])
  | tableLadderSet => exact .inr (by simp [execTableLadderSet])
  | tableOp => exact .inr (by simp [execTableOp])
  | tableStatusGet => exact .inr (by simp [execTableStatusGet])
  | meterSet => exact .inr (by simp [execMeterSet])
  | meterGet => exact .inr (by simp [execMeterGet])
  | excSet => exact .inr (by simp [execExcSet])
  | queueSet => exact .inr (by simp [execQueueSet])
  | portBufSet => exact .inr (by simp [execPortBufSet])
  | bufGlobalSet => exact .inr (by simp [execBufGlobalSet])
  | bufSectionSet => exact .inr (by simp [execBufSectionSet])
  | mcastSet => exact .inr (by simp [execMcastSet])
  | bufStatusGet => exact .inr (by simp [execBufStatusGet])
  | queueStatusGet => exact .inr (by simp [execQueueStatusGet])
  | portBufStatusGet => exact .inr (by simp [execPortBufStatusGet])
  | schedPortSet => exact .inr (by simp [execSchedPortSet])
  | schedQueueSet => exact .inr (by simp [execSchedQueueSet])
  | shaperSet => exact .inr (by simp [execShaperSet])
  | shaperGet => exact .inr (by simp [execShaperGet])
  | schedStatusGet => exact .inr (by simp [execSchedStatusGet])
  | timeSet => exact .inr (by simp [execTimeSet])
  | timePortSet => exact .inr (by simp [execTimePortSet])
  | timeDomainSet => exact .inr (by simp [execTimeDomainSet])
  | timeGlobalSet => exact .inr (by simp [execTimeGlobalSet])
  | timeSelect => exact .inr (by simp [execTimeSelect])
  | timeStatusGet => exact .inr (by simp [execTimeStatusGet])
  | timeMasterListSet => exact .inr (by simp [execTimeMasterListSet])
  | timeAuthSet => exact .inr (by simp [execTimeAuthSet])
  | telemMemSet => exact .inr (by simp [execTelemMemSet])
  | flowGlobalSet => exact .inr (by simp [execFlowGlobalSet])
  | flowProfileSet => exact .inr (by simp [execFlowProfileSet])
  | dumpSet => exact .inr (by simp [execDumpSet])
  | watchSet => exact .inr (by simp [execWatchSet])
  | sampleSet => exact .inr (by simp [execSampleSet])
  | ioamSet => exact .inr (by simp [execIoamSet])
  | stackConfig => exact .inr (by simp [execStackConfig])
  | stackLinkSet => exact .inr (by simp [execStackLinkSet])
  | stackRouteSet => exact .inr (by simp [execStackRouteSet])
  | stackMemberSet => exact .inr (by simp [execStackMemberSet])
  | stackStatusGet => exact .inr (by simp [execStackStatusGet])
  | stackLinkStatusGet => exact .inr (by simp [execStackLinkStatusGet])
  | stackEpisodesGet => exact .inr (by simp [execStackEpisodesGet])
  | deviceInfoGet => exact .inr (by simp [execDeviceInfoGet])
  | unitStatusGet => exact .inr (by simp [execUnitStatusGet])
  | unitCountersGet => exact .inr (by simp [execUnitCountersGet])
  | unitRungSet => exact .inr (by simp [execUnitRungSet])
  | unitFaultGet => exact .inr (by simp [execUnitFaultGet])
  | imageWrite => exact .inr (beat_macCmd s (fun _ => by simp) ..)
  | imageStatusGet => exact .inr (by simp [execImageStatusGet])
  | fwPatchApply => exact .inr (beat_macCmd s (fun _ => by simp) ..)
  | ucStage => exact .inr (by simp [execUcStage])
  | ucStagingEnd => exact .inr (by simp [execUcStagingEnd])
  | ucCommit => exact .inr (by simp [execUcCommit])
  | ucRollback => exact .inr (by simp [execUcRollback])
  | pwrCapSet => exact .inr (by simp [execPwrCapSet])
  | pwrShedSet => exact .inr (by simp [execPwrShedSet])
  | pwrDomainSet => exact .inr (by simp [execPwrDomainSet])
  | pwrStatusGet => exact .inr (by simp [execPwrStatusGet])
  | pwrAgeLogGet => exact .inr (by simp [execPwrAgeLogGet])
  | fltSourceSet => exact .inr (by simp [execFltSourceSet])
  | fltStatusGet => exact .inr (beat_execFltStatusGet ..)
  | fltClear => exact .inr (by simp [execFltClear])
  | fltTestChallengeGet => exact .inr (by simp [execFltTestChallengeGet])
  | fltTestUnlock => exact .inr (beat_execFltTestUnlock ..)
  | fltTestLock => exact .inr (by simp [execFltTestLock])
  | testFaultInject => exact .inr (by simp [execTestFaultInject])
  | boardTableWrite => exact .inr (beat_heldUp s (fun _ => rfl) (fun _ => by simp) ..)
  | boardTableGet => exact .inr (by simp [execBoardTableGet])
  | registerWrite => exact .inr (by simp [execRegisterWrite])
  | rcRegisterRead => exact .inr (by simp [execRcRegisterRead])
  | trickCounterLatchRead => exact .inr (by simp [execTrickCounterLatchRead])
  | fixedFreqSet => exact .inr (by simp [execFixedFreqSet])
  | timeNowRead => exact .inr (by simp [execTimeNowRead])
  | tsqEntryLatch => exact .inr (by simp [execTsqEntryLatch])
  | tsqEntryPop => exact .inr (by simp [execTsqEntryPop])
  | timeSampleWrite => exact .inr (by simp [execTimeSampleWrite])
  | tpioModeWrite => exact .inr (by simp [execTpioModeWrite])
  | tpioCapLatch => exact .inr (by simp [execTpioCapLatch])
  | tpioCapPop => exact .inr (by simp [execTpioCapPop])
  | pwrEnergyRead => exact .inr (by simp [execPwrEnergyRead])
  | tableWindowWrite => exact .inr (by simp [execTableWindowWrite])
  | tblWinCtlWrite => exact .inr (by simp [execTblWinCtlWrite])
  | fltStickyClear => exact .inr (by simp [execFltStickyClear])
  | fltSevereClear => exact .inr (by simp [execFltSevereClear])
  | ciphTake => exact .inr (by simp [execCiphTake])
  | ciphRelease => exact .inr (by simp [execCiphRelease])
  | ciphLeaseExpiry => exact .inr (by simp [execCiphLeaseExpiry])
  | ciphGo => exact .inr (by simp [execCiphGo])
  | ciphDone => exact .inr (by simp [execCiphDone])
  | ciphKeyLoad => exact .inr (by simp [execCiphKeyLoad])
  | ciphKeyClear => exact .inr (by simp [execCiphKeyClear])
  | ringEnable => exact .inr (by simp [execRingEnable])
  | ringDisable => exact .inr (by simp [execRingDisable])
  | sqDoorbell => exact .inr (by simp [execSqDoorbell])
  | sqStakeWaitEnd => exact .inr (beat_execSqStakeWaitEnd ..)
  | ringHostIdxWrite => exact .inr (by simp [execRingHostIdxWrite])
  | cqHoldDrain => exact .inr (by simp [execCqHoldDrain])
  | rxHoldDrain => exact .inr (by simp [execRxHoldDrain])
  | dmaStart => exact .inr (by simp [execDmaStart])
  | dmaAbort => exact .inr (by simp [execDmaAbort])
  | dmaDoorbell => exact .inr (by simp [execDmaDoorbell])
  | dmaEnd => exact .inr (by simp [execDmaEnd])
  | dmaMove => exact .inr (by simp [execDmaMove])
  | dmaMoveCrc => exact .inr (by simp [execDmaMoveCrc])
  | dmaFill => exact .inr (by simp [execDmaFill])
  | dmaCompare => exact .inr (by simp [execDmaCompare])
  | dmaLoop => exact .inr (by simp [execDmaLoop])
  | dmaWait => exact .inr (by simp [execDmaWait])
  | dmaWaitEnd => exact .inr (beat_execDmaWaitEnd ..)
  | dmaSignal => exact .inr (by simp [execDmaSignal])
  | dmaJump => exact .inr (by simp [execDmaJump])
  | dmaStallEnd => exact .inr (by simp [execDmaStallEnd])
  | i3cPrivateTransfer => exact .inr (by simp [execI3cPrivateTransfer])
  | i3cCcc => exact .inr (by simp [execI3cCcc])
  | jtagBypass => exact .inr (by simp [execJtagBypass])
  | jtagIdcode => exact .inr (by simp [execJtagIdcode])
  | jtagSamplePreload => exact .inr (by simp [execJtagSamplePreload])
  | jtagExtest => exact .inr (by simp [execJtagExtest])
  | jtagClamp => exact .inr (by simp [execJtagClamp])
  | jtagHighz => exact .inr (by simp [execJtagHighz])
  | commaReceive => exact .inr (beat_execCommaReceive ..)
  | trainingCoeffRequest => exact .inr (beat_execTrainingCoeffRequest ..)
  | ptpMessageTx => exact .inr (beat_execPtpMessageTx ..)
  | switchoverSlewEnd => exact .inr (by simp [execSwitchoverSlewEnd])
  | rungEntryComplete => exact .inr (beat_execRungEntryComplete ..)
  | flashStoreEnd => exact .inr (by simp [execFlashStoreEnd])
  | fwRunningSet => exact .inr (by simp [execFwRunningSet])
  | timePllLock => exact .inr (beat_execTimePllLock ..)
  | startTemperatureReached => exact .inr (by simp [execStartTemperatureReached])
  | registerReadError => exact .inr (by simp [execRegisterReadError])

/-- Settles O53: a boundary counts as its closed trick does, and every other row keeps the count. -/
theorem onlyBoundariesCount : Obligations.OnlyBoundariesCount := by
  intro c s t ht hon
  have other (hc : ∀ i, c ≠ .trickBoundary i) : t.trick.count = s.trick.count := by
    have h := keptOrOff_exec hc s
    rw [ht] at h
    exact (h.kept hon).count
  cases c with
  | trickBoundary i =>
    rw [exec_trickBoundary] at ht
    cases ht
    split at hon
    next hp =>
      obtain ⟨u, hu, he⟩ := boundary_sample i s
      rw [he] at hon
      simp only [hp, if_true, he]
      exact (hu.trans ((keptOrOff_sampleTick i u).kept hon)).count.trans (closeTrick_count i s)
    next hp => simp [hp]
  | _ => exact other nofun

end Sys2Proof.Proofs
end

/-! PROOFS. Lane commands (03 R66, R69, R75, R76, R78, R90 to R93): an accepted request reaches the command's own part, and what that part answers. -/

section
namespace Sys2Proof.Proofs

open Sys2Proof Sys2Proof.Machine Sys2Proof.Safety Sys2Proof.Laws

/-! ## Commands on a path -/

section
variable {m code len : Nat} {kinds : List Nat} {p r : List Byte} {s t : State} {go : Cmd → State → Path → List Byte → Ans}
variable (hw : waiting m code p s = true) (ha : addressed s p len kinds = true)
include hw ha

/-- A waiting command on a unit of this chip is answered when the command's own part answers OK (13 R402). -/
theorem runCmd_onPath_answered (hgo : ∀ c, c.code = code → go c s (pathOf p) p = ansOk r t) :
    runCmd code m (fun c u => onPath m c.code len kinds c u (go c u)) s = answered m r t := by
  refine runCmd_answered hw fun c _ hc hp => ?_
  subst hp
  rw [onPath_addressed _ ha, hgo c hc]

/-- The same, of a command whose own part waits for an outside event. -/
theorem runCmd_onPath_held {w : Wait} (hgo : ∀ c, c.code = code → go c s (pathOf p) p = .hold w t) :
    runCmd code m (fun c u => onPath m c.code len kinds c u (go c u)) s = held m w t := by
  refine runCmd_held hw fun c _ hc hp => ?_
  subst hp
  rw [onPath_addressed _ ha, hgo c hc]

end

/-! ## LANE_CLASS_SET -/

/-- Bytes from an offset that are zero pass their check (13 R402). -/
@[simp] theorem rsv_holds (p : List Byte) (off n : Nat) : (rsv p off n).1 = decide (fld p off n = 0) := rfl

/-- The FIR set that a class and a mark select on a lane: none in no mode and for class 0 (03 R66). -/
def classPick (s : State) (l cls : Nat) (alt : Bool) : Option Nat :=
  if laneMode s l = 0 ∨ cls = 0 then none else firSelect s l cls (laneMode s l) alt

/-- A move to the alternate set that ageing ordered and that the command overtakes is closed with its record (03 R88). -/
def closeAgeMove (l : Nat) (alt : Bool) (s : State) : State :=
  if (lane s l).ageMove then
    ageRecord 3 (b2n (lane s l).useAlt) (b2n alt) l (lane s l).trendMean (modLane l (fun y => { y with ageMove := false }) s)
  else s

/-- LANE_CLASS_SET with fields in their ranges, a link that may move, and a FIR set where one is needed, is answered and waits for the boundary (03 R66, R69, R76, R90). -/
theorem laneClassSet_ok {q : Path} {m : Nat} {c : Cmd} {p : List Byte} {s : State}
    (hcls : fld p 16 1 ≤ 15) (hfl : fld p 17 1 < 4) (hvf : fld p 18 2 = 0 ∨ 500 ≤ fld p 18 2 ∧ fld p 18 2 ≤ 1000) (hz : fld p 20 4 = 0)
    (hup : (fld p 17 1).testBit 0 = true ∨ ∀ y, portOfLane s q.index = some y → y.2.link ≠ .up)
    (hlin : ¬ (fld p 16 1 = 5 ∧ (linearOk s q.index = false ∨ laneMode s q.index = 1)))
    (hfir : laneMode s q.index ≠ 0 → fld p 16 1 ≠ 0 → firSelect s q.index (fld p 16 1) (laneMode s q.index) ((fld p 17 1).testBit 1) ≠ none) :
    laneClassSet q m c p s = ansOk (classResp s q.index (classPick s q.index (fld p 16 1) ((fld p 17 1).testBit 1)))
      (scheduled m c.code p (closeAgeMove q.index ((fld p 17 1).testBit 1) s)) := by
  have pick : ¬ (laneMode s q.index ≠ 0 ∧ fld p 16 1 ≠ 0 ∧ classPick s q.index (fld p 16 1) ((fld p 17 1).testBit 1) = none) := by
    rintro ⟨hm, hc, hn⟩
    rw [classPick, if_neg (by simp [hm, hc])] at hn
    exact hfir hm hc hn
  unfold laneClassSet
  rw [checks_pass ?_]
  · exact if_neg (not_or.mpr ⟨hlin, pick⟩)
  · cases hp : portOfLane s q.index with
    | none => simp [hcls, hfl, hvf, hz]
    | some y =>
      have : y.2.link = .up → (fld p 17 1).testBit 0 = true := fun hu => hup.resolve_right fun h => h y hp hu
      simpa [hcls, hfl, hvf, hz, Decidable.imp_iff_not_or] using this

/-! ## LANE_ECHO_MEASURE -/

/-- LANE_ECHO_MEASURE on a lane whose port is neither UP nor TRAINING waits for the measurement (03 R78, R92). -/
theorem laneEcho_ok {q : Path} {m : Nat} {p : List Byte} {s : State}
    (ham : fld p 16 1 = 0 ∨ 8 ≤ fld p 16 1 ∧ fld p 16 1 ≤ 16) (hz : fld p 17 7 = 0) (hcls : (lane s q.index).cls ∈ [0, 1, 2, 6])
    (hlink : ∀ y, portOfLane s q.index = some y → y.2.link ≠ .up ∧ y.2.link ≠ .training) (hecho : (lane s q.index).echo = none) :
    laneEcho q m p s = .hold (.echo q.index)
      (modLane q.index (fun y => { y with echo := some ⟨if fld p 16 1 = 0 then 12 else fld p 16 1, m⟩ }) s) := by
  unfold laneEcho
  rw [checks_pass (by simpa [ham, hz] using hcls)]
  refine if_neg ?_
  cases hp : portOfLane s q.index with
  | none => simp [hecho]
  | some y => simp [hecho, hlink y hp]

/-! ## LANE_ADAPT_CTL -/

section
variable {q : Path} {p : List Byte} {s : State} (hz : fld p 17 7 = 0)
include hz

section
variable (hrun : (lane s q.index).rung = 0 ∧ (lane s q.index).moving = false)
include hrun

/-- Operation 0 freezes adaptation at the end of the window in progress, or at once without one (03 R75, R93). -/
theorem laneAdaptCtl_freeze (hop : fld p 16 1 = 0) : laneAdaptCtl q p s = ansOk [] (modLane q.index
    (fun x => if x.cdr = true ∧ x.frozen = false then { x with freezeNext := true } else { x with frozen := true }) s) := by
  simp [laneAdaptCtl, checks_pass, hz, hrun, hop]

/-- Operation 1 releases it. -/
theorem laneAdaptCtl_release (hop : fld p 16 1 = 1) :
    laneAdaptCtl q p s = ansOk [] (modLane q.index (fun x => { x with frozen := false, freezeNext := false }) s) := by
  simp [laneAdaptCtl, checks_pass, hz, hrun, hop]

/-- Operation 2 starts initial adaptation (03 R73). -/
theorem laneAdaptCtl_restart (hop : fld p 16 1 = 2) :
    laneAdaptCtl q p s = ansOk [] (modLane q.index (fun x => { startAdapt x with ctle := 0, fullReadapt := true, perFull := true }) s) := by
  simp [laneAdaptCtl, checks_pass, hz, hrun, hop]

end

/-- Operation 3 drops the stored copy, at every rung (03 R84, R93). -/
theorem laneAdaptCtl_drop (hop : fld p 16 1 = 3) : laneAdaptCtl q p s = ansOk [] (dropStored q.index s) := by
  simp [laneAdaptCtl, checks_pass, hz, hop]

end

/-! ## The rows of the commands -/

/-- Settles O1: each command of a lane passes its checks and is answered, or held while it measures. -/
theorem laneCommandsComplete : Obligations.LaneCommandsComplete := by
  and_intros
  · intro m p s hw ha hcls hfl hvf hz hup hlin hfir
    refine congrArg _ (runCmd_onPath_answered hw ha fun c hc => ?_)
    rw [laneClassSet_ok hcls hfl hvf hz hup hlin hfir, hc]
    rfl
  · intro m p s hw ha
    exact congrArg _ (runCmd_onPath_answered hw ha fun _ _ => rfl)
  · intro m p s hw ha ham hz hcls hlink hecho
    exact congrArg _ (runCmd_onPath_held hw ha fun _ _ => laneEcho_ok ham hz hcls hlink hecho)
  · intro m p s hw ha hz hrun
    and_intros
    · intro hop
      exact congrArg _ (runCmd_onPath_answered hw ha fun _ _ => laneAdaptCtl_freeze hz (hrun (by omega)) hop)
    · intro hop
      exact congrArg _ (runCmd_onPath_answered hw ha fun _ _ => laneAdaptCtl_release hz (hrun (by omega)) hop)
    · intro hop
      exact congrArg _ (runCmd_onPath_answered hw ha fun _ _ => laneAdaptCtl_restart hz (hrun (by omega)) hop)
    · intro hop
      exact congrArg _ (runCmd_onPath_answered hw ha fun _ _ => laneAdaptCtl_drop hz hop)

end Sys2Proof.Proofs
end

/-! PROOFS. Rows of lanes (03 R63, R71 to R73, R78; 04 R99, R103): what each writes, and what it leaves of other lanes and of the rest of the device. -/

section
namespace Sys2Proof.Proofs

open Sys2Proof Sys2Proof.Machine Sys2Proof.Safety Sys2Proof.Laws

/-! ## The port of a lane -/

section
variable (l k : Nat) (s : State)

/-- The port of the lane counts as not aligned, and nothing else changes. -/
theorem unalign_frame : unalign l s = { s with ports := (unalign l s).ports } := by
  unfold unalign
  split <;> rfl

@[simp] theorem lane_unalign : lane (unalign l s) k = lane s k := by
  rw [unalign_frame]
  rfl

theorem port_unalign {q : Nat} {x y : Port} (hl : portOfLane s l = some (q, x)) (hq : port s q = some y) :
    port (unalign l s) q = some { y with aligned := false } := by
  simp [unalign, hl, hq]

/-- The start of the 4 ms of 04 R558 changes ports alone. -/
theorem alignArm_frame : alignArm l s = { s with ports := (alignArm l s).ports } := by
  unfold alignArm alignBegin
  split
  · split
    · split <;> rfl
    · rfl
  · rfl

@[simp] theorem lane_alignArm : lane (alignArm l s) k = lane s k := by
  rw [alignArm_frame]
  rfl

/-- Without a port in ALIGNING nothing starts. -/
theorem alignArm_idle (h : ∀ q x y, portOfLane s l = some (q, x) → port s q = some y → y.link ≠ .aligning) : alignArm l s = s := by
  unfold alignArm
  split
  next q x hl =>
    unfold alignBegin
    split
    next y hq => exact if_neg fun c => h q x y hl hq c.1
    · rfl
  · rfl

end

/-- A change of one lane is no more than that. -/
theorem onlyLane_modLane (l : Nat) (f : Lane → Lane) (s : State) : onlyLane l s (modLane l f s) :=
  ⟨rfl, fun _ hk => lane_modLane_other f s hk⟩

/-! ## EYE_WINDOW_END (03 R71 to R74) -/

/-- What a window leaves on its lane whatever adaptation does: the figure, twice, the count of windows, and the loops. -/
def windowMarks (x : Lane) : Nat × Option Nat × Nat × Adapt := (x.efLast, x.lastWin, x.windows, x.adapt)

section
variable (warn ef : Nat) (lin : Bool) (a : Adapt) (i : InitAdapt) (x : Lane)

@[simp] theorem windowMarks_adaptWindow : windowMarks (adaptWindow ef i x) = windowMarks x := by
  unfold adaptWindow
  dsimp only
  split_ifs <;> rfl

@[simp] theorem windowMarks_nextTrial : windowMarks (nextTrial lin x) = windowMarks x := by
  unfold nextTrial
  split <;> rfl

@[simp] theorem windowMarks_trialWindow : windowMarks (trialWindow lin ef x) = windowMarks x := by
  unfold trialWindow
  split
  · rfl
  · split_ifs
    · rfl
    · rfl
    · rfl
    · exact windowMarks_nextTrial ..

@[simp] theorem windowMarks_freezeDue : windowMarks (freezeDue x) = windowMarks x := by
  unfold freezeDue
  split <;> rfl

/-- A window that closes sets the figure, counts itself, and takes over the loops of a lane that is not frozen (03 R71, R75). -/
theorem windowMarks_laneWindow : windowMarks (laneWindow warn lin ef a x) =
    (ef, some ef, x.windows + 1, if x.frozen then x.adapt else adaptFit lin a) := by
  unfold laneWindow
  extract_lets loops x1 restart x2 x3
  have adapted : windowMarks x2 = windowMarks x1 := by
    unfold x2
    split
    · exact windowMarks_adaptWindow ..
    · split_ifs
      · rfl
      · rfl
      · exact windowMarks_trialWindow ..
  exact (windowMarks_freezeDue x2).trans adapted

end

section
variable (l ef : Nat) (s : State)

/-- The requests of a port in TRAINING change lanes, and draw from the free values (04 R103). -/
theorem laneAsk_frame : laneAsk l ef s = { s with lanes := (laneAsk l ef s).lanes, freeCount := (laneAsk l ef s).freeCount } := by
  unfold laneAsk
  split
  · split <;> rfl
  · rfl

/-- On the lane itself they change the requests alone. -/
theorem lane_laneAsk_same : ∃ w, lane (laneAsk l ef s) l = { lane s l with ask := w } := by
  unfold laneAsk
  split
  · split
    · exact ⟨_, lane_modLane_same ..⟩
    · exact ⟨_, rfl⟩
  · exact ⟨_, rfl⟩

theorem lane_laneAsk_other {k : Nat} (h : k ≠ l) : lane (laneAsk l ef s) k = lane s k := by
  unfold laneAsk
  split
  · split
    · exact lane_modLane_other _ _ h
    · rfl
  · rfl

/-- Outside TRAINING there are none. -/
theorem laneAsk_idle (h : ∀ q x, portOfLane s l = some (q, x) → x.link ≠ .training) : laneAsk l ef s = s := by
  unfold laneAsk
  split
  next q x hl => exact if_neg (h q x hl)
  · rfl

theorem windowMarks_laneAsk : windowMarks (lane (laneAsk l ef s) l) = windowMarks (lane s l) := by
  obtain ⟨w, hw⟩ := lane_laneAsk_same l ef s
  rw [hw]
  rfl

/-- Neither the requests nor the start of the 4 ms touch what the window left. -/
theorem windowMarks_windowEnd (warn : Nat) (lin : Bool) (a : Adapt) :
    windowMarks (lane (alignArm l (laneAsk l ef (modLane l (laneWindow warn lin ef a) s))) l) =
      (ef, some ef, (lane s l).windows + 1, if (lane s l).frozen then (lane s l).adapt else adaptFit lin a) := by
  rw [lane_alignArm, windowMarks_laneAsk, lane_modLane_same, windowMarks_laneWindow]

end

/-- A window of a lane at Run with a signal and lock closes (03 R71, R72). -/
theorem exec_eyeWindowEnd {l : Nat} {s : State} (hr : (lane s l).rung = 0) (hm : (lane s l).moving = false) (hs : (lane s l).signal = true)
    (hc : (lane s l).cdr = true) (hist : List Nat) (a : Adapt) : exec (.eyeWindowEnd l hist a) s =
      .next (alignArm l (laneAsk l (eyeFigure hist) (modLane l (laneWindow (eyeWarn s l) (linear s l) (eyeFigure hist) a) s))) :=
  congrArg _ (if_pos ⟨hr, hm, hs, hc⟩)

/-! ## LANE_CDR_LOCK (03 R63, R73) -/

/-- A lane locks: initial adaptation starts after a loss, and one that is under way begins again from code 0 (03 R73). -/
def lockLane (offset : Int) (y : Lane) : Lane :=
  let y1 := { y with signal := true, cdr := true, freqOffset := offset }
  let y2 := if y.wasLost then { startAdapt y1 with wasLost := false, ctle := 0 } else { y1 with ctle := if y.init.isSome then 0 else y.ctle }
  { y2 with ready := y2.ready || laneReady y2 }

section
variable (offset : Int) (y : Lane)

theorem lockLane_locked : (lockLane offset y).signal = true ∧ (lockLane offset y).cdr = true ∧ (lockLane offset y).freqOffset = offset := by
  unfold lockLane
  split <;> exact ⟨rfl, rfl, rfl⟩

theorem lockLane_lost (h : y.wasLost = true) : (lockLane offset y).init = some {} ∧ (lockLane offset y).ctle = 0 := by
  simp [lockLane, h, startAdapt]

end

section
variable {l : Nat} {offset : Int} {s : State}

/-- A lane at Run locks within 200 ppm (03 R63). -/
theorem exec_laneCdrLock_near (hr : (lane s l).rung = 0) (hm : (lane s l).moving = false) (ho : offset.natAbs ≤ 2000) :
    exec (.laneCdrLock l offset) s = .next (alignArm l (modLane l (lockLane offset) s)) :=
  congrArg _ (if_neg (by simp [hr, hm, ho]))

theorem exec_laneCdrLock_far (ho : 2000 < offset.natAbs) : exec (.laneCdrLock l offset) s = .next s :=
  congrArg _ (if_pos (.inr (.inr ho)))

end

/-! ## LANE_SIGNAL_LOSS (03 R72) -/

/-- A lane loses its lock, or its signal with it. -/
def loseLane (signal : Bool) (x : Lane) : Lane :=
  { laneDark x with
    signal := signal
    wasLost := x.wasLost || decide (x.rung = 0 ∧ x.moving = false)
    comma := { x.comma with locked := false, hits := 0, misses := 0 } }

theorem exec_laneSignalLoss (l : Nat) (signal : Bool) (s : State) :
    exec (.laneSignalLoss l signal) s = .next (synceLow l 1 (unalign l (modLane l (loseLane signal) s))) := rfl

@[simp] theorem lane_synceLow (p w k : Nat) (s : State) : lane (synceLow p w s) k = lane s k := rfl

@[simp] theorem port_synceLow (p w k : Nat) (s : State) : port (synceLow p w s) k = port s k := rfl

/-! ## ECHO_MEASURE_END and TRAINING_COEFF_REQUEST (03 R78; 04 R103) -/

theorem exec_echoMeasureEnd {l : Nat} {s : State} {w : Echo} (hw : (lane s l).echo = some w) (hr : (lane s l).rung = 0)
    (hm : (lane s l).moving = false) (e : EchoIn) :
    exec (.echoMeasureEnd l e) s = .next (answered w.mb (echoResp s l e) (modLane l (fun x => { x with echo := none }) s)) := by
  change execEchoMeasureEnd l e s = _
  simp only [execEchoMeasureEnd, hw, hr, hm]
  rfl

/-- The answer to a request of the partner's training, which moves no tap (04 R103). -/
def coeffAnswer : CoeffReq → CoeffAns
  | .increment => .maximum
  | .decrement => .minimum
  | .initialise => .updated
  | .preset => .updated

theorem exec_trainingCoeffRequest {l : Nat} {s : State} {y : Nat × Port} (hy : portOfLane s l = some y) (ht : y.2.link = .training) (r : CoeffReq) :
    exec (.trainingCoeffRequest l r) s = .next (modLane l (fun x => { x with coeffAns := some (coeffAnswer r) }) s) := by
  change execTrainingCoeffRequest l r s = _
  simp only [execTrainingCoeffRequest, hy, ht, if_true]
  cases r <;> rfl

/-! ## COMMA_RECEIVE (04 R99, R100) -/

/-- What COMMA_RECEIVE does after the lane has looked at the bits: a lane without lock unaligns its port, an invalid CHECK is counted, and the partner's DEGRADE is noted (04 R100, R109). -/
def commaReport (l p : Nat) (x : Port) (bad : Bool) (s : State) : State :=
  let s1 := if (lane s l).comma.locked then s else unalign l s
  let s2 := if bad then ev 0x010D p s1 else s1
  modPort p (fun y => { y with remoteDegrade := (portLanes p x).any (fun i => (lane s2 i).comma.locked && (lane s2 i).comma.degrade) }) s2

theorem commaReport_frame (l p : Nat) (x : Port) (bad : Bool) (s : State) :
    commaReport l p x bad s = { s with ports := (commaReport l p x bad s).ports, evc := (commaReport l p x bad s).evc } := by
  unfold commaReport
  dsimp only
  split_ifs
  · rfl
  · rw [unalign_frame]
    rfl
  · rfl
  · rw [unalign_frame]
    rfl

@[simp] theorem lane_commaReport (l p k : Nat) (x : Port) (bad : Bool) (s : State) : lane (commaReport l p x bad s) k = lane s k := by
  rw [commaReport_frame]
  rfl

theorem exec_commaReceive {l : Nat} {s : State} {y : Nat × Port} (hy : portOfLane s l = some y) (hm : laneMode s l = 3) (hr : (lane s l).rung = 0)
    (hc : (lane s l).cdr = true) (i : CommaIn) : exec (.commaReceive l i) s =
      .next (commaReport l y.1 y.2 (commaBad i.at_ (innerUndo i.ys) (lane s l).comma)
        (modLane l (fun x => { x with comma := commaStep i.at_ (innerUndo i.ys) x.comma }) s)) := by
  change execCommaReceive l i s = _
  simp only [execCommaReceive, hy, hm, hr, hc]
  rfl

/-! ## The rows together -/

/-- Settles O17: each row changes its lane by one named change, and what follows on the port touches no lane. -/
theorem laneRowsComplete : Obligations.LaneRowsComplete := by
  and_intros
  · intro l hist a s hr hm hs hc
    refine ⟨_, exec_eyeWindowEnd hr hm hs hc hist a, ?_, fun k hk => ?_, fun hidle => ?_, ?_⟩
    · rw [alignArm_frame, laneAsk_frame]
      rfl
    · rw [lane_alignArm, lane_laneAsk_other _ _ _ hk, lane_modLane_other _ _ hk]
    · rw [laneAsk_idle, alignArm_idle]
      · exact onlyLane_modLane ..
      · exact fun q x y hl hq => (hidle q x hl).2 y hq
      · exact fun q x hl => (hidle q x hl).1
    · simpa only [windowMarks, Prod.mk.injEq] using windowMarks_windowEnd l (eyeFigure hist) s (eyeWarn s l) (linear s l) a
  · intro l offset s hr hm
    refine ⟨fun ho => ⟨_, exec_laneCdrLock_near hr hm ho, ?_, fun k hk => ?_, fun hidle => ?_, ?_⟩, exec_laneCdrLock_far⟩
    · rw [alignArm_frame]
      rfl
    · rw [lane_alignArm, lane_modLane_other _ _ hk]
    · rw [alignArm_idle]
      · exact onlyLane_modLane ..
      · exact hidle
    · rw [lane_alignArm, lane_modLane_same]
      obtain ⟨hsig, hcdr, hoff⟩ := lockLane_locked offset (lane s l)
      exact ⟨hsig, hcdr, hoff, lockLane_lost offset _⟩
  · intro l signal s
    refine ⟨_, exec_laneSignalLoss l signal s, ?_, fun k hk => ?_, fun q x hl hq => ?_, ?_⟩
    · rw [unalign_frame]
      rfl
    · rw [lane_synceLow, lane_unalign, lane_modLane_other _ _ hk]
    · rw [port_synceLow]
      exact port_unalign _ _ hl hq
    · rw [lane_synceLow, lane_unalign, lane_modLane_same]
      exact ⟨rfl, rfl, rfl, rfl, rfl⟩
  · exact fun l e s w hw hr hm => exec_echoMeasureEnd hw hr hm e
  · exact fun l s y hy ht => ⟨exec_trainingCoeffRequest hy ht .increment, exec_trainingCoeffRequest hy ht .decrement,
      exec_trainingCoeffRequest hy ht .initialise, exec_trainingCoeffRequest hy ht .preset⟩
  · intro l at_ ys s y hy hm hr hc
    refine ⟨_, exec_commaReceive hy hm hr hc ⟨at_, ys⟩, ?_, fun k hk => ?_, ?_⟩
    · rw [commaReport_frame]
      rfl
    · rw [lane_commaReport, lane_modLane_other _ _ hk]
    · rw [lane_commaReport, lane_modLane_same]

end Sys2Proof.Proofs
end

/-! PROOFS. Port and parser commands (04 R95, R97, R111, R112, R114, R115; 05 R138, R140): what the own part of each answers when its fields are in their ranges. -/

section
namespace Sys2Proof.Proofs

open Sys2Proof Sys2Proof.Machine Sys2Proof.Safety Sys2Proof.Laws

/-! ## Commands on a path that need not name an existing unit -/

/-- A waiting command on a path of this chip is answered when the command's own part answers OK (13 R402). -/
theorem runCmd_onPathAny_answered {m code len : Nat} {kinds : List Nat} {p r : List Byte} {s t : State} {go : Cmd → State → Path → List Byte → Ans}
    (hw : waiting m code p s = true) (ha : addressedAny s p len kinds = true) (hgo : ∀ c, c.code = code → go c s (pathOf p) p = ansOk r t) :
    runCmd code m (fun c u => onPathAny m c.code len kinds c u (go c u)) s = answered m r t := by
  refine runCmd_answered hw fun c _ hc hp => ?_
  subst hp
  rw [onPathAny_addressed _ ha, hgo c hc]

/-! ## PORT_CONFIG (04 R95, R97) -/

section
variable {q : Path} {p : List Byte} {s : State} (hz : fld p 22 10 = 0)
include hz

/-- Width 0 removes a configured port. -/
theorem portConfig_remove (hw : fld p 16 1 = 0) (hn : q.index < laneCount s) (hport : (port s q.index).isSome = true) :
    portConfig q p s = ansOk (pathBytes { q with kind := 3 }) (unconfigPort q.index s) := by
  simp [portConfig, checks_pass, hz, hw, hn, hport]

/-- Another width configures a port on lanes that are free of other ports and fit its mode, while its group stands at Run with a parser program (05 R139; 16 R477). -/
theorem portConfig_configure (hw : fld p 16 1 ∈ [1, 2, 4, 8]) (hal : q.index % fld p 16 1 = 0)
    (hmode : 1 ≤ fld p 17 1 ∧ fld p 17 1 ≤ 3) (hneg : fld p 18 1 ≤ 2) (hfl : fld p 19 1 < 16)
    (hmf : fld p 20 2 = 0 ∨ 64 ≤ fld p 20 2 ∧ fld p 20 2 ≤ 16000)
    (hn : q.index + fld p 16 1 ≤ laneCount s) (hover : portOverlap s q.index (fld p 16 1) = false)
    (hlanes : ∀ i < fld p 16 1, (fld p 17 1 = 3 → noN400 s (q.index + i) = false) ∧ classFits s (fld p 17 1) (q.index + i) = true)
    (hrun : atRun s (64 + groupOf q.index) = true) (hact : entryValid s.uc.active 0 = true)
    (hstb : s.uc.st = .committed → entryValid s.uc.standby 0 = true) :
    portConfig q p s = ansOk (pathBytes { q with kind := 3 })
      (configPort q.index (fld p 16 1) (fld p 17 1) (fld p 18 1) (fld p 19 1) (fld p 20 2)
        (forAll ((List.range (fld p 16 1)).map (fun i => q.index + i)) echoStop s)) := by
  have hpos : fld p 16 1 ≠ 0 := fun h => by simp [h] at hw
  have widths : [0, 1, 2, 4, 8].contains (fld p 16 1) = true := List.contains_iff_mem.mpr (List.mem_cons_of_mem 0 hw)
  have resource : ¬ (laneCount s < q.index + fld p 16 1 ∨ portOverlap s q.index (fld p 16 1) = true ∨
      (fld p 17 1 = 3 ∧ ((List.range (fld p 16 1)).map (fun i => q.index + i)).any (noN400 s) = true) ∨
      ((List.range (fld p 16 1)).map (fun i => q.index + i)).all (classFits s (fld p 17 1)) = false) := by
    rintro (h | h | ⟨h3, h⟩ | h)
    · omega
    · simp [hover] at h
    · obtain ⟨i, hi, hno⟩ : ∃ i < fld p 16 1, noN400 s (q.index + i) = true := by simpa using h
      simp [(hlanes i hi).1 h3] at hno
    · obtain ⟨i, hi, hno⟩ : ∃ i < fld p 16 1, classFits s (fld p 17 1) (q.index + i) = false := by simpa using h
      simp [(hlanes i hi).2] at hno
  have ready : ¬ (atRun s (64 + groupOf q.index) = false ∨ entryValid s.uc.active 0 = false ∨
      (s.uc.st = .committed ∧ entryValid s.uc.standby 0 = false)) := by
    rintro (h | h | ⟨hc, h⟩)
    · simp [hrun] at h
    · simp [hact] at h
    · simp [hstb hc] at h
  unfold portConfig
  dsimp only
  rw [checks_pass (by simpa [hz] using widths), if_neg hpos, checks_pass (by simp [hal, hmode, hneg, hfl, hmf]), if_neg resource, if_neg ready]

end

/-- Settles O2: both forms pass their checks. -/
theorem portConfigComplete : Obligations.PortConfigComplete := by
  refine ⟨?remove, ?configure⟩
  case remove =>
    intro m p s hw ha hz hwidth hn hport
    exact congrArg _ (runCmd_onPathAny_answered hw ha fun _ _ => portConfig_remove hz hwidth hn hport)
  case configure =>
    intro m p s hw ha hz hwidth hal hmode hneg hfl hmf hn hover hlanes hrun hact hstb
    exact congrArg _ (runCmd_onPathAny_answered hw ha fun _ _ =>
      portConfig_configure hz hwidth hal hmode hneg hfl hmf hn hover hlanes hrun hact hstb)

/-! ## PORT_GUARD_SET (04 R115) -/

/-- Guard settings in their ranges, REUSE below SUPPRESS, wait for the boundary. -/
theorem portGuardSet_ok {m : Nat} {c : Cmd} {p : List Byte} {s : State}
    (hprobe : 1 ≤ fld p 18 2) (hrung : 1 ≤ fld p 20 1 ∧ fld p 20 1 ≤ 4) (hdecay : 4 ≤ fld p 21 1 ∧ fld p 21 1 ≤ 16)
    (hreuse : 1 ≤ fld p 24 2) (hlt : fld p 24 2 < fld p 22 2) (hz : fld p 26 2 = 0) (hstorm : fld p 28 4 ≤ 16777215)
    (hfec : 1 ≤ fld p 32 4 ∧ fld p 32 4 ≤ 2 ^ 31) :
    portGuardSet m c p s = ansOk [] (scheduled m c.code p s) := by
  have hsuppress : 1 ≤ fld p 22 2 := by omega
  refine checks_pass ?_
  simpa [hprobe, hrung, hdecay, hsuppress, hreuse, hlt, hz, hstorm, hfec.1] using hfec.2

/-! ## SYNCE_SET (04 R111, R112) -/

/-- The paths of the lanes that the two outputs select, each with its offset. -/
def syncePaths (p : List Byte) : List (Nat × Path) :=
  ([0, 16].filter (fun a => !allZero (slice p a 16))).map (fun a => (a, pathOf (slice p a 16)))

/-- A path to a lane of this chip that a configured port holds. -/
def toPortLane (s : State) (q : Path) : Prop := target s q = .here ∧ unitExists s q = true ∧ (portOfLane s q.index).isSome = true

/-- What holds of every path that is not all zero holds of every selected one. -/
theorem forall_syncePaths {p : List Byte} {P : Path → Prop} (h : ∀ a ∈ [0, 16], allZero (slice p a 16) = false → P (pathOf (slice p a 16))) :
    ∀ e ∈ syncePaths p, P e.2 := by
  intro e he
  obtain ⟨a, ha, rfl⟩ := List.mem_map.mp he
  obtain ⟨hmem, hsel⟩ := List.mem_filter.mp ha
  exact h a hmem (by simpa using hsel)

/-- SYNCE_SET whose outputs select lanes of configured ports of this chip, or none, waits for the boundary. -/
theorem synceSet_ok {m : Nat} {c : Cmd} {s : State} (hlen : 48 ≤ c.payload.length)
    (htail : (c.payload.drop 48).all (fun b => decide (b = 0)) = true) (h0 : synceBad c.payload 0 = false) (h16 : synceBad c.payload 16 = false)
    (hsel : ∀ e ∈ syncePaths c.payload, toPortLane s e.2)
    (hfreq : fld c.payload 32 1 < 4) (hquads : fld c.payload 33 1 < 16) (hz : fld c.payload 34 14 = 0)
    (hhalf : s.ident.half = true → fld c.payload 33 1 < 4) :
    synceSet m c s = ansOk [] (scheduled m c.code c.payload s) := by
  have shape : [0, 16].find? (fun a => synceBad c.payload a) = none := by simp [h0, h16]
  have here : (syncePaths c.payload).find? (fun e => target s e.2 != .here) = none :=
    List.find?_eq_none.mpr fun e he => have ⟨hhere, _, _⟩ := hsel e he; by simp [hhere]
  have exist : ¬ ((syncePaths c.payload).any (fun e => !unitExists s e.2) || (s.ident.half && decide (4 ≤ fld c.payload 33 1))) = true := by
    have unit : (syncePaths c.payload).any (fun e => !unitExists s e.2) = false :=
      List.any_eq_false.mpr fun e he => have ⟨_, hunit, _⟩ := hsel e he; by simp [hunit]
    simpa [unit] using hhalf
  have inPort : (syncePaths c.payload).find? (fun e => (portOfLane s e.2.index).isNone) = none :=
    List.find?_eq_none.mpr fun e he => have ⟨_, _, hport⟩ := hsel e he; by simp [Option.isSome_iff_ne_none.mp hport]
  unfold syncePaths at here exist inPort
  simp only [synceSet, if_neg (Nat.not_lt.mpr hlen), zero_tail_find htail, shape, here, if_neg exist, inPort]
  exact checks_pass (by simp [hfreq, hquads, hz])

/-! ## PARSER_PORT_SET and PARSER_GROUP_SET (05 R138, R140) -/

/-- An entry that the active program has, and a committed one too, waits for the boundary. -/
theorem parserPortSet_ok {m : Nat} {c : Cmd} {p : List Byte} {s : State} (he : fld p 16 1 ≤ 15) (hz : fld p 17 7 = 0)
    (hact : entryValid s.uc.active (fld p 16 1) = true) (hstb : s.uc.st = .committed → entryValid s.uc.standby (fld p 16 1) = true) :
    parserPortSet m c p s = ansOk [] (scheduled m c.code p s) := by
  unfold parserPortSet
  dsimp only
  rw [checks_pass ?_, scheduled]
  simpa [he, hz, hact, Decidable.imp_iff_not_or] using hstb

theorem parserGroupSet_ok {m : Nat} {c : Cmd} {p : List Byte} {s : State} (hmode : fld p 16 1 ≤ 1) (hz : fld p 17 7 = 0) :
    parserGroupSet m c p s = ansOk [] (scheduled m c.code p s) :=
  checks_pass (by simp [hmode, hz])

/-- Settles O3: the status commands report, and each setting passes its checks and waits for the boundary. -/
theorem portCommandsComplete : Obligations.PortCommandsComplete := by
  refine ⟨?status, ?partner, ?guardSet, ?synce, ?parserPort, ?parserGroup⟩
  case status =>
    intro m p s hw ha
    exact congrArg _ (runCmd_onPath_answered hw ha fun _ _ => rfl)
  case partner =>
    intro m p s hw ha
    exact congrArg _ (runCmd_onPath_answered hw ha fun _ _ => rfl)
  case guardSet =>
    intro m p s hw ha hprobe hrung hdecay hreuse hlt hz hstorm hfec
    refine congrArg _ (runCmd_onPath_answered hw ha fun c hc => ?_)
    rw [portGuardSet_ok hprobe hrung hdecay hreuse hlt hz hstorm hfec, hc]
  case synce =>
    intro m p s hw hlen htail h0 h16 hsel hfreq hquads hz hhalf
    refine congrArg _ (runCmd_answered hw fun c _ hc hp => ?_)
    subst hp
    rw [synceSet_ok hlen htail h0 h16 (forall_syncePaths (P := toPortLane s) hsel) hfreq hquads hz hhalf, hc]
  case parserPort =>
    intro m p s hw ha he hz hact hstb
    refine congrArg _ (runCmd_onPath_answered hw ha fun c hc => ?_)
    rw [parserPortSet_ok he hz hact hstb, hc]
  case parserGroup =>
    intro m p s hw ha hmode hz
    refine congrArg _ (runCmd_onPath_answered hw ha fun c hc => ?_)
    rw [parserGroupSet_ok hmode hz, hc]

end Sys2Proof.Proofs
end

/-! PROOFS. Link states of a port (04 R101, R104, R105, R558, Tables 4.7, 4.11): what a change of link state, an attempt at alignment and UP do to the port and its lanes, and the rows of the link. -/

section
namespace Sys2Proof.Proofs

open Sys2Proof Sys2Proof.Machine Sys2Proof.Safety Sys2Proof.Laws

/-! ## Changes of one port and of its lanes -/

theorem onlyPort_modPort (p : Nat) (f : Port → Port) (s : State) : onlyPort p s (modPort p f s) :=
  ⟨rfl, fun _ hk => port_modPort_other f s hk⟩

@[simp] theorem lane_modPort (p k : Nat) (f : Port → Port) (s : State) : lane (modPort p f s) k = lane s k := rfl

@[simp] theorem idx_modPort (p : Nat) (f : Port → Port) (s : State) : idx (modPort p f s) = idx s := rfl

@[simp] theorem now_modPort (p : Nat) (f : Port → Port) (s : State) : now (modPort p f s) = now s := rfl

/-- A change of every lane of a port. -/
def onLanes (p : Nat) (x : Port) (f : Lane → Lane) (s : State) : State := forAll (portLanes p x) (fun l acc => modLane l f acc) s

section
variable (p : Nat) (x : Port) (f : Lane → Lane) (s : State)

theorem onLanes_frame : onLanes p x f s = { s with lanes := (onLanes p x f s).lanes } := by
  refine forAll_inv (fun u => u = { s with lanes := u.lanes }) _ (fun l u hu => ?_) _ s rfl
  rw [modLane, hu]

@[simp] theorem port_onLanes (k : Nat) : port (onLanes p x f s) k = port s k := by
  rw [onLanes_frame]
  rfl

@[simp] theorem idx_onLanes : idx (onLanes p x f s) = idx s := by
  rw [onLanes_frame]
  rfl

@[simp] theorem now_onLanes : now (onLanes p x f s) = now s := by
  rw [onLanes_frame]
  rfl

/-- What the change leaves of a lane stays on every lane. -/
theorem lane_onLanes_keeps {α : Type} {f : Lane → Lane} (g : Lane → α) (h : ∀ y, g (f y) = g y) (k : Nat) :
    g (lane (onLanes p x f s) k) = g (lane s k) := by
  refine forAll_keeps (fun u => g (lane u k)) _ (fun l u => ?_) _ s
  by_cases hk : k = l
  · subst hk
    rw [lane_modLane_same, h]
  · rw [lane_modLane_other _ _ hk]

/-- What the change sets stands on the port's lanes. -/
theorem lane_onLanes_sets {f : Lane → Lane} (P : Lane → Prop) (h : ∀ y, P (f y)) : ∀ l ∈ portLanes p x, P (lane (onLanes p x f s) l) :=
  forAll_modLane P f h _ s

end

/-- Between two states nothing but lanes and ports differs. -/
def OnlyLink (s t : State) : Prop := t = { s with lanes := t.lanes, ports := t.ports }

theorem OnlyLink.trans {s t u : State} (h : OnlyLink s t) (k : OnlyLink t u) : OnlyLink s u := by
  unfold OnlyLink at *
  rw [k, h]

theorem OnlyLink.modPort (p : Nat) (f : Port → Port) (s : State) : OnlyLink s (modPort p f s) := rfl

theorem OnlyLink.onLanes (p : Nat) (x : Port) (f : Lane → Lane) (s : State) : OnlyLink s (onLanes p x f s) := by
  unfold OnlyLink
  rw [onLanes_frame]

/-! ## Measurements on the lanes (03 R81) -/

/-- No pulse-echo measurement runs on a lane of the port. -/
def echoFree (s : State) (p : Nat) (x : Port) : Prop := ∀ l ∈ portLanes p x, (lane s l).echo = none

theorem echoFree_onLanes {s : State} {p : Nat} {x : Port} {f : Lane → Lane} (he : echoFree s p x) (h : ∀ y, (f y).echo = y.echo) :
    echoFree (onLanes p x f s) p x := by
  intro l hl
  rw [lane_onLanes_keeps p x s (fun y => y.echo) h, he l hl]

/-- Without a measurement nothing is stopped. -/
theorem forAll_echoStop_idle {ls : List Nat} {s : State} (h : ∀ l ∈ ls, (lane s l).echo = none) : forAll ls echoStop s = s := by
  induction ls with
  | nil => rfl
  | cons l r ih =>
    have hl : echoStop l s = s := by simp [echoStop, h l (by simp)]
    have hr : forAll (l :: r) echoStop s = forAll r echoStop (echoStop l s) := rfl
    rw [hr, hl, ih fun k hk => h k (by simp [hk])]

/-- Stopping measurements leaves every port as it is. -/
theorem ports_forAll_echoStop (ls : List Nat) (s : State) : (forAll ls echoStop s).ports = s.ports := by
  refine forAll_keeps (fun u => u.ports) _ (fun l u => ?_) ls s
  unfold echoStop
  split <;> rfl

/-! ## A change of link state (04 Table 4.7) -/

/-- A port in a link state since a trick index. -/
def toLink (st : LinkState) (n : Nat) (x : Port) : Port := { x with link := st, lastChange := n }

section
variable {p : Nat} {st : LinkState} {s : State} {x : Port} (hx : port s p = some x)
include hx

theorem setLink_same (h : x.link = st) : setLink p st s = s := by
  simp [setLink, hx, h]

/-- The port takes the new state and the time of the change, whatever measurements stop. -/
theorem port_setLink (h : x.link ≠ st) : port (setLink p st s) p = some (toLink st (idx s) x) := by
  have changed : port (modPort p (toLink st (idx s)) s) p = some (toLink st (idx s) x) := by
    simp [hx]
  simp only [setLink, hx, if_neg h]
  split
  · exact changed
  · rw [port, ports_forAll_echoStop]
    exact changed

/-- With no measurement to stop, nothing else happens. -/
theorem setLink_echoFree (h : x.link ≠ st) (he : echoFree s p x) :
    setLink p st s = modPort p (toLink st (idx s)) s := by
  simp only [setLink, hx, if_neg h]
  split
  · rfl
  · exact forAll_echoStop_idle he

/-- Parking stops no measurement (04 R108). -/
theorem setLink_parked (h : x.link ≠ .parked) :
    setLink p .parked s = modPort p (toLink .parked (idx s)) s := by
  simp only [setLink, hx, if_neg h]
  rfl

end

/-! ## NEGOTIATING -/

/-- On its way to NEGOTIATING a port forgets what its link had reached. -/
def forgetLink (x : Port) : Port := { x with resolved := 0, quiet := 0, probeEnd := none, aligned := false, alignFrom := none }

theorem enterNegotiating_eq (p : Nat) (s : State) : enterNegotiating p s = setLink p .negotiating (modPort p forgetLink s) := rfl

section
variable {p : Nat} {s : State} {x : Port} (hx : port s p = some x) (hl : x.link ≠ .negotiating)
include hx hl

theorem port_enterNegotiating : port (enterNegotiating p s) p = some (toLink .negotiating (idx s) (forgetLink x)) := by
  have hf : port (modPort p forgetLink s) p = some (forgetLink x) := by simp [hx]
  exact port_setLink hf hl

theorem enterNegotiating_echoFree (he : echoFree s p x) :
    enterNegotiating p s = modPort p (fun y => toLink .negotiating (idx s) (forgetLink y)) s := by
  have hf : port (modPort p forgetLink s) p = some (forgetLink x) := by simp [hx]
  rw [enterNegotiating_eq, setLink_echoFree hf hl he, modPort_modPort]
  rfl

end

/-! ## ALIGNING (04 R558) -/

/-- Another attempt at alignment: the time of the last one does not count. -/
def dropAttempt (x : Port) : Port := { x with alignFrom := none }

/-- The 4 ms of an attempt count from a trick. -/
def startAttempt (n : Nat) (x : Port) : Port := { x with alignFrom := some n }

/-- A lane counts as ready when its port comes from TRAINING, or else when it is electrically ready now. -/
def markReady (fromTraining : Bool) (y : Lane) : Lane := { y with ready := fromTraining || laneReady y }

section
variable {p : Nat} {s : State} {x : Port} (hx : port s p = some x)
include hx

/-- The start of the 4 ms writes their start alone. -/
theorem port_alignBegin : ∃ a, port (alignBegin p s) p = some { x with alignFrom := a } := by
  simp only [alignBegin, hx]
  split
  · exact ⟨some (now s), by simp [hx]⟩
  · exact ⟨x.alignFrom, hx⟩

/-- With every lane ready the 4 ms begin. -/
theorem alignBegin_ready (hl : x.link = .aligning) (ha : x.alignFrom = none) (hr : ∀ l ∈ portLanes p x, (lane s l).ready = true) :
    alignBegin p s = modPort p (startAttempt (now s)) s := by
  simp only [alignBegin, hx]
  exact if_pos ⟨hl, ha, List.all_eq_true.mpr hr⟩

theorem enterAligning_eq (fromTraining : Bool) : enterAligning p fromTraining s =
    alignBegin p (setLink p .aligning (modPort p dropAttempt (onLanes p x (markReady fromTraining) s))) := by
  simp only [enterAligning, hx]
  rfl

/-- From TRAINING every lane counts as ready, and the 4 ms begin at once. -/
theorem enterAligning_fromTraining (hl : x.link ≠ .aligning) (he : echoFree s p x) : enterAligning p true s =
    modPort p (fun y => startAttempt (now s) (toLink .aligning (idx s) y)) (onLanes p x (markReady true) s) := by
  have dropped : port (modPort p dropAttempt (onLanes p x (markReady true) s)) p = some (dropAttempt x) := by simp [hx]
  have echo : echoFree (modPort p dropAttempt (onLanes p x (markReady true) s)) p (dropAttempt x) := echoFree_onLanes he fun _ => rfl
  have ready : ∀ l ∈ portLanes p x, (lane (onLanes p x (markReady true) s) l).ready = true :=
    lane_onLanes_sets p x s (fun y => y.ready = true) fun _ => rfl
  have linked : port (modPort p (toLink .aligning (idx s)) (modPort p dropAttempt (onLanes p x (markReady true) s))) p =
      some (toLink .aligning (idx s) (dropAttempt x)) := by simp [hx]
  rw [enterAligning_eq hx, setLink_echoFree dropped hl echo, idx_modPort, idx_onLanes, alignBegin_ready linked rfl rfl ready, modPort_modPort,
    modPort_modPort, now_modPort, now_modPort, now_onLanes]
  rfl

/-- Another attempt writes no more of the port than its time. -/
theorem port_enterAligning_again (hl : x.link = .aligning) (fromTraining : Bool) :
    ∃ a, port (enterAligning p fromTraining s) p = some { x with alignFrom := a } := by
  have dropped : port (modPort p dropAttempt (onLanes p x (markReady fromTraining) s)) p = some (dropAttempt x) := by simp [hx]
  rw [enterAligning_eq hx, setLink_same dropped hl]
  exact (port_alignBegin dropped :)

/-- A port that negotiates goes back to NEGOTIATING, one with NEG 0 stays in ALIGNING. -/
theorem linkAgain_negotiates (hn : x.neg ≠ 0) : linkAgain p s = enterNegotiating p s := by
  simp only [linkAgain, hx, if_neg hn]

theorem linkAgain_aligns (hn : x.neg = 0) : linkAgain p s = enterAligning p false s := by
  simp only [linkAgain, hx, if_pos hn]

end

/-! ## UP -/

/-- What the rows of the link speak of in a port that comes UP: its state, since when, and the alignment. -/
def linkMarks (x : Port) : LinkState × Nat × Bool × Nat := (x.link, x.lastChange, x.aligned, x.skew)

section
variable (p : Nat) (s : State)

/-- Between two states the port keeps these. -/
def LinkKept (s t : State) : Prop := (port t p).map linkMarks = (port s p).map linkMarks

theorem LinkKept.trans {p : Nat} {s t u : State} (h : LinkKept p s t) (k : LinkKept p t u) : LinkKept p s u := Eq.trans k h

theorem LinkKept.modPort {f : Port → Port} (h : ∀ x, linkMarks (f x) = linkMarks x) : LinkKept p s (modPort p f s) := by
  rw [LinkKept, port_modPort_same, Option.map_map]
  exact congrArg (fun g => (port s p).map g) (funext h)

theorem LinkKept.ite {c : Prop} [Decidable c] {p : Nat} {s t u : State} (h : LinkKept p s t) (k : LinkKept p s u) : LinkKept p s (if c then t else u) := by
  split
  · exact h
  · exact k

theorem linkKept_pushMacCtl (m : MacCtl) : LinkKept p s (pushMacCtl p m s) := by
  refine LinkKept.modPort p s fun x => ?_
  split <;> rfl

/-- The pauses that a port announces leave its link alone (09 R272). -/
theorem linkKept_announce : LinkKept p s (announce p s) := by
  have sends (c : Prop) [Decidable c] (m : MacCtl) (u : State) : LinkKept p u (if c then pushMacCtl p m u else u) :=
    .ite (linkKept_pushMacCtl p u m) rfl
  unfold announce
  split
  · rfl
  · exact .ite rfl (((sends _ _ s).trans (sends _ _ _)).trans (.modPort _ _ fun _ => rfl))

/-- So does the stack link that comes up with it (12 R366). -/
theorem linkKept_stackUp : LinkKept p s (stackUp p s) := by
  unfold stackUp
  split
  · rfl
  · exact .ite rfl (.ite rfl (.ite (.modPort _ _ fun _ => rfl) (.modPort _ _ fun _ => rfl)))

end

/-- A port that comes UP is aligned and starts its pauses, its hold and firmware's PDUs anew. -/
def readyUp (skew : Nat) (x : Port) : Port :=
  { x with
    hold := none, holdArm := false, flushed := false, skew := if x.width = 1 then 0 else skew, advert := 0, macCtl := [], quiet := 0
    aligned := true, rxBad := false, early := none, lldpAt := none, esmcAt := none }

section
variable {p : Nat} {s : State} {x : Port} (hx : port s p = some x)
include hx

/-- The link comes UP, then the references follow, the pauses are announced and the stack link is told. -/
theorem enterUp_eq (skew : Nat) :
    ∃ u, enterUp p skew s = stackUp p (announce p u) ∧ u.ports = (setLink p .up (modPort p (readyUp skew) s)).ports := by
  simp only [enterUp, hx]
  exact ⟨_, rfl, rfl⟩

theorem linkMarks_enterUp (hl : x.link ≠ .up) (skew : Nat) :
    (port (enterUp p skew s) p).map linkMarks = some (.up, idx s, true, if x.width = 1 then 0 else skew) := by
  obtain ⟨u, he, hu⟩ := enterUp_eq hx skew
  have ready : port (modPort p (readyUp skew) s) p = some (readyUp skew x) := by simp [hx]
  have up : port u p = some (toLink .up (idx s) (readyUp skew x)) := by
    rw [port, hu]
    exact port_setLink ready hl
  calc (port (enterUp p skew s) p).map linkMarks
      = (port u p).map linkMarks := by
        rw [he]
        exact (linkKept_announce p u).trans (linkKept_stackUp p _)
    _ = _ := by
        rw [up]
        rfl

end

/-! ## Rows of negotiation and training (04 R104, R105) -/

section
variable {p : Nat} {s : State} {x : Port} (hx : port s p = some x)
include hx

/-- What a partner's pages leave on the port: its page set counts only with NEG 2 (04 R104). -/
def partnerSeen (neg : Nat) (a : PartnerIn) (y : Port) : Port :=
  { y with
    basePage := a.basePage
    ability := (if neg = 2 then a.ability else none).getD 0
    partnerN400 := (if neg = 2 then a.ability else none).isSome
    quiet := 0 }

section
variable (hp : pagesSent s p x ≠ none) (a : PartnerIn)
include hp

theorem exec_negotiationResolved_common {k : Nat} (hk : resolveMode (modPort p (partnerSeen x.neg a) s) p x a = some k) :
    exec (.negotiationResolved p a) s = .next (resolved p k (modPort p (partnerSeen x.neg a) s)) := by
  change execNegotiationResolved p a s = _
  unfold partnerSeen at hk ⊢
  simp only [execNegotiationResolved, hx, if_neg hp, partnerAbility, hk]

theorem exec_negotiationResolved_none (hk : resolveMode (modPort p (partnerSeen x.neg a) s) p x a = none) :
    exec (.negotiationResolved p a) s =
      .next (ev 0x010E p (modPort p (fun y => { y with downCause := 5 }) (modPort p (partnerSeen x.neg a) s))) := by
  change execNegotiationResolved p a s = _
  unfold partnerSeen at hk ⊢
  simp only [execNegotiationResolved, hx, if_neg hp, partnerAbility, hk]

end

/-- A lane tells its partner that its receiver is ready (04 R103). -/
def tellReady (y : Lane) : Lane := { y with ask := { y.ask with ready := true } }

/-- Trained lanes count as ready, and the port goes to ALIGNING. -/
theorem exec_trainingComplete (hl : x.link = .training) (he : echoFree s p x) : exec (.trainingComplete p) s = .next
    (modPort p (fun y => startAttempt (now s) (toLink .aligning (idx s) y)) (onLanes p x (markReady true) (onLanes p x tellReady s))) := by
  have told : port (onLanes p x tellReady s) p = some x := by simpa using hx
  have echo : echoFree (onLanes p x tellReady s) p x := echoFree_onLanes he fun _ => rfl
  have row : exec (.trainingComplete p) s = .next (enterAligning p true (onLanes p x tellReady s)) := by
    change execTrainingComplete p s = _
    simp only [execTrainingComplete, hx, if_pos hl]
    rfl
  rw [row, enterAligning_fromTraining told (by simp [hl]) echo, now_onLanes, idx_onLanes]

/-- Training that fails is counted, and the port negotiates again. -/
def trainingFailed (y : Port) : Port := { y with downCause := 4, timeouts := y.timeouts + 1 }

theorem exec_trainingTimeout (hl : x.link = .training) (he : echoFree s p x) : exec (.trainingTimeout p) s = .next
    (modPort p (fun y => toLink .negotiating (idx s) (forgetLink (trainingFailed y))) s) := by
  have failed : port (modPort p trainingFailed s) p = some (trainingFailed x) := by simp [hx]
  have row : exec (.trainingTimeout p) s = .next (enterNegotiating p (modPort p trainingFailed s)) := by
    change execTrainingTimeout p s = _
    simp only [execTrainingTimeout, hx, if_pos hl]
    rfl
  have away : (trainingFailed x).link ≠ .negotiating := by simp [trainingFailed, hl]
  rw [row, enterNegotiating_echoFree failed away he, modPort_modPort]
  rfl

/-! ## Rows of alignment (04 R101, R558) -/

theorem exec_portAligned (hl : x.link = .aligning) (hlanes : lanesLocked s p x = true) (hcomma : commaLocked s p x = true)
    (hagree : commasAgree s p x = true) {skew : Nat} (hskew : skew ≤ 180) (hfreq : freqOk s p x = true) :
    exec (.portAligned p skew) s = .next (enterUp p skew s) := by
  change execPortAligned p skew s = _
  simp only [execPortAligned, hx]
  exact congrArg _ (if_pos ⟨hl, hlanes, hcomma, hagree, hskew, hfreq⟩)

/-- An attempt at alignment that ended with a cause leaves it on the port; a port that only a fault keeps from UP is aligned. -/
def attemptFailed (cause skew : Nat) (y : Port) : Port :=
  { y with downCause := cause, aligned := decide (cause = 8 ∨ cause = 10), skew := if cause = 1 ∨ cause = 2 then y.skew else min skew 65535 }

/-- An attempt that has lasted 4 ms ends: the cause is noted, and the port tries again (04 R558). -/
theorem exec_alignTimeout_ended (hl : x.link = .aligning) {from_ : Nat} (hfrom : x.alignFrom = some from_)
    (hms : 4000000 ≤ (now s - from_) * 1024) (localFault remoteFault : Bool) (skew : Nat) :
    let w := if x.width = 1 then 0 else skew
    ∃ u, port u p = some (attemptFailed (alignCause s p x localFault remoteFault w) w x) ∧
      exec (.alignTimeout p localFault remoteFault skew) s = .next (linkAgain p u) := by
  intro w
  have ended : x.link = .aligning ∧ decide (4000000 ≤ (now s - from_) * 1024) = true := ⟨hl, by simpa using hms⟩
  refine ⟨modPort p (attemptFailed (alignCause s p x localFault remoteFault w) w)
    (if alignCause s p x localFault remoteFault w = 9 then ev 0x0108 p s else s), ?_, ?_⟩
  · rw [port_modPort_same]
    split
    · exact congrArg (Option.map _) hx
    · rw [hx]
      rfl
  · change execAlignTimeout p localFault remoteFault skew s = _
    simp only [execAlignTimeout, hx, hfrom]
    exact congrArg _ (if_pos ended)

theorem exec_alignTimeout_early (hms : ∀ from_, x.alignFrom = some from_ → (now s - from_) * 1024 < 4000000)
    (localFault remoteFault : Bool) (skew : Nat) : exec (.alignTimeout p localFault remoteFault skew) s = .next s := by
  change execAlignTimeout p localFault remoteFault skew s = _
  simp only [execAlignTimeout, hx]
  refine congrArg _ (if_neg fun ⟨_, ended⟩ => ?_)
  cases hfrom : x.alignFrom with
  | none => simp [hfrom] at ended
  | some from_ =>
    have := hms from_ hfrom
    simp only [hfrom, decide_eq_true_eq] at ended
    omega

theorem exec_linkDown {e : DownEvent} (hl : x.link = .up) (hd : downNow s p x e = true) :
    exec (.linkDown p e) s = .next (linkLost p (downCode e) true s) := by
  change execLinkDown p e s = _
  simp only [execLinkDown, hx]
  exact congrArg _ (if_pos ⟨hl, hd⟩)

end

/-- Settles O18: each row is one named change of the port and of its lanes. -/
theorem linkRowsComplete : Obligations.LinkRowsComplete := by
  refine ⟨?negotiation, ?trained, ?untrained, ?aligned, ?timeout, ?early, ?down⟩
  case negotiation =>
    intro p k a s x hx hp
    exact ⟨exec_negotiationResolved_common hx hp a, exec_negotiationResolved_none hx hp a⟩
  case trained =>
    intro p s x hx hl he
    refine ⟨_, exec_trainingComplete hx hl he, ?_, fun l hm => ⟨?_, ?_⟩, ?_⟩
    · simp [hx, startAttempt, toLink]
    · exact lane_onLanes_sets p x _ (fun y => y.ready = true) (fun _ => rfl) l hm
    · rw [lane_modPort, lane_onLanes_keeps p x _ (f := markReady true) (fun y => y.ask.ready) fun _ => rfl]
      exact lane_onLanes_sets p x s (fun y => y.ask.ready = true) (fun _ => rfl) l hm
    · exact ((OnlyLink.onLanes ..).trans (.onLanes ..)).trans (.modPort ..)
  case untrained =>
    intro p s x hx hl he
    refine ⟨_, exec_trainingTimeout hx hl he, onlyPort_modPort .., ?_⟩
    rw [port_modPort_same, hx]
    rfl
  case aligned =>
    intro p skew s x hx hl hlanes hcomma hagree hskew hfreq
    have marks := linkMarks_enterUp hx (by simp [hl]) skew
    obtain ⟨y, hy, hm⟩ := Option.map_eq_some_iff.mp marks
    refine ⟨_, y, exec_portAligned hx hl hlanes hcomma hagree hskew hfreq, hy, ?_⟩
    simpa only [linkMarks, Prod.mk.injEq] using hm
  case timeout =>
    intro p skew localFault remoteFault s x from_ hx hl hfrom hms
    obtain ⟨u, hu, he⟩ := exec_alignTimeout_ended hx hl hfrom hms localFault remoteFault skew
    by_cases hn : x.neg = 0
    · rw [linkAgain_aligns hu hn] at he
      obtain ⟨a, ha⟩ := port_enterAligning_again hu hl false
      exact ⟨_, _, he, ha, rfl, fun _ => hl, fun h => absurd hn h⟩
    · rw [linkAgain_negotiates hu hn] at he
      have away : x.link ≠ .negotiating := by simp [hl]
      exact ⟨_, _, he, port_enterNegotiating hu away, rfl, fun h => absurd h hn, fun _ => ⟨rfl, rfl⟩⟩
  case early =>
    intro p skew localFault remoteFault s x hx hms
    exact exec_alignTimeout_early hx hms localFault remoteFault skew
  case down =>
    intro p e s x hx hl hd
    exact exec_linkDown hx hl hd

end Sys2Proof.Proofs
end

/-! PROOFS. Guards of a link (04 R102, R108 to R110, Table 4.7): parking and the ways out of it, uncorrectable codewords, and storms. -/

section
namespace Sys2Proof.Proofs

open Sys2Proof Sys2Proof.Machine Sys2Proof.Safety Sys2Proof.Laws

/-! ## Parked ports (04 R108) -/

/-- A lane is asked for a rung. -/
def askRung (r : Nat) (y : Lane) : Lane := { y with req := r }

/-- The time since parking starts anew. -/
def startProbe (x : Port) : Port := { x with probe := 0 }

section
variable {p : Nat} {s : State} {x : Port} (hx : port s p = some x)
include hx

theorem lanesReq_eq (r : Nat) : lanesReq p r s = onLanes p x (askRung r) s := by
  simp only [lanesReq, hx]
  rfl

/-- A parked port asks its lanes for Run and goes to NEGOTIATING. -/
theorem unpark_eq (hl : x.link = .parked) (he : echoFree s p x) :
    unpark p s = modPort p (fun y => toLink .negotiating (idx s) (forgetLink y)) (onLanes p x (askRung 0) s) := by
  have asked : port (onLanes p x (askRung 0) s) p = some x := by simpa using hx
  have echo : echoFree (onLanes p x (askRung 0) s) p x := echoFree_onLanes he fun _ => rfl
  rw [unpark, lanesReq_eq hx, enterNegotiating_echoFree asked (by simp [hl]) echo, idx_onLanes]

/-- Nothing but lanes and ports changes on the way, and the lanes are asked for Run. -/
theorem unpark_lanes (hl : x.link = .parked) (he : echoFree s p x) :
    (∀ l ∈ portLanes p x, (lane (unpark p s) l).req = 0) ∧ OnlyLink s (unpark p s) := by
  rw [unpark_eq hx hl he]
  exact ⟨lane_onLanes_sets p x s (fun y => y.req = 0) fun _ => rfl, (OnlyLink.onLanes ..).trans (.modPort ..)⟩

theorem exec_portPark (hl : x.link = .negotiating) (hdelay : x.guard.parkDelay ≠ 0) (hquiet : 1024 * x.guard.parkDelay ≤ x.quiet)
    (hsig : allQuiet s p x = true) : exec (.portPark p) s = .next
      (modPort p (fun y => toLink .parked (idx s) (startProbe y)) (onLanes p x (askRung x.guard.parkRung) s)) := by
  have row : exec (.portPark p) s = .next (setLink p .parked (modPort p startProbe (lanesReq p x.guard.parkRung s))) := by
    change execPortPark p s = _
    simp only [execPortPark, hx]
    exact congrArg _ (if_pos ⟨hl, hdelay, hquiet, hsig⟩)
  have probing : port (modPort p startProbe (onLanes p x (askRung x.guard.parkRung) s)) p = some (startProbe x) := by simp [hx]
  rw [row, lanesReq_eq hx, setLink_parked probing (by simp [startProbe, hl]), modPort_modPort, idx_modPort, idx_onLanes]

/-- A probe leaves the parking and sends its pages for a rubber. -/
theorem exec_portProbe (hl : x.link = .parked) (hprobe : 1024 * x.guard.probe ≤ x.probe) : exec (.portProbe p) s = .next
    (modPort p (fun y => { y with probeEnd := some (now s + 1024) }) (unpark p s)) := by
  change execPortProbe p s = _
  simp only [execPortProbe, hx]
  exact congrArg _ (if_pos ⟨hl, hprobe⟩)

/-- Signal energy on a lane that left rung 5 ends the parking. -/
theorem exec_parkedSignal (hl : x.link = .parked) (hsig : ∃ l ∈ portLanes p x, (lane s l).rung < 5) :
    exec (.parkedSignal p) s = .next (unpark p s) := by
  have shallow : (portLanes p x).any (fun l => decide ((lane s l).rung < 5)) = true := by simpa using hsig
  change execParkedSignal p s = _
  simp only [execParkedSignal, hx]
  exact congrArg _ (if_pos ⟨hl, shallow⟩)

/-- A lane at rung 5 hears nothing. -/
theorem exec_parkedSignal_deep (hdeep : ∀ l ∈ portLanes p x, 5 ≤ (lane s l).rung) : exec (.parkedSignal p) s = .next s := by
  have deep : (portLanes p x).any (fun l => decide ((lane s l).rung < 5)) = false := by simpa using hdeep
  change execParkedSignal p s = _
  simp only [execParkedSignal, hx]
  exact congrArg _ (if_neg (by simp [deep]))

end

/-! ## Storms (04 R110) -/

/-- A port with storm state of priority i set or cleared; its watchdog starts anew. -/
def markStorm (i : Nat) (on : Bool) (x : Port) : Port :=
  { x with
    stormQuiet := x.stormQuiet.set i 0
    pausedRun := x.pausedRun.set i 0
    storm31 := if i = 8 then on else x.storm31
    storm := if i = 8 then x.storm else if on then x.storm ||| (1#8 <<< i) else x.storm &&& ~~~(1#8 <<< i) }

theorem setStorm_eq (p i : Nat) (on : Bool) (s : State) : setStorm p i on s = modPort p (markStorm i on) s := by
  refine congrArg (fun f => modPort p f s) (funext fun x => ?_)
  unfold markStorm
  split <;> rfl

/-- Setting or clearing one bit of eight leaves the others. -/
theorem testBit_mark {i j : Nat} (hi : i < 8) (hj : j < 8) (on : Bool) (v : BitVec 8) :
    (if on then v ||| (1#8 <<< i) else v &&& ~~~(1#8 <<< i)).toNat.testBit j = if j = i then on else v.toNat.testBit j := by
  have bit : (1#8 <<< i).getLsbD j = decide (j = i) := by
    rw [← BitVec.twoPow_eq, BitVec.getLsbD_twoPow]
    simp [hi, eq_comm]
  rw [BitVec.testBit_toNat, BitVec.testBit_toNat]
  cases on
  · rw [if_neg Bool.false_ne_true, BitVec.getLsbD_and, BitVec.getLsbD_not, bit]
    by_cases h : j = i <;> simp [h, hj]
  · rw [if_pos rfl, BitVec.getLsbD_or, bit]
    by_cases h : j = i <;> simp [h]

/-- The mark sets the storm state of its priority and no other. -/
theorem inStorm_markStorm {i j : Nat} (hi : i ≤ 8) (hj : j ≤ 8) (on : Bool) (x : Port) :
    inStorm (markStorm i on x) j = if j = i then on else inStorm x j := by
  unfold inStorm markStorm
  by_cases hi8 : i = 8
  · by_cases hj8 : j = 8 <;> simp [hi8, hj8]
  by_cases hj8 : j = 8
  · simp [hi8, hj8, Ne.symm hi8]
  · simp only [if_neg hi8, if_neg hj8]
    exact testBit_mark (by omega) (by omega) on x.storm

section
variable {p i : Nat} {s : State} {x : Port} (hx : port s p = some x) (hi : i ≤ 8)
include hx hi

theorem exec_stormEnter (hl : x.link = .up) (hw : watched x i = true) (hs : inStorm x i = false) (hstorm : x.guard.storm ≠ 0)
    (hrun : x.guard.storm ≤ at0 x.pausedRun i) :
    exec (.stormEnter p i) s = .next (portFault 51 p i (stormDiscard p (setStorm p i true s))) := by
  change execStormEnter p i s = _
  simp only [execStormEnter, hx]
  exact congrArg _ (if_pos ⟨hl, hi, hw, hs, hstorm, hrun⟩)

theorem exec_stormExit (hs : inStorm x i = true) (hquiet : x.guard.storm ≤ at0 x.stormQuiet i) :
    exec (.stormExit p i) s = .next (modPort p (markStorm i false) s) := by
  change execStormExit p i s = _
  simp only [execStormExit, hx, ← setStorm_eq]
  exact congrArg _ (if_pos ⟨hi, hs, hquiet⟩)

end

/-! ## Uncorrectable codewords (04 R102, R109) -/

theorem exec_fecUncorrectable {l : Nat} {s : State} {y : Nat × Port} (hy : portOfLane s l = some y) :
    exec (.fecUncorrectable l) s = .next (portFault 50 y.1 l (ev 0x010B y.1
      (modPort y.1 (fun z => { z with rxBad := z.rxBad || (y.2.arriving.isSome || y.2.early.isSome || y.2.staged.any (fun f => !f.whole)) }) s))) := by
  change execFecUncorrectable l s = _
  simp only [execFecUncorrectable, hy]

/-- Settles O19: each row is one named change of the port and of its lanes. -/
theorem guardRowsComplete : Obligations.GuardRowsComplete := by
  refine ⟨?park, ?probe, ?signal, ?deep, ?fec, ?enter, ?exit⟩
  case park =>
    intro p s x hx hl hdelay hquiet hsig
    refine ⟨_, exec_portPark hx hl hdelay hquiet hsig, ?_, ?_, (OnlyLink.onLanes ..).trans (.modPort ..)⟩
    · simp [hx, toLink, startProbe]
    · exact lane_onLanes_sets p x s (fun y => y.req = x.guard.parkRung) fun _ => rfl
  case probe =>
    intro p s x hx hl hprobe he
    obtain ⟨hreq, honly⟩ := unpark_lanes hx hl he
    refine ⟨_, exec_portProbe hx hl hprobe, ?_, hreq, honly.trans (.modPort ..)⟩
    simp [unpark_eq hx hl he, hx, toLink, forgetLink]
  case signal =>
    intro p s x hx hl he hsig
    obtain ⟨hreq, honly⟩ := unpark_lanes hx hl he
    refine ⟨_, exec_parkedSignal hx hl hsig, ?_, hreq, honly⟩
    simp [unpark_eq hx hl he, hx, toLink, forgetLink]
  case deep =>
    intro p s x hx hdeep
    exact exec_parkedSignal_deep hx hdeep
  case fec =>
    intro l s y hy
    exact exec_fecUncorrectable hy
  case enter =>
    intro p i s x hx hl hi hw hs hstorm hrun
    exact exec_stormEnter hx hi hl hw hs hstorm hrun
  case exit =>
    intro p i s x hx hi hs hquiet
    refine ⟨_, markStorm i false x, exec_stormExit hx hi hs hquiet, onlyPort_modPort .., ?_, ?_, fun j hj hne => ?_⟩
    · rw [port_modPort_same, hx, Option.map_some]
    · rw [inStorm_markStorm hi hi, if_pos rfl]
    · rw [inStorm_markStorm hi hj, if_neg hne]

end Sys2Proof.Proofs
end

/-! PROOFS. Neighbour discovery, ESMC, SyncE and references (04 R106, R111 to R113; 03 R64; 18 R530; 19 R546): the rows of firmware's PDUs, of a SyncE output and of a reference. -/

section
namespace Sys2Proof.Proofs

open Sys2Proof Sys2Proof.Machine Sys2Proof.Safety Sys2Proof.Laws

section
variable {p : Nat} {s : State} {x : Port} (hx : port s p = some x)
include hx

/-! ## LLDP (04 R106) -/

/-- While the port is UP firmware sends an LLDPDU that is due. -/
theorem exec_lldpTx (hl : x.link = .up) (hon : x.lldp = true) (hfw : s.boot.fwRunning = true) (hdue : pduDue s x.lldpAt (30 * 10 ^ 9) = true) :
    exec (.lldpTx p) s =
      .next (macSend p (lldpFrame (drawFree 30 s).1) (modPort p (fun y => { y with lldpAt := some (now s) }) (drawFree 30 s).2)) := by
  change execLldpTx p s = _
  simp only [execLldpTx, hx]
  exact congrArg _ (if_pos ⟨hl, hon, hfw, hdue⟩)

/-- An LLDPDU that parses sets the neighbour, or ends it with a TTL of 0. -/
theorem exec_lldpduReceive (hl : x.link = .up) (hon : x.lldp = true) (hfw : s.boot.fwRunning = true) {pdu : List Byte} {n : Neighbour}
    (hn : neighbourOf pdu (now s) = some n) :
    exec (.lldpduReceive p pdu) s = .next (modPort p (fun y => { y with neighbour := if n.ttl = 0 then none else some n }) s) := by
  change execLldpduReceive p pdu s = _
  simp only [execLldpduReceive, hx, hn]
  exact congrArg _ (if_pos ⟨hl, hon, hfw⟩)

/-- A neighbour whose TTL has run out goes. -/
theorem exec_lldpTtlExpiry {n : Neighbour} (hn : x.neighbour = some n) (httl : n.ttl * 10 ^ 9 ≤ (now s - n.at_) * 1024) :
    exec (.lldpTtlExpiry p) s = .next (modPort p (fun y => { y with neighbour := none }) s) := by
  change execLldpTtlExpiry p s = _
  simp only [execLldpTtlExpiry, hx, hn]
  exact congrArg _ (if_pos httl)

/-! ## ESMC (04 R113) -/

/-- While the port is UP firmware sends an information PDU that is due, and the event PDU of a new QL at any time. -/
theorem exec_esmcTx (hl : x.link = .up) (hon : x.esmc = true) (hfw : s.boot.fwRunning = true) (event : Bool)
    (hdue : event = true ∨ pduDue s x.esmcAt (10 ^ 9) = true) :
    let ql := if event then newQl x.ql ((drawFree 24 s).1.getD 23 0) else x.ql
    exec (.esmcTx p event) s = .next (macSend p (esmcFrame event ql (drawFree 24 s).1)
      (modPort p (fun y => { y with ql := ql, esmcAt := if event then x.esmcAt else some (now s) }) (drawFree 24 s).2)) := by
  intro ql
  have due : (event || pduDue s x.esmcAt (10 ^ 9)) = true := by simpa using hdue
  change execEsmcTx p event s = _
  simp only [execEsmcTx, hx]
  exact congrArg _ (if_pos ⟨hl, hon, hfw, due⟩)

end

/-! ## SyncE outputs (04 R111) -/

/-- An output whose lane has had its clock for 64 tricks carries it again. -/
theorem exec_synceOutResume {o l : Nat} {s : State} (ho : o < 2) (hout : s.refs.out.getD o none = some l) (hgood : synceGood s l = true)
    (hup : s.refs.upAt.getD o 0 + 64 ≤ now s) :
    exec (.synceOutResume o) s = .next { s with refs := { s.refs with low := s.refs.low.set o false } } := by
  change execSynceOutResume o s = _
  simp only [execSynceOutResume, hout]
  exact congrArg _ (if_pos ⟨ho, hgood, hup⟩)

/-! ## References -/

theorem exec_refclkLoss {r : Nat} (h : r < 6) (s : State) : exec (.refclkLoss r) s = .next (refLoss r s) := congrArg _ (if_pos h)

/-- The loss of REFCLK_M stops time and takes READY away (18 R530; 19 R546). -/
theorem refLoss_main {s : State} (h : s.refs.lost.contains 4 = false) :
    refLoss 4 s = fault 48 0 4 { s with
      refs := { s.refs with lost := 4 :: s.refs.lost }, time := { s.time with running := false }, boot := { s.boot with ready := false, refMLost := true } } :=
  if_neg (by simpa using h)

/-- Settles O20: each row acts as its conditions let it. -/
theorem protocolRowsComplete : Obligations.ProtocolRowsComplete := by
  refine ⟨?lldpTx, ?lldpdu, ?ttl, ?esmc, ?esmcEvent, ?synce, ?loss, ?lossMain, ?back⟩
  case lldpTx =>
    intro p s x hx hl hon hfw hdue
    exact exec_lldpTx hx hl hon hfw hdue
  case lldpdu =>
    intro p pdu s x n hx hl hon hfw hn
    exact ⟨_, exec_lldpduReceive hx hl hon hfw hn, onlyPort_modPort .., by rw [port_modPort_same, hx, Option.map_some]⟩
  case ttl =>
    intro p s x n hx hn httl
    exact ⟨_, exec_lldpTtlExpiry hx hn httl, onlyPort_modPort .., by rw [port_modPort_same, hx, Option.map_some]⟩
  case esmc =>
    intro p s x hx hl hon hfw hdue
    exact exec_esmcTx hx hl hon hfw false (.inr hdue)
  case esmcEvent =>
    intro p s x hx hl hon hfw
    exact exec_esmcTx hx hl hon hfw true (.inl rfl)
  case synce =>
    intro o l s ho hout hgood hup
    exact exec_synceOutResume ho hout hgood hup
  case loss =>
    intro r s hr
    exact exec_refclkLoss hr s
  case lossMain =>
    intro s h
    rw [exec_refclkLoss (by decide), refLoss_main h]
  case back =>
    intro r s
    rfl

end Sys2Proof.Proofs
end

/-! PROOFS. The parser group's setting (05 R140): a request that is refused, and what an accepted one makes at its boundary. -/

section
namespace Sys2Proof.Proofs

open Sys2Proof Sys2Proof.Machine Sys2Proof.Safety Sys2Proof.Laws

/-- A waiting command on a unit of this chip whose own part finds a field at fault is answered BAD_ARG at its offset (13 R401). -/
theorem runCmd_onPath_bad {m code len off : Nat} {kinds : List Nat} {p : List Byte} {s t : State} {go : Cmd → State → Path → List Byte → Ans}
    (hw : waiting m code p s = true) (ha : addressed s p len kinds = true) (hgo : ∀ c, c.code = code → go c s (pathOf p) p = ansBad off t) :
    runCmd code m (fun c u => onPath m c.code len kinds c u (go c u)) s = answer m stBadArg (detailAt off) [] t := by
  obtain ⟨c, _, hc, rfl, _, hrun⟩ := runCmd_waiting hw (fun c u => onPath m c.code len kinds c u (go c u))
  rw [hrun, onPath_addressed _ ha, hgo c hc]
  rfl

/-- A LIMIT_ACTION above 1 is the first field at fault, whatever the bytes behind it hold. -/
theorem parserGroupSet_bad {m : Nat} {c : Cmd} {p : List Byte} {s : State} (h : 1 < fld p 16 1) : parserGroupSet m c p s = ansBad 16 s :=
  checks_fail (List.find?_cons_of_pos (by simpa using h))

/-- The setting that waits writes LIMIT_ACTION of the group on the request's path. -/
theorem settle1_parserGroupSet (m : Nat) (p : List Byte) (s : State) :
    settle1 { code := 0x0221, req := p, mb := m } s =
      modGrp (pathOf p).index (fun g => { g with limitForward := decide (fld p 16 1 = 1) }) s := by
  unfold settle1
  rfl

/-- Settles O56: acceptance is the clause of O3, a value above 1 fails the first check, and the boundary changes the one group. -/
theorem parserGroupSetIsChecked : Obligations.ParserGroupSetIsChecked := by
  refine ⟨fun m p s hw ha => ⟨?accepted, ?refused⟩, fun m p s _ => ⟨?group, ?others⟩, ?reset⟩
  case accepted =>
    have ⟨_, _, _, _, _, parserGroup⟩ := portCommandsComplete
    exact parserGroup m p s hw ha
  case refused =>
    intro hbad
    exact congrArg _ (runCmd_onPath_bad hw ha fun _ _ => parserGroupSet_bad hbad)
  case group =>
    rw [settle1_parserGroupSet, grp_modGrp_same]
  case others =>
    intro g hg
    rw [settle1_parserGroupSet, grp_modGrp_other _ _ hg]
  case reset =>
    exact fun _ => rfl

end Sys2Proof.Proofs
end

/-! PROOFS. Table commands (06 R143, R145, R157, R160, R170, R180 to R182): what the own part of each answers when its fields are in their ranges. -/

section
namespace Sys2Proof.Proofs

open Sys2Proof Sys2Proof.Machine Sys2Proof.Safety Sys2Proof.Laws

/-! ## Commands that look for their unit themselves -/

/-- A payload addressed to a unit of this chip is addressed, and the unit exists. -/
theorem addressed_iff {s : State} {p : List Byte} {len : Nat} {kinds : List Nat} :
    addressed s p len kinds = true ↔ addressedAny s p len kinds = true ∧ unitExists s (pathOf p) = true :=
  Bool.and_eq_true_iff

/-- A waiting command on a path of this chip waits for an outside event when its own part does (13 R402). -/
theorem runCmd_onPathAny_held {m code len : Nat} {kinds : List Nat} {p : List Byte} {s t : State} {w : Wait} {go : Cmd → State → Path → List Byte → Ans}
    (hw : waiting m code p s = true) (ha : addressedAny s p len kinds = true) (hgo : ∀ c, c.code = code → go c s (pathOf p) p = .hold w t) :
    runCmd code m (fun c u => onPathAny m c.code len kinds c u (go c u)) s = held m w t := by
  refine runCmd_held hw fun c _ hc hp => ?_
  subst hp
  rw [onPathAny_addressed _ ha, hgo c hc]

/-! ## TABLE_CREATE (06 R143, R145, R180) -/

section
variable {m : Nat} {c : Cmd} {p : List Byte} {s : State}
variable (ht : fld p 16 1 ≤ 63) (hz31 : fld p 31 1 = 0) (hz40 : fld p 40 8 = 0) (hempty : tableHolds s (fld p 16 1) = false)
include ht hz31 hz40 hempty

/-- KIND 0 removes a table that holds no entries; the other fields are not looked at. -/
theorem tableCreate_remove (hkind : fld p 17 1 = 0) : tableCreate m c p s = ansOk [] (scheduled m c.code p s) := by
  simp [tableCreate, checks_pass, ht, hz31, hz40, hempty, hkind, schedule, scheduled]

/-- KIND 1 or 2 defines a table on a region that it shares with tables of its width only. -/
theorem tableCreate_define (hkind : fld p 17 1 = 1 ∨ fld p 17 1 = 2) (hwide : fld p 18 1 ≤ 1) (hlog : 10 ≤ fld p 19 1 ∧ fld p 19 1 ≤ 20)
    (hbase : fld p 20 4 % 2 ^ fld p 19 1 = 0 ∧ fld p 20 4 + 2 ^ fld p 19 1 ≤ 1048576)
    (hkey : 1 ≤ fld p 24 2 ∧ fld p 24 2 ≤ (if fld p 18 1 = 1 then 216 else 88))
    (hladder : fld p 17 1 = 2 → 40 ≤ fld p 24 2 ∧ fld p 24 2 + 66 ≤ (if fld p 18 1 = 1 then 256 else 128))
    (hmode : fld p 26 1 ≤ 2) (hshift : fld p 27 1 ≤ 15) (hlimit : fld p 26 1 ≠ 0 → 1 ≤ fld p 28 2 ∧ fld p 28 2 ≤ 32767) (hlearn : fld p 30 1 < 4)
    (hwidths : widthsOk s (fld p 16 1) (descOf p) = true) (hclear : mcastClear s (descOf p) = true) :
    tableCreate m c p s = ansOk [] (scheduled m c.code p s) := by
  have hkind0 : fld p 17 1 ≠ 0 := by omega
  have hkind2 : fld p 17 1 ≤ 2 := by omega
  have ladder : fld p 17 1 = 1 ∨ 40 ≤ fld p 24 2 ∧ fld p 24 2 + 66 ≤ (if fld p 18 1 = 1 then 256 else 128) := hkind.imp_right hladder
  have limit : fld p 26 1 = 0 ∨ 1 ≤ fld p 28 2 ∧ fld p 28 2 ≤ 32767 := Decidable.or_iff_not_imp_left.mpr hlimit
  unfold tableCreate
  dsimp only
  rw [checks_pass (by simp [ht, hkind2, hz31, hz40]), if_neg hkind0, checks_pass ?ranges, hempty]
  case ranges => simpa [descOf, entW, hwide, hlog, hbase, hkey, ladder, hmode, hshift, limit, hlearn] using ⟨hwidths, hclear⟩
  rfl

end

/-! ## TABLE_LADDER_SET (06 R160, R180) -/

/-- A ladder's default alone is set at any time, its rungs while the table holds no entries. -/
theorem tableLadderSet_ok {m : Nat} {c : Cmd} {p : List Byte} {s : State} {d : TableDesc} (hd : fwTable s (fld p 16 1) = some d)
    (hladder : d.ladder = true) (hfl : fld p 19 1 < 2) (hz : fld p 55 9 = 0)
    (hrungs : fld p 19 1 = 0 → fld p 17 1 ≤ 31 ∧ (fld p 18 1 = 32 ∨ fld p 18 1 = 128) ∧ fld p 18 1 + 8 ≤ d.keyBits ∧ rungsOk p = true ∧
      tableHolds s (fld p 16 1) = false) :
    tableLadderSet m c p s = ansOk [] (scheduled m c.code p s) := by
  unfold tableLadderSet
  simp only [hd]
  rw [checks_pass (by simp [hladder, hfl, hz])]
  obtain h0 | h1 : fld p 19 1 = 0 ∨ fld p 19 1 = 1 := by omega
  · obtain ⟨hn, haddr, hkey, hlen, hempty⟩ := hrungs h0
    rw [if_neg (by simp [h0]), checks_pass (by simpa [hn, hkey, hlen] using haddr), if_neg (by simp [hempty])]
    rfl
  · rw [if_pos (by simp [h1])]
    rfl

/-! ## TABLE_OP (06 R157, R168, R170, R181) -/

/-- The entry image of a TABLE_OP request; of its control word only LOCK counts (06 R181). -/
def opImage (p : List Byte) : BitVec 256 :=
  BitVec.ofNat 256 (fld p 32 32 - fld p 32 32 % 2 ^ 32 + b2n (entLock (fld p 32 32)) * 2 ^ 30)

/-- The operation that a TABLE_OP request in mailbox m puts on a command queue. -/
def opRequested (m : Nat) (p : List Byte) : EngineOp :=
  .keyed (.command m) (fld p 16 1) (fld p 17 1) ((fld p 18 1).testBit 0) (fld p 19 1) (fld p 20 4) (opImage p)

/-- A device-wide operation on a table that learns finds learning held and every record replicated (06 R170). -/
def opPrepared (d : TableDesc) (q : Path) (t : Nat) (s : State) : State :=
  if d.learn = true ∧ q.kind = 1 then replicateTable t (holdLearn t s) else s

/-- Operations 1 to 5 name a key alone; PLACE names a slot of the table's region, and one cluster (06 Table 6.12). -/
def OpNamed (d : TableDesc) (q : Path) (p : List Byte) : Prop :=
  ((1 ≤ fld p 17 1 ∧ fld p 17 1 ≤ 5) ∧ fld p 19 1 = 0 ∧ fld p 20 4 = 0) ∨
  (fld p 17 1 = 6 ∧ q.kind ≠ 1 ∧ fld p 19 1 < 4 ∧ (d.wide = true → fld p 19 1 % 2 = 0) ∧ inRegion d (fld p 20 4) = true)

section
variable {m : Nat} {q : Path} {p : List Byte} {s : State} {d : TableDesc}

/-- With room at every cluster that it addresses, and no device-wide operation on the table before it, a TABLE_OP joins their queues and waits for their answers. -/
theorem tableOp_queued (hd : fwTable s (fld p 16 1) = some d) (hunit : unitExists s q = true) (hop : OpNamed d q p)
    (hforce : fld p 18 1 < 2) (hz : fld p 24 8 = 0) (himg : d.wide = true ∨ fld p 48 16 = 0)
    (hroom : ∀ n ∈ opClusters s q, 1 ≤ cmdRoom s n) (hturn : q.kind = 1 → tableBusy s m (fld p 16 1) = false) :
    tableOp m q p s = .hold (.table (opClusters s q) false) (modCmd m (fun x => { x with outs := [] })
      (forAll (opClusters s q) (fun n acc => pushOp n (opRequested m p) acc) (opPrepared d q (fld p 16 1) s))) := by
  have room : (opClusters s q).any (fun n => decide (cmdRoom s n = 0)) = false :=
    List.any_eq_false.mpr fun n hn => by have := hroom n hn; simp; omega
  have turn : (decide (q.kind = 1) && tableBusy s m (fld p 16 1)) = false := by simpa using hturn
  unfold tableOp
  simp only [hunit, hd, Bool.true_eq_false, and_false, if_false]
  rw [checks_pass ?ranges, room, turn]
  case ranges =>
    rcases hop with ⟨⟨hlo, hhi⟩, hslot, hb⟩ | ⟨h6, hkind, hslot, hpair, hreg⟩
    · have h6 : fld p 17 1 ≠ 6 := by omega
      have hle : fld p 17 1 ≤ 6 := by omega
      simpa [h6, hlo, hle, hforce, hslot, hb, hz] using himg
    · have pair : d.wide = false ∨ fld p 19 1 % 2 = 0 := by simpa [Decidable.imp_iff_not_or] using hpair
      simpa [h6, hkind, hforce, hslot, pair, hreg, hz] using himg
  rfl

end

/-! ## TABLE_STATUS_GET (06 R182) -/

/-- The report of a table is the sum over the clusters addressed. -/
theorem tableStatus_ok {q : Path} {p : List Byte} {s : State} {d : TableDesc} (ht : fld p 16 1 ≤ 63) (hz : fld p 17 7 = 0)
    (hunit : unitExists s q = true) (hd : fwTable s (fld p 16 1) = some d) :
    tableStatus q p s = ansOk (let l := (opClusters s q).map (tableReport s (fld p 16 1) d)
      sumFields l 0 4 4 ++ sumFields l 16 8 3 ++ sumFields l 40 4 10) s := by
  unfold tableStatus
  dsimp only
  rw [checks_pass (by simp [ht, hz])]
  simp [hunit, hd]

/-! ## The rows of the commands -/

section
variable {m : Nat} {p : List Byte} {s : State} {d : TableDesc} (hw : waiting m 0x0303 p s = true)
include hw

/-- TABLE_OP on one cluster joins its queue. -/
theorem exec_tableOp_cluster (ha : addressed s p 64 [7] = true) (hd : fwTable s (fld p 16 1) = some d) (hop : OpNamed d (pathOf p) p)
    (hforce : fld p 18 1 < 2) (hz : fld p 24 8 = 0) (himg : d.wide = true ∨ fld p 48 16 = 0) (hroom : 1 ≤ cmdRoom s (pathOf p).index) :
    exec (.tableOp m) s = .next (held m (.table [(pathOf p).index] false) (modCmd m (fun x => { x with outs := [] })
      (pushOp (pathOf p).index (opRequested m p) s))) := by
  have ⟨hany, hunit⟩ := addressed_iff.mp ha
  have kind : (pathOf p).kind = 7 := by simpa using addressed_kind ha
  have one : opClusters s (pathOf p) = [(pathOf p).index] := if_pos kind
  have prep : opPrepared d (pathOf p) (fld p 16 1) s = s := if_neg (by simp [kind])
  refine congrArg _ (runCmd_onPathAny_held hw (addressedAny_mono hany (by simp)) fun _ _ => ?_)
  rw [tableOp_queued hd hunit hop hforce hz himg (by simpa [one] using hroom) (by simp [kind]), one, prep]
  rfl

/-- A device-wide TABLE_OP joins the queue of every cluster (06 R170). -/
theorem exec_tableOp_device (ha : addressed s p 64 [1] = true) (hd : fwTable s (fld p 16 1) = some d) (hop : OpNamed d (pathOf p) p)
    (hforce : fld p 18 1 < 2) (hz : fld p 24 8 = 0) (himg : d.wide = true ∨ fld p 48 16 = 0)
    (hroom : ∀ n < clusterCount s, 1 ≤ cmdRoom s n) (hturn : tableBusy s m (fld p 16 1) = false) :
    exec (.tableOp m) s = .next (held m (.table (clustersHere s) false) (modCmd m (fun x => { x with outs := [] })
      (forAll (clustersHere s) (fun n acc => pushOp n (opRequested m p) acc)
        (if d.learn then replicateTable (fld p 16 1) (holdLearn (fld p 16 1) s) else s)))) := by
  have ⟨hany, hunit⟩ := addressed_iff.mp ha
  have kind : (pathOf p).kind = 1 := by simpa using addressed_kind ha
  have all : opClusters s (pathOf p) = clustersHere s := if_neg (by simp [kind])
  refine congrArg _ (runCmd_onPathAny_held hw (addressedAny_mono hany (by simp)) fun _ _ => ?_)
  rw [tableOp_queued hd hunit hop hforce hz himg (by simpa [all, clustersHere] using hroom) fun _ => hturn, all]
  simp only [opPrepared, kind, and_true]

end

/-- Settles O4: the settings pass their checks and wait, the operation joins the queues of the clusters it addresses, the status is reported. -/
theorem tableCommandsComplete : Obligations.TableCommandsComplete := by
  refine ⟨?remove, ?define, ?ladder, ?keyed, ?placed, ?deviceWide, ?status⟩
  case remove =>
    intro m p s hw ha ht hkind hz31 hz40 hempty
    refine congrArg _ (runCmd_onPath_answered hw ha fun c hc => ?_)
    rw [tableCreate_remove ht hz31 hz40 hempty hkind, hc]
  case define =>
    intro m p s hw ha ht hkind hz31 hz40 hwide hlog hbase hkey hladder hmode hshift hlimit hlearn hwidths hclear hempty
    refine congrArg _ (runCmd_onPath_answered hw ha fun c hc => ?_)
    rw [tableCreate_define ht hz31 hz40 hempty hkind hwide hlog hbase hkey hladder hmode hshift hlimit hlearn hwidths hclear, hc]
  case ladder =>
    intro m p s d hw ha hd hladder hfl hz hrungs
    refine congrArg _ (runCmd_onPath_answered hw ha fun c hc => ?_)
    rw [tableLadderSet_ok hd hladder hfl hz hrungs, hc]
  case keyed =>
    intro m p s d hw ha hd hop hforce hslot hb hz himg hroom
    simpa only [opRequested, opImage, hslot, hb] using exec_tableOp_cluster hw ha hd (.inl ⟨hop, hslot, hb⟩) hforce hz himg hroom
  case placed =>
    intro m p s d hw ha hd h6 hforce hslot hpair hreg hz himg hroom
    have kind : (pathOf p).kind = 7 := by simpa using addressed_kind ha
    simpa only [opRequested, opImage, h6] using
      exec_tableOp_cluster hw ha hd (.inr ⟨h6, by simp [kind], hslot, hpair, hreg⟩) hforce hz himg hroom
  case deviceWide =>
    intro m p s d hw ha hd hop hforce hslot hb hz himg hroom hturn
    simpa only [opRequested, opImage, hslot, hb] using exec_tableOp_device hw ha hd (.inl ⟨hop, hslot, hb⟩) hforce hz himg hroom hturn
  case status =>
    intro m p s d hw ha ht hz hd
    have ⟨hany, hunit⟩ := addressed_iff.mp ha
    exact congrArg _ (runCmd_onPathAny_answered hw hany fun _ _ => tableStatus_ok ht hz hunit hd)

end Sys2Proof.Proofs
end

/-! PROOFS. Rows of tables and memories (06 R151, R163 to R170, R178; 17 R508): what each leaves when its turn has come. -/

section
namespace Sys2Proof.Proofs

open Sys2Proof Sys2Proof.Machine Sys2Proof.Safety Sys2Proof.Laws

/-- The definitions that firmware sees do not depend on the clusters. -/
@[simp] theorem fwTable_modCluster (c k : Nat) (f : Cluster → Cluster) (s : State) : fwTable (modCluster c f s) k = fwTable s k := rfl

/-! ## The engine of a cluster (06 R151) -/

section
variable {n : Nat} {s t : State}

/-- While write slots of the trick are left, the engine takes every operation. -/
theorem engineTakes_slotsLeft (h : (cluster s n).slotsUsed < 64) : engineTakes n t s = t := if_pos (.inl h)

/-- With slots of the next trick used, it takes none. -/
theorem engineTakes_slotsGone (h : 64 < (cluster s n).slotsUsed) : engineTakes n t s = s := if_neg (by omega)

/-- A bucket write at the front of the command queue. -/
theorem engineCmd_bucket {b : Nat} {v : BitVec 512} {ch : Option Nat} {rest : List EngineOp} (hq : (cluster s n).cmdQ = .bucket b v ch :: rest) :
    engineCmd n s = bucketWrite n b v (modCluster n (fun c => cmdFill { c with cmdQ := rest, rr := 1 }) s) := by
  simp only [engineCmd, hq]

/-- A keyed operation at the front of the command queue. -/
theorem engineCmd_keyed {t op slot b : Nat} {why : OpWhy} {force : Bool} {img : BitVec 256} {rest : List EngineOp}
    (hq : (cluster s n).cmdQ = .keyed why t op force slot b img :: rest) :
    engineCmd n s = reinsertNext (runKeyed n why t op force slot b img (modCluster n (fun c => cmdFill { c with cmdQ := rest, rr := 1 }) s)) := by
  simp only [engineCmd, hq]

/-- TABLE_ENGINE_OP on the command queue's turn, with write slots left, executes the oldest operation. -/
theorem exec_tableEngineOp_turn (hturn : engineTurn (cluster s n) = some 0) (hslots : (cluster s n).slotsUsed < 64) :
    exec (.tableEngineOp n) s = .next (engineCmd n s) :=
  congrArg _ ((if_pos hturn).trans (engineTakes_slotsLeft hslots))

/-- Without a write slot nothing happens, whoever's turn it is. -/
theorem exec_tableEngineOp_slotsGone (hslots : 64 < (cluster s n).slotsUsed) : exec (.tableEngineOp n) s = .next s :=
  congrArg _ ((if_congr Iff.rfl (engineTakes_slotsGone hslots) rfl).trans (ite_self s))

/-- LEARN_EXECUTE on the learn queue's turn executes the oldest request whose table is not held (06 R165, R170). -/
theorem exec_learnExecute_turn {r : LearnReq} (hturn : engineTurn (cluster s n) = some 1)
    (hr : (cluster s n).learnQ.find? (fun r => !(cluster s n).learnHold.contains r.table) = some r) (hslots : (cluster s n).slotsUsed < 64) :
    exec (.learnExecute n) s = .next (runLearn n r (modCluster n (fun x => { x with learnQ := x.learnQ.erase r, rr := 2 }) s)) := by
  refine congrArg _ ((if_pos hturn).trans ?_)
  simp only [hr, engineTakes_slotsLeft hslots]

/-! ## Ageing (06 R163, R164) -/

/-- The age queue gives its oldest deletion, and the turn passes on. -/
def ageTaken (n : Nat) (rest : List AgeDel) (s : State) : State := modCluster n (fun x => { x with ageQ := rest, rr := 0 }) s

section
variable {a : AgeDel} {rest : List AgeDel} {d : TableDesc} (hturn : engineTurn (cluster s n) = some 2) (hq : (cluster s n).ageQ = a :: rest)
  (hd : fwTable s a.table = some d) (hslots : (cluster s n).slotsUsed < 64)
include hturn hq hd hslots

/-- AGE_DELETE_EXECUTE of an entry that is still idle deletes it, counts it and raises AGED. -/
theorem exec_ageDeleteExecute_idle (hidle : stillIdle (cluster s n) d a = true) :
    exec (.ageDeleteExecute n) s = .next (evAdd 0x0418 n a.table 1 (notify n 4 a.table (unitSlot d a.slot) a.bucket
      (entImage (unitGet d (bucketGet (cluster s n) a.bucket) a.slot))
      (modCluster n (fun x => useSlots 1 (bucketUnit d a.bucket a.slot 0 x)) (ageTaken n rest s)))) := by
  refine congrArg _ ((if_pos hturn).trans ?_)
  simp only [hq, fwTable_modCluster, hd, if_pos hidle, engineTakes_slotsLeft hslots, ageTaken]

/-- The deletion of an entry that was refreshed, locked, moved or deleted since is dropped. -/
theorem exec_ageDeleteExecute_stale (hidle : stillIdle (cluster s n) d a = false) :
    exec (.ageDeleteExecute n) s = .next (ageTaken n rest s) := by
  refine congrArg _ ((if_pos hturn).trans ?_)
  simp only [hq, fwTable_modCluster, hd, hidle, Bool.false_eq_true, if_false, engineTakes_slotsLeft hslots, ageTaken]

end

/-- AGER_VISIT with room in both queues examines the units of the next bucket that ages, from where its scan had paused. -/
theorem exec_agerVisit_bucket {b t : Nat} {d : TableDesc} (hnotif : notifRoom (cluster s n) = true) (hage : (cluster s n).ageQ.length < 256)
    (hb : agerBucket s (cluster s n).ager = some b) (hret : isRetired (cluster s n) b = false) (hd : regionTable s b = some (t, d)) :
    exec (.agerVisit n) s =
      .next (agerUnits n b d ((List.range (unitCount d)).drop (if b = (cluster s n).ager then (cluster s n).agerAt else 0)) s) := by
  have room : ¬ (notifRoom (cluster s n) = false ∨ 256 ≤ (cluster s n).ageQ.length) := by simpa [hnotif] using hage
  refine congrArg _ ((if_neg room).trans ?_)
  simp only [hb, hd, hret, Bool.false_eq_true, if_false]

/-! ## Notifications (06 R167 to R169; 14 R441, R442) -/

/-- NOTIFICATION_FORWARD passes the oldest record, once replicated, to the event ring when that can take it. -/
theorem exec_notificationForward_ring {r : Notif} {rest : List Notif} (ht : reinsertNext (replicateNext n s) = t)
    (hq : (cluster t n).notif = r :: rest) (hdone : r.done = true) (hring : t.link.evtValid = true) (hroom : rxTo t t.link.evtRing 2 ≠ .dropped) :
    exec (.notificationForward n) s = .next (rxPost t.link.evtRing (eventEntry r) none
      (notifyRetired n (modCluster n (fun c => { c with notif := rest }) t))) := by
  subst ht
  refine congrArg Host.Outcome.next ?_
  dsimp only
  simp only [hq]
  exact if_pos ⟨hdone, hring, hroom⟩

end

/-! ## Rows of memory (06 R178; 17 R508) -/

/-- Which rows exist does not depend on those that are watched. -/
@[simp] theorem rowExists_rowDone (f g : FailRow) (s : State) : rowExists (rowDone f s) g = rowExists s g := rfl

/-- Spares of a failing row's bank that are used when its repair begins. -/
def sparesUsed (f : FailRow) (s : State) : Nat := tabGetD (rowBad f (rowDone f s)).flt.spares (bankKey f) 0

/-- ROW_REPAIR of a failing row that exists takes a spare of its bank while one of the four is left, and retires the row after that. -/
theorem exec_rowRepair_failing {f : FailRow} {s : State} (hpow : powered s = true) (hfail : rowFailing s f = true)
    (hrow : rowExists s f = true) : exec (.rowRepair f) s = .next (
    if sparesUsed f s < 4 then
      rowEvent f (rowCopy f { rowBad f (rowDone f s) with flt := { (rowBad f (rowDone f s)).flt with
        spares := tabPut (rowBad f (rowDone f s)).flt.spares (bankKey f) (sparesUsed f s + 1) } })
    else rowRetire f (rowBad f (rowDone f s))) := by
  have there : ¬ rowExists (rowDone f s) f = false := by simp [hrow]
  exact congrArg _ ((if_pos (Bool.and_eq_true_iff.mpr ⟨hpow, hfail⟩)).trans (if_neg there))

/-- Settles O25: each row finds its turn, its room or its spare, and does what its rule says. -/
theorem tableRowsComplete : Obligations.TableRowsComplete := by
  refine ⟨?bucket, ?keyed, ?full, ?learn, ?ageDelete, ?ager, ?forward, ?spare, ?retire⟩
  case bucket =>
    intro n b v ch s rest hturn hq hslots
    rw [exec_tableEngineOp_turn hturn hslots, engineCmd_bucket hq]
  case keyed =>
    intro n t op slot b why force img s rest hturn hq hslots
    rw [exec_tableEngineOp_turn hturn hslots, engineCmd_keyed hq]
  case full =>
    exact fun _ _ hslots => exec_tableEngineOp_slotsGone hslots
  case learn =>
    exact fun _ _ _ hturn hr hslots => exec_learnExecute_turn hturn hr hslots
  case ageDelete =>
    intro n s a rest d hturn hq hd hslots
    exact ⟨exec_ageDeleteExecute_idle hturn hq hd hslots, exec_ageDeleteExecute_stale hturn hq hd hslots⟩
  case ager =>
    exact fun _ _ _ _ _ hnotif hage hb hret hd => exec_agerVisit_bucket hnotif hage hb hret hd
  case forward =>
    intro n s r rest t hq hdone hring hroom
    exact exec_notificationForward_ring rfl hq hdone hring hroom
  case spare =>
    intro f s hpow hfail hrow hleft
    rw [exec_rowRepair_failing hpow hfail hrow, if_pos (show sparesUsed f s < 4 from hleft)]
    rfl
  case retire =>
    intro f s hpow hfail hrow hgone
    rw [exec_rowRepair_failing hpow hfail hrow, if_neg (Nat.not_lt.mpr (show 4 ≤ sparesUsed f s from hgone))]

end Sys2Proof.Proofs
end

/-! PROOFS. Meter and exception commands (07 R213 to R215): what the own part of each answers when its fields are in their ranges. -/

section
namespace Sys2Proof.Proofs

open Sys2Proof Sys2Proof.Machine Sys2Proof.Safety Sys2Proof.Laws

section
variable {m : Nat} {c : Cmd} {p : List Byte} {s : State}

/-- A record for an index below the exception meters, whose PIR reaches its CIR unless it is of RFC 4115, waits for the boundary. -/
theorem meterSet_ok (hindex : fld p 16 4 < excBase) (hz : fld p 20 4 = 0)
    (hrates : (meterOf (slice p 24 32)).rfc4115 = true ∨ (meterOf (slice p 24 32)).cir ≤ (meterOf (slice p 24 32)).pir)
    (hflags : fld (slice p 24 32) 27 1 < 16) (htail : fld (slice p 24 32) 29 3 = 0) :
    meterSet m c p s = ansOk [] (scheduled m c.code p s) := by
  unfold meterSet
  dsimp only
  rw [checks_pass (by simpa [hindex, hz, hflags, htail] using hrates), schedule_scheduled rfl]

/-- Any record of a cluster is reported, an exception meter too, with the trick count of the read. -/
theorem meterGet_ok {q : Path} (hindex : fld p 16 4 < 262144) (hz : fld p 20 4 = 0) :
    meterGet q p s = ansOk (meterBytes (meter (cluster s q.index) (fld p 16 4)) ++ leBytes 8 (now s)) s :=
  checks_pass (by simp [hindex, hz])

/-- Target, rate and burst of a class that is neither 0 nor reserved (07 Table 7.9) wait for the boundary. -/
theorem excSet_ok (hclass : 1 ≤ fld p 16 1 ∧ fld p 16 1 ≤ 0x3F) (he : fld p 16 1 ≠ 0x0E) (hf : fld p 16 1 ≠ 0x0F)
    (htarget : fld p 17 1 ≤ 1) (hring : fld p 18 1 ≤ 63) (hflags : fld p 19 1 < 2) (hrate : fld p 20 8 < 2 ^ 40)
    (hburst : 64 ≤ fld p 28 4 ∧ fld p 28 4 ≤ 16777215) :
    excSet m c p s = ansOk [] (scheduled m c.code p s) := by
  unfold excSet
  dsimp only
  rw [checks_pass (by simpa [hclass, he, hf, htarget, hring, hflags, hburst] using hrate), schedule_scheduled rfl]

end

/-- Settles O5: each setting passes its checks and waits for the boundary, and the record is reported from the state as it stands. -/
theorem meterCommandsComplete : Obligations.MeterCommandsComplete := by
  refine ⟨?meterSet, ?meterGet, ?excSet⟩
  case meterSet =>
    intro m p s hw ha hindex hz hrates hflags htail
    refine congrArg _ (runCmd_onPath_answered hw ha fun c hc => ?_)
    rw [meterSet_ok (Nat.lt_succ_of_le hindex) hz hrates hflags htail, hc]
  case meterGet =>
    intro m p s hw ha hindex hz
    exact congrArg _ (runCmd_onPath_answered hw ha fun _ _ => meterGet_ok (Nat.lt_succ_of_le hindex) hz)
  case excSet =>
    intro m p s hw ha hclass he hf htarget hring hflags hrate hburst
    refine congrArg _ (runCmd_onPath_answered hw ha fun c hc => ?_)
    rw [excSet_ok hclass he hf htarget hring hflags hrate hburst, hc]

end Sys2Proof.Proofs
end

/-! PROOFS. Buffer commands (08 R227, R238, R246, R251 to R256): what the own part of each answers when its fields are in their ranges, and what the status commands report. -/

section
namespace Sys2Proof.Proofs

open Sys2Proof Sys2Proof.Machine Sys2Proof.Safety Sys2Proof.Laws

/-! ## Settings (08 R252 to R255) -/

/-- A flag of one bit is set when its byte is 1. -/
theorem testBit_flag {v : Nat} (h : v < 2) : v.testBit 0 = decide (v = 1) := by
  rw [Nat.testBit_zero, Nat.mod_eq_of_lt h]

/-- QUEUE_SET finds room while two other queues of its port are not PRIV already and S does not go further below zero (08 R227, R252). -/
theorem queueNoRoom_false {priv : Bool} {q : Path} {f : State → State} {v : State}
    (hpriv : priv = true → ∀ x, port v q.index = some x →
      ((List.range 20).filter (fun i => decide (i ≠ queueNo q) && (queue x i).priv)).length < 2)
    (hpot : overdrawn v (f v) = false) : queueNoRoom priv q f v = false := by
  unfold queueNoRoom
  rw [hpot, Bool.or_false]
  cases priv with
  | false => rfl
  | true =>
    cases hx : port v q.index with
    | none => rfl
    | some x => simpa using hpriv rfl x hx

section
variable {m : Nat} {c : Cmd} {p : List Byte} {s : State}

/-- A queue's settings, whose profiles are judged while PRIV is set, wait for the boundary when they find room. -/
theorem queueSet_ok {q : Path} (hante : fld p 16 4 ≤ fld p 20 4) (hhard : 1 ≤ fld p 20 4 ∧ fld p 20 4 ≤ 1310720) (halpha : fld p 28 1 ≤ 11)
    (hflags : fld p 29 1 < 2) (hz : fld p 30 2 = 0) (hpad : ∀ i < 3, fld p (41 + 12 * i) 3 = 0)
    (hred : fld p 29 1 = 1 → ∀ i < 3, (redOf p i).min < (redOf p i).max ∧ (redOf p i).max ≤ fld p 20 4)
    (hroom : queueNoRoom ((fld p 29 1).testBit 0) q (queueSetApply p) (bufView s) = false) :
    queueSet m c q p s = ansOk [] (scheduled m c.code p s) := by
  have profiles : ∀ i < 3, ((fld p 29 1).testBit 0 = false ∨ (redOf p i).min < (redOf p i).max ∧ (redOf p i).max ≤ fld p 20 4) ∧
      fld p (41 + 12 * i) 3 = 0 := fun i hi => by
    refine ⟨?_, hpad i hi⟩
    rw [testBit_flag hflags, decide_eq_false_iff_not, ← Decidable.imp_iff_not_or]
    exact fun h => hred h i hi
  unfold queueSet
  dsimp only
  rw [checks_pass ?ranges, if_neg (ne_true_of_eq_false hroom), schedule_scheduled rfl]
  case ranges => simpa [hante, hhard, halpha, hflags, hz] using profiles

/-- A port's buffer settings wait for the boundary when each lossless priority resumes below the level at which it pauses. -/
theorem portBufSet_ok (hflags : fld p 17 1 < 2) (hz : fld p 20 4 = 0)
    (hxon : ∀ i < 8, (fld p 16 1).testBit i = true → fld p (88 + 4 * i) 4 < fld p (56 + 4 * i) 4) :
    portBufSet m c p s = ansOk [] (scheduled m c.code p s) := by
  have judged : ∀ i < 8, (fld p 16 1).testBit i = false ∨ fld p (88 + 4 * i) 4 < fld p (56 + 4 * i) 4 := fun i hi => by
    rw [← Bool.not_eq_true, ← Decidable.imp_iff_not_or]
    exact hxon i hi
  unfold portBufSet
  dsimp only
  rw [checks_pass ?ranges, schedule_scheduled rfl]
  case ranges => simpa [hflags, hz] using judged

/-- The device's buffer settings wait for the boundary when the multicast region is aligned and clear of tables, and S does not go further below zero. -/
theorem bufGlobalSet_ok (h20 : fld p 20 4 ≤ 65536) (h24 : fld p 24 4 ≤ 262144) (h28 : fld p 28 4 ≤ 65536) (h32 : fld p 32 4 ≤ 65536)
    (h36 : fld p 36 1 ≤ 63) (h37 : fld p 37 1 ≤ 63) (hz39 : fld p 39 1 = 0) (hz44 : fld p 44 4 = 0)
    (hregion : fld p 38 1 = 0 ∨ 13 ≤ fld p 38 1 ∧ fld p 38 1 ≤ 20 ∧ fld p 40 4 % 2 ^ fld p 38 1 = 0 ∧ fld p 40 4 + 2 ^ fld p 38 1 ≤ 1048576)
    (hfree : mcastFree s (fld p 40 4) (fld p 38 1) = true) (hpot : overdrawn (bufView s) (bufGlobalSetApply p (bufView s)) = false) :
    bufGlobalSet m c p s = ansOk [] (scheduled m c.code p s) := by
  have size : fld p 38 1 = 0 ∨ 13 ≤ fld p 38 1 ∧ fld p 38 1 ≤ 20 := hregion.imp_right fun ⟨hlo, hhi, _⟩ => ⟨hlo, hhi⟩
  have place : fld p 38 1 = 0 ∨ fld p 40 4 % 2 ^ fld p 38 1 = 0 ∧ fld p 40 4 + 2 ^ fld p 38 1 ≤ 1048576 := hregion.imp_right fun ⟨_, _, h⟩ => h
  unfold bufGlobalSet
  dsimp only
  rw [checks_pass ?ranges, if_neg (ne_true_of_eq_false hpot), schedule_scheduled rfl]
  case ranges => simpa [h20, h24, h28, h32, h36, h37, hz39, hz44, hfree, size] using place

theorem bufSectionSet_ok (hdrain : fld p 16 1 ≤ 1) (hz : fld p 17 7 = 0)
    (hpot : overdrawn (bufView s) (bufSectionSetApply p (bufView s)) = false) :
    bufSectionSet m c p s = ansOk [] (scheduled m c.code p s) := by
  unfold bufSectionSet
  rw [checks_pass (by simp [hdrain, hz]), if_neg (ne_true_of_eq_false hpot), schedule_scheduled rfl]

/-- A multicast group's list lies behind the heads in the multicast region; the request waits for the boundary that writes it (08 R235, R238). -/
theorem mcastSet_ok (hgroup : fld p 16 2 ≤ 32767) (hcount : fld p 18 2 ≤ 512) (hz : fld p 24 8 = 0) (hregion : (mcastRegion s).2 ≠ 0)
    (hlist : fld p 18 2 = 0 ∨
      (mcastRegion s).1 + 4096 ≤ fld p 20 4 ∧ fld p 20 4 + cdiv (fld p 18 2) 16 ≤ (mcastRegion s).1 + 2 ^ (mcastRegion s).2) :
    mcastSet m c p s = .hold .boundary (scheduled m c.code p s) := by
  unfold mcastSet
  dsimp only
  rw [checks_pass (by simp [hgroup, hcount, hz]), if_neg hregion, checks_pass (by simpa using hlist), schedule_scheduled rfl]

end

/-! ## Status (08 R256) -/

@[simp] theorem length_leBytes (n v : Nat) : (leBytes n v).length = n := by
  induction n generalizing v with
  | zero => rfl
  | succ k ih => rw [leBytes, List.length_cons, ih]

/-- BUF_STATUS_GET reports the fields of Table 8.9, 80 bytes of them, and changes nothing. -/
theorem bufStatus_ok (q : Path) (s : State) : ∃ r, r.length = 80 ∧ bufStatus q s = ansOk r s :=
  ⟨_, by simp [evLow, reqSum], rfl⟩

section
variable {q : Path} {s : State} {x : Port} (hx : port s q.index = some x)
include hx

/-- QUEUE_STATUS_GET reports the fields of Table 8.10 from before PEAK starts anew. -/
theorem queueStatus_ok : queueStatus q s = ansOk
    (let y := queue x (queueNo q)
     leBytes 4 (depth y) ++ leBytes 4 y.peak ++ leBytes 4 y.a ++ leBytes 4 y.p ++ leBytes 4 y.k ++ leBytes 4 (heldDescs x (queueNo q))
      ++ (List.range 9).flatMap (fun i => evLow s (0x0201 + i) (queueUnit q.index (queueNo q)) 0 8))
    (modQueue q.index (queueNo q) (fun z => { z with peak := depth z }) s) := by
  unfold queueStatus
  rw [hx]

end

/-- Settles O6: each setting passes its checks and finds its room, and the status commands report from the state as it stands. -/
theorem bufferCommandsComplete : Obligations.BufferCommandsComplete := by
  refine ⟨?queueSet, ?portBufSet, ?globalSet, ?sectionSet, ?mcast, ?bufStatus, ?queueStatus, ?portStatus⟩
  case queueSet =>
    intro m p s hw ha hante hhard halpha hflags hz hpad hred hpriv hpot
    refine congrArg _ (runCmd_onPath_answered hw ha fun c hc => ?_)
    have room : queueNoRoom ((fld p 29 1).testBit 0) (pathOf p) (queueSetApply p) (bufView s) = false :=
      queueNoRoom_false (fun h => hpriv (by simpa [testBit_flag hflags] using h)) hpot
    rw [queueSet_ok hante hhard halpha hflags hz hpad hred room, hc]
  case portBufSet =>
    intro m p s hw ha hflags hz hxon
    refine congrArg _ (runCmd_onPath_answered hw ha fun c hc => ?_)
    rw [portBufSet_ok hflags hz hxon, hc]
  case globalSet =>
    intro m p s hw ha h20 h24 h28 h32 h36 h37 hz39 hz44 hregion hfree hpot
    refine congrArg _ (runCmd_onPath_answered hw ha fun c hc => ?_)
    rw [bufGlobalSet_ok h20 h24 h28 h32 h36 h37 hz39 hz44 hregion hfree hpot, hc]
  case sectionSet =>
    intro m p s hw ha hdrain hz hpot
    refine congrArg _ (runCmd_onPath_answered hw ha fun c hc => ?_)
    rw [bufSectionSet_ok hdrain hz hpot, hc]
  case mcast =>
    intro m p s hw ha hgroup hcount hz hregion hlist
    refine congrArg _ (runCmd_onPath_held hw ha fun c hc => ?_)
    rw [mcastSet_ok hgroup hcount hz hregion hlist, hc]
  case bufStatus =>
    intro m p s hw ha
    obtain ⟨r, hlen, hr⟩ := bufStatus_ok (pathOf p) s
    exact ⟨r, hlen, congrArg _ (runCmd_onPath_answered hw ha fun _ _ => hr)⟩
  case queueStatus =>
    intro m p s x hw ha hx
    exact congrArg _ (runCmd_onPath_answered hw ha fun _ _ => queueStatus_ok hx)
  case portStatus =>
    intro m p s x hw ha hx
    refine congrArg _ (runCmd_onPath_answered hw ha fun _ _ => ?_)
    unfold portBufStatus
    generalize port s (pathOf p).index = o at hx ⊢
    subst hx
    rfl

end Sys2Proof.Proofs
end

/-! PROOFS. Chain rows (08 R219, R220, R223, R247, R250): what a free request does with the address it names, and the end of a free list's rebuilding. -/

section
namespace Sys2Proof.Proofs

open Sys2Proof Sys2Proof.Machine Sys2Proof.Laws

/-! ## Free requests (08 R223) -/

/-- A request that the pool manager turns down: its event counts, and the fault of the requester is raised. -/
def freeRejected (code r addr : Nat) (s : State) : State := fault r 0 addr (evAdd code 0 r 1 s)

/-- A requester of Table 8.2 asks the pool manager. -/
theorem exec_chainFree {r : Nat} (hr : r ≤ 35) (addr : Nat) (s : State) : exec (.chainFree r addr) s = .next (freeRequest r addr s) :=
  congrArg _ (if_neg (Nat.not_lt.mpr hr))

/-- An address that is no head of a cell within the buffer is a bad pointer. -/
theorem freeRequest_badPointer {addr : Nat} (h : addr % 256 ≠ 0 ∨ bufCells ≤ addr / 256) (r : Nat) (s : State) :
    freeRequest r addr s = freeRejected 0x0502 r addr s :=
  if_pos (h.imp_right .inl)

section
variable {r c : Nat} {s : State} (hc : c < bufCells) (hrun : sectRun s (sectOf c) = true)
include hc hrun

/-- The address of a cell in a section at Run is judged by the chain that starts there. -/
theorem freeRequest_cell : freeRequest r (c * 256) s =
    if (chain s c).any (fun x => x.owner = r) then dropChain c s else freeRejected 0x0501 r (c * 256) s := by
  have good : ¬ (c * 256 % 256 ≠ 0 ∨ bufCells ≤ c ∨ sectRun s (sectOf c) = false) := by
    simp [hrun, hc]
  unfold freeRequest
  dsimp only
  rw [Nat.mul_div_cancel c (by decide), if_neg good]
  cases chain s c with
  | none => rfl
  | some x => simp [freeRejected]

/-- The owner frees its chain. -/
theorem freeRequest_owner {x : Chain} (hx : chain s c = some x) (ho : x.owner = r) : freeRequest r (c * 256) s = dropChain c s := by
  rw [freeRequest_cell hc hrun, if_pos (by simp [hx, ho])]

/-- A cell where no chain of the requester's starts is revoked from it. -/
theorem freeRequest_notOwner (h : ∀ x, chain s c = some x → x.owner ≠ r) :
    freeRequest r (c * 256) s = freeRejected 0x0501 r (c * 256) s := by
  rw [freeRequest_cell hc hrun, if_neg (by simpa [Option.any_eq_true] using h)]

end

/-! ## The end of a rebuilding (08 R247, R250) -/

/-- A section that rebuilds its list gets a new one; after an exit (08 R247) nothing that its cache and backlog held counts, after a broken pointer (R250) both stay. -/
theorem exec_freeListRebuildEnd {n : Nat} {s : State} (hn : n ≤ 7) (h : (sect s n).rebuilding = true ∨ (sect s n).listRebuild = true) :
    exec (.freeListRebuildEnd n) s = .next (
      if (sect s n).rebuilding then modSect n (fun y => sectRelist n (chainCells s n) { y with cache := [], backlog := [], waiting := [] }) s
      else modSect n (sectRelist n (chainCells s n)) s) := by
  have rebuilds : ¬ (7 < n ∨ (sect s n).rebuilding = false ∧ (sect s n).listRebuild = false) := by
    rintro (h7 | ⟨hr, hl⟩)
    · omega
    · simp [hr, hl] at h
  exact congrArg Host.Outcome.next (if_neg rebuilds)

/-- Settles O24: the address of a free request decides what becomes of it, and what a section rebuilds decides what its new list leaves out. -/
theorem chainRowsComplete : Obligations.ChainRowsComplete := by
  refine ⟨?owner, ?notOwner, ?badPointer, ?afterExit, ?afterBreak⟩
  case owner =>
    intro r c s x hr hc hrun hx ho
    rw [exec_chainFree hr, freeRequest_owner hc hrun hx ho]
  case notOwner =>
    intro r c s hr hc hrun h
    rw [exec_chainFree hr, freeRequest_notOwner hc hrun h, freeRejected]
  case badPointer =>
    intro r addr s hr h
    rw [exec_chainFree hr, freeRequest_badPointer h, freeRejected]
  case afterExit =>
    intro n s hn h
    rw [exec_freeListRebuildEnd hn (.inl h), if_pos h]
  case afterBreak =>
    intro n s hn h hl
    rw [exec_freeListRebuildEnd hn (.inr hl), if_neg (by simp [h])]

end Sys2Proof.Proofs
end

/-! PROOFS. Settings at their boundary (08 R251; 09 R269, R278; 10 R322; 11 R358, R361; 12 R392; 16 R495, R497; 17 R512): what the operation that each names leaves of the unit it sets. -/

section
namespace Sys2Proof.Proofs

open Sys2Proof Sys2Proof.Machine Sys2Proof.Laws

/-! ## Queues of a port -/

theorem tabGet_tabMap {α β : Type} (t : Tab α) (f : Nat → α → β) (k : Nat) : tabGet (tabMap t f) k = (tabGet t k).map (f k) := by
  induction t with
  | nil => rfl
  | cons e r ih =>
    change tabGet ((e.1, f e.1 e.2) :: tabMap r f) k = (tabGet (e :: r) k).map (f k)
    unfold tabGet
    rw [ih]
    split_ifs with hk
    · subst hk
      rfl
    · rfl
    · rfl

/-- What a queue becomes when its port's idle deficits are cleared: empty, it keeps none above 0 (09 R269). -/
def idleQueue (y : Queue) : Queue := if y.descs = [] ∧ 0 < y.deficit then { y with deficit := 0 } else y

section
variable {p : Nat} {s : State} {x : Port} (hx : port s p = some x)
include hx

/-- A change of one queue leaves the port's other queues. -/
theorem port_modQueue (q : Nat) (f : Queue → Queue) :
    ∃ y, port (modQueue p q f s) p = some y ∧ queue y q = f (queue x q) ∧ ∀ k, k ≠ q → queue y k = queue x k := by
  refine ⟨_, by rw [modQueue, port_modPort_same, hx, Option.map_some], ?_, fun k hk => ?_⟩
  · exact tabGetD_tabMod_same _ _ _ _
  · exact tabGetD_tabMod_other _ _ _ hk

/-- Clearing idle deficits does to each queue of the port what it does to a queue by itself. -/
theorem port_idleDeficits : ∃ y, port (idleDeficits p s) p = some y ∧ ∀ q, queue y q = idleQueue (queue x q) := by
  refine ⟨_, by rw [idleDeficits, port_modPort_same, hx, Option.map_some], fun q => ?_⟩
  unfold queue tabGetD
  dsimp only
  rw [tabGet_tabMap]
  cases tabGet x.queues q with
  | none => rfl
  | some y => simp [idleQueue]

end

/-! ## QUEUE_SET, SCHED_QUEUE_SET and TIME_PORT_SET (08 R251; 09 R278; 10 R322) -/

/-- What SCHED_QUEUE_SET makes of its queue; one that changes its group starts there with DEFICIT 0 (09 R278). -/
def rescheduled (p : List Byte) (y : Queue) : Queue :=
  { y with deficit := if y.group = fld p 16 1 then y.deficit else 0, group := fld p 16 1, weight := fld p 17 1, rxPri := fld p 18 1 }

/-- A queue that moves has no deficit left to clear. -/
theorem idleQueue_rescheduled (p : List Byte) (y : Queue) : idleQueue (rescheduled p y) = { y with
    deficit := if y.group = fld p 16 1 ∧ ¬ (y.descs = [] ∧ 0 < y.deficit) then y.deficit else 0
    group := fld p 16 1, weight := fld p 17 1, rxPri := fld p 18 1 } := by
  unfold idleQueue rescheduled
  by_cases hg : y.group = fld p 16 1
  · by_cases hidle : y.descs = [] ∧ 0 < y.deficit
    · simp [hg, hidle]
    · simp [hg, hidle]
  · simp [hg]

section
variable (m : Nat) {p : List Byte} {s : State} {x : Port} (hx : port s (pathOf p).index = some x)
include hx

theorem settle1_queueSet : ∃ y, port (settle1 { code := 0x0401, req := p, mb := m } s) (pathOf p).index = some y ∧
    queue y (queueNo (pathOf p)) = { queue x (queueNo (pathOf p)) with
      ante := fld p 16 4, hard := fld p 20 4, ecn := fld p 24 4, alpha := fld p 28 1, priv := (fld p 29 1).testBit 0
      red := [redOf p 0, redOf p 1, redOf p 2] } ∧
    ∀ q, q ≠ queueNo (pathOf p) → queue y q = queue x q :=
  port_modQueue hx _ _

theorem settle1_schedQueueSet : ∃ y, port (settle1 { code := 0x0502, req := p, mb := m } s) (pathOf p).index = some y ∧
    queue y (queueNo (pathOf p)) = idleQueue (rescheduled p (queue x (queueNo (pathOf p)))) ∧
    ∀ q, q ≠ queueNo (pathOf p) → queue y q = idleQueue (queue x q) := by
  obtain ⟨z, hz, hset, hothers⟩ := port_modQueue hx (queueNo (pathOf p)) (rescheduled p)
  obtain ⟨y, hy, hidle⟩ := port_idleDeficits hz
  refine ⟨y, hy, ?_, fun q hq => ?_⟩
  · rw [hidle, hset]
  · rw [hidle, hothers q hq]

theorem settle1_timePortSet : port (settle1 { code := 0x0602, req := p, mb := m } s) (pathOf p).index = some { x with
    tcEn := (fld p 16 1).testBit 0, p2p := (fld p 16 1).testBit 1, txStep := (fld p 16 1).testBit 2, persist := (fld p 16 1).testBit 3
    calValid := (fld p 16 1).testBit 4, rxAdj := sInt 16 (fld p 20 2), txAdj := sInt 16 (fld p 22 2), asym := sInt 64 (fld p 24 8)
    meanLinkDelay := if x.pdelay.runs then x.meanLinkDelay else fld p 32 8 } := by
  change port (timePortSetApply p s) _ = _
  rw [timePortSetApply, port_modPort_same, hx, Option.map_some]

end

/-! ## FLT_SOURCE_SET (17 R512) -/

theorem settle1_fltSourceSet (m : Nat) (p : List Byte) (s : State) :
    fltSrc (settle1 { code := 0x0A01, req := p, mb := m } s) (fld p 16 1) = ⟨fld p 17 1, fld p 18 2, fld p 20 4⟩ :=
  tabGetD_tabPut_same _ _ _ _

/-- Settles O60: each code names the operation of its setting, and a queue's, a port's and a source's table is read after it. -/
theorem settingsTakeEffect : Obligations.SettingsTakeEffect := by
  intro m p s
  refine ⟨fun x hx => ⟨?queueSet, ?schedQueue, ?timePort⟩, ?flow, ?cap, ?shed, ?member, ?watch, ?fltSource⟩
  case queueSet => exact settle1_queueSet m hx
  case schedQueue =>
    have h := settle1_schedQueueSet m hx
    rwa [idleQueue_rescheduled] at h
  case timePort => exact settle1_timePortSet m hx
  case flow => rfl
  case cap => rfl
  case shed => rfl
  case member => rfl
  case watch => exact ⟨_, rfl, rfl, rfl, rfl, rfl, rfl, rfl⟩
  case fltSource => exact settle1_fltSourceSet m p s

end Sys2Proof.Proofs
end

/-! PROOFS. Scheduling commands (09 R268, R270, R278 to R282): what the own part of each answers when its fields are in their ranges, and what the status commands report. -/

section
namespace Sys2Proof.Proofs

open Sys2Proof Sys2Proof.Machine Sys2Proof.Safety Sys2Proof.Laws

/-! ## Settings (09 R270, R278, R281) -/

/-- BW in order: none for a group that is not ETS, and 100 percent among those that are, if there are any (09 R270). -/
theorem bwFault_none {p : List Byte} (hstrict : ∀ g < 8, (groupByte p g).testBit 0 = false → groupBw p g = 0)
    (hsum : (List.range 8).filter (fun g => (groupByte p g).testBit 0) ≠ [] →
      (((List.range 8).filter (fun g => (groupByte p g).testBit 0)).map (groupBw p)).sum = 100) : bwFault p = none := by
  have strict : (List.range 8).find? (fun g => !(groupByte p g).testBit 0 && decide (groupBw p g ≠ 0)) = none :=
    List.find?_eq_none.mpr fun g hg => by simpa using hstrict g (List.mem_range.mp hg)
  unfold bwFault
  dsimp only
  rw [strict]
  cases hets : (List.range 8).filter (fun g => (groupByte p g).testBit 0) with
  | nil => rfl
  | cons g rest =>
    rw [hets] at hsum
    exact if_pos (hsum (List.cons_ne_nil g rest))

section
variable {m : Nat} {c : Cmd} {p : List Byte} {s : State}

/-- A port's scheduling settings wait for the boundary when each group has a TSA and INNER of its field and BW is in order. -/
theorem schedPortSet_ok (htrump : fld p 16 1 < 2) (hz30 : fld p 30 2 = 0) (hz48 : fld p 48 8 = 0) (hgroups : ∀ g < 8, groupByte p g < 4)
    (hbw : bwFault p = none) : schedPortSet m c p s = ansOk [] (scheduled m c.code p s) := by
  unfold schedPortSet
  dsimp only
  rw [checks_pass ?ranges, hbw]
  dsimp only
  rw [checks_pass (by simp [hz48]), schedule_scheduled rfl]
  case ranges => simpa [htrump, hz30] using hgroups

theorem schedQueueSet_ok (hgroup : fld p 16 1 ≤ 7) (hweight : fld p 17 1 ≠ 0) (hpri : fld p 18 1 ≤ 7 ∨ fld p 18 1 = 255) (hz : fld p 19 5 = 0) :
    schedQueueSet m c p s = ansOk [] (scheduled m c.code p s) := by
  unfold schedQueueSet
  dsimp only
  rw [checks_pass (by simpa [hgroup, hweight, hz] using hpri), schedule_scheduled rfl]

theorem shaperSet_ok {q : Path} (hlevel : levelOk q (fld p 16 1) = true) (hflags : fld p 17 1 < 4) (hz : fld p 18 2 = 0)
    (hrate : fld p 20 8 < 2 ^ 40) (hburst : 64 ≤ fld p 28 4 ∧ fld p 28 4 ≤ 16777215) :
    shaperSet m c q p s = ansOk [] (scheduled m c.code p s) := by
  unfold shaperSet
  dsimp only
  rw [checks_pass (by simpa [hlevel, hflags, hz, hburst] using hrate), schedule_scheduled rfl]

end

/-! ## Status (09 R281, R282) -/

/-- The port of an addressed port path is configured. -/
theorem port_of_addressed {s : State} {p : List Byte} {len : Nat} (ha : addressed s p len [3] = true) : ∃ x, port s (pathOf p).index = some x := by
  have hkind : (pathOf p).kind = 3 := List.mem_singleton.mp (addressed_kind ha)
  obtain ⟨_, hexists⟩ := addressed_iff.mp ha
  simpa [unitExists, hkind, Option.isSome_iff_exists] using hexists

section
variable {q : Path} {s : State} {x : Port} (hx : port s q.index = some x)
include hx

/-- SHAPER_GET reports the shaper that path and LEVEL name, with the trick count of the read. -/
theorem shaperGet_ok {p : List Byte} (hlevel : levelOk q (fld p 16 1) = true) (hz : fld p 17 7 = 0) : shaperGet q p s = ansOk
    (let h := if q.kind ≠ 3 then (queue x (queueNo q)).shaper else if fld p 16 1 = 0 then x.shaper else (sgroup x (fld p 16 1 - 1)).shaper
     leBytes 8 h.rate ++ leBytes 4 h.burst ++ [byte (b2n h.enable), 0, 0, 0] ++ leBytes 8 (uInt 64 h.credit) ++ leBytes 8 (now s)) s := by
  unfold shaperGet
  dsimp only
  rw [hx]
  exact checks_pass (by simp [hlevel, hz])

/-- SCHED_STATUS_GET reports the fields of Table 9.7, 104 bytes of them, and changes nothing. -/
theorem schedStatus_ok : ∃ r, r.length = 104 ∧ schedStatus q s = ansOk r s := by
  unfold schedStatus
  rw [hx]
  exact ⟨_, by simp [evLow], rfl⟩

end

/-- Settles O7: each setting passes its checks and waits for the boundary, and the status commands report from the state as it stands. -/
theorem schedulerCommandsComplete : Obligations.SchedulerCommandsComplete := by
  refine ⟨?portSet, ?queueSet, ?shaperSet, ?shaperGet, ?status⟩
  case portSet =>
    intro m p s hw ha htrump hz30 hz48 hgroups hstrict hsum
    refine congrArg _ (runCmd_onPath_answered hw ha fun c hc => ?_)
    rw [schedPortSet_ok htrump hz30 hz48 hgroups (bwFault_none hstrict hsum), hc]
  case queueSet =>
    intro m p s hw ha hgroup hweight hpri hz
    refine congrArg _ (runCmd_onPath_answered hw ha fun c hc => ?_)
    rw [schedQueueSet_ok hgroup hweight hpri hz, hc]
  case shaperSet =>
    intro m p s hw ha hlevel hflags hz hrate hburst
    refine congrArg _ (runCmd_onPath_answered hw ha fun c hc => ?_)
    rw [shaperSet_ok hlevel hflags hz hrate hburst, hc]
  case shaperGet =>
    intro m p s x hw ha hx hlevel hz
    exact congrArg _ (runCmd_onPath_answered hw ha fun _ _ => shaperGet_ok hx hlevel hz)
  case status =>
    intro m p s hw ha
    obtain ⟨x, hx⟩ := port_of_addressed ha
    obtain ⟨r, hlen, hr⟩ := schedStatus_ok hx
    exact ⟨r, hlen, congrArg _ (runCmd_onPath_answered hw ha fun _ _ => hr)⟩

end Sys2Proof.Proofs
end

/-! PROOFS. Shapers (09 R267, R268): what SHAPER_SET makes of a shaper's fields and of its credit, and the refill of a trick. -/

section
namespace Sys2Proof.Proofs

open Sys2Proof Sys2Proof.Machine Sys2Proof.Laws

/-! ## Credit (09 R268) -/

section
variable (forgive : Bool) (rate burst : Nat) (h : Shaper)

theorem setShaper_off_credit : (setShaper false forgive rate burst h).credit = 0 := by
  simp [setShaper]

/-- A shaper that SHAPER_SET turns on starts without credit or debt. -/
theorem setShaper_start_credit (hoff : h.enable = false) : (setShaper true forgive rate burst h).credit = 0 := by
  simp [setShaper, hoff]

variable {h} (hon : h.enable = true)
include hon

/-- A shaper that stays on keeps its credit and its debt. -/
theorem setShaper_kept_credit : (setShaper true false rate burst h).credit = h.credit := by
  simp [setShaper, hon]

/-- FORGIVE ends a debt and leaves credit alone. -/
theorem setShaper_forgiven_credit : (setShaper true true rate burst h).credit = max 0 h.credit := by
  have hcases : (setShaper true true rate burst h).credit = if h.credit < 0 then 0 else h.credit := by simp [setShaper, hon]
  rw [hcases]
  split_ifs <;> omega

end

/-! ## The boundary (09 R268, R281) -/

section
variable (m : Nat) {p : List Byte} {s : State} {x : Port} (hx : port s (pathOf p).index = some x)
include hx

/-- A port path with LEVEL 0 names the shaper of the port. -/
theorem settle1_shaperSet_port (hkind : (pathOf p).kind = 3) (hlevel : fld p 16 1 = 0) :
    port (settle1 { code := 0x0503, req := p, mb := m } s) (pathOf p).index = some { x with
      shaper := setShaper ((fld p 17 1).testBit 0) ((fld p 17 1).testBit 1) (fld p 20 8) (fld p 28 4) x.shaper } := by
  change port (shaperSetApply p s) _ = _
  simp [shaperSetApply, hkind, hlevel, hx]

/-- A queue path names the shaper of its queue. -/
theorem settle1_shaperSet_queue (hkind : (pathOf p).kind ≠ 3) :
    ∃ y, port (settle1 { code := 0x0503, req := p, mb := m } s) (pathOf p).index = some y ∧
      queue y (queueNo (pathOf p)) = { queue x (queueNo (pathOf p)) with
        shaper := setShaper ((fld p 17 1).testBit 0) ((fld p 17 1).testBit 1) (fld p 20 8) (fld p 28 4) (queue x (queueNo (pathOf p))).shaper } ∧
      ∀ q, q ≠ queueNo (pathOf p) → queue y q = queue x q := by
  have hset : settle1 { code := 0x0503, req := p, mb := m } s = modQueue (pathOf p).index (queueNo (pathOf p)) (fun y => { y with
      shaper := setShaper ((fld p 17 1).testBit 0) ((fld p 17 1).testBit 1) (fld p 20 8) (fld p 28 4) y.shaper }) s := if_pos hkind
  rw [hset]
  exact port_modQueue hx _ _

end

/-- Settles O58: the setting is `setShaper` on the one shaper that path and LEVEL name, and its credit follows from ENABLE before and after. -/
theorem shaperSetKeepsDebt : Obligations.ShaperSetKeepsDebt := by
  refine ⟨?portShaper, ?queueShaper, ?refill⟩
  case portShaper =>
    intro m p s x hkind hlevel hx
    refine ⟨_, settle1_shaperSet_port m hx hkind hlevel, rfl, rfl, rfl, rfl, ?starts, ?off, ?keeps, ?forgives⟩
    case starts =>
      intro hoff (hset : (fld p 17 1).testBit 0 = true)
      simp only [hset]
      exact setShaper_start_credit _ _ _ _ hoff
    case off =>
      intro (hset : (fld p 17 1).testBit 0 = false)
      simp only [hset]
      exact setShaper_off_credit ..
    case keeps =>
      intro hon (hset : (fld p 17 1).testBit 0 = true) hdebt
      simp only [hset, hdebt]
      exact setShaper_kept_credit _ _ hon
    case forgives =>
      intro hon (hset : (fld p 17 1).testBit 0 = true) hforgive
      simp only [hset, hforgive]
      exact setShaper_forgiven_credit _ _ hon
  case queueShaper =>
    intro m p s x hkind hx
    obtain ⟨y, hy, hset, hothers⟩ := settle1_shaperSet_queue m hx (by omega)
    exact ⟨y, hy, by rw [hset], hothers⟩
  case refill =>
    intro h hon
    exact congrArg Shaper.credit (if_pos hon)

end Sys2Proof.Proofs
end

/-! PROOFS. Rows of pause (08 R243; 09 R272 to R276; 04 R110): what a received pause loads, the end of a timer, the refresh of a standing request, and the end of a port's hold. -/

section
namespace Sys2Proof.Proofs

open Sys2Proof Sys2Proof.Machine Sys2Proof.Safety Sys2Proof.Laws

/-! ## Received pause (09 R276) -/

/-- Between two states nothing but ports and event counters differs. -/
def OnlyPortsCounts (s t : State) : Prop := t = { s with ports := t.ports, evc := t.evc }

theorem OnlyPortsCounts.trans {s t u : State} (h : OnlyPortsCounts s t) (k : OnlyPortsCounts t u) : OnlyPortsCounts s u := by
  unfold OnlyPortsCounts at *
  rw [k, h]

theorem OnlyPortsCounts.evAdd (code unit param n : Nat) (s : State) : OnlyPortsCounts s (evAdd code unit param n s) := rfl

theorem OnlyPortsCounts.macRx (p : Nat) (s : State) : OnlyPortsCounts s (macRx p s) := (evAdd ..).trans (evAdd ..)

theorem OnlyPortsCounts.loadPause (p i time : Nat) (s : State) : OnlyPortsCounts s (loadPause p i time s) := rfl

section
variable {p : Nat} {s : State} {x : Port} (hx : port s p = some x)
include hx

/-- Outside storm state a received pause loads its timer. -/
theorem port_loadPause {i : Nat} (hcalm : pauseIgnored x i = false) (time : Nat) :
    ∃ y, port (loadPause p i time s) p = some y ∧ y.timers = x.timers.set i time :=
  ⟨_, by rw [loadPause, port_modPort_same, hx, Option.map_some], by simp [hcalm]⟩

theorem exec_pfcReceive (hup : x.link = .up) (vec : BitVec 16) (times : List Nat) :
    exec (.pfcReceive p vec times) s = .next (pfcIn p x vec.toNat times (macRx p s)) := by
  change execPfcReceive p vec times s = _
  simp only [execPfcReceive, hx]
  exact congrArg _ (if_neg (not_not_intro hup))

theorem exec_pauseReceive (hup : x.link = .up) (time : Nat) :
    exec (.pauseReceive p time) s = .next (pauseIn p x time (macRx p s)) := by
  change execPauseReceive p time s = _
  simp only [execPauseReceive, hx]
  exact congrArg _ (if_neg (not_not_intro hup))

end

/-- The class-enable vector of one priority names that priority alone. -/
theorem filter_testBit_single : ∀ i < 8, (List.range 16).filter (fun k => (1#16 <<< i).toNat.testBit k) = [i] := by
  decide

/-- A PFC frame for one priority that acts loads its timer and is counted there. -/
theorem pfcIn_single {i : Nat} (hi : i < 8) {x : Port} (hrx : x.pfcRx.toNat.testBit i = true) (hcalm : pauseIgnored x i = false)
    (p : Nat) (times : List Nat) (s : State) :
    pfcIn p x (1#16 <<< i).toNat times s = evAdd 0x0118 p i 1 (loadPause p i (at0 times i) s) := by
  have hacts : pfcActs x i = true := by simp [pfcActs, hrx, hcalm]
  unfold pfcIn
  dsimp only
  rw [filter_testBit_single i hi]
  simp [forAll, hi, Nat.not_le.mpr hi, hrx, hacts]

/-- An Annex 31B frame that is honoured is counted and loads the timer of the whole port. -/
theorem pauseIn_honoured {x : Port} (hrx : x.pauseRx = true) (hcalm : x.storm31 = false) (p time : Nat) (s : State) :
    pauseIn p x time s = loadPause p 8 time (ev 0x0112 p s) := by
  simp [pauseIn, hrx, hcalm]

/-! ## Timers, refresh and hold (09 R272, R274, R276; 08 R243) -/

section
variable {p : Nat} {s : State} {x : Port} (hx : port s p = some x)
include hx

/-- A running timer that ends takes its run of pause with it. -/
theorem exec_pauseTimerExpiry {i : Nat} (hi : i ≤ 8) (hrun : 0 < at0 x.timers i) : exec (.pauseTimerExpiry p i) s =
    .next (modPort p (fun y => { y with timers := y.timers.set i 0, pausedRun := y.pausedRun.set i 0 }) s) := by
  change execPauseTimerExpiry p i s = _
  simp only [execPauseTimerExpiry, hx]
  exact congrArg _ (if_pos ⟨hi, hrun⟩)

/-- What the port advertises it sends again, as Annex 31B for 8 and else as PFC of the one priority. -/
theorem exec_pfcRefresh {i : Nat} (hup : x.link = .up) (hi : i ≤ 8) (hadvert : x.advert.toNat.testBit i = true) :
    exec (.pfcRefresh p i) s = .next (
      if i = 8 then pushMacCtl p { annex31 := true, vec := 0, quanta := [x.pauseQuanta] } s
      else pushMacCtl p { annex31 := false, vec := 1#8 <<< i, quanta := (List.range 8).map (fun k => if k = i then x.pfcQuanta else 0) } s) := by
  change execPfcRefresh p i s = _
  simp only [execPfcRefresh, hx]
  exact congrArg _ (if_neg (by simp [hup, hi, hadvert]))

/-- A hold whose time has come on a port that is not UP ends. -/
theorem exec_queueHoldExpiry {h : Nat} (hhold : x.hold = some h) (hdue : h ≤ now s) (hdown : x.link ≠ .up) :
    exec (.queueHoldExpiry p) s = .next (holdFlush p s) := by
  change execQueueHoldExpiry p s = _
  simp only [execQueueHoldExpiry, hx, hhold]
  exact congrArg _ (if_pos ⟨hdue, hdown⟩)

end

/-- Settles O21: the class-enable vector names one priority, and each row acts as its conditions let it. -/
theorem pauseRowsComplete : Obligations.PauseRowsComplete := by
  refine ⟨?pfc, ?pause, ?expiry, ?refresh, ?hold⟩
  case pfc =>
    intro p i times s x hx hup hi hrx hcalm _
    have hx1 : port (macRx p s) p = some x := hx
    obtain ⟨y, hy, hset⟩ := port_loadPause hx1 hcalm (at0 times i)
    refine ⟨_, y, exec_pfcReceive hx hup .., ?_⟩
    rw [pfcIn_single hi hrx hcalm]
    exact ⟨((OnlyPortsCounts.macRx ..).trans (.loadPause ..)).trans (.evAdd ..), hy, hset⟩
  case pause =>
    intro p time s x hx hup hrx hcalm
    have hx1 : port (ev 0x0112 p (macRx p s)) p = some x := hx
    have hcalm8 : pauseIgnored x 8 = false := by simp [pauseIgnored, inStorm, hcalm]
    obtain ⟨y, hy, hset⟩ := port_loadPause hx1 hcalm8 time
    refine ⟨_, y, exec_pauseReceive hx hup .., ?_⟩
    rw [pauseIn_honoured hrx hcalm]
    exact ⟨((OnlyPortsCounts.macRx ..).trans (.evAdd ..)).trans (.loadPause ..), hy, hset⟩
  case expiry =>
    intro p i s x hx hi hrun
    exact ⟨_, exec_pauseTimerExpiry hx hi hrun, onlyPort_modPort .., by rw [port_modPort_same, hx, Option.map_some]⟩
  case refresh =>
    intro p i s x hx hup hadvert
    refine ⟨fun hi => ?_, fun hi => ?_⟩
    · rw [exec_pfcRefresh hx hup hi.le hadvert, if_neg hi.ne]
    · rw [exec_pfcRefresh hx hup hi.le hadvert, if_pos hi]
  case hold =>
    intro p h s x hx hhold hdue hdown
    exact exec_queueHoldExpiry hx hhold hdue hdown

end Sys2Proof.Proofs
end

/-! PROOFS. Frames that leave a port (01 R27, R29, R30; 08 R255; 09 R257, R258, R260; 12 R367, R372): which candidate SCHEDULER_SELECT takes, what TRANSMIT_END ends, and the list that REPLICATION runs over. -/

section
namespace Sys2Proof.Proofs

open Sys2Proof Sys2Proof.Machine Sys2Proof.Laws

/-! ## Rank 1 (09 R258; 12 R372) -/

/-- A MAC control frame goes before anything else. -/
theorem rankOne_macCtl {x : Port} {c : MacCtl} {r : List MacCtl} (hctl : macCtlNext x = some (c, r)) (p ph ln : Nat) (s : State) :
    rankOne p ph ln x s = some (ev (if c.annex31 then 0x0111 else 0x0110) p
      (macSend p ((if x.stk.enable then macCtlHeader s x else []) ++ macCtlBytes x c) (modPort p (fun y => { y with macCtl := r }) s))) := by
  unfold rankOne
  rw [hctl]

section
variable {p : Nat} {s : State} {x : Port} (hctl : macCtlNext x = none)
include hctl

/-- Without a MAC control frame the frame of the stack engine goes. -/
theorem rankOne_stack {e : CtlTx} (hstk : stackNext s p x = some e) (ph ln : Nat) : rankOne p ph ln x s = some (
    let r := stackOut p (egressTs s p x ln ph) e.bytes { s with stack := { s.stack with tx := s.stack.tx.erase e } }
    macSend p r.1 r.2) := by
  unfold rankOne
  rw [hctl]
  dsimp only
  rw [hstk]

theorem rankOne_none (hstk : stackNext s p x = none) (ph ln : Nat) : rankOne p ph ln x s = none := by
  unfold rankOne
  rw [hctl]
  dsimp only
  rw [hstk]

end

/-! ## SCHEDULER_SELECT (09 R257, R258, R260) -/

/-- A candidate of rank 1 has its turn at once. -/
theorem selTurn_rankOne {s : State} {p : Nat} {x : Port} (hup : x.link = .up) (h : (macCtlNext x).isSome = true ∨ (stackNext s p x).isSome = true) :
    selTurn s p x = true := by
  have hurgent : urgent s p x = true := by
    unfold urgent
    rcases h with h | h <;> simp [hup, h]
  simp [selTurn, hurgent]

section
variable {p : Nat} {s : State} {x : Port} (hx : port s p = some x) (hup : x.link = .up)
include hx hup

section
variable (hturn : selTurn s p x = true)
include hturn

theorem exec_schedulerSelect_rankOne {ph ln : Nat} {t : State} (h : rankOne p ph ln x s = some t) (b : BankIn) :
    exec (.schedulerSelect p ⟨ph, ln⟩ b) s = .next t := by
  change execSchedulerSelect p ⟨ph, ln⟩ b s = _
  simp only [execSchedulerSelect, hx]
  rw [if_neg (by simp [hup, hturn]), h]

variable {ph ln : Nat} (hone : rankOne p ph ln x s = none)
include hone

/-- Ranks 2 to 4 take the head of the queue that they give; below rank 2 the port has had its turn in the rotation. -/
theorem exec_schedulerSelect_queue {q : Nat} {y : Port} (hpick : pickFrame s p x = some (q, y)) (b : BankIn) :
    exec (.schedulerSelect p ⟨ph, ln⟩ b) s = .next (selectHead p q ph ln b (
      if urgent s p x then modPort p (fun _ => y) s
      else modGrp (groupOf p) (fun z => { z with sel := arbServe (arbWeight x) p z.sel }) (modPort p (fun _ => y) s))) := by
  change execSchedulerSelect p ⟨ph, ln⟩ b s = _
  simp only [execSchedulerSelect, hx]
  rw [if_neg (by simp [hup, hturn]), hone]
  dsimp only
  rw [hpick]

end

end

/-- A port without a candidate is passed over, whether or not it is its turn. -/
theorem exec_schedulerSelect_none {p ph ln : Nat} {s : State} {x : Port} (hx : port s p = some x) (hone : rankOne p ph ln x s = none)
    (hpick : pickFrame s p x = none) (b : BankIn) : exec (.schedulerSelect p ⟨ph, ln⟩ b) s = .next s := by
  change execSchedulerSelect p ⟨ph, ln⟩ b s = _
  simp only [execSchedulerSelect, hx, hone, hpick]
  exact congrArg _ (ite_self s)

/-! ## TRANSMIT_END and REPLICATION -/

/-- The transmission that has lasted longest ends once its last byte is known (01 R29). -/
theorem exec_transmitEnd {p : Nat} {s : State} {x : Port} {f : Sent} (hx : port s p = some x) (hf : x.inflight.find? (fun g => !g.dropped) = some f)
    (hlast : f.desc.prov = false) : exec (.transmitEnd p) s = .next (sentEnd p f s) := by
  change execTransmitEnd p s = _
  simp only [execTransmitEnd, hx, hf]
  exact congrArg _ (if_neg (by simp [hlast]))

/-- What the replication engine leaves of a frame, taken from its queue in s0, that runs over the COUNT entries at LIST: an admission for each entry, the flow's update, the copies in the metadata record, and a chain that lives on in its copies (01 R27; 08 R235 to R237). -/
def replicated (g : Nat) (j : ReplJob) (m : Meta) (list cnt : Nat) (s s0 : State) : State :=
  let bs := chainRead s j.head 0 (min (j.len - 4) 512)
  let r := (List.range cnt).foldl (fun acc i => replicateEntry g (clusterOf g) list i j m.phv (ptpMark s m.phv bs) (ecnCapable s m.phv bs) acc.1 acc.2) ({}, s0)
  let s2 := modMeta j.mta (fun y => { y with copies := r.1.copies }) (flowStation g m r.1 j.exc r.2)
  closeChain j.head none (if r.1.copies = 0 then modMeta j.mta (fun y => { y with tracked := false }) (sampleOut m 1 s2) else s2)

/-- A frame whose group has a head record runs over that record's list. -/
theorem replicate_list {g list cnt : Nat} {s : State} {j : ReplJob} {rest : List ReplJob} {m : Meta} (hjob : (grp s g).repl = j :: rest)
    (hmeta : metaOf s j.mta = some m) (hlist : mcastHead (modGrp g (fun x => { x with repl := rest }) s) (clusterOf g) j.group = some (list, cnt)) :
    replicate g s = replicated g j m list cnt s (modGrp g (fun x => { x with repl := rest }) s) := by
  simp only [replicate, hjob, hmeta, hlist, replicated]

/-- Settles O23: the ranks in their order, each row by its rule. -/
theorem frameDepartureComplete : Obligations.FrameDepartureComplete := by
  refine ⟨?macCtl, ?stack, ?queue, ?none, ?transmitEnd, ?replication⟩
  case macCtl =>
    intro p ph ln b s x c r hx hup hctl
    exact exec_schedulerSelect_rankOne hx hup (selTurn_rankOne hup (.inl (by simp [hctl]))) (rankOne_macCtl hctl ..) b
  case stack =>
    intro p ph ln b s x e hx hup hctl hstk
    exact exec_schedulerSelect_rankOne hx hup (selTurn_rankOne hup (.inr (by simp [hstk]))) (rankOne_stack hctl hstk ..) b
  case queue =>
    intro p ph ln q b s x y hx hup hctl hstk hpick hturn
    exact exec_schedulerSelect_queue hx hup hturn (rankOne_none hctl hstk ..) hpick b
  case none =>
    intro p ph ln b s x hx _ hctl hstk hpick
    exact exec_schedulerSelect_none hx (rankOne_none hctl hstk ..) hpick b
  case transmitEnd =>
    intro p s x f hx hf hlast
    exact exec_transmitEnd hx hf hlast
  case replication =>
    intro g list cnt s j rest m hjob hmeta s0 hlist bs r s2 s3
    have hrun : replicate g s = s3 := replicate_list hjob hmeta hlist
    change Host.Outcome.next (replicateNext6 g s) = _
    rw [replicateNext6, hrun]

end Sys2Proof.Proofs
end

/-! PROOFS. Time commands (10 R313, R320 to R325): what the own part of each answers when its fields are in their ranges, and what TIME_STATUS_GET reports. -/

section
namespace Sys2Proof.Proofs

open Sys2Proof Sys2Proof.Machine Sys2Proof.Safety Sys2Proof.Laws

section
variable {m : Nat} {c : Cmd} {p : List Byte} {s : State}

/-! ## Device time, domains and selection (10 R321, R323, R324, Table 10.10) -/

theorem timeSet_ok (hflags : fld p 16 1 < 4) (hz17 : fld p 17 1 = 0) (hns : fld p 20 4 < 10 ^ 9) (hz30 : fld p 30 2 = 0) :
    timeSet m c p s = .hold .boundary (scheduled m c.code p s) :=
  checks_pass (by simpa [hflags, hz17, hz30] using hns)

theorem timeDomainSet_ok (hdom : fld p 16 1 ≤ 1) (hsrc : fld p 17 1 ≤ 4) (hpin : fld p 17 1 = 3 → fld p 18 1 ≤ 7) (hflags : fld p 19 1 < 2)
    (hz21 : fld p 21 3 = 0) (hkp : fld p 24 4 < 2 ^ 24) (hki : fld p 28 4 < 2 ^ 24) (hlim : 1 ≤ fld p 32 4 ∧ fld p 32 4 ≤ 500000)
    (hlock : fld p 40 4 ≠ 0) (hloss : 1 ≤ fld p 44 4 ∧ fld p 44 4 ≤ 16777215) (hz52 : fld p 52 4 = 0) :
    timeDomainSet m c p s = ansOk [] (scheduled m c.code p s) := by
  have pin : ¬ fld p 17 1 = 3 ∨ fld p 18 1 ≤ 7 := Decidable.imp_iff_not_or.mp hpin
  have gains : fld p 24 4 < 16777216 ∧ fld p 28 4 < 16777216 := ⟨hkp, hki⟩
  unfold timeDomainSet
  dsimp only
  rw [checks_pass (by simp [hdom, hsrc, pin, hflags, hz21, gains, hlim, hlock, hloss, hz52]), schedule_scheduled rfl]

theorem timeGlobalSet_ok (hptp : fld p 16 1 ≤ 63) (hip4 : fld p 17 1 ≤ 63) (hip6 : fld p 18 1 ≤ 63) (hflags : fld p 19 1 < 4)
    (hslew : 1 ≤ fld p 24 4 ∧ fld p 24 4 ≤ 100000) (hz : fld p 28 4 = 0) :
    timeGlobalSet m c p s = ansOk [] (scheduled m c.code p s) := by
  unfold timeGlobalSet
  dsimp only
  rw [checks_pass (by simp [hptp, hip4, hip6, hflags, hslew, hz]), schedule_scheduled rfl]

/-- A domain is selected by force, or when it is locked and the two do not disagree. -/
theorem timeSelect_ok (hdom : fld p 16 1 ≤ 1) (hforce : fld p 17 1 < 2) (hz : fld p 18 6 = 0)
    (hready : fld p 17 1 = 1 ∨ (dom s (fld p 16 1)).locked = true ∧ s.time.split = false) :
    timeSelect m c p s = ansOk [] (scheduled m c.code p s) := by
  unfold timeSelect
  dsimp only
  rw [checks_pass (by simp [hdom, hforce, hz]), if_neg ?allowed, schedule_scheduled rfl]
  case allowed =>
    rintro ⟨hunforced, hrefused⟩
    rcases hready with h1 | ⟨hlocked, hsplit⟩
    · simp [h1] at hunforced
    · simp [hlocked, hsplit] at hrefused

/-! ## TIME_PORT_SET (10 R291, R322) -/

section
variable {q : Path} (hflags : fld p 16 1 < 32) (hz : fld p 17 3 = 0) (hrx : adjOk (sInt 16 (fld p 20 2)) = true)
  (htx : adjOk (sInt 16 (fld p 22 2)) = true) {x : Port} (hx : port s q.index = some x)
include hflags hz hrx htx hx

/-- Without PERSIST the settings of a port wait for the boundary. -/
theorem timePortSet_volatile (hpersist : (fld p 16 1).testBit 3 = false) :
    timePortSet m c q p s = ansOk [] (scheduled m c.code p s) := by
  unfold timePortSet
  dsimp only
  rw [checks_pass (by simp [hflags, hz, hrx, htx]), hx]
  dsimp only
  rw [if_neg (by simp [hpersist]), schedule_scheduled rfl]

/-- With PERSIST the calibration joins the writes that wait for the flash too, which has room for it. -/
theorem timePortSet_persist (hpersist : (fld p 16 1).testBit 3 = true) (hro : s.power.stateRo = false)
    (hroom : s.power.logWait.length + s.power.stateWait.length < 256) :
    timePortSet m c q p s = ansOk [] (modPower (fun w => { w with stateWait := w.stateWait ++
      [(calKey q.index x.width, sInt 16 (fld p 20 2), sInt 16 (fld p 22 2), sInt 64 (fld p 24 8), (fld p 16 1).testBit 4)] })
      (scheduled m c.code p s)) := by
  unfold timePortSet
  dsimp only
  rw [checks_pass (by simp [hflags, hz, hrx, htx]), hx]
  dsimp only
  rw [if_pos hpersist, if_neg (by simp [hro]), if_neg (by omega), schedule_scheduled rfl]

end

/-! ## Masters and authentication (10 R313, R325) -/

theorem laneCount_le (s : State) : laneCount s ≤ 512 := by
  unfold laneCount
  split <;> decide

/-- A list whose entries name ports of this chip, or any, waits for the boundary, and its domain counts as configured. -/
theorem timeMasterListSet_ok (hdom : fld p 16 1 ≤ 1) (hz : fld p 18 14 = 0)
    (hentries : ∀ j < fld p 17 1, (fld p (42 + 16 * j) 2 < laneCount s ∨ fld p (42 + 16 * j) 2 = 0xFFFF) ∧ fld p (44 + 16 * j) 4 = 0) :
    timeMasterListSet m c p s = ansOk [] (modDom (fld p 16 1) (fun d => { d with listSeen := true }) (scheduled m c.code p s)) := by
  have hmax := laneCount_le s
  have ranges : ∀ j < fld p 17 1, (fld p (42 + 16 * j) 2 ≤ 511 ∨ fld p (42 + 16 * j) 2 = 65535) ∧ fld p (44 + 16 * j) 4 = 0 := fun j hj => by
    obtain ⟨hport, hpad⟩ := hentries j hj
    exact ⟨hport.imp_left (by omega), hpad⟩
  have exist : ∀ j < fld p 17 1, laneCount s ≤ fld p (42 + 16 * j) 2 → 511 < fld p (42 + 16 * j) 2 := fun j hj hfused => by
    obtain ⟨hport, -⟩ := hentries j hj
    omega
  unfold timeMasterListSet
  dsimp only
  rw [checks_pass (by simpa [hdom, hz] using ranges), if_neg (by simpa using exist), schedule_scheduled rfl]

theorem timeAuthSet_ok (hdom : fld p 16 1 ≤ 1) (hflags : fld p 17 1 < 4) (halg : fld p 19 1 ≤ 1) (hslot0 : fld p 28 1 ≤ 15)
    (hslot1 : fld p 29 1 ≤ 15) (hkey : fld p 30 1 ≤ 1) (hz : fld p 31 1 = 0) :
    timeAuthSet m c p s = ansOk [] (modDom (fld p 16 1) (fun d => { d with authSeen := true }) (scheduled m c.code p s)) :=
  checks_pass (by simp [hdom, hflags, halg, hslot0, hslot1, hkey, hz])

end

/-! ## Status (10 Tables 10.23, 10.24) -/

theorem timeStatus_device {q : Path} (hkind : q.kind = 1) (s : State) : timeStatus q s = ansOk
    (leBytes 4 (timeStat s) ++ evLow s 0x0508 0 0 4 ++ leBytes 8 (uInt 64 (s.time.d / 2 ^ 24)) ++ evLow s 0x0507 0 0 4
      ++ evLow s 0x0506 0 0 4 ++ zeros 8 ++ domStatus s 0 ++ domStatus s 1) s :=
  if_pos hkind

theorem timeStatus_port {q : Path} {s : State} {x : Port} (hkind : q.kind = 3) (hx : port s q.index = some x) : timeStatus q s = ansOk
    ([byte (b2n x.tcEn + 2 * b2n x.p2p + 4 * b2n x.txStep + 8 * b2n x.persist + 16 * b2n x.calValid)] ++ zeros 7 ++ leBytes 8 x.meanLinkDelay
      ++ evLow s 0x0114 q.index 0 4 ++ evLow s 0x011C q.index 0 4 ++ evLow s 0x011D q.index 0 4 ++ evLow s 0x011E q.index 0 4) s := by
  unfold timeStatus
  rw [if_neg (by omega), hx]

/-- Settles O8: each setting passes its checks and waits for the boundary, and the status is that of the unit which the path names. -/
theorem timeCommandsComplete : Obligations.TimeCommandsComplete := by
  refine ⟨?set, ?portVolatile, ?portPersist, ?domain, ?global, ?select, ?masters, ?auth, ?deviceStatus, ?portStatus⟩
  case set =>
    intro m p s hw ha hflags hz17 hns hz30
    refine congrArg _ (runCmd_onPath_held hw ha fun c hc => ?_)
    rw [timeSet_ok hflags hz17 hns hz30, hc]
  case portVolatile =>
    intro m p s hw ha hflags hz hrx htx hpersist
    obtain ⟨x, hx⟩ := port_of_addressed ha
    refine congrArg _ (runCmd_onPath_answered hw ha fun c hc => ?_)
    rw [timePortSet_volatile hflags hz hrx htx hx hpersist, hc]
  case portPersist =>
    intro m p s x hw ha hflags hz hrx htx hpersist hx hro hroom
    refine congrArg _ (runCmd_onPath_answered hw ha fun c hc => ?_)
    rw [timePortSet_persist hflags hz hrx htx hx hpersist hro hroom, hc]
  case domain =>
    intro m p s hw ha hdom hsrc hpin hflags hz21 hkp hki hlim hlock hloss hz52
    refine congrArg _ (runCmd_onPath_answered hw ha fun c hc => ?_)
    rw [timeDomainSet_ok hdom hsrc hpin hflags hz21 hkp hki hlim hlock hloss hz52, hc]
  case global =>
    intro m p s hw ha hptp hip4 hip6 hflags hslew hz
    refine congrArg _ (runCmd_onPath_answered hw ha fun c hc => ?_)
    rw [timeGlobalSet_ok hptp hip4 hip6 hflags hslew hz, hc]
  case select =>
    intro m p s hw ha hdom hforce hz hready
    refine congrArg _ (runCmd_onPath_answered hw ha fun c hc => ?_)
    rw [timeSelect_ok hdom hforce hz hready, hc]
  case masters =>
    intro m p s hw hcount ha hdom hz hentries
    refine congrArg _ (runCmd_answered hw fun c _ hc hp => ?_)
    subst hp
    dsimp only
    rw [if_neg (Nat.not_lt.mpr hcount), onPath_addressed _ ha, timeMasterListSet_ok hdom hz hentries, hc]
  case auth =>
    intro m p s hw ha hdom hflags halg hslot0 hslot1 hkey hz
    refine congrArg _ (runCmd_onPath_answered hw ha fun c hc => ?_)
    rw [timeAuthSet_ok hdom hflags halg hslot0 hslot1 hkey hz, hc]
  case deviceStatus =>
    intro m p s hw ha
    have hkind : (pathOf p).kind = 1 := List.mem_singleton.mp (addressed_kind ha)
    exact congrArg _ (runCmd_onPath_answered hw (addressed_mono ha (by simp)) fun _ _ => timeStatus_device hkind s)
  case portStatus =>
    intro m p s x hw ha hx
    have hkind : (pathOf p).kind = 3 := List.mem_singleton.mp (addressed_kind ha)
    exact congrArg _ (runCmd_onPath_answered hw (addressed_mono ha (by simp)) fun _ _ => timeStatus_port hkind hx)

end Sys2Proof.Proofs
end

/-! PROOFS. Registers of the time unit (10 R302, R303, R316, R317): timestamp entries and captures that a read latches and removes, samples of software, and the MODE of a pin. -/

section
namespace Sys2Proof.Proofs

open Sys2Proof Sys2Proof.Machine Sys2Proof.Safety Sys2Proof.Laws

/-! ## Pins -/

@[simp] theorem pin_modPin_same (k : Nat) (f : Pin → Pin) (s : State) : pin (modPin k f s) k = f (pin s k) := by simp [pin, modPin]

theorem pin_modPin_other {k j : Nat} (f : Pin → Pin) (s : State) (h : j ≠ k) : pin (modPin k f s) j = pin s j := by
  simp [pin, modPin, tabGetD_tabMod_other _ _ _ h]

/-- A change of a pin block counts by what it makes of the block as it stands. -/
theorem modPin_congr {k : Nat} {f g : Pin → Pin} {s : State} (h : f (pin s k) = g (pin s k)) : modPin k f s = modPin k g s := by
  unfold pin at h
  simp only [modPin, tabMod, h]

/-! ## Parts of a register -/

/-- A read from a register's first byte takes its low bytes. -/
theorem partOf_low (v n : Nat) : partOf v 0 n = v % 2 ^ (8 * n) := by simp [partOf]

/-- A write of all 32 bits of a register puts the data in place of its value. -/
theorem mix_word {old v : Nat} (hold : old < 2 ^ 32) (hv : v < 2 ^ 32) : mix old v (2 ^ 32 - 1) = v := by
  have keeps : old &&& ((2 ^ 32 - 1) ^^^ (2 ^ 64 - 1)) = 0 := by
    refine Nat.eq_of_testBit_eq fun i => ?_
    rw [Nat.testBit_and, Nat.testBit_xor, Nat.testBit_two_pow_sub_one, Nat.testBit_two_pow_sub_one, Nat.zero_testBit]
    by_cases hi : i < 32
    · simp [hi, hi.trans (by decide : 32 < 64)]
    · simp [Nat.testBit_lt_two_pow (hold.trans_le (Nat.pow_le_pow_right two_pos (Nat.not_lt.mp hi)))]
  rw [mix, keeps, Nat.zero_or, Nat.and_two_pow_sub_one_of_lt_two_pow hv]

/-- 64 bits read as a two's complement number are the word's own value. -/
theorem sInt_word (v : BitVec 64) : sInt 64 v.toNat = v.toInt := by
  have := v.isLt
  rw [sInt, BitVec.toInt_eq_toNat_cond]
  split <;> split <;> omega

section
variable {who : Who} {s : State} {addr b sz : Nat} (hr : reaches s who = true)
include hr

/-- A write of 32 bits in the register blocks writes a part of one register. -/
theorem busWrite_word (h : 0x20000 ≤ addr ∧ addr < 0x80000 ∧ addr % 4 = 0 ∧ regSpan addr = some (b, sz)) (v : Nat) :
    busWrite who addr 32 v s = writeReg who b (addr - b) 4 v s := by
  obtain ⟨hlo, hhi, hal, hs⟩ := h
  rw [busWrite_reached hr (by unfold barSize; omega), regWrite_word hal, writePart_assigned (regReach_blocks hlo hhi who) hs]

/-- A write of 64 bits to a register of 8 bytes writes it whole. -/
theorem busWrite_wide (h : 0x20000 ≤ addr ∧ addr < 0x80000 ∧ addr % 8 = 0 ∧ regSpan addr = some (addr, 8)) (v : Nat) :
    busWrite who addr 64 v s = writeReg who addr 0 8 v s := by
  obtain ⟨hlo, hhi, hal, hs⟩ := h
  have wide : regWrite who addr 64 v s = writePart who addr 8 v s := by simp [regWrite, hal, isWide, hs]
  rw [busWrite_reached hr (by unfold barSize; omega), wide, writePart_assigned (regReach_blocks hlo hhi who) hs, Nat.sub_self]

end

/-! ## Timestamp entries (10 R302) -/

theorem readReg_tsqLo (who : Who) (ph : Nat) (s : State) : readReg who 0x20100 0 8 ph s = readTsqLo who 0 8 s := rfl

theorem readReg_tsqHi (who : Who) (ph : Nat) (s : State) : readReg who 0x20108 0 8 ph s = readTsqHi who 0 8 s := rfl

/-- The low half latches the head entry, whatever was latched. -/
theorem readTsqLo_head (who : Who) (s : State) : readTsqLo who 0 8 s =
    (((s.time.tsq.head?.map tsqLo).getD 0) % 2 ^ 64, modTime (fun t => { t with tsqLatch := tabPut t.tsqLatch (whoNo who) s.time.tsq.head? }) s) := by
  unfold readTsqLo
  dsimp only
  cases tabGet s.time.tsqLatch (whoNo who) <;> simp [partOf_low]

/-- The upper half of the head, latched or not, removes it. -/
theorem readTsqHi_head {who : Who} {s : State} {e : TsqEntry} {r : List TsqEntry} (hq : s.time.tsq = e :: r)
    (hlat : ∀ x, tabGet s.time.tsqLatch (whoNo who) = some x → x = some e) : readTsqHi who 0 8 s =
    ((tsqHi e + 2 ^ 63) % 2 ^ 64, modTime (fun t => { t with tsqLatch := tabErase t.tsqLatch (whoNo who), tsq := r }) s) := by
  unfold readTsqHi
  dsimp only
  cases hl : tabGet s.time.tsqLatch (whoNo who) with
  | none => simp [partOf_low, hq, modTime, b2n]
  | some x =>
    obtain rfl := hlat x hl
    simp [partOf_low, hq, modTime, b2n]

/-- An empty queue reads zero. -/
theorem readTsqHi_empty {who : Who} {s : State} (hq : s.time.tsq = []) (hl : tabGet s.time.tsqLatch (whoNo who) = none) :
    readTsqHi who 0 8 s = (0, modTime (fun t => { t with tsqLatch := tabErase t.tsqLatch (whoNo who) }) s) := by
  unfold readTsqHi
  dsimp only
  simp [partOf_low, hq, hl, modTime, b2n]

/-! ## Samples (10 R303, R305) -/

theorem offerSample_taken {x src : Nat} {s : State} (hsrc : (dom s x).source = src) (hroom : (dom s x).queue.length < 4) (e : Int) :
    offerSample x src e s = modDom x (fun y => { y with queue := y.queue ++ [e] }) s :=
  if_neg (by omega)

theorem offerSample_dropped {x src : Nat} {s : State} (h : (dom s x).source ≠ src ∨ 4 ≤ (dom s x).queue.length) (e : Int) :
    offerSample x src e s = evAdd 0x050A 0 x 1 s := if_pos h

theorem exec_timeSampleWrite {d : Nat} (hd : d < 2) (who : Who) (width : Nat) (v : BitVec 64) (s : State) :
    exec (.timeSampleWrite who d width v) s = .next (busWrite who (0x20020 + 8 * d) width v.toNat s) := congrArg _ (if_pos hd)

/-- The two sample registers are 8 bytes each. -/
theorem timeSample_span : ∀ d < 2, 0x20000 ≤ 0x20020 + 8 * d ∧ 0x20020 + 8 * d < 0x80000 ∧ (0x20020 + 8 * d) % 8 = 0 ∧
    regSpan (0x20020 + 8 * d) = some (0x20020 + 8 * d, 8) := by decide

/-- A write of n bytes from a register's first byte in the time block (14 Table 14.2). -/
theorem writeReg_time {a : Nat} (ha : 0x20000 ≤ a ∧ a < 0x30000) (who : Who) (n v : Nat) (s : State) :
    writeReg who a 0 n v s = timePut (a - 0x20000) 0 n (v % 2 ^ (8 * n)) (2 ^ (8 * n) - 1) s := by
  rw [writeReg, if_neg (by omega), if_neg (by omega), if_pos ha.2, Nat.mul_zero, Nat.shiftLeft_zero, Nat.shiftLeft_zero]

theorem writeReg_timeSample {d : Nat} (hd : d < 2) (who : Who) (n v : Nat) (s : State) :
    writeReg who (0x20020 + 8 * d) 0 n v s = timeSample d 0 n (v % 2 ^ (8 * n)) s := by
  rw [writeReg_time (by omega)]
  interval_cases d <;> rfl

section
variable {who : Who} {d : Nat} {s : State} (hr : reaches s who = true) (hd : d < 2) (v : BitVec 64)
include hr hd

/-- A sample of 64 bits is offered to its domain under the source "software". -/
theorem exec_timeSampleWrite_wide : exec (.timeSampleWrite who d 64 v) s = .next (offerSample d 4 v.toInt s) := by
  rw [exec_timeSampleWrite hd, busWrite_wide hr (timeSample_span d hd), writeReg_timeSample hd, Nat.mod_eq_of_lt v.isLt, ← sInt_word]
  rfl

/-- A narrower write of a sample is an access error. -/
theorem exec_timeSampleWrite_word : exec (.timeSampleWrite who d 32 v) s = .next (regError (0x20020 + 8 * d) s) := by
  obtain ⟨hlo, hhi, hal, hs⟩ := timeSample_span d hd
  rw [exec_timeSampleWrite hd, busWrite_word hr ⟨hlo, hhi, by omega, hs⟩, Nat.sub_self, writeReg_timeSample hd]
  rfl

end

/-! ## The MODE of a pin (10 R316, R319) -/

/-- TPIO_CTL fits into its 32 bits. -/
theorem pinReg_ctl_lt (x : Pin) : pinReg x 0 < 2 ^ 32 := by
  have flag (f : Bool) : b2n f ≤ 1 := by cases f <;> decide
  have harmed := flag x.armed
  have hmissed := flag x.missed
  have hpolarity := flag x.polarity
  simp only [pinReg]
  omega

/-- The first register of each pin block is TPIO_CTL. -/
theorem tpioCtl_span : ∀ k < 9, 0x20000 ≤ 0x20200 + 0x40 * k ∧ 0x20200 + 0x40 * k < 0x80000 ∧ (0x20200 + 0x40 * k) % 4 = 0 ∧
    regSpan (0x20200 + 0x40 * k) = some (0x20200 + 0x40 * k, 4) := by decide

theorem timePut_pin {o : Nat} (ho : 0x200 ≤ o) (off n v m : Nat) (s : State) :
    timePut o off n v m s = pinPut ((o - 0x200) / 0x40) ((o - 0x200) % 0x40) v m s := if_pos ho

theorem pinPut_ctl (k v m : Nat) (s : State) : pinPut k 0 v m s = pinCtl k v m s := rfl

theorem writeReg_tpioCtl {k : Nat} (hk : k < 9) (who : Who) (v : Nat) (s : State) :
    writeReg who (0x20200 + 0x40 * k) 0 4 v s = pinCtl k (v % 2 ^ 32) (2 ^ 32 - 1) s := by
  have block : (0x20200 + 0x40 * k - 0x20000 - 0x200) / 0x40 = k := by omega
  have first : (0x20200 + 0x40 * k - 0x20000 - 0x200) % 0x40 = 0 := by omega
  rw [writeReg_time (by omega), timePut_pin (by omega), block, first, pinPut_ctl]

theorem exec_tpioModeWrite {k : Nat} (hk : k < 9) (who : Who) (v : BitVec 32) (s : State) :
    exec (.tpioModeWrite who k v) s = .next (busWrite who (0x20200 + 0x40 * k) 32 v.toNat s) := congrArg _ (if_pos hk)

/-- What a write of TPIO_CTL makes of the fields of a pin that act at once. -/
def ctlFields (v : BitVec 32) (x : Pin) : Pin :=
  { x with missed := x.missed && !v.getLsbD 30, sub := bits v.toNat 11 8, edge := bits v.toNat 5 4, polarity := v.getLsbD 3 }

/-- A MODE that the pin may take waits for its boundary. -/
theorem pinCtl_mode {k : Nat} {v : BitVec 32} {s : State}
    (hmode : v.toNat % 8 < 3 ∨ ((v.toNat % 8 = 3 ∨ v.toNat % 8 = 4) ∧ trainOk (pin s k) (v.toNat % 8) = true)) (hpps : k = 8 → v.toNat % 8 < 2) :
    pinCtl k v.toNat (2 ^ 32 - 1) s = modPin k (fun y => { y with modeNext := some (v.toNat % 8) }) (modPin k (ctlFields v) s) := by
  have written : mix (pinReg (pin s k) 0) v.toNat (2 ^ 32 - 1) = v.toNat := mix_word (pinReg_ctl_lt _) v.isLt
  have masked : v.toNat &&& (2 ^ 32 - 1) = v.toNat := Nat.and_two_pow_sub_one_of_lt_two_pow v.isLt
  have allowed : ¬ (5 ≤ v.toNat % 8 ∨ (k = 8 ∧ 2 ≤ v.toNat % 8) ∨
      ((v.toNat % 8 = 3 ∨ v.toNat % 8 = 4) ∧ trainOk (pin s k) (v.toNat % 8) = false)) := by
    rintro (h5 | ⟨hk, h2⟩ | ⟨htrain, hbad⟩)
    · omega
    · exact absurd (hpps hk) (by omega)
    · obtain ⟨-, hok⟩ := hmode.resolve_left (by omega)
      simp [hok] at hbad
  unfold pinCtl
  simp only [written, masked]
  rw [if_neg (by decide), if_neg allowed]
  rfl

/-! ## Captures (10 R317) -/

/-- Each pin block holds TPIO_CAP and TPIO_CAP_X. -/
theorem tpioCap_span : ∀ k < 9, 0x20000 ≤ 0x20220 + 0x40 * k ∧ 0x20220 + 0x40 * k < 0x80000 ∧ (0x20220 + 0x40 * k) % 8 = 0 ∧
    regSpan (0x20220 + 0x40 * k) = some (0x20220 + 0x40 * k, 8) := by decide

theorem tpioCapX_span : ∀ k < 9, 0x20000 ≤ 0x20228 + 0x40 * k ∧ 0x20228 + 0x40 * k < 0x80000 ∧ (0x20228 + 0x40 * k) % 4 = 0 ∧
    regSpan (0x20228 + 0x40 * k) = some (0x20228 + 0x40 * k, 4) := by decide

theorem readReg_tpioCap {k : Nat} (hk : k < 9) (who : Who) (ph : Nat) (s : State) :
    readReg who (0x20220 + 0x40 * k) 0 8 ph s = readCap who k 0 8 s := by
  have block : (0x20220 + 0x40 * k - 0x20200) / 0x40 = k := by omega
  unfold readReg
  dsimp only
  rw [if_neg (by omega), if_neg (by omega), if_neg (by omega), if_neg (by omega), if_pos (by omega), block]

theorem readReg_tpioCapX {k : Nat} (hk : k < 9) (who : Who) (ph : Nat) (s : State) :
    readReg who (0x20228 + 0x40 * k) 0 4 ph s = readCapX who k s := by
  have block : (0x20228 + 0x40 * k - 0x20200) / 0x40 = k := by omega
  unfold readReg
  dsimp only
  rw [if_neg (by omega), if_neg (by omega), if_neg (by omega), if_neg (by omega), if_neg (by omega), if_pos (by omega), block]

theorem exec_tpioCapLatch {k : Nat} (hk : k < 9) (who : Who) (s : State) :
    exec (.tpioCapLatch who k) s = .next (busRead who (0x20220 + 0x40 * k) 64 0 s) := congrArg _ (if_pos hk)

theorem exec_tpioCapPop {k : Nat} (hk : k < 9) (who : Who) (s : State) :
    exec (.tpioCapPop who k) s = .next (busRead who (0x20228 + 0x40 * k) 32 0 s) := congrArg _ (if_pos hk)

/-- TPIO_CAP latches the head capture, whatever was latched. -/
theorem readCap_head (who : Who) (k : Nat) (s : State) : readCap who k 0 8 s =
    (((pin s k).fifo.head?.map (fun c => c.t)).getD 0 % 2 ^ 64,
      modPin k (fun y => { y with latch := tabPut y.latch (whoNo who) (pin s k).fifo.head? }) s) := by
  unfold readCap
  dsimp only
  cases tabGet (pin s k).latch (whoNo who) <;> simp [partOf_low]

/-- TPIO_CAP_X of the head, latched or not, removes it. -/
theorem readCapX_head {who : Who} {k : Nat} {s : State} {c : Capture} {r : List Capture} (hq : (pin s k).fifo = c :: r)
    (hlat : ∀ x, tabGet (pin s k).latch (whoNo who) = some x → x = some c) : readCapX who k s =
    (2 ^ 31 + b2n c.gap * 2 ^ 30 + b2n c.rising * 2 ^ 29 + c.sub % 16,
      modPin k (fun y => { y with latch := tabErase y.latch (whoNo who), fifo := r }) s) := by
  have latched : tabGet (pin s k).latch (whoNo who) = none ∨ tabGet (pin s k).latch (whoNo who) = some (some c) := by
    cases hl : tabGet (pin s k).latch (whoNo who) with
    | none => exact .inl rfl
    | some x => exact .inr (congrArg some (hlat x hl))
  unfold readCapX
  rcases latched with hl | hl <;>
  · simp only [hl, hq, List.head?_cons, Option.isSome_some, decide_true, Bool.and_self, if_true]
    exact Prod.ext (by simp only [b2n, if_true]; omega) (modPin_congr (by simp [hq]))

/-- Settles O38: each access reaches its register, whose rule gives value and change. -/
theorem timeRegistersComplete : Obligations.TimeRegistersComplete := by
  refine ⟨?tsqLatch, ?tsqPop, ?tsqEmpty, ?sample, ?mode, ?capture⟩
  case tsqLatch =>
    intro who s hr
    change Host.Outcome.next (busRead who 0x20100 64 0 s) = _
    rw [busRead_wide hr (by decide), readReg_tsqLo, readTsqLo_head, received_mod]
  case tsqPop =>
    intro who s e r hr hq hlat
    change Host.Outcome.next (busRead who 0x20108 64 0 s) = _
    rw [busRead_wide hr (by decide), readReg_tsqHi, readTsqHi_head hq hlat, received_mod]
  case tsqEmpty =>
    intro who s hr hq hl
    change Host.Outcome.next (busRead who 0x20108 64 0 s) = _
    rw [busRead_wide hr (by decide), readReg_tsqHi, readTsqHi_empty hq hl]
  case sample =>
    intro who d v s hr hd
    refine ⟨fun hsrc hroom => ?_, fun h => ?_, exec_timeSampleWrite_word hr hd v⟩
    · rw [exec_timeSampleWrite_wide hr hd, offerSample_taken hsrc hroom]
    · rw [exec_timeSampleWrite_wide hr hd, offerSample_dropped h]
  case mode =>
    intro who k v s hr hk hmode hpps
    refine ⟨modPin k (fun y => { y with modeNext := some (v.toNat % 8) }) (modPin k (ctlFields v) s), ?run, ?fields, fun j hj => ?other, ?frame⟩
    case run =>
      rw [exec_tpioModeWrite hk, busWrite_word hr (tpioCtl_span k hk), Nat.sub_self, writeReg_tpioCtl hk, Nat.mod_eq_of_lt v.isLt,
        pinCtl_mode hmode hpps]
    case fields => rw [pin_modPin_same, pin_modPin_same, ctlFields]
    case other => rw [pin_modPin_other _ _ hj, pin_modPin_other _ _ hj]
    case frame => rfl
  case capture =>
    intro who k s hr hk
    refine ⟨?_, fun c r hq hlat => ?_⟩
    · rw [exec_tpioCapLatch hk, busRead_wide hr (tpioCap_span k hk), readReg_tpioCap hk, readCap_head, received_mod]
    · rw [exec_tpioCapPop hk, busRead_word hr (tpioCapX_span k hk), Nat.sub_self, readReg_tpioCapX hk, readCapX_head hq hlat]

end Sys2Proof.Proofs
end

/-! PROOFS. Events of the time unit (10 R304, R306, R308, R313 to R315, R317 to R319): a lost source, edges at the pins, pulses that fall due, PTP messages received and sent, and the end of a slew. -/

section
namespace Sys2Proof.Proofs

open Sys2Proof Sys2Proof.Machine Sys2Proof.Safety Sys2Proof.Laws

/-! ## A lost source (10 R306, R311) -/

/-- A domain without a sample for LOSS_TIMEOUT tricks loses its source; it coasts on acc, and the selection follows. -/
theorem srcLost_due {x : Nat} {s : State} (hx : x < 2) (hnot : (dom s x).srcLost = false) (hdue : (dom s x).lossTimeout ≤ (dom s x).since) :
    srcLost x s = lossSelect x (modDom x (fun y => { y with
      srcLost := true, locked := false, good := 0, f := y.acc, ptp := if y.source = 1 then { y.ptp with master := none, sync := none, toSlave := none } else y.ptp }) s) := by
  unfold srcLost
  dsimp only
  rw [if_neg ?kept]
  case kept =>
    rintro (h2 | hlost | hearly)
    · omega
    · simp [hnot] at hlost
    · omega

/-! ## Edges (10 R304, R317; 19 R548) -/

/-- A pulse shorter than 4 ns is rejected whole. -/
theorem pinEdge_narrow (n : Nat) (rising : Bool) (ph : Nat) (s : State) : pinEdge n rising ph true s = s := if_pos (.inr (.inl rfl))

section
variable {n : Nat} {s : State} (hn : n < 9) (hscan : scanHolds s = false) (hrun : s.time.running = true) (hmode : n < 8 → (pin s n).mode = 1)
include hn hscan hrun hmode

/-- An edge that reaches the time unit makes its samples when it rises, and a capture when EDGE selects it. -/
theorem pinEdge_seen (rising : Bool) (ph : Nat) : pinEdge n rising ph false s =
    let s1 := if rising then edgeSamples (if n = 8 then 2 else 3) n ph s else s
    if edgeOn (pin s n) rising then pinCapture n rising ph s1 else s1 := by
  unfold pinEdge
  rw [if_neg ?reaches]
  case reaches =>
    rintro (h9 | hnarrow | hheld | hstands | ⟨h8, hother⟩)
    · omega
    · cases hnarrow
    · simp [hscan] at hheld
    · simp [hrun] at hstands
    · exact hother (hmode h8)

theorem pinEdge_rising_captured (ph : Nat) (hedge : edgeOn (pin s n) true = true) :
    pinEdge n true ph false s = pinCapture n true ph (edgeSamples (if n = 8 then 2 else 3) n ph s) := by
  rw [pinEdge_seen hn hscan hrun hmode]
  exact if_pos hedge

theorem pinEdge_rising_uncaptured (ph : Nat) (hedge : edgeOn (pin s n) true = false) :
    pinEdge n true ph false s = edgeSamples (if n = 8 then 2 else 3) n ph s := by
  rw [pinEdge_seen hn hscan hrun hmode]
  exact if_neg (ne_true_of_eq_false hedge)

theorem pinEdge_falling_captured (ph : Nat) (hedge : edgeOn (pin s n) false = true) : pinEdge n false ph false s = pinCapture n false ph s := by
  rw [pinEdge_seen hn hscan hrun hmode]
  exact if_pos hedge

theorem pinEdge_falling_uncaptured (ph : Nat) (hedge : edgeOn (pin s n) false = false) : pinEdge n false ph false s = s := by
  rw [pinEdge_seen hn hscan hrun hmode]
  exact if_neg (ne_true_of_eq_false hedge)

end

/-! ## Pulses (10 R318, R319) -/

theorem exec_tpioOneShotFire {n ph : Nat} {s : State} (h : n < 8 ∧ (pin s n).mode = 2 ∧ (pin s n).armed = true ∧ (pin s n).sStart * 4096 ≤ t16At s ph) :
    exec (.tpioOneShotFire n ph) s = .next (modPin n (fun y => pinFire ph { y with armed := false }) s) := congrArg _ (if_pos h)

theorem exec_tpioPeriodicEdge {n ph : Nat} {s : State}
    (h : n < 8 ∧ ((pin s n).mode = 3 ∨ (pin s n).mode = 4) ∧ (pin s n).armed = true ∧ (pin s n).due ≤ t16At s ph) :
    exec (.tpioPeriodicEdge n ph) s = .next (modPin n (fun y => pinFire ph { y with due := y.due + y.sPeriod }) s) := congrArg _ (if_pos h)

/-! ## PTP messages received (10 R313, R314; 13 R420) -/

/-- A message on an UP port of a domain that firmware runs PTP for is received with its ingress timestamp. -/
theorem exec_ptpMessageReceive {m : PtpIn} {s : State} {x : Port} (hx : port s m.port = some x) (hup : x.link = .up)
    (hruns : ptpRuns s m.domain = true) : exec (.ptpMessageReceive m) s = .next (ptpReceive m (ingressTs s m.port x m.ln m.ph) s) := by
  change execPtpMessageReceive m s = _
  simp only [execPtpMessageReceive, hx]
  rw [if_neg (by simp [hup, hruns])]

section
variable {m : PtpIn} {s : State} (ts : Nat)

theorem ptpReceive_notAcceptable (hc : ptpCheck s m = .notAcceptable) : ptpReceive m ts s = ev 0x011C m.port s := by
  simp only [ptpReceive, ptpJudge, hc]

theorem ptpReceive_authFail (hc : ptpCheck s m = .authFail) : ptpReceive m ts s = ev 0x011D m.port s := by
  simp only [ptpReceive, ptpJudge, hc]

theorem ptpReceive_ok (hc : ptpCheck s m = .ok) : ptpReceive m ts s = ptpAccept m ts s := by
  simp only [ptpReceive, ptpJudge, hc]

section
variable {k : Nat} (hc : ptpCheck s m = .icv k)
include hc

/-- A message whose ICV is to be computed waits while another holds the MAC engine. -/
theorem ptpReceive_waits (htaken : engineTaken s = true) : ptpReceive m ts s = { s with
    ciph := { s.ciph with waiting := true }, time := { s.time with ptpWait := s.time.ptpWait ++ [(m, now s, ts)] } } := by
  unfold ptpReceive
  rw [hc]
  exact if_pos htaken

/-- Otherwise it is judged with the engine in firmware's hands, which gives it back. -/
theorem ptpReceive_judged (hfree : engineTaken s = false) :
    ptpReceive m ts s = { ptpJudge m ts s with ciph := engineFree (ptpJudge m ts s).ciph } := by
  have owner : ¬ (s.ciph.owner = 1 ∨ s.ciph.owner = 2) := of_decide_eq_false hfree
  unfold ptpReceive
  rw [hc]
  dsimp only
  rw [if_neg (ne_true_of_eq_false hfree), withEngine, if_neg (by decide), if_neg owner]

theorem ptpJudge_icvGood (hgood : icvGood s m k = true) : ptpJudge m ts s = ptpAccept m ts s := by
  simp only [ptpJudge, hc, hgood, if_true]

theorem ptpJudge_icvBad (hbad : icvGood s m k = false) : ptpJudge m ts s = ev 0x011D m.port s := by
  simp only [ptpJudge, hc, hbad, Bool.false_eq_true, if_false]

end

end

/-! ## PTP messages sent (10 R298, R315) -/

/-- Firmware sends a message of at least a PTP header's length on an UP port of a domain that it runs PTP for. -/
theorem exec_ptpMessageTx {x p k : Nat} {msg : List Byte} {s : State} {y : Port} (hy : port s p = some y) (hup : y.link = .up)
    (hruns : ptpRuns s x = true) (hlen : 34 ≤ msg.length) : exec (.ptpMessageTx x p k msg) s = .next (ptpSend x p k y msg s) := by
  change execPtpMessageTx x p k msg s = _
  simp only [execPtpMessageTx, hy]
  rw [if_neg ?sends]
  case sends =>
    rintro (hdown | hidle | hshort)
    · exact hdown hup
    · simp [hruns] at hidle
    · omega

/-! ## The end of a slew (10 R308) -/

theorem exec_switchoverSlewEnd {s : State} (h : s.time.running = true ∧ s.time.d.natAbs ≤ (slewStep s * 1024).natAbs) :
    exec .switchoverSlewEnd s = .next { s with time := { s.time with d := 0 } } := congrArg _ (if_pos h)

/-- Settles O29: the conditions of each row bring it to its own rule. -/
theorem timeRowsComplete : Obligations.TimeRowsComplete := by
  refine ⟨?srcLost, ?pps, ?capture, ?oneShot, ?periodic, ?receive, ?transmit, ?slewEnd⟩
  case srcLost =>
    intro x s hx hnot hdue
    exact congrArg _ (srcLost_due hx hnot hdue)
  case pps =>
    intro ph s hscan hrun
    have hmode : 8 < 8 → (pin s 8).mode = 1 := fun h => absurd h (by decide)
    refine ⟨fun hedge => ?_, fun hedge => ?_, congrArg _ (pinEdge_narrow 8 true ph s)⟩
    · exact congrArg _ (pinEdge_rising_captured (by decide) hscan hrun hmode ph hedge)
    · exact congrArg _ (pinEdge_rising_uncaptured (by decide) hscan hrun hmode ph hedge)
  case capture =>
    intro n ph s hn hscan hrun hmode
    refine ⟨fun hedge => ?_, fun hedge => ?_, fun hedge => ?_, fun hedge => ?_⟩
    · exact congrArg _ (pinEdge_rising_captured hn hscan hrun hmode ph hedge)
    · exact congrArg _ (pinEdge_rising_uncaptured hn hscan hrun hmode ph hedge)
    · exact congrArg _ (pinEdge_falling_captured hn hscan hrun hmode ph hedge)
    · exact congrArg _ (pinEdge_falling_uncaptured hn hscan hrun hmode ph hedge)
  case oneShot =>
    intro n ph s hn hmode harmed hdue
    exact exec_tpioOneShotFire ⟨hn, hmode, harmed, hdue⟩
  case periodic =>
    intro n ph s hn hmode harmed hdue
    exact exec_tpioPeriodicEdge ⟨hn, hmode, harmed, hdue⟩
  case receive =>
    intro m s x hx hup hruns ts
    rw [exec_ptpMessageReceive hx hup hruns]
    refine ⟨fun hc => ?_, fun hc => ?_, fun hc => ?_, fun k hc htaken => ?_, fun k hc hfree hgood => ⟨_, rfl, ?_⟩, fun k hc hfree hbad => ⟨_, rfl, ?_⟩⟩
    · rw [ptpReceive_notAcceptable _ hc]
    · rw [ptpReceive_authFail _ hc]
    · rw [ptpReceive_ok _ hc]
    · rw [ptpReceive_waits _ hc htaken]
    · rw [ptpReceive_judged _ hc hfree, ptpJudge_icvGood _ hc hgood]
    · rw [ptpReceive_judged _ hc hfree, ptpJudge_icvBad _ hc hbad]
  case transmit =>
    intro x p k msg s y hy hup hruns hlen m r bs s1 s2 f
    have sent : ptpSend x p k y msg s = match f with
      | some o => o.2
      | none => evAdd 0x0503 0 32 1 s2 := rfl
    rw [exec_ptpMessageTx hy hup hruns hlen, sent]
    exact ⟨fun o ho => by rw [ho], fun hnone => by rw [hnone]⟩
  case slewEnd =>
    intro s hrun hd
    exact exec_switchoverSlewEnd ⟨hrun, hd⟩

end Sys2Proof.Proofs
end

/-! PROOFS. What reset leaves (02 Tables 2.3 to 2.6; 10 R285, R324; 13 to 18). -/

section
namespace Sys2Proof.Proofs

open Sys2Proof Sys2Proof.Machine Sys2Proof.Safety Sys2Proof.Laws

/-! ## Units that reset leaves at the default of their kind -/

theorem mbox_reset (m : Nat) : mbox State.reset m = {} := rfl

theorem ring_reset (r : Nat) : ring State.reset r = {} := rfl

theorem chan_reset (k : Nat) : chan State.reset k = {} := rfl

theorem fltInst_reset (src unit : Nat) : fltInst State.reset src unit = {} := rfl

/-- Settles O50: what is not a unit is read off the state after reset, and every unit is the default of its kind. -/
theorem resetLeaves : Obligations.ResetLeaves := by
  unfold Obligations.ResetLeaves
  dsimp only
  simp only [mbox_reset, ring_reset, chan_reset, fltInst_reset, implies_true, and_self, true_and]
  and_intros <;> rfl

end Sys2Proof.Proofs
end

/-! PROOFS. The state after reset, a step, and the indices of rings (14 R429, R431; 15 Table 15.9): what the invariants hold at reset, and a state in which a row of the rings breaks theirs. -/

section
namespace Sys2Proof.Proofs

open Sys2Proof Sys2Proof.Machine Sys2Proof.Safety Sys2Proof.Laws

/-! ## Rings -/

/-- A ring that holds nothing and has no indices in use is in order. -/
theorem ringOk_unused {x : Ring} (hh : x.hold = []) (hs : x.stalled = none) (hp : x.p = 0) (hc : x.c = 0) : ringOk x := by
  refine ⟨by simp [hh], by simp [hs], fun _ _ => ?_⟩
  have : 0 < ringSize x := Nat.two_pow_pos _
  simp [ringUsed, hp, hc, this]

/-- Settles O51: after reset the memories are empty, and every unit is the default of its kind. -/
theorem resetMeetsTheInvariants : Obligations.ResetMeetsTheInvariants := by
  refine ⟨rfl, fun r => ?_, fun k b hb => ?_⟩
  · rw [ring_reset]
    exact ringOk_unused rfl rfl rfl rfl
  · rw [chan_reset] at hb
    cases hb

/-- Settles O49: a step is the command at the front on the rest of the queue. -/
theorem stepRunsTheFront : Obligations.StepRunsTheFront :=
  ⟨fun c s => step_cons (s := { s with pending := c :: s.pending }) rfl, fun _ => step_nil⟩

/-! ## An entry that waits in a CQ -/

/-- A running CQ that has an entry of an SQ in hand, which waits for its cell: no row leaves such a ring, but the invariant of the rings does not exclude it. -/
def cqInHand : Ring :=
  { typ := .cq, st := .run, enable := true, cq := 63, wait := some { index := 0, slots := 1, hdr := zeros 64, frame := zeros 60 } }

/-- A state with that ring, a port, and a free cell. -/
def waitingCq : State :=
  { State.reset with rings := [(0, cqInHand)], ports := [(0, {})], buf := { sections := [(0, { list := [(0, 1)] })] } }

theorem ringsOk_waitingCq : ringsOk waitingCq := by
  refine ⟨fun r => ?_, fun k b hb => ?_⟩
  · cases r <;> exact ringOk_unused rfl rfl rfl rfl
  · cases hb

/-- The row always goes on, so its state is its only result. -/
theorem exec_sqStakeWaitEnd (r : Nat) (s : State) : exec (.sqStakeWaitEnd r) s = .next (after s (exec (.sqStakeWaitEnd r) s)) := rfl

/-- Settles O54, by its negation: SQ_STAKE_WAIT_END does not ask whether the ring with an entry in hand is an SQ. On a CQ it advances C past P, and the ring counts 127 of its 64 slots in use. -/
theorem not_ringsNeverOverflow : ¬ Obligations.RingsNeverOverflow := by
  intro h
  obtain ⟨hr, -⟩ := h (.sqStakeWaitEnd 0) waitingCq (after waitingCq (exec (.sqStakeWaitEnd 0) waitingCq)) rfl ringsOk_waitingCq (exec_sqStakeWaitEnd _ _)
  obtain ⟨-, -, hi⟩ := hr 0
  exact absurd (hi (by decide +kernel) (by decide +kernel)).2.2 (by decide +kernel)

end Sys2Proof.Proofs
end

/-! PROOFS. Telemetry settings (11 R329, R357 to R363): what the own part of each answers when its fields are in their ranges. -/

section
namespace Sys2Proof.Proofs

open Sys2Proof Sys2Proof.Machine Sys2Proof.Safety Sys2Proof.Laws

section
variable {m : Nat} {c : Cmd} {p : List Byte} {s : State}

/-! ## Areas of device memory (11 R329, R357) -/

/-- The enabled areas that a request leaves enabled keep their base and size, as they stand at the next boundary. -/
def areasStay (p : List Byte) (s : State) : Prop :=
  ∀ e ∈ List.zip (memNow (telemView s)) (memAreas p), e.1.1 = true → e.2.1 = true → e.1.2.1 = e.2.2.1 ∧ e.1.2.2 = e.2.2.2.1

theorem telemMemSet_ok (hflags : fld p 16 1 < 32) (hsample : 10 ≤ fld p 17 1 ∧ fld p 17 1 ≤ 20) (hcapture : 10 ≤ fld p 18 1 ∧ fld p 18 1 ≤ 22)
    (hz19 : fld p 19 1 = 0) (hslots : 2 ≤ fld p 20 2 ∧ fld p 20 2 ≤ 256) (hz22 : fld p 22 2 = 0)
    (hareas : (memChecks p).all (fun c => c.1) = true) (hstay : areasStay p s) :
    telemMemSet m c p s = ansOk [] (scheduled m c.code p s) := by
  have unmoved : ¬ (List.zip (memNow (telemView s)) (memAreas p)).any (fun e => e.1.1 && e.2.1 && (e.1.2.1 != e.2.2.1 || e.1.2.2 != e.2.2.2.1)) = true := by
    simp only [List.any_eq_true, Bool.and_eq_true, Bool.or_eq_true, bne_iff_ne]
    rintro ⟨e, he, ⟨hwas, hon⟩, hmoved⟩
    obtain ⟨hbase, hsize⟩ := hstay e he hwas hon
    exact hmoved.elim (· hbase) (· hsize)
  have fields : ∀ {l : List (Bool × Nat)}, l.all (fun c => c.1) = true → (l ++ memChecks p).all (fun c => c.1) = true := fun h => by
    rw [List.all_append, h, hareas, Bool.and_self]
  unfold telemMemSet
  dsimp only
  rw [checks_pass (fields (by simp [hflags, hsample, hcapture, hz19, hslots, hz22])), if_neg unmoved, schedule_scheduled rfl]

/-! ## Flow settings (11 R358, R359) -/

/-- The seed may change while no record is valid. -/
theorem flowGlobalSet_ok (hidle : 1 ≤ fld p 20 4 ∧ fld p 20 4 ≤ 4194304) (hactive : 1 ≤ fld p 24 4 ∧ fld p 24 4 ≤ 4194304) (hz : fld p 28 4 = 0)
    (hseed : fld p 16 4 = s.telem.seed.toNat ∨ flowAnyValid s = false) :
    flowGlobalSet m c p s = ansOk [] (scheduled m c.code p s) := by
  unfold flowGlobalSet
  dsimp only
  rw [checks_pass (by simp [hidle, hactive, hz]), if_neg (by rcases hseed with h | h <;> simp [h]), schedule_scheduled rfl]

theorem flowProfileSet_ok (hprofile : fld p 16 1 ≤ 63) (hz17 : fld p 17 1 = 0) (hhigh : ∀ i < 10, fld p (18 + 2 * i) 2 < 4096)
    (hsrc : ∀ v ∈ profileSegs p, v / 32 % 128 ≤ 88) (htotal : ((profileSegs p).map (fun v => v % 32 + 1)).sum ≤ 320) (hz38 : fld p 38 2 = 0) :
    flowProfileSet m c p s = ansOk [] (scheduled m c.code p s) := by
  have each : ∀ v k, (v, k) ∈ (profileSegs p).zipIdx → v / 32 % 128 ≤ 88 := fun v k h => hsrc v (List.fst_mem_of_mem_zipIdx h)
  unfold flowProfileSet
  dsimp only
  rw [checks_pass ?ranges, schedule_scheduled rfl]
  case ranges =>
    simp only [List.all_append, List.all_map, Bool.and_eq_true, List.all_eq_true (p := _ ∘ _), List.mem_range, Function.comp_apply, decide_eq_true_eq]
    exact ⟨⟨⟨by simp [hprofile, hz17], hhigh⟩, fun e he => each e.1 e.2 he⟩, by simp only [List.all_cons, List.all_nil, rsv_holds, htotal, hz38, decide_true, Bool.and_self]⟩

/-! ## DUMP_SET (11 R360) -/

/-- The staged list after the items of a request. -/
def staging (p : List Byte) (s : State) : Tab DumpItem :=
  (List.range (fld p 18 1)).foldl (fun t j => tabPut t (fld p 16 2 + j) (dumpItem p j)) (if (fld p 19 1).testBit 1 then [] else s.telem.staged)

section
variable (hstart : fld p 16 2 ≤ 255) (hend : fld p 16 2 + fld p 18 1 ≤ 256) (hflags : fld p 19 1 < 4) (hz : fld p 20 4 = 0)
  (hitems : ∀ j < fld p 18 1, (itemChecks s p j).all (fun c => c.1) = true ∧ itemFused s (dumpItem p j) = false)
include hstart hend hflags hz hitems

/-- Items that pass their checks are staged, and with COMMIT the list is judged by its size. -/
theorem dumpSet_staged : dumpSet p s =
    if (fld p 19 1).testBit 0 then
      if 1048512 < ((stagedItems (staging p s)).map itemBytes).sum then ansSt stNoResource s
      else ansOk (leBytes 8 (((idx s + 1) / 64 + 1) * 64) ++ leBytes 4 ((stagedItems (staging p s)).map itemBytes).sum ++ zeros 4)
        (modTelem (fun t => { t with staged := staging p s, next := t.next ++ [(stagedItems (staging p s), ((idx s + 1) / 64 + 1) * 64)], commits := t.commits + 1 }) s)
    else ansOk [] (modTelem (fun t => { t with staged := staging p s }) s) := by
  have here : ¬ (List.range (fld p 18 1)).any (fun j => itemFused s (dumpItem p j)) = true := by
    simpa using fun j hj => (hitems j hj).2
  unfold dumpSet
  dsimp only
  rw [checks_pass ?ranges, if_neg here]
  · rfl
  case ranges =>
    simp only [List.all_append, List.all_flatMap, Bool.and_eq_true]
    exact ⟨by simp [hstart, hend, hflags, hz], by simpa using fun j hj => (hitems j hj).1⟩

/-- Without COMMIT the items are staged alone. -/
theorem dumpSet_stage (hcommit : (fld p 19 1).testBit 0 = false) : dumpSet p s = ansOk [] (modTelem (fun t => { t with staged := staging p s }) s) := by
  rw [dumpSet_staged hstart hend hflags hz hitems, if_neg (by simp [hcommit])]

/-- With COMMIT the staged list, where it fits a slot, waits for the first hand boundary after the next boundary. -/
theorem dumpSet_commit (hcommit : (fld p 19 1).testBit 0 = true) (hsize : ((stagedItems (staging p s)).map itemBytes).sum ≤ 1048512) : dumpSet p s =
    ansOk (leBytes 8 (((idx s + 1) / 64 + 1) * 64) ++ leBytes 4 ((stagedItems (staging p s)).map itemBytes).sum ++ zeros 4)
      (modTelem (fun t => { t with staged := staging p s, next := t.next ++ [(stagedItems (staging p s), ((idx s + 1) / 64 + 1) * 64)], commits := t.commits + 1 }) s) := by
  rw [dumpSet_staged hstart hend hflags hz hitems, if_pos hcommit, if_neg (by omega)]

end

/-! ## WATCH_SET, SAMPLE_SET and IOAM_SET (11 R361 to R363) -/

/-- A counter of a level watches passages, one of events counts them (11 R361). -/
theorem watchSet_ok {r : Nat × Nat × Bool} (hindex : fld p 16 2 ≤ 1023) (hcode : watchRange (fld p 18 2) = some r)
    (hmode : fld p 20 1 = 0 ∨ r.2.2 = true ∧ (fld p 20 1 = 1 ∨ fld p 20 1 = 2) ∨ r.2.2 = false ∧ fld p 20 1 = 3)
    (hparam : fld p 21 1 ≤ r.2.1) (hunit : fld p 22 2 < r.1) (hfused : watchFused s (fld p 18 2) (fld p 22 2) = false) :
    watchSet m c p s = ansOk [] (scheduled m c.code p s) := by
  obtain ⟨units, par, level⟩ := r
  unfold watchSet
  simp only [hcode]
  rw [checks_pass ?ranges, if_neg (by simp [hfused]), schedule_scheduled rfl]
  case ranges =>
    rcases hmode with h | ⟨rfl, h⟩ | ⟨rfl, h⟩ <;> simp [hindex, hparam, hunit, h]

theorem sampleSet_ok (hn : fld p 16 4 ≤ 16777216) (hz : fld p 20 4 = 0) : sampleSet m c p s = ansOk [] (scheduled m c.code p s) :=
  checks_pass (by simp [hn, hz])

theorem ioamSet_port {q : Path} (hkind : q.kind = 3) : ioamSet m c q p s = ansOk [] (scheduled m c.code p s) := if_pos hkind

/-- Namespaces of the device wait for the boundary; no two valid ones share an identity. -/
theorem ioamSet_device {q : Path} (hkind : q.kind = 1) (hz16 : fld p 16 1 = 0) (hhdr : fld p 17 1 ≤ 63) (h4 : fld p 18 1 ≤ 63) (h6 : fld p 19 1 ≤ 63)
    (hz20 : fld p 20 4 = 0) (hz31 : fld p 31 1 = 0) (hns : ∀ j < 4, fld p (34 + 16 * j) 1 < 2 ∧ fld p (35 + 16 * j) 1 = 0)
    (hids : ∀ j < 4, ∀ k < j, (ioamNs p j).valid = true → (ioamNs p k).valid = true → (ioamNs p k).id ≠ (ioamNs p j).id) :
    ioamSet m c q p s = ansOk [] (scheduled m c.code p s) := by
  have apart : ∀ j < 4, ¬ ((ioamNs p j).valid && (((List.range 4).map (ioamNs p)).take j).any (fun z => z.valid && decide (z.id = (ioamNs p j).id))) = true := by
    intro j hj
    rw [← List.map_take, List.take_range, Nat.min_eq_left (by omega)]
    simp only [Bool.and_eq_true, List.any_eq_true, List.mem_map, List.mem_range, decide_eq_true_eq, not_and]
    rintro hv ⟨_, ⟨k, hk, rfl⟩, hkv, hid⟩
    exact hids j hj k hk hv hkv hid
  unfold ioamSet
  rw [if_neg (by omega)]
  dsimp only
  rw [checks_pass ?ranges, schedule_scheduled rfl]
  case ranges =>
    simp only [List.all_append, List.all_flatMap, Bool.and_eq_true]
    refine ⟨by simp [hz16, hhdr, h4, h6, hz20, hz31], List.all_eq_true.mpr fun j hj => ?_⟩
    have hj4 := List.mem_range.mp hj
    have ha : _ = false := Bool.eq_false_iff.mpr (apart j hj4)
    simp only [List.all_cons, List.all_nil, ha, hns j hj4, rsv_holds]
    rfl

end

/-- Settles O9: each setting passes its checks and waits for the boundary; DUMP_SET stages its items, and its COMMIT the list. -/
theorem telemetrySettingsComplete : Obligations.TelemetrySettingsComplete := by
  refine ⟨?mem, ?flowGlobal, ?flowProfile, ?dump, ?watch, ?sample, ?ioamPort, ?ioamDevice⟩
  case mem =>
    intro m p s hw ha hflags hsample hcapture hz19 hslots hz22 hareas hstay
    refine congrArg _ (runCmd_onPath_answered hw ha fun c hc => ?_)
    rw [telemMemSet_ok hflags hsample hcapture hz19 hslots hz22 hareas hstay, hc]
  case flowGlobal =>
    intro m p s hw ha hidle hactive hz hseed
    refine congrArg _ (runCmd_onPath_answered hw ha fun c hc => ?_)
    rw [flowGlobalSet_ok hidle hactive hz hseed, hc]
  case flowProfile =>
    intro m p s hw ha hprofile hz17 hhigh hsrc htotal hz38
    refine congrArg _ (runCmd_onPath_answered hw ha fun c hc => ?_)
    rw [flowProfileSet_ok hprofile hz17 hhigh hsrc htotal hz38, hc]
  case dump =>
    intro m p s hw hcount ha hstart hend hflags hz hitems
    have run {r : List Byte} {t : State} (h : dumpSet p s = ansOk r t) : exec (.dumpSet m) s = .next (answered m r t) := by
      refine congrArg _ (runCmd_answered hw fun c _ hc hp => ?_)
      subst hp
      dsimp only
      rw [if_neg (Nat.not_lt.mpr hcount), onPath_addressed _ ha, h]
    exact ⟨fun hcommit => run (dumpSet_stage hstart hend hflags hz hitems hcommit),
      fun hcommit hsize => run (dumpSet_commit hstart hend hflags hz hitems hcommit hsize)⟩
  case watch =>
    intro m p s r hw ha hindex hcode hmode hparam hunit hfused
    refine congrArg _ (runCmd_onPath_answered hw ha fun c hc => ?_)
    rw [watchSet_ok hindex hcode hmode hparam hunit hfused, hc]
  case sample =>
    intro m p s hw ha hn hz
    refine congrArg _ (runCmd_onPath_answered hw ha fun c hc => ?_)
    rw [sampleSet_ok hn hz, hc]
  case ioamPort =>
    intro m p s hw ha
    refine congrArg _ (runCmd_onPath_answered hw (addressed_mono ha (by simp)) fun c hc => ?_)
    rw [ioamSet_port (List.mem_singleton.mp (addressed_kind ha)), hc]
  case ioamDevice =>
    intro m p s hw ha hz16 hhdr h4 h6 hz20 hz31 hns hids
    refine congrArg _ (runCmd_onPath_answered hw (addressed_mono ha (by simp)) fun c hc => ?_)
    rw [ioamSet_device (List.mem_singleton.mp (addressed_kind ha)) hz16 hhdr h4 h6 hz20 hz31 hns hids, hc]

end Sys2Proof.Proofs
end

/-! PROOFS. Stack commands (12 R392 to R394, Tables 12.8 to 12.11): what the own part of each answers when its fields are in their ranges, and what the status commands report. -/

section
namespace Sys2Proof.Proofs

open Sys2Proof Sys2Proof.Machine Sys2Proof.Safety Sys2Proof.Laws

section
variable {m : Nat} {c : Cmd} {q : Path} {p : List Byte} {s : State}

/-- Levels and own path may change while no link is LIVE. -/
theorem stackConfig_ok (hlevels : fld p 16 1 ≤ 8) (htime : fld p 18 1 < 4) (hmiss : fld p 19 1 = 0 ∨ 2 ≤ fld p 19 1 ∧ fld p 19 1 ≤ 16)
    (hhop : fld p 20 2 = 0 ∨ 100 ≤ fld p 20 2 ∧ fld p 20 2 ≤ 4000) (hz22 : fld p 22 2 = 0) (hown : pathPrefix (fld p 24 6) (fld p 16 1) = fld p 24 6)
    (hz30 : fld p 30 2 = 0) (hlive : fld p 16 1 = s.stack.levels ∧ fld p 24 6 = s.stack.own ∨ anyLive s = false) :
    stackConfig m c p s = ansOk [] (scheduled m c.code p s) := by
  unfold stackConfig
  dsimp only
  rw [checks_pass (by simp [hlevels, htime, hmiss, hhop, hz22, hown, hz30]), if_neg ?stays, schedule_scheduled rfl]
  case stays =>
    rintro ⟨hmoved, hlives⟩
    rcases hlive with ⟨hl, ho⟩ | h
    · exact hmoved.elim (· hl) (· ho)
    · exact Bool.false_ne_true (h.symm.trans hlives)

/-- A stack link needs 800 Gb/s and no partner that negotiates alone. -/
theorem stackLinkSet_ok {x : Port} (hx : port s q.index = some x) (hrate : 800 ≤ cfgRate x) (hneg : x.neg ≠ 1) (henable : fld p 16 1 < 2)
    (hset : fld p 17 1 ≤ 15) (hz : fld p 18 6 = 0) : stackLinkSet m c q p s = ansOk [] (scheduled m c.code p s) := by
  unfold stackLinkSet
  rw [hx]
  dsimp only
  rw [checks_pass (by simp [hrate, hneg, henable, hset, hz]), schedule_scheduled rfl]

theorem stackRouteSet_ok (hlevel : 1 ≤ fld p 16 1 ∧ fld p 16 1 ≤ 8) (helement : fld p 17 1 ≤ 63) (hset : fld p 18 1 ≤ 15 ∨ fld p 18 1 = 255)
    (hz : fld p 19 5 = 0) : stackRouteSet m c p s = ansOk [] (scheduled m c.code p s) := by
  unfold stackRouteSet
  dsimp only
  rw [checks_pass (by simp [hlevel, helement, hset, hz]), schedule_scheduled rfl]

theorem stackMemberSet_ok (hindex : fld p 16 2 ≤ 4095) (hlevels : fld p 18 1 ≤ 8) (hz19 : fld p 19 1 = 0)
    (hpath : pathPrefix (fld p 20 6) (fld p 18 1) = fld p 20 6) (hz26 : fld p 26 6 = 0) :
    stackMemberSet m c p s = ansOk [] (scheduled m c.code p s) := by
  unfold stackMemberSet
  dsimp only
  rw [checks_pass (by simp [hindex, hlevels, hz19, hpath, hz26]), schedule_scheduled rfl]

end

/-! ## Status (12 Tables 12.10, 12.11) -/

@[simp] theorem length_bestLe (b : Best) : (bestLe b).length = 16 := by
  unfold bestLe
  split <;> simp [zeros]

/-- STACK_STATUS_GET reports the fields of Table 12.10, 184 bytes of them, and changes nothing. -/
theorem stackStatus_ok (s : State) : ∃ r, r.length = 184 ∧ stackStatus s = ansOk r s :=
  ⟨_, by simp [evLow, zeros], rfl⟩

theorem stackLinkStatus_ok {q : Path} {s : State} {x : Port} (hx : port s q.index = some x) : stackLinkStatus q s = ansOk
    ([byte (slinkCode x.stk.st), byte x.stk.cause, byte x.stk.level, byte x.stk.peerPace] ++ leBytes 6 x.stk.peerPath ++ leBytes 6 x.stk.peerSerial
      ++ leBytes 8 (uInt 64 x.stk.delay) ++ evLow s 0x0120 q.index 0 8 ++ evLow s 0x0121 q.index 0 8 ++ evLow s 0x0122 q.index 0 8
      ++ evLow s 0x0123 q.index 0 4 ++ evLow s 0x0124 q.index 0 4 ++ evLow s 0x0125 q.index 0 4 ++ zeros 4) s := by
  rw [stackLinkStatus, hx]

theorem stackEpisodes_ok {p : List Byte} (hz : fld p 17 7 = 0) (s : State) : stackEpisodes p s =
    ansOk ((List.range 16).flatMap (fun i => episodeBytes (s.stack.episodes[fld p 16 1 + i]?))) s :=
  checks_pass (by simp [hz])

/-- Settles O10: each setting passes its checks and waits for the boundary, and each status is read from the state as it stands. -/
theorem stackCommandsComplete : Obligations.StackCommandsComplete := by
  refine ⟨?config, ?link, ?route, ?member, ?status, ?linkStatus, ?episodes⟩
  case config =>
    intro m p s hw ha hlevels htime hmiss hhop hz22 hown hz30 hlive
    refine congrArg _ (runCmd_onPath_answered hw ha fun c hc => ?_)
    rw [stackConfig_ok hlevels htime hmiss hhop hz22 hown hz30 hlive, hc]
  case link =>
    intro m p s x hw ha hx hrate hneg henable hset hz
    refine congrArg _ (runCmd_onPath_answered hw ha fun c hc => ?_)
    rw [stackLinkSet_ok hx hrate hneg henable hset hz, hc]
  case route =>
    intro m p s hw ha hlevel helement hset hz
    refine congrArg _ (runCmd_onPath_answered hw ha fun c hc => ?_)
    rw [stackRouteSet_ok hlevel helement hset hz, hc]
  case member =>
    intro m p s hw ha hindex hlevels hz19 hpath hz26
    refine congrArg _ (runCmd_onPath_answered hw ha fun c hc => ?_)
    rw [stackMemberSet_ok hindex hlevels hz19 hpath hz26, hc]
  case status =>
    intro m p s hw ha
    obtain ⟨r, hlen, hr⟩ := stackStatus_ok s
    exact ⟨r, hlen, congrArg _ (runCmd_onPath_answered hw ha fun _ _ => hr)⟩
  case linkStatus =>
    intro m p s x hw ha hx
    exact congrArg _ (runCmd_onPath_answered hw ha fun _ _ => stackLinkStatus_ok hx)
  case episodes =>
    intro m p s hw ha hz
    exact congrArg _ (runCmd_onPath_answered hw ha fun _ _ => stackEpisodes_ok hz s)

end Sys2Proof.Proofs
end

/-! PROOFS. Rows of the stack (12 R371, R372, R376, R383, R387, R388): which operation each runs when its condition holds, and what an ordered rate leaves of power. -/

section
namespace Sys2Proof.Proofs

open Sys2Proof Sys2Proof.Machine Sys2Proof.Safety Sys2Proof.Laws

/-- A LIVE link that misses its heartbeats discovers anew, its shaper disabled. -/
def discoverAgain (k : StackLink) : StackLink := { fsOff k with st := .discovering, good := 0 }

/-! ## Frames of the stack -/

section
variable {p : Nat} {s : State} {x : Port} (hx : port s p = some x)
include hx

/-- A whole frame on a stack link that is UP is counted and handed on with its timestamp (10 R294; 17 R518). -/
theorem stackRx_up (hup : x.link = .up) (hstk : x.stk.enable = true) (bs : List Byte) (at_ : Crossing) (f : Nat → List Byte → Nat → State → State) :
    (if stackPort s p then stackRx p bs at_ f s else s) =
      f p bs (ingressTs s p x at_.ln at_.ph + 16 * (if s.flt.tpOn.enable then tabGetD s.flt.tpOn.rxDelay p 0 else 0))
        (rxCount p (bs.length + 4 - 16) true false s) := by
  have h : stackPort s p = true := by simp [stackPort, hx, hup, hstk]
  rw [if_pos h, stackRx, hx]

/-- A good heartbeat on a link that is not DOWN is taken in (12 R371, R372). -/
theorem heartbeatFrame_good (hstk : x.stk.enable = true) (hdown : x.stk.st ≠ .down) (hlevels : s.stack.levels ≠ 0) {bs : List Byte}
    (hgood : hdrGood bs = true) (htype : hdrType bs = 1) (hlen : bs.length = 192) (ts : Nat) :
    heartbeatFrame p bs ts s = heartbeatIn p x bs (bs.drop 16) ts s := by
  simp [heartbeatFrame, hx, hstk, hdown, hlevels, hgood, htype, hlen]

/-- A CONTROL frame for this chip ends here (12 R370, R383). -/
theorem controlFrame_own (hup : x.link = .up) (hstk : x.stk.enable = true) (hlive : x.stk.st = .live) {bs : List Byte}
    (hgood : hdrGood bs = true) (htype : hdrType bs = 2) (hdst : hdrDst bs = (s.stack.own, s.stack.levels)) (ts : Nat) :
    controlFrame p bs ts s = controlHere p bs ts s := by
  simp [controlFrame, hx, hup, hstk, hlive, hgood, htype, hdst]

/-- A link without a heartbeat for longer than MISS_LIMIT (12 R371, R388). -/
theorem linkMiss_missed (hstk : x.stk.enable = true) (hlive : x.stk.st = .live) (hlate : x.stk.lastHb + s.stack.missLimit < now s) :
    linkMiss p s = modStk p discoverAgain s := by
  rw [linkMiss, hx]
  exact if_pos ⟨hstk, hlive, hlate⟩

end

/-- The counts of an arrival leave the stack engine alone. -/
@[simp] theorem stack_rxCount (p len : Nat) (fcsOk big : Bool) (s : State) : (rxCount p len fcsOk big s).stack = s.stack := by
  rw [rxCount_frame]

/-! ## CONTROL_RESEND (12 R383) -/

section
variable {seq : Nat} {s : State} {o : Outstanding} (ho : s.stack.out.find? (fun o => o.seq == seq) = some o) (hdue : o.sent + 128 ≤ now s)
  (hfw : s.boot.fwRunning = true)
include ho hdue hfw

/-- A REQUEST that is due goes out again, up to three times. -/
theorem controlResend_again (ht : o.tries < 3) : controlResend seq s =
    sendControl o.dst o.levels 1 seq o.payload { s with stack := { s.stack with
      out := s.stack.out.map (fun y => if y.seq = seq then { y with tries := y.tries + 1, sent := now s } else y) } } := by
  rw [controlResend, ho]
  dsimp only
  rw [if_neg (by simp [hfw, hdue]), if_pos ht]
  rfl

/-- Then it is given up, and its command answers NOT_READY. -/
theorem controlResend_givenUp (ht : 3 ≤ o.tries) : controlResend seq s =
    (o.mb.elim id (fun m => answer m stNotReady 0 [])) { s with stack := { s.stack with out := s.stack.out.filter (fun y => y.seq != seq) } } := by
  rw [controlResend, ho]
  dsimp only
  rw [if_neg (by simp [hfw, hdue]), if_neg (Nat.not_lt.mpr ht)]
  cases o.mb <;> rfl

end

/-! ## ISSUE_RATE_CHANGE (12 R387, R390) -/

@[simp] theorem power_sendControl (dst dl kind seq : Nat) (payload : List Byte) (s : State) : (sendControl dst dl kind seq payload s).power = s.power := by
  unfold sendControl
  split <;> rfl

@[simp] theorem power_sendEpisode (start fin pace : Nat) (s : State) : (sendEpisode start fin pace s).power = s.power := by
  unfold sendEpisode
  dsimp only
  split
  · rfl
  split
  · rfl
  · simp [takeSeq]

/-- The announced pace is all that its change leaves in power. -/
@[simp] theorem power_setPace (r : Nat) (s : State) : (setPace r s).power = { s.power with pace := r } := by
  unfold setPace
  dsimp only
  split <;> split <;> simp [modStack, modPower]

@[simp] theorem now_setPace (r : Nat) (s : State) : now (setPace r s) = now s :=
  congrArg (fun b => b.1.toNat) (beat_setPace r (s := s))

/-- An order for a boundary to come stands, with its trick, and the rate in effect stays (12 R387). -/
theorem orderIssue_waits {r n : Nat} {s : State} (hn : now s < n) :
    (orderIssue r n s).power.decrease = some (r, if r < s.power.want ∧ anyLive s = true then n + 2 else n) ∧
      (orderIssue r n s).power.issue = s.power.issue := by
  have later : ∀ {t : State} {k : Nat}, t.power.decrease = some (r, k) → now t < k → issueBoundary t = t := fun hd hk => by
    rw [issueBoundary, hd]
    exact if_neg (Nat.not_le.mpr hk)
  have hk : now s < if r < s.power.want ∧ anyLive s = true then n + 2 else n := by split <;> omega
  unfold orderIssue
  dsimp only
  split
  · rw [later (t := modPower _ s) rfl hk]
    exact ⟨rfl, rfl⟩
  · rw [later (by rw [power_setPace]; rfl) (by rw [now_setPace]; exact hk), power_setPace]
    exact ⟨rfl, rfl⟩

/-- Settles O26: each row runs one operation, whose rule gives the state after it. -/
theorem stackRowsComplete : Obligations.StackRowsComplete := by
  refine ⟨?heartbeat, ?miss, ?expiry, ?control, ?resend, ?rate⟩
  case heartbeat =>
    intro p ph ln frame s x hx hup hstk hdown hlevels hgood htype hlen
    have hx1 : port (rxCount p 180 true false s) p = some x := by rw [port_rxCount, hx]
    refine ⟨x, hx1, congrArg _ ((stackRx_up hx hup hstk frame ⟨ph, ln⟩ heartbeatFrame).trans ?_)⟩
    rw [hlen, heartbeatFrame_good hx1 hstk hdown (by simpa using hlevels) hgood htype hlen]
  case miss =>
    intro p s x hx hstk hlive hlate
    refine ⟨_, { x with stk := discoverAgain x.stk }, congrArg Host.Outcome.next (linkMiss_missed hx hstk hlive hlate), onlyPort_modPort .., ?_⟩
    rw [modStk, port_modPort_same, hx]
    exact ⟨rfl, rfl, rfl, rfl, rfl⟩
  case expiry =>
    intro j q s hfw
    exact congrArg _ (if_pos hfw)
  case control =>
    intro p ph ln frame s x hx hup hstk hlive hgood htype hdst
    refine congrArg _ ((stackRx_up hx hup hstk frame ⟨ph, ln⟩ controlFrame).trans ?_)
    exact controlFrame_own (by rw [port_rxCount, hx]) hup hstk hlive hgood htype (by rw [hdst, stack_rxCount]) _
  case resend =>
    intro seq s o ho hdue hfw
    refine ⟨fun ht => ?_, fun m ht hm => ?_, fun ht hm => ?_⟩
    · exact congrArg Host.Outcome.next (controlResend_again ho hdue hfw ht)
    · refine congrArg Host.Outcome.next ((controlResend_givenUp ho hdue hfw ht).trans ?_)
      rw [hm, Option.elim_some]
    · refine congrArg Host.Outcome.next ((controlResend_givenUp ho hdue hfw ht).trans ?_)
      rw [hm, Option.elim_none, id]
  case rate =>
    intro r s hr hfw
    exact ⟨_, congrArg Host.Outcome.next (if_pos ⟨hr.1, hr.2, hfw⟩), orderIssue_waits (Nat.lt_succ_self _)⟩

end Sys2Proof.Proofs
end

/-! PROOFS. Units and their rungs (13 R409 to R411; 16 R474, R475, R477, R498; 08 R227): what UNIT_COUNTERS_GET, UNIT_RUNG_SET and PWR_DOMAIN_SET answer when their fields are in their ranges. -/

section
namespace Sys2Proof.Proofs

open Sys2Proof Sys2Proof.Machine Sys2Proof.Safety Sys2Proof.Laws

section
variable {q : Path} {p : List Byte} {s : State}

/-! ## UNIT_RUNG_SET (13 R411) -/

/-- A lane takes the rung it is asked for. -/
def laneAsks (q : Path) (p : List Byte) (s : State) : State := modLane q.index (fun x => { x with req := fld p 16 1 }) s

/-- The eight lanes of an octet take the rung it is asked for. -/
def octetAsks (q : Path) (p : List Byte) (s : State) : State :=
  forAll (List.range 8) (fun i acc => modLane (8 * q.index + i) (fun x => { x with req := fld p 16 1 }) acc) s

/-- The cells that section d would leave to the pot are too few, as the settings will stand (08 R227). -/
def sectShort (s : State) (d : Nat) : Bool := overdrawn (bufView s) (modSect (d - 96) (fun x => { x with drain := true }) (bufView s))

section
variable (hrung : fld p 16 1 ≤ 5) (hz : fld p 17 7 = 0)
include hrung hz

theorem unitRungSet_lane (hkind : q.kind = 2) : unitRungSet q p s = ansOk (rungResp (laneAsks q p s) (laneTarget (laneAsks q p s) q.index)) (laneAsks q p s) := by
  unfold unitRungSet
  dsimp only
  rw [checks_pass (by simp [hrung, hz]), if_pos hkind]
  rfl

theorem unitRungSet_octet (hkind : q.kind = 9) : unitRungSet q p s = ansOk (rungResp (octetAsks q p s) (octTarget (octetAsks q p s) q.index)) (octetAsks q p s) := by
  unfold unitRungSet
  dsimp only
  rw [checks_pass (by simp [hrung, hz]), if_neg (by omega), if_pos hkind]
  rfl

variable {d : Nat} (hdom : unitDom q.kind q.index = some d) (hfree : rungRefused s d (fld p 16 1) = false) (hnotLane : q.kind ≠ 2) (hnotOctet : q.kind ≠ 9)
include hdom hfree hnotLane hnotOctet

/-- A domain that may take the rung takes it, unless it is a section whose cells the pot cannot spare. -/
theorem unitRungSet_domain : unitRungSet q p s =
    if 96 ≤ d ∧ d < 104 ∧ fld p 16 1 ≠ 0 ∧ sectShort s d = true then ansSt stNoResource s
    else ansOk (rungResp (modDomP d (fun x => { x with req := fld p 16 1 }) s) (domTarget (modDomP d (fun x => { x with req := fld p 16 1 }) s) d))
      (modDomP d (fun x => { x with req := fld p 16 1 }) s) := by
  unfold unitRungSet
  dsimp only
  rw [checks_pass (by simp [hrung, hz]), if_neg hnotLane, if_neg hnotOctet, hdom, Option.getD_some, if_neg (by simp [hfree])]
  rfl

end

/-- Of the port groups, clusters and sections that exist, the sections hold the domains 96 to 103 (16 Table 16.3). -/
theorem unitDom_section {d : Nat} (hexists : unitExists s q = true) (hkind : q.kind ∈ [6, 7, 8]) (hdom : unitDom q.kind q.index = some d) :
    (96 ≤ d ∧ d < 104) ↔ q.kind = 8 := by
  have hgroups : groupCount s ≤ 32 := by unfold groupCount; split <;> omega
  simp only [List.mem_cons, List.not_mem_nil, or_false] at hkind
  rcases hkind with hk | hk | hk <;> simp only [unitExists, unitDom, hk, decide_eq_true_eq, Option.some.injEq] at hexists hdom <;> omega

/-! ## PWR_DOMAIN_SET (16 R498) -/

theorem pwrDomainSet_ok (hdomain : fld p 16 1 ∈ [108, 109, 111, 112]) (hrung : fld p 17 1 ≤ (if fld p 16 1 = 109 then 3 else 5)) (hz : fld p 18 6 = 0)
    (hfree : rungRefused s (fld p 16 1) (fld p 17 1) = false) :
    pwrDomainSet p s = ansOk (rungResp (modDomP (fld p 16 1) (fun x => { x with req := fld p 17 1 }) s)
      (domTarget (modDomP (fld p 16 1) (fun x => { x with req := fld p 17 1 }) s) (fld p 16 1))) (modDomP (fld p 16 1) (fun x => { x with req := fld p 17 1 }) s) := by
  unfold pwrDomainSet
  dsimp only
  rw [checks_pass (by simp only [List.all_cons, List.contains_iff_mem.mpr hdomain, hrung, rsv_holds, hz]; rfl), if_neg (by simp [hfree])]

end

/-- Settles O11: each report is of the state as it stands; the count of UNIT_COUNTERS_GET is in its range. -/
theorem unitStatusComplete : Obligations.UnitStatusComplete := by
  refine ⟨?device, ?status, ?counters, ?fault⟩
  case device => exact fun m p s hw ha => congrArg _ (runCmd_onPath_answered hw ha fun _ _ => rfl)
  case status => exact fun m p s hw ha => congrArg _ (runCmd_onPath_answered hw ha fun _ _ => rfl)
  case counters =>
    intro m p s hw ha hcount hz
    refine congrArg _ (runCmd_onPath_answered hw ha fun _ _ => ?_)
    exact checks_pass (by simp [hcount, hz])
  case fault => exact fun m p s hw ha => congrArg _ (runCmd_onPath_answered hw ha fun _ _ => rfl)

/-- Settles O12: the unit or domain takes the rung; of the domains only a section's cells are weighed against the pot. -/
theorem rungCommandsComplete : Obligations.RungCommandsComplete := by
  refine ⟨?lane, ?octet, ?domain, ?device⟩
  case lane =>
    intro m p s hw ha hrung hz
    exact congrArg _ (runCmd_onPath_answered hw (addressed_mono ha (by simp)) fun _ _ =>
      unitRungSet_lane hrung hz (List.mem_singleton.mp (addressed_kind ha)))
  case octet =>
    intro m p s hw ha hrung hz
    exact congrArg _ (runCmd_onPath_answered hw (addressed_mono ha (by simp)) fun _ _ =>
      unitRungSet_octet hrung hz (List.mem_singleton.mp (addressed_kind ha)))
  case domain =>
    intro m p s d hw ha hrung hz hdom hfree
    have hkind := addressed_kind ha
    have hsect := unitDom_section (addressed_iff.mp ha).2 hkind hdom
    have hown := unitRungSet_domain hrung hz hdom hfree (by rintro h; simp [h] at hkind) (by rintro h; simp [h] at hkind)
    have hall : addressed s p 24 [2, 6, 7, 8, 9] = true := addressed_mono ha (by simp)
    constructor
    · intro hroom
      refine congrArg _ (runCmd_onPath_answered hw hall fun _ _ => hown.trans (if_neg ?_))
      rintro ⟨h96, h104, hrun, hshort⟩
      exact Bool.false_ne_true ((hroom (hsect.mp ⟨h96, h104⟩) hrun).symm.trans hshort)
    · intro hk hrun hshort
      obtain ⟨h96, h104⟩ := hsect.mpr hk
      obtain ⟨c, _, _, rfl, _, hgo⟩ := runCmd_waiting hw (fun c t => onPath m c.code 24 [2, 6, 7, 8, 9] c t (fun q p => unitRungSet q p t))
      refine congrArg Host.Outcome.next (hgo.trans ?_)
      rw [onPath_addressed _ hall, hown, if_pos ⟨h96, h104, hrun, hshort⟩]
      rfl
  case device =>
    intro m p s hw ha hdomain hrung hz hfree
    exact congrArg _ (runCmd_onPath_answered hw ha fun _ _ => pwrDomainSet_ok hdomain hrung hz hfree)

end Sys2Proof.Proofs
end

/-! PROOFS. Power commands (16 R495 to R497): the checks of PWR_SHED_SET and PWR_CAP_SET, and what passes them. -/

section
namespace Sys2Proof.Proofs

open Sys2Proof Sys2Proof.Machine Sys2Proof.Safety Sys2Proof.Laws

/-- Checks that do not all hold answer BAD_ARG, naming one of them. -/
theorem checks_bad {l : List (Bool × Nat)} (h : l.all (fun c => c.1) = false) : ∃ off, ∀ (s : State) (go : Unit → Ans), checks l s go = ansBad off s := by
  obtain ⟨c, hmem, hc⟩ := List.all_eq_false.mp h
  obtain ⟨b, hb⟩ := Option.isSome_iff_exists.mp (List.find?_isSome.mpr ⟨c, hmem, by simpa using hc⟩ : (l.find? (fun c => !c.1)).isSome = true)
  exact ⟨b.2, fun _ _ => checks_fail hb⟩

section
variable {m : Nat} {c : Cmd} {p : List Byte} {s : State}

/-! ## The list of PWR_SHED_SET -/

/-- The check of entry i: in its range and not listed before, or zero beyond the list. -/
def shedEntry (p : List Byte) (i : Nat) : Bool × Nat :=
  (if i < fld p 16 1 then decide (fld p (24 + i) 1 ≤ 63) && !((shedOrder p).take i).contains (fld p (24 + i) 1) else decide (fld p (24 + i) 1 = 0), 24 + i)

/-- The checks of a list. -/
def shedChecks (p : List Byte) : List (Bool × Nat) := [(decide (fld p 16 1 ≤ 64), 16), rsv p 17 7] ++ (List.range 64).map (shedEntry p)

theorem mem_shedOrder {o : Nat} : o ∈ shedOrder p ↔ ∃ i < fld p 16 1, i < 64 ∧ fld p (24 + i) 1 = o := by
  simp [shedOrder, and_assoc]

theorem mem_shedOrder_take {i o : Nat} (hi : i < fld p 16 1) (h64 : i < 64) : o ∈ (shedOrder p).take i ↔ ∃ j < i, fld p (24 + j) 1 = o := by
  unfold shedOrder
  rw [← List.map_take, List.take_range, Nat.min_eq_left (by omega)]
  simp

theorem shedEntry_holds {i : Nat} (h64 : i < 64) : (shedEntry p i).1 = true ↔
    (i < fld p 16 1 → fld p (24 + i) 1 ≤ 63 ∧ ∀ j < i, fld p (24 + j) 1 ≠ fld p (24 + i) 1) ∧ (fld p 16 1 ≤ i → fld p (24 + i) 1 = 0) := by
  by_cases hi : i < fld p 16 1
  · simp [shedEntry, hi, mem_shedOrder_take hi h64]
  · simp [shedEntry, hi, Nat.not_lt.mp hi]

theorem shedChecks_hold : (shedChecks p).all (fun c => c.1) = true ↔
    fld p 16 1 ≤ 64 ∧ fld p 17 7 = 0 ∧ ∀ i < 64, (shedEntry p i).1 = true := by
  simp [shedChecks]

/-- A list whose entries are in their ranges, differ, and end with zeros passes its checks. -/
theorem shedChecks_pass (hcount : fld p 16 1 ≤ 64) (hz : fld p 17 7 = 0) (hrange : ∀ i, i < fld p 16 1 → fld p (24 + i) 1 ≤ 63)
    (hdiffer : ∀ i j, i < j → j < fld p 16 1 → fld p (24 + i) 1 ≠ fld p (24 + j) 1) (hzeros : ∀ i, fld p 16 1 ≤ i → i < 64 → fld p (24 + i) 1 = 0) :
    (shedChecks p).all (fun c => c.1) = true :=
  shedChecks_hold.mpr ⟨hcount, hz, fun i h64 => (shedEntry_holds h64).mpr
    ⟨fun hi => ⟨hrange i hi, fun j hj => hdiffer j i hj hi⟩, fun hi => hzeros i hi h64⟩⟩

/-- An entry above 63 or one that appears twice fails its check. -/
theorem shedChecks_bad (h : (∃ i, i < fld p 16 1 ∧ i < 64 ∧ 63 < fld p (24 + i) 1) ∨
    ∃ i j, i < j ∧ j < fld p 16 1 ∧ j < 64 ∧ fld p (24 + i) 1 = fld p (24 + j) 1) : (shedChecks p).all (fun c => c.1) = false := by
  rw [Bool.eq_false_iff]
  intro hall
  obtain ⟨_, _, hentry⟩ := shedChecks_hold.mp hall
  rcases h with ⟨i, hi, h64, hhigh⟩ | ⟨i, j, hij, hj, h64, htwice⟩
  · obtain ⟨hrange, _⟩ := ((shedEntry_holds h64).mp (hentry i h64)).1 hi
    omega
  · exact (((shedEntry_holds h64).mp (hentry j h64)).1 hj).2 i hij htwice

/-! ## PWR_SHED_SET (16 R497) -/

/-- A checked list is refused where it names a fused-off octet, then where an octet is shed. -/
def shedJudged (m : Nat) (c : Cmd) (p : List Byte) (s : State) : Ans :=
  if (shedOrder p).any (fun o => decide (octetCount s ≤ o)) then ansSt stNoResource s
  else if s.power.shedOcts.isEmpty = false then ansSt stNotReady s
  else ansOk [] (schedule m c p s)

theorem pwrShedSet_eq : pwrShedSet m c p s = checks (shedChecks p) s (fun _ => shedJudged m c p s) := rfl

theorem pwrShedSet_checked (h : (shedChecks p).all (fun c => c.1) = true) : pwrShedSet m c p s = shedJudged m c p s := by
  rw [pwrShedSet_eq, checks_pass h]

theorem shedOrder_fused : (shedOrder p).any (fun o => decide (octetCount s ≤ o)) = true ↔ ∃ i < fld p 16 1, i < 64 ∧ octetCount s ≤ fld p (24 + i) 1 := by
  simp only [List.any_eq_true, mem_shedOrder, decide_eq_true_eq]
  constructor
  · rintro ⟨o, ⟨i, hi, h64, rfl⟩, ho⟩
    exact ⟨i, hi, h64, ho⟩
  · rintro ⟨i, hi, h64, ho⟩
    exact ⟨_, ⟨i, hi, h64, rfl⟩, ho⟩

theorem not_shedOrder_fused (h : ∀ i, i < fld p 16 1 → fld p (24 + i) 1 < octetCount s) : ¬ (shedOrder p).any (fun o => decide (octetCount s ≤ o)) = true := by
  rw [shedOrder_fused]
  rintro ⟨i, hi, _, ho⟩
  exact absurd (h i hi) (Nat.not_lt.mpr ho)

/-- A checked list of octets that exist waits for the boundary while no octet is shed. -/
theorem pwrShedSet_ok (h : (shedChecks p).all (fun c => c.1) = true) (hexist : ∀ i, i < fld p 16 1 → fld p (24 + i) 1 < octetCount s)
    (hshed : s.power.shedOcts = []) : pwrShedSet m c p s = ansOk [] (scheduled m c.code p s) := by
  rw [pwrShedSet_checked h, shedJudged, if_neg (not_shedOrder_fused hexist), if_neg (by simp [hshed]), schedule_scheduled rfl]

/-! ## PWR_CAP_SET (16 R496) -/

theorem pwrCapSet_ok (hcap : fld p 16 4 = 0 ∨ 100 ≤ fld p 16 4 ∧ fld p 16 4 ≤ 1200) (hsprint : fld p 20 1 < 2) (hrung : fld p 21 1 ≤ 5) (hz : fld p 26 6 = 0) :
    pwrCapSet m c p s = .hold (.cap 1) (scheduled m c.code p s) := by
  unfold pwrCapSet
  dsimp only
  rw [checks_pass (by simp [hcap, hsprint, hrung, hz]), schedule_scheduled rfl]

/-! ## A command of the device that is refused -/

/-- A waiting command of the device whose own part answers a status without DETAIL. -/
theorem runCmd_onPath_status {m code len st : Nat} {kinds : List Nat} {p : List Byte} {s t : State} {go : Cmd → State → Path → List Byte → Ans}
    (hw : waiting m code p s = true) (ha : addressed s p len kinds = true) (hgo : ∀ c, c.code = code → go c s (pathOf p) p = ansSt st t) :
    runCmd code m (fun c u => onPath m c.code len kinds c u (go c u)) s = answer m st 0 [] t := by
  obtain ⟨c, _, hc, rfl, _, hrun⟩ := runCmd_waiting hw (fun c u => onPath m c.code len kinds c u (go c u))
  rw [hrun, onPath_addressed _ ha, hgo c hc]
  rfl

end

/-- Settles O13: both settings pass their checks; the reports are of the state as it stands. -/
theorem powerCommandsComplete : Obligations.PowerCommandsComplete := by
  refine ⟨?cap, ?shed, ?status, ?log⟩
  case cap =>
    intro m p s hw ha hcap hsprint hrung hz
    refine congrArg _ (runCmd_onPath_held hw ha fun c hc => ?_)
    rw [pwrCapSet_ok hcap hsprint hrung hz, hc]
  case shed =>
    intro m p s hw ha hcount hz hexist hdiffer hzeros hshed
    have hoctets : octetCount s ≤ 64 := by unfold octetCount; split <;> omega
    have hchecks : (shedChecks p).all (fun c => c.1) = true := shedChecks_pass hcount hz
      (fun i hi => by have := hexist i hi; omega) (fun i j hij hj => hdiffer j hj i hij) (fun i hi h64 => hzeros i h64 hi)
    refine congrArg _ (runCmd_onPath_answered hw ha fun c hc => ?_)
    rw [pwrShedSet_ok hchecks hexist hshed, hc]
  case status => exact fun m p s hw ha => congrArg _ (runCmd_onPath_answered hw ha fun _ _ => rfl)
  case log => exact fun m p s hw ha => congrArg _ (runCmd_onPath_answered hw ha fun _ _ => rfl)

/-- Settles O55: a bad list fails a check; a checked one is weighed against the octets that exist, then against those that are shed. -/
theorem shedListIsChecked : Obligations.ShedListIsChecked := by
  refine ⟨?bad, ?checked, rfl⟩
  case bad =>
    intro m p s hw ha hbad
    obtain ⟨off, hoff⟩ := checks_bad (shedChecks_bad hbad)
    exact ⟨_, congrArg _ (runCmd_onPath_bad hw ha fun _ _ => pwrShedSet_eq.trans (hoff _ _))⟩
  case checked =>
    intro m p s hw ha hcount hz hrange hdiffer hzeros
    have hchecks := shedChecks_pass hcount hz hrange hdiffer hzeros
    refine ⟨?fused, ?shed, ?free⟩
    case fused =>
      rintro ⟨i, hi, ho⟩
      exact congrArg _ (runCmd_onPath_status hw ha fun _ _ =>
        (pwrShedSet_checked hchecks).trans (if_pos (shedOrder_fused.mpr ⟨i, hi, by omega, ho⟩)))
    case shed =>
      intro hexist hshed
      refine congrArg _ (runCmd_onPath_status hw ha fun _ _ => ?_)
      rw [pwrShedSet_checked hchecks, shedJudged, if_neg (not_shedOrder_fused hexist), if_pos (by simpa using hshed)]
    case free =>
      intro hexist hshed
      refine congrArg _ (runCmd_onPath_answered hw ha fun c hc => ?_)
      rw [pwrShedSet_ok hchecks hexist hshed, hc]

end Sys2Proof.Proofs
end

/-! PROOFS. Fault events and fault commands (17 R501, R502, R504, R512 to R516): what one event does to its instance, and what the commands answer. -/

section
namespace Sys2Proof.Proofs

open Sys2Proof Sys2Proof.Machine Sys2Proof.Safety Sys2Proof.Laws

/-! ## One event (17 R501) -/

section
variable (src unit detail : Nat) (inj : Bool) (s : State)

/-- The count of an instance with one event more in its window. -/
def eventCount : Nat := (if (fltInst s src unit).opened then (fltInst s src unit).c else 0) + 1

/-- An instance with one event more: its window is open, and the first event since its clear is recorded. -/
def withEvent : FltInst :=
  let i := fltInst s src unit
  let j := { i with opened := true, s := if i.opened then i.s else now s, c := eventCount src unit s, total := i.total + 1 }
  if !i.sticky then { j with sticky := true, first := idx s, detail := detail % 2 ^ 32, injected := inj, order := s.flt.order } else j

/-- The event is counted, before what follows from it. -/
def eventCounted : State :=
  { s with flt := { s.flt with inst := tabPut s.flt.inst (fltKey src unit) (withEvent src unit detail inj s)
                               order := if !(fltInst s src unit).sticky then s.flt.order + 1 else s.flt.order } }

/-- The first event since the clear interrupts. -/
def firstTold : State :=
  if !(fltInst s src unit).sticky && s.flt.irqFirst then irqEvent 114 (eventCounted src unit detail inj s) else eventCounted src unit detail inj s

/-- The event makes its instance severe. -/
def eventSevere : Bool := decide ((fltSrc s src).n ≠ 0 ∧ (fltSrc s src).n ≤ eventCount src unit s ∧ (fltInst s src unit).severe = false)


variable {src unit detail inj s}

theorem raiseFault_severe (h : src ≤ 68) (hs : eventSevere src unit s = true) :
    raiseFault src unit detail inj s = makeSevere src unit (firstTold src unit detail inj s) := by
  unfold raiseFault
  rw [if_neg (by omega)]
  exact if_pos (of_decide_eq_true hs)

theorem raiseFault_counts (h : src ≤ 68) (hs : eventSevere src unit s = false) :
    raiseFault src unit detail inj s = firstTold src unit detail inj s := by
  unfold raiseFault
  rw [if_neg (by omega)]
  exact if_neg (of_decide_eq_false hs)

@[simp] theorem firstTold_flt : (firstTold src unit detail inj s).flt = (eventCounted src unit detail inj s).flt := by
  unfold firstTold
  split
  · exact irqEvent_flt _ _
  · rfl

@[simp] theorem fltInst_firstTold : fltInst (firstTold src unit detail inj s) src unit = withEvent src unit detail inj s := by
  rw [fltInst, firstTold_flt]
  exact tabGetD_tabPut_same _ _ _ _

@[simp] theorem fltSrc_firstTold (n : Nat) : fltSrc (firstTold src unit detail inj s) n = fltSrc s n := by
  rw [fltSrc, firstTold_flt]
  rfl

theorem tabGet_firstTold_other {k : Nat} (hk : k ≠ fltKey src unit) : tabGet (firstTold src unit detail inj s).flt.inst k = tabGet s.flt.inst k := by
  rw [firstTold_flt]
  exact tabGet_tabPut_other _ _ hk

/-! ## What a severe instance does (17 R504, R505) -/

theorem fltInst_makeSevere : fltInst (makeSevere src unit s) src unit = { fltInst s src unit with severe := true, severeTrick := idx s } := by
  rw [makeSevere, fltInst_congr (severeActs_inst _ _), fltInst_modFlt_same]

theorem tabGet_makeSevere_other {k : Nat} (hk : k ≠ fltKey src unit) : tabGet (makeSevere src unit s).flt.inst k = tabGet s.flt.inst k := by
  rw [makeSevere, severeActs_inst]
  exact tabGet_tabPut_other _ _ hk

/-- FAULT_N pulses for the classes PIN and CONTAIN. -/
theorem pulseNext_makeSevere : (makeSevere src unit s).flt.pulseNext = (decide (1 ≤ (fltSrc s src).cls) || s.flt.pulseNext) := by
  unfold makeSevere severeActs
  by_cases hcls : 1 ≤ (fltSrc s src).cls
  · rw [if_pos (show 1 ≤ (fltSrc (modFlt src unit _ s) src).cls from hcls)]
    split <;> simp [hcls]
  · rw [if_neg (show ¬ 1 ≤ (fltSrc (modFlt src unit _ s) src).cls from hcls)]
    split <;> simp [hcls, modFlt]

/-! ## The instance after an event -/

theorem fltInst_fault (h : src ≤ 68) : fltInst (fault src unit detail s) src unit =
    if eventSevere src unit s then { withEvent src unit detail false s with severe := true, severeTrick := idx (firstTold src unit detail false s) }
    else withEvent src unit detail false s := by
  cases hs : eventSevere src unit s
  · rw [fault, raiseFault_counts h hs, fltInst_firstTold]
    rfl
  · rw [fault, raiseFault_severe h hs, fltInst_makeSevere, fltInst_firstTold]
    rfl

theorem pulseNext_fault (h : src ≤ 68) : (fault src unit detail s).flt.pulseNext =
    (eventSevere src unit s && decide (1 ≤ (fltSrc s src).cls) || s.flt.pulseNext) := by
  cases hs : eventSevere src unit s
  · rw [fault, raiseFault_counts h hs, firstTold_flt]
    rfl
  · rw [fault, raiseFault_severe h hs, pulseNext_makeSevere, fltSrc_firstTold, firstTold_flt]
    rfl

theorem tabGet_fault_other (h : src ≤ 68) {k : Nat} (hk : k ≠ fltKey src unit) : tabGet (fault src unit detail s).flt.inst k = tabGet s.flt.inst k := by
  cases hs : eventSevere src unit s
  · rw [fault, raiseFault_counts h hs, tabGet_firstTold_other hk]
  · rw [fault, raiseFault_severe h hs, tabGet_makeSevere_other hk, tabGet_firstTold_other hk]

/-- An event counts in its open window, whether or not it is the first. -/
theorem withEvent_counts : (withEvent src unit detail inj s).total = (fltInst s src unit).total + 1 ∧ (withEvent src unit detail inj s).opened = true ∧
    (withEvent src unit detail inj s).c = eventCount src unit s ∧
    (withEvent src unit detail inj s).s = (if (fltInst s src unit).opened then (fltInst s src unit).s else now s) ∧
    (withEvent src unit detail inj s).severe = (fltInst s src unit).severe := by
  unfold withEvent
  dsimp only
  split <;> exact ⟨rfl, rfl, rfl, rfl, rfl⟩

/-- The record of the first event since the clear stands until the next clear. -/
theorem withEvent_recorded (h : (fltInst s src unit).sticky = true) : (withEvent src unit detail inj s).sticky = true ∧
    (withEvent src unit detail inj s).first = (fltInst s src unit).first ∧ (withEvent src unit detail inj s).detail = (fltInst s src unit).detail := by
  unfold withEvent
  dsimp only
  rw [h]
  exact ⟨rfl, rfl, rfl⟩

theorem withEvent_first (h : (fltInst s src unit).sticky = false) : (withEvent src unit detail inj s).sticky = true ∧
    (withEvent src unit detail inj s).first = idx s ∧ (withEvent src unit detail inj s).detail = detail % 2 ^ 32 := by
  unfold withEvent
  dsimp only
  rw [h]
  exact ⟨rfl, rfl, rfl⟩

/-! ## What an event leaves of the unlocking (17 R514) -/

theorem severeActs_lock : (severeActs src s).flt.unlocked = s.flt.unlocked ∧ (severeActs src s).flt.challenge = s.flt.challenge := by
  unfold severeActs
  constructor <;> (split <;> split <;> simp)

theorem fault_lock : (fault src unit detail s).flt.unlocked = s.flt.unlocked ∧ (fault src unit detail s).flt.challenge = s.flt.challenge := by
  by_cases h : src ≤ 68
  · cases hs : eventSevere src unit s
    · rw [fault, raiseFault_counts h hs, firstTold_flt]
      exact ⟨rfl, rfl⟩
    · have told := firstTold_flt (src := src) (unit := unit) (detail := detail) (inj := false) (s := s)
      have hunlocked : (firstTold src unit detail false s).flt.unlocked = s.flt.unlocked := by rw [told]; rfl
      have hchallenge : (firstTold src unit detail false s).flt.challenge = s.flt.challenge := by rw [told]; rfl
      rw [fault, raiseFault_severe h hs, makeSevere, severeActs_lock.1, severeActs_lock.2]
      exact ⟨hunlocked, hchallenge⟩
  · rw [fault, raiseFault, if_pos (by omega)]
    exact ⟨rfl, rfl⟩

end

/-! ## The fault commands (17 R512 to R516) -/

section
variable {m : Nat} {c : Cmd} {q : Path} {p : List Byte} {s : State}

/-- A source whose N, W and class are fixed takes its own values alone. -/
theorem fltSourceSet_ok (hsrc : fld p 16 1 ≤ 68) (hcls : fld p 17 1 ≤ 2) (hcontain : fld p 17 1 = 2 → 49 ≤ fld p 16 1 ∧ fld p 16 1 ≤ 51)
    (hw : fld p 20 4 < 2 ^ 24) (hz : fld p 24 8 = 0)
    (hfixed : srcFixed (fld p 16 1) = true → fld p 17 1 = (fltDefault (fld p 16 1)).cls ∧ fld p 18 2 = (fltDefault (fld p 16 1)).n ∧ fld p 20 4 = (fltDefault (fld p 16 1)).w) :
    fltSourceSet m c p s = ansOk [] (scheduled m c.code p s) := by
  have hports : fld p 17 1 ≠ 2 ∨ 49 ≤ fld p 16 1 ∧ fld p 16 1 ≤ 51 := by
    by_cases h : fld p 17 1 = 2
    · exact .inr (hcontain h)
    · exact .inl h
  have keep {b : Bool} (h : srcFixed (fld p 16 1) = true → b = true) : (!srcFixed (fld p 16 1) || b) = true := by
    cases hf : srcFixed (fld p 16 1)
    · rfl
    · exact h hf
  have kept (x y : Nat) (h : srcFixed (fld p 16 1) = true → x = y) := keep (b := x == y) (fun hf => beq_iff_eq.mpr (h hf))
  have kcls := kept _ _ fun hf => (hfixed hf).1
  have kn := kept _ _ fun hf => (hfixed hf).2.1
  have kw := kept _ _ fun hf => (hfixed hf).2.2
  unfold fltSourceSet
  dsimp only
  rw [checks_pass, schedule_scheduled rfl]
  simp only [List.all_cons, List.all_nil, kcls, kn, kw, hsrc, hcls, hw, rsv_holds, hz, decide_true, Bool.and_true]
  simpa using hports

theorem fltClear_ok (hsrc : fld p 16 1 ≤ 68 ∨ fld p 16 1 = 255) (hflags : fld p 17 1 < 4) (hz : fld p 18 6 = 0) :
    fltClear m c p s = ansOk [] (scheduled m c.code p s) := by
  unfold fltClear
  dsimp only
  rw [checks_pass (by simp [hsrc, hflags, hz]), schedule_scheduled rfl]

theorem faultInject_ok (hsrc : fld p 16 1 ≤ 68) (hfree : srcFixed (fld p 16 1) = false) (hkind : (srcKinds (fld p 16 1)).contains q.kind = true)
    (hz : fld p 17 1 = 0) (hcount : 1 ≤ fld p 18 2 ∧ fld p 18 2 ≤ 1024) (hz24 : fld p 24 8 = 0) :
    faultInject m c q p s = ansOk [] (scheduled m c.code p s) := by
  unfold faultInject
  dsimp only
  rw [checks_pass, schedule_scheduled rfl]
  simp only [List.all_cons, List.all_nil, hsrc, hfree, hkind, rsv_holds, hz, hcount, hz24, decide_true, Bool.not_false, and_self, Bool.and_self]

/-- The state once a token has been judged: its challenge is used up. -/
def challengeUsed (s : State) : State := { s with flt := { s.flt with challenge := none } }

/-- The device is unlocked, and its fault 68 tells so. -/
def unlockedBy (m : Nat) (s : State) : State := fault 68 0 m { challengeUsed s with flt := { (challengeUsed s).flt with unlocked := true } }

theorem testUnlock_token {ch : List Byte} (hch : s.flt.challenge = some ch) (htoken : tokenOf ch = slice p 16 16) :
    testUnlock m p s = ansOk [] (unlockedBy m s) := by
  unfold testUnlock
  dsimp only
  rw [if_pos (by simp [hch, htoken])]
  rfl

theorem testUnlock_other (h : ∀ ch, s.flt.challenge = some ch → tokenOf ch ≠ slice p 16 16) : testUnlock m p s = ansSt stAuthFail (challengeUsed s) := by
  unfold testUnlock
  dsimp only
  rw [if_neg]
  · rfl
  · simp only [Option.any_eq_true, beq_iff_eq, not_exists, not_and]
    exact h

end

/-- Settles O59: the event is written into its instance alone, and where it reaches N what a severe instance does follows. -/
theorem faultsCountToSeverity : Obligations.FaultsCountToSeverity := by
  intro src unit detail s hsrc i t j
  have hj : j = if eventSevere src unit s then { withEvent src unit detail false s with severe := true, severeTrick := idx (firstTold src unit detail false s) }
      else withEvent src unit detail false s := fltInst_fault hsrc
  have kept {α : Type} (f : FltInst → α) (hf : ∀ (x : FltInst) (n : Nat), f { x with severe := true, severeTrick := n } = f x) :
      f j = f (withEvent src unit detail false s) := by
    rw [hj]
    split
    · exact hf _ _
    · rfl
  obtain ⟨htotal, hopened, hc, hs, hsevere⟩ := withEvent_counts (src := src) (unit := unit) (detail := detail) (inj := false) (s := s)
  have hjc : j.c = eventCount src unit s := (kept (fun x => x.c) fun _ _ => rfl).trans hc
  have hjsevere : j.severe = (eventSevere src unit s || i.severe) := by
    rw [hj, ← hsevere]
    cases eventSevere src unit s <;> rfl
  have hsticky := kept (fun x => x.sticky) fun _ _ => rfl
  have hfirst := kept (fun x => x.first) fun _ _ => rfl
  have hdetail := kept (fun x => x.detail) fun _ _ => rfl
  have hreach : eventSevere src unit s = true ↔ ((fltSrc s src).n ≠ 0 ∧ (fltSrc s src).n ≤ j.c) ∧ i.severe = false := by
    rw [eventSevere, decide_eq_true_iff, hjc, and_assoc]
  refine ⟨(kept (fun x => x.total) fun _ _ => rfl).trans htotal, (kept (fun x => x.opened) fun _ _ => rfl).trans hopened, hjc,
    (kept (fun x => x.s) fun _ _ => rfl).trans hs, hsticky.trans ?sticky, fun h => ?recorded, fun h => ?first, ?severe, ?pulse, fun n hn => tabGet_fault_other hsrc hn⟩
  case sticky =>
    cases h : (fltInst s src unit).sticky
    · exact (withEvent_first h).1
    · exact (withEvent_recorded h).1
  case recorded => exact ⟨hfirst.trans (withEvent_recorded h).2.1, hdetail.trans (withEvent_recorded h).2.2⟩
  case first => exact ⟨hfirst.trans (withEvent_first h).2.1, hdetail.trans (withEvent_first h).2.2⟩
  case severe =>
    rw [hjsevere, Bool.or_eq_true, hreach]
    cases i.severe <;> simp
  case pulse =>
    rw [show t.flt.pulseNext = _ from pulseNext_fault hsrc, hjsevere]
    cases he : eventSevere src unit s
    · cases i.severe <;> simp
    · simp [(hreach.mp he).2, or_comm]

/-- Settles O14: each command passes its checks, a token is judged while firmware has the MAC engine, and what an unlocking's fault sets off leaves the lock alone. -/
theorem faultCommandsComplete : Obligations.FaultCommandsComplete := by
  refine ⟨?source, ?status, ?clear, ?challenge, ?unlock, ?refuse, ?lock, ?inject⟩
  case source =>
    intro m p s hw ha hsrc hcls hcontain hwin hz hfixed
    refine congrArg _ (runCmd_onPath_answered hw ha fun c hc => ?_)
    rw [fltSourceSet_ok hsrc hcls hcontain hwin hz hfixed, hc]
  case status =>
    intro m p s l hw ha hz hl
    refine congrArg _ (runCmd_onPath_answered hw ha fun c hc => ?_)
    rw [checks_pass (by simp [hz]), hl]
  case clear =>
    intro m p s hw ha hsrc hflags hz
    refine congrArg _ (runCmd_onPath_answered hw ha fun c hc => ?_)
    rw [fltClear_ok hsrc hflags hz, hc]
  case challenge => exact fun m p s hw ha => congrArg _ (runCmd_onPath_answered hw ha fun _ _ => rfl)
  case unlock =>
    intro m p s ch hw ha hhost hbmc hch htoken
    have hrun := (macCmd_run (busy := fun _ => false) (f := runCmd 0x0A05 m (fun c t => onPath m c.code 32 [1] c t (fun _ p => testUnlock m p t))) hw rfl hhost hbmc)
    rw [runCmd_onPath_answered hw ha fun _ _ => testUnlock_token hch htoken] at hrun
    refine ⟨_, congrArg Host.Outcome.next hrun, ?_⟩
    exact fault_lock
  case refuse =>
    intro m p s hw ha hhost hbmc hother
    have hrun := (macCmd_run (busy := fun _ => false) (f := runCmd 0x0A05 m (fun c t => onPath m c.code 32 [1] c t (fun _ p => testUnlock m p t))) hw rfl hhost hbmc)
    rw [runCmd_onPath_status hw ha fun _ _ => testUnlock_other hother] at hrun
    exact congrArg Host.Outcome.next hrun
  case lock =>
    intro m p s hw ha
    refine congrArg _ (runCmd_onPath_answered hw ha fun c hc => ?_)
    rw [testLock, schedule_scheduled rfl, hc]
  case inject =>
    intro m p s hw ha hsrc hfree hkind hz hcount hz24
    refine congrArg _ (runCmd_onPath_answered hw ha fun c hc => ?_)
    rw [faultInject_ok hsrc hfree hkind hz hcount hz24, hc]

end Sys2Proof.Proofs
end

/-! PROOFS. The registers of faults and of the table windows (17 R502, R512; 06 R176, Table 6.8): a write that clears bits of instances, one that collects a bucket, and one that sets a window. -/

section
namespace Sys2Proof.Proofs

open Sys2Proof Sys2Proof.Machine Sys2Proof.Safety Sys2Proof.Laws

/-! ## A port that CONTAIN held goes on (17 Table 17.2): no instance changes -/

section
variable {p : Nat} {s : State}

theorem setLink_flt (st : LinkState) : (setLink p st s).flt = s.flt := by
  have stops (ls : List Nat) (u : State) : (forAll ls echoStop u).flt = u.flt := by
    refine forAll_keeps (fun u => u.flt) _ (fun l u => ?_) ls u
    unfold echoStop
    split <;> rfl
  unfold setLink
  split
  · rfl
  · split_ifs
    · rfl
    · rfl
    · exact stops _ _

theorem enterAligning_flt (fromTraining : Bool) : (enterAligning p fromTraining s).flt = s.flt := by
  have begins (u : State) : (alignBegin p u).flt = u.flt := by
    unfold alignBegin
    split
    · split <;> rfl
    · rfl
  unfold enterAligning
  split
  · rfl
  · rw [begins, setLink_flt, modPort_flt]
    exact forAll_keeps (fun u => u.flt) _ (fun l u => modLane_flt l _ u) _ s

theorem linkAgain_flt : (linkAgain p s).flt = s.flt := by
  unfold linkAgain
  split
  · rfl
  · split
    · exact enterAligning_flt false
    · exact setLink_flt _

theorem containRelease_flt (was : Bool) : (containRelease p was s).flt = s.flt := by
  unfold containRelease
  split
  · rfl
  · split
    · exact linkAgain_flt
    · rfl

end

/-! ## Clearing bits of instances (17 R502) -/

section
variable {pick : Nat → Nat → Bool} {sticky severe : Bool} {s : State}

/-- What a clear makes of an instance that it picks. -/
def clearedInst (s : State) (sticky severe : Bool) (src : Nat) (i : FltInst) : FltInst :=
  let j := if sticky then { i with sticky := false } else i
  if severe ∧ condHolds s src = false then clearSevere j else j

theorem fltClearWhere_inst : (fltClearWhere pick sticky severe s).flt.inst =
    tabMap s.flt.inst (fun k i => if pick (k / 1024) (k % 1024) then clearedInst s sticky severe (k / 1024) i else i) :=
  congrArg FaultBlock.inst (forAll_keeps (fun u => u.flt) _ (fun _ _ => containRelease_flt true) _ _)

/-- A clear reaches the instances that it picks and no other. -/
theorem tabGet_fltClearWhere {src unit : Nat} {i : FltInst} (hi : tabGet s.flt.inst (fltKey src unit) = some i) (hunit : unit < 1024) :
    tabGet (fltClearWhere pick sticky severe s).flt.inst (fltKey src unit) =
      some (if pick src unit then clearedInst s sticky severe src i else i) := by
  have hsrc : fltKey src unit / 1024 = src := by unfold fltKey; omega
  have hmod : fltKey src unit % 1024 = unit := by unfold fltKey; omega
  rw [fltClearWhere_inst, tabGet_tabMap, hi, Option.map_some, hsrc, hmod]

/-- The instances of the sources whose bits a write to register k holds. -/
def pickedBy (k : Nat) (v : BitVec 64) (n _u : Nat) : Bool := n / 64 == k && v.toNat.testBit (n % 64)

theorem pickedBy_iff {k n u : Nat} {v : BitVec 64} : pickedBy k v n u = true ↔ n / 64 = k ∧ v.getLsbD (n % 64) = true := by
  simp [pickedBy, BitVec.testBit_toNat]

end

/-! ## The table windows (06 R176, Table 6.8) -/

/-- Every requester reaches the windows and their control registers (14 Table 14.2). -/
theorem regReach_windows {a : Nat} (h1 : 0x400000 ≤ a) (h2 : a < 0xD00000) (who : Who) : regReach who a = true := by
  cases who <;> simp only [regReach]
  rw [bmcReach, if_neg (by omega), if_neg (by omega), if_neg (by omega)]
  exact decide_eq_true ⟨h1, h2⟩

theorem regSpan_window {a : Nat} (h1 : 0x800000 ≤ a) (h2 : a < 0xD00000) : regSpan a = some (a / 8 * 8, 8) := by
  unfold regSpan
  repeat rw [if_neg (by omega)]
  exact if_pos h2

theorem writeReg_window {a : Nat} (h1 : 0x800000 ≤ a) (h2 : a < 0xD00000) (who : Who) (off n v : Nat) (s : State) : writeReg who a off n v s = winPut (a + off) n v s := by
  unfold writeReg
  dsimp only
  repeat rw [if_neg (by omega)]
  exact if_pos (by omega)

/-- An aligned write of 4 or 8 bytes within the windows is one write through its window. -/
theorem busWrite_window {who : Who} {addr n v : Nat} {s : State} (hr : reaches s who = true) (h1 : 0x800000 ≤ addr) (h2 : addr < 0xD00000)
    (hn : n = 4 ∨ n = 8) (hal : addr % n = 0) : busWrite who addr (8 * n) v s = winPut addr n v s := by
  have hwide : isWide addr = true := by simp [isWide, regSpan_window h1 h2]
  have hpart : regWrite who addr (8 * n) v s = writePart who addr n v s := by
    rcases hn with rfl | rfl
    · exact regWrite_word hal who v s
    · simp [regWrite, hal, hwide]
  rw [busWrite_reached hr (by unfold barSize; omega), hpart, writePart_assigned (regReach_windows (by omega) h2 who) (regSpan_window h1 h2),
    writeReg_window (by omega) (by omega), Nat.add_sub_cancel' (by omega)]

/-- The bytes of bucket b that a write through window w builds on: those the window collects, or the bucket's own. -/
def winOld (s : State) (w b : Nat) : BitVec 512 :=
  match (win s w).buf with
  | some (c, x) => if c = b then x else bucketRaw (cluster s (winCluster w)) b
  | none => bucketRaw (cluster s (winCluster w)) b

/-- Window w has dropped bytes, or drops those of another bucket than b. -/
def winLost (s : State) (w b : Nat) : Bool :=
  (win s w).discard || (match (win s w).buf with
    | some (c, _) => decide (c ≠ b)
    | none => false)

/-- Window w after a write of a bucket's bytes, which it keeps until the bucket is full. -/
def winFilled (s : State) (w b : Nat) (full : Bool) (new : BitVec 512) : State :=
  { s with wins := tabPut s.wins w { win s w with discard := winLost s w b, buf := if full then none else some (b, new) } }

/-- A write through a window that takes one joins the bucket's bytes, and with the last eight queues it. -/
theorem winPut_collects {a n v w b i : Nat} {s : State} {new : BitVec 512} (hw : (a - 0x800000) / 0x100000 = w)
    (hb : ((win s w).page * 0x100000 + (a - 0x800000) % 0x100000) / 64 = b) (hi : ((win s w).page * 0x100000 + (a - 0x800000) % 0x100000) % 64 = i)
    (hnew : BitVec.ofNat 512 (leVal (patch (leBytes 64 (winOld s w b).toNat) i (leBytes n v))) = new)
    (hhere : winHere s w = true) (hstable : (win s w).stable = false) :
    winPut a n v s = if decide (56 ≤ i) then winSend w b new (winFilled s w b (decide (56 ≤ i)) new) else winFilled s w b (decide (56 ≤ i)) new := by
  subst hnew hi hb hw
  unfold winPut
  rw [if_neg (by simp [hhere]), if_neg (by simp [hstable])]
  unfold winFilled winOld winLost
  cases (win s ((a - 0x800000) / 0x100000)).buf <;> rfl

/-- The fields of a control register as a write of all of it leaves them. -/
theorem winCtl_whole (w : Nat) (v : BitVec 32) (s : State) (h : winHere s w = true) : winCtl w v.toNat (2 ^ 32 - 1) s =
    { s with wins := tabPut s.wins w { page := v.toNat % 64, stable := v.getLsbD 8, discard := ((win s w).discard && !v.getLsbD 17) || (win s w).buf.isSome, buf := none } } := by
  have bit {i : Nat} (hi : i < 32) : (mix (winReg (win s w)) v.toNat (2 ^ 32 - 1)).testBit i = v.getLsbD i := by
    rw [mix_testBit (by omega), Nat.testBit_two_pow_sub_one, if_pos (decide_eq_true hi), BitVec.testBit_toNat]
  have page : mix (winReg (win s w)) v.toNat (2 ^ 32 - 1) % 64 = v.toNat % 64 := by
    refine Nat.eq_of_testBit_eq fun i => ?_
    rw [show 64 = 2 ^ 6 from rfl, Nat.testBit_mod_two_pow, Nat.testBit_mod_two_pow]
    by_cases hi : i < 6
    · rw [bit (by omega), BitVec.testBit_toNat]
    · simp [hi]
  have covered : (v.toNat &&& (2 ^ 32 - 1)).testBit 17 = v.getLsbD 17 := by
    rw [Nat.testBit_and, Nat.testBit_two_pow_sub_one, BitVec.testBit_toNat, decide_eq_true (by omega), Bool.and_true]
  unfold winCtl
  dsimp only
  rw [if_neg (by simp [h]), page, bit (by decide), covered]

theorem busWrite_winCtl {who : Who} {w : Nat} {v : BitVec 32} {s : State} (hr : reaches s who = true) (hw : w < 5) :
    busWrite who (0x400000 + 8 * w) 32 v.toNat s = winCtl w v.toNat (2 ^ 32 - 1) s := by
  have hspan : regSpan (0x400000 + 8 * w) = some (0x400000 + 8 * w, 4) := by
    interval_cases w <;> rfl
  have hdata : (v.toNat % 2 ^ (8 * 4)) <<< (8 * 0) = v.toNat := Nat.mod_eq_of_lt v.isLt
  have hat : (0x400000 + 8 * w - 0x400000) / 8 = w := by omega
  rw [busWrite_reached hr (by unfold barSize; omega), regWrite_word (by omega),
    writePart_assigned (regReach_windows (by omega) (by omega) who) hspan, Nat.sub_self, writeReg, hdata, hat]
  repeat rw [if_neg (by omega)]
  exact if_pos (by omega)

/-- Settles O39: a write to a fault register clears what its bits pick; a window's write is judged by the window, and its control register takes all its fields. -/
theorem faultAndWindowRegistersComplete : Obligations.FaultAndWindowRegistersComplete := by
  refine ⟨?sticky, ?severe, ?window, ?control⟩
  case sticky =>
    intro who k v s hr hk
    refine ⟨_, congrArg Host.Outcome.next (if_neg (by simp [hr]; omega)), fun src unit i hi hunit => ?_⟩
    refine (tabGet_fltClearWhere (pick := pickedBy k v) hi hunit).trans ?_
    simp only [pickedBy_iff]
    rfl
  case severe =>
    intro who k v s hr hk
    refine ⟨_, congrArg Host.Outcome.next (if_neg (by simp [hr]; omega)), fun src unit i hi hunit hcond => ?_⟩
    refine (tabGet_fltClearWhere (pick := pickedBy k v) hi hunit).trans (congrArg some ?_)
    have hclear : clearedInst s false true src i = clearSevere i := if_pos ⟨rfl, hcond⟩
    rw [hclear, clearSevere]
    simp only [pickedBy_iff]
    by_cases hpick : src / 64 = k ∧ v.getLsbD (src % 64) = true
    · simp [hpick]
    · rw [if_neg hpick, if_neg fun h => hpick ⟨h.1, h.2.1⟩]
  case window =>
    intro who addr n v s hr h1 h2 hn hal w b old new lost
    have hrow : exec (.tableWindowWrite who addr (8 * n) v) s = .next (winPut addr n v.toNat s) := by
      rw [← busWrite_window hr h1 h2 hn hal]
      exact congrArg _ (if_pos ⟨h1, h2⟩)
    have hput (hstable : (win s w).stable = false) (hhere : winHere s w = true) :
        winPut addr n v.toNat s = if decide (56 ≤ addr % 64) then winSend w b new (winFilled s w b (decide (56 ≤ addr % 64)) new) else winFilled s w b (decide (56 ≤ addr % 64)) new :=
      winPut_collects rfl rfl (by omega) rfl hhere hstable
    rw [hrow]
    refine ⟨fun hhere => congrArg _ (if_pos hhere), fun hstable hhere => congrArg _ ?stable, fun hstable hhere hlow => congrArg _ ?collects, fun hstable hhere hhigh => congrArg _ ?sends⟩
    case stable => exact (if_neg (by simpa using hhere)).trans (if_pos hstable)
    case collects =>
      rw [hput hstable hhere, decide_eq_false (by omega)]
      rfl
    case sends =>
      rw [hput hstable hhere, decide_eq_true hhigh]
      rfl
  case control =>
    intro who w v s hr hw
    have hrow : exec (.tblWinCtlWrite who w v) s = .next (winCtl w v.toNat (2 ^ 32 - 1) s) := by
      rw [← busWrite_winCtl hr hw]
      exact congrArg _ (if_pos hw)
    rw [hrow]
    exact ⟨fun h => congrArg _ (if_pos h), fun h => congrArg _ (winCtl_whole w v s h)⟩

end Sys2Proof.Proofs
end

/-! PROOFS. Start-up and the host link (14 R423, R425, R426, R447; 18 R519 to R526, R534, Table 18.1; 19 R544 to R548): each row in the phase it belongs to. -/

section
namespace Sys2Proof.Proofs

open Sys2Proof Sys2Proof.Machine Sys2Proof.Safety Sys2Proof.Laws

/-! ## Giving back the chains of held entries: the buffer and the ports change alone -/

/-- Between two states the buffer and the ports may differ. -/
def OnlyBuffer (s t : State) : Prop := t = { s with ports := t.ports, buf := t.buf }

section
variable {s t u : State}

theorem OnlyBuffer.trans (h : OnlyBuffer s t) (k : OnlyBuffer t u) : OnlyBuffer s u := by
  unfold OnlyBuffer at *
  rw [k, h]

theorem OnlyBuffer.ite {c : Prop} [Decidable c] (h : OnlyBuffer s t) (k : OnlyBuffer s u) : OnlyBuffer s (if c then t else u) := by
  split
  · exact h
  · exact k

theorem OnlyBuffer.foldl {α : Type} {f : State → α → State} (h : ∀ v a, OnlyBuffer v (f v a)) (l : List α) (s : State) : OnlyBuffer s (l.foldl f s) := by
  induction l generalizing s with
  | nil => rfl
  | cons a r ih => exact (h s a).trans (ih _)

theorem orphan_frame (h : Nat) (s : State) : OnlyBuffer s (orphan h s) := .ite rfl rfl

theorem unstake_frame (h : Nat) (s : State) : OnlyBuffer s (unstake h s) := by
  unfold unstake
  split
  · rfl
  · exact .ite rfl rfl

theorem giveCells_frame (cs : List Nat) (s : State) : OnlyBuffer s (giveCells cs s) := by
  unfold giveCells
  exact .foldl (f := fun acc c => modSect (sectOf c) (sectGive c) acc) (fun _ _ => rfl) cs s

theorem dropChain_frame (h : Nat) (s : State) : OnlyBuffer s (dropChain h s) := by
  unfold dropChain
  split
  · rfl
  · refine ((unstake_frame h s).trans (orphan_frame h _)).trans (OnlyBuffer.trans ?_ (giveCells_frame _ _))
    rfl

theorem chainUnref_frame (h : Nat) (s : State) : OnlyBuffer s (chainUnref h s) := by
  unfold chainUnref
  split
  · rfl
  · exact .ite (dropChain_frame h s) rfl

theorem dropHolds_frame (s : State) : OnlyBuffer s (dropHolds s) := .foldl (fun v h => chainUnref_frame h v) _ s

/-- A warm restart keeps the memories and the trick, whatever chains it gives back. -/
theorem warmRestart_keeps (s : State) : (warmRestart s).devMem = s.devMem ∧ (warmRestart s).hostMem = s.hostMem ∧ (warmRestart s).trick = s.trick := by
  have frame := dropHolds_frame s
  exact ⟨(congrArg State.devMem frame :), (congrArg State.hostMem frame :), (congrArg State.trick frame :)⟩

end

/-! ## Accesses of the host to device memory (14 R425, R426) -/

section
variable {addr rd : Nat} {wr : List Byte} {s : State}

/-- A write that lies within the window is stored. -/
theorem devmemDo_write (h : wr ≠ []) (x : Nat) : devmemDo x wr rd wr.length false s = { s with devMem := memWriteL s.devMem x wr } := by
  unfold devmemDo
  rw [if_pos (by simpa using h), if_neg (by simp), List.take_length]
  rfl

/-- A read that lies within the window returns its bytes. -/
theorem devmemDo_read (x : Nat) : devmemDo x [] rd rd false s = { s with link := { s.link with rdata := memReadN s.devMem x rd, poison := false } } := by
  unfold devmemDo hostData devRead
  simp

variable (htrained : s.link.trained = true) (hd0 : s.link.d0 = true) (hserved : memServed s = true)
include htrained hd0 hserved

/-- While the memory is served, an access of n bytes that lies within its aperture and the window is carried out as it is. -/
theorem execHostDevmemAccess_served {n x room : Nat} (hn : (if wr.isEmpty then rd else wr.length) = n) (hx : (if s.link.cxl then addr else s.link.aptBase * 2 ^ 30 + addr) = x)
    (hroom : (if s.link.cxl then windowLen else s.link.bar2 * 2 ^ 30) = room) (h0 : 0 < n) (hfits : addr + n ≤ room) (hwindow : x + n ≤ windowLen) :
    exec (.hostDevmemAccess addr wr rd false) s = .next (devmemDo x wr rd n false s) := by
  change execHostDevmemAccess addr wr rd false s = _
  have hinside : min n (windowLen - x) = n := by omega
  unfold execHostDevmemAccess
  dsimp only
  rw [hn, hx, hroom, if_neg (by simp [htrained, hd0]; omega), hinside, if_pos (.inl hserved), if_neg (Nat.lt_irrefl n)]

end

/-! ## MSI-X (14 R447) -/

/-- A vector once unmasked, with the message that its PBA bit held. -/
def unmasked (x : Vector) : Vector := if x.pba then { x with masked := false, pba := false, sent := x.sent + 1 } else { x with masked := false }

theorem vec_unmaskVec (v : Nat) (s : State) : vec (unmaskVec v s) v = unmasked (vec s v) := tabGetD_tabMod_same s.irq.vecs v {} unmasked

/-- The boot ROM does not wait: the rails are in regulation, no sensor is too cold, and PERST_N is high unless the start is cold (18 R519, R536). -/
theorem waits_not {s : State} (hphase : s.boot.phase = .rails ∨ s.boot.phase = .regulated) (htemp : s.boot.tempWait = false)
    (hperst : s.boot.cold = false → s.boot.perst = false) :
    ¬ ((s.boot.phase ≠ .rails ∧ s.boot.phase ≠ .regulated) ∨ s.boot.tempWait = true ∨ (s.boot.cold = false ∧ s.boot.perst = true)) := by
  rintro (⟨hrails, hreg⟩ | hwait | ⟨hcold, hlow⟩)
  · exact hphase.elim hrails hreg
  · simp [htemp] at hwait
  · simp [hperst hcold] at hlow

/-- Settles O33: each row where its conditions hold. -/
theorem hostRowsComplete : Obligations.HostRowsComplete := by
  refine ⟨?train, ?power, ?perst, ?short, ?release, ?write, ?read, ?readBar, ?timeout, ?unmask⟩
  case train =>
    intro cxl bar s hp ht hperst
    refine ⟨_, congrArg Host.Outcome.next (if_neg (by simp [hp, ht, hperst])), rfl, rfl, fun hbar => ?_, ?_, ?_, ?_⟩
    · exact congrArg (2 ^ ·) (Nat.min_eq_left hbar)
    · rfl
    all_goals
      dsimp only
      split <;> rfl
  case power => exact fun d0 s h => congrArg _ (if_pos h)
  case perst =>
    intro us s hus hscan
    refine ⟨_, congrArg Host.Outcome.next (if_neg (by simp [hscan]; omega)), rfl, rfl, fun hreg => ?_, fun hreg => ?_⟩
    · rw [if_pos hreg]
      exact ⟨rfl, rfl⟩
    · rw [if_neg (by simp [hreg])]
      rfl
  case short => exact fun us s h => congrArg _ (if_pos (.inl h))
  case release => exact fun s h => congrArg _ (if_neg (by simp [h]))
  case write =>
    intro addr rd wr s htrained hd0 hcxl hserved hwr hfits
    rw [execHostDevmemAccess_served htrained hd0 hserved (by simp [hwr]) (if_pos hcxl) (if_pos hcxl) (List.length_pos_iff.mpr hwr) hfits hfits,
      devmemDo_write hwr]
  case read =>
    intro addr rd s htrained hd0 hcxl hserved hrd hfits
    rw [execHostDevmemAccess_served (wr := []) (n := rd) htrained hd0 hserved rfl (if_pos hcxl) (if_pos hcxl) hrd hfits hfits, devmemDo_read]
  case readBar =>
    intro addr rd s htrained hd0 hcxl hserved hrd hfits hwindow
    rw [execHostDevmemAccess_served (wr := []) (n := rd) htrained hd0 hserved rfl (if_neg (by simp [hcxl])) (if_neg (by simp [hcxl])) hrd hfits hwindow, devmemDo_read]
  case timeout =>
    intro v s hv hpend hdue
    exact congrArg _ ((if_neg (by omega)).trans (if_pos ⟨hpend, hdue⟩))
  case unmask =>
    intro v s hv htrained
    refine ⟨unmaskVec v s, congrArg _ (if_neg (by simp [reaches, htrained]; omega)), ?_, ?_, ?_, rfl⟩
    all_goals
      rw [vec_unmaskVec, unmasked]
      split <;> simp_all

/-- Settles O32: each row in its phase. -/
theorem bootRowsComplete : Obligations.BootRowsComplete := by
  refine ⟨?conversion, ?pll, ?temperature, ?rom, ?recovery, ?timeout, ?running, ?ready, ?watchdog⟩
  case conversion =>
    intro vin s hvin hphase htripped
    exact ⟨_, congrArg Host.Outcome.next (if_neg (by simp [hphase, htripped]; omega)), rfl, rfl, rfl⟩
  case pll =>
    intro s hphase hlost
    exact congrArg _ (if_neg (by simp only [hphase, hlost]; simp))
  case temperature => exact fun tmin s hphase htmin => congrArg _ (if_pos ⟨hphase, htmin⟩)
  case rom =>
    intro s k tie bad hphase htemp hperst hslot
    refine ⟨startFw k tie bad s, congrArg Host.Outcome.next ((if_neg (waits_not hphase htemp hperst)).trans ?_), rfl, rfl, rfl, rfl, rfl⟩
    rw [hslot]
  case recovery =>
    intro s hphase htemp hperst hslot
    refine congrArg _ ((if_neg (waits_not hphase htemp hperst)).trans ?_)
    rw [hslot]
  case timeout =>
    intro s hphase s1
    exact ⟨fun h => congrArg _ ((if_neg (not_not.mpr hphase)).trans (if_pos h)), fun h => congrArg _ ((if_neg (not_not.mpr hphase)).trans (if_neg h))⟩
  case running => exact fun s hphase => congrArg _ (if_pos hphase)
  case ready =>
    intro failing s hphase hlost
    exact ⟨_, congrArg Host.Outcome.next (if_neg (by simp [hphase, hlost])), rfl, rfl, rfl⟩
  case watchdog =>
    intro s hphase
    have hrow : exec .fwWatchdogExpiry s = .next (warmRestart s) := by
      change execFwWatchdogExpiry s = _
      unfold execFwWatchdogExpiry
      rcases hphase with h | h | h <;> rw [h]
    exact ⟨_, hrow, rfl, rfl, rfl, rfl, rfl, rfl, warmRestart_keeps s⟩

end Sys2Proof.Proofs
end

/-! PROOFS. Rows of the power manager (16 R469, R470, R483, R492, R493, Tables 16.1, 16.5): what each leaves of power where its condition holds. -/

section
namespace Sys2Proof.Proofs

open Sys2Proof Sys2Proof.Machine Sys2Proof.Safety Sys2Proof.Laws

/-! ## Interrupts and faults leave power alone -/

section
variable {s : State}

@[simp] theorem powerIrq_power (on : Bool) : (powerIrq on s).power = s.power := by
  unfold powerIrq
  split
  · rw [irqEvent_frame]
  · rfl

@[simp] theorem ev_power (code unit : Nat) : (ev code unit s).power = s.power := evAdd_power _ _ _ _ _

@[simp] theorem fault_power (src unit detail : Nat) : (fault src unit detail s).power = s.power := by
  rw [fault, raiseFault_frame]

/-! ## The rate in effect (16 R469, R492) -/

@[simp] theorem issueSync_power : (issueSync s).power = { s.power with issue := issueNow s.power } := rfl

/-- When neither the limiter nor the emergency shed holds any longer, the ordered rate is announced again. -/
theorem power_holdOver : (holdOver s).power =
    if s.power.limiter ∨ s.power.emergency then { s.power with issue := issueNow s.power }
    else { s.power with issue := issueNow s.power, pace := orderedRate s.power } := by
  unfold holdOver
  by_cases h : s.power.limiter ∨ s.power.emergency
  · rw [if_pos h]
    exact congrArg State.power (if_pos h)
  · rw [if_neg h]
    exact (congrArg State.power (if_neg h)).trans (power_setPace _ _)

/-! ## The emergency shed (16 R492) -/

/-- The triggers once one more is present. -/
def triggersWith (t : ShedTrigger) (p : Power) : List ShedTrigger := if p.triggers.contains t then p.triggers else p.triggers ++ [t]

theorem mem_triggersWith (t : ShedTrigger) (p : Power) : t ∈ triggersWith t p := by
  unfold triggersWith
  split
  next h => exact List.contains_iff_mem.mp h
  · simp

/-- Power once the emergency shed has begun. -/
def shedding (t : ShedTrigger) (s : State) : Power :=
  { s.power with triggers := triggersWith t s.power, absent := 0, emergency := true, emergencyAt := now s, emergencySeen := true, noJudge := true }

theorem emergencyStart_begins (t : ShedTrigger) (h : s.power.emergency = false) :
    (emergencyStart t s).power = { shedding t s with issue := 1, pace := 1 } := by
  unfold emergencyStart
  rw [if_neg (by simp [h]), power_setPace, issueSync_power, powerIrq_power, ev_power]
  have issued : issueNow (shedding t s) = 1 := by simp [issueNow, shedding]
  rw [← issued]
  rfl

theorem emergencyStart_joins (t : ShedTrigger) (h : s.power.emergency = true) :
    (emergencyStart t s).power = { s.power with triggers := triggersWith t s.power, absent := 0 } :=
  congrArg State.power (if_pos h)

end

/-- Settles O27: each row where its conditions hold. -/
theorem powerRowsComplete : Obligations.PowerRowsComplete := by
  refine ⟨?engage, ?release, ?shed, ?exhausted, ?emergency, ?ends, ?trip, ?vin, ?enter, ?rails⟩
  case engage =>
    intro iin s hruns hiin hoff
    refine ⟨_, congrArg Host.Outcome.next (if_neg (by simp [hruns, hoff]; omega)), ?_⟩
    rw [power_setPace, issueSync_power, powerIrq_power, ev_power]
    exact ⟨rfl, rfl, rfl, rfl⟩
  case release =>
    intro s hon hlow
    refine ⟨_, congrArg Host.Outcome.next (if_pos ⟨hon, hlow⟩), ?_⟩
    rw [power_holdOver]
    cases he : s.power.emergency <;> simp [modPower, issueNow, he, orderedRate]
  case shed =>
    intro o s hhigh hoff hnext hshed
    refine congrArg _ ((if_neg (by simp [hoff]; omega)).trans ?_)
    rw [hnext]
    exact if_neg hshed
  case exhausted =>
    intro s hhigh hoff hnext hexhausted
    refine ⟨fault 60 0 s.power.iin (emergencyStart .inputLimit s), congrArg _ ((if_neg (by simp [hoff]; omega)).trans ?_), ?_⟩
    · rw [hnext]
      exact if_pos hexhausted
    · rw [fault_power, emergencyStart_begins _ hoff]
      exact ⟨rfl, mem_triggersWith _ _, rfl⟩
  case emergency =>
    intro r s hruns hscan
    refine ⟨_, congrArg Host.Outcome.next (if_neg (by simpa [hruns] using hscan)), ?_⟩
    cases he : s.power.emergency
    · rw [emergencyStart_begins _ he]
      exact ⟨rfl, mem_triggersWith _ _, fun _ => ⟨rfl, rfl⟩⟩
    · rw [emergencyStart_joins _ he]
      exact ⟨he, mem_triggersWith _ _, fun h => absurd h (by decide)⟩
  case ends =>
    intro s hon habsent
    refine ⟨_, congrArg Host.Outcome.next (if_pos ⟨hon, habsent⟩), ?_⟩
    rw [emergencyStop, power_holdOver, powerIrq_power]
    cases hl : s.power.limiter <;> simp [modPower, issueNow, hl]
  case trip => exact fun tj s hruns htj => ⟨_, congrArg Host.Outcome.next (if_pos ⟨hruns, htj⟩), rfl, rfl, rfl, rfl, rfl, rfl⟩
  case vin => exact fun vin s hvin => ⟨_, congrArg Host.Outcome.next (if_pos hvin), rfl, rfl, rfl, rfl, rfl, rfl⟩
  case enter =>
    intro n s hplan hdue hfree
    refine congrArg Host.Outcome.next (?_ : clockChange s = _)
    rw [clockChange, hplan]
    exact if_pos ⟨hdue, hfree⟩
  case rails =>
    intro n s hplan hdue
    refine congrArg Host.Outcome.next (?_ : clockChange s = _)
    rw [clockChange, hplan]
    exact if_pos hdue

end Sys2Proof.Proofs
end

/-! PROOFS. Images, microcode, the board table and flash (13 R412 to R417; 16 R487, R490, R491; 18 R525, R538; 03 R87): what a source that verifies starts, and the steps of a store. -/

section
namespace Sys2Proof.Proofs

open Sys2Proof Sys2Proof.Machine Sys2Proof.Safety Sys2Proof.Laws

section
variable {m : Nat} {p : List Byte} {s : State}

/-! ## Sources (13 R413) -/

/-- The source that a payload names. -/
def sourceAt (p : List Byte) (s : State) : Mem := memSlice s.devMem (fld p 16 8) (fld p 24 4)

/-- A source within the window whose length fits is copied. -/
theorem sourceOf_ok {lenOk : Nat → Nat → Bool} {go : Mem → Ans} (hz : fld p 28 4 = 0) (hal : fld p 16 8 % 64 = 0) (hfits : fld p 16 8 + fld p 24 4 ≤ windowLen)
    (hlen : lenOk (fld p 16 8) (fld p 24 4) = true) : sourceOf p s lenOk go = go (sourceAt p s) := by
  unfold sourceOf
  dsimp only
  rw [checks_pass]
  · rfl
  · simp only [List.all_cons, List.all_nil, rsv_holds, hz, hal, hfits, hlen, decide_true, Bool.and_self]

theorem imageLenOk_iff {src len : Nat} : imageLenOk s src len = true ↔ len = 64 + memFld s.devMem (src + 20) 4 := beq_iff_eq

/-- An image whose tag, KIND and DEVS are right is taken (13 R413). -/
theorem imageOk_ok {kind : Nat} {img : Mem} {go : Unit → Ans} (hverifies : imgVerifies img = true) (hkind : memFld img 4 1 = kind) (hruns : imgRuns s img = true) :
    imageOk kind img s go = go () := by
  unfold imageOk contentOk
  rw [if_neg (by simp [hverifies]), if_pos (by simp [hkind, hruns])]

/-- A write sequence begins with its first erase when the hold-up check lets it (16 R490). -/
theorem jobStart_begins (j : FlashJob) (h : storeOk s true = true) : ∃ t, jobStart j s = .hold .flash t ∧ t.boot.flash = some j := by
  unfold jobStart
  rw [if_neg (by simp [h])]
  refine ⟨_, rfl, ?_⟩
  split <;> rfl

section
variable (hz : fld p 28 4 = 0) (hal : fld p 16 8 % 64 = 0) (hfits : fld p 16 8 + fld p 24 4 ≤ windowLen)
include hz hal hfits

/-- A newer firmware image starts a write sequence on a copy of it (13 R414; 18 R525). -/
theorem imageWrite_begins (hlen : fld p 24 4 = 64 + memFld s.devMem (fld p 16 8 + 20) 4) (hverifies : imgVerifies (sourceAt p s) = true)
    (hkind : memFld (sourceAt p s) 4 1 = 1) (hruns : imgRuns s (sourceAt p s) = true) (hstore : storeOk s true = true)
    (hnewer : (if decide (s.boot.phase = .recovery) then 0 else memFld (slotOf s s.boot.slot).img 8 8) < memFld (sourceAt p s) 8 8) :
    ∃ t j, imageWrite m p s = .hold .flash t ∧ t.boot.flash = some j ∧ j.src = sourceAt p s := by
  obtain ⟨t, ht, hflash⟩ := jobStart_begins (s := s)
    (newJob m 0 (if decide (s.boot.phase = .recovery) then 0 else 1 - s.boot.slot) (64 + memFld (sourceAt p s) 20 4) (sourceAt p s)) hstore
  refine ⟨t, _, ?_, hflash, rfl⟩
  rw [imageWrite, sourceOf_ok hz hal hfits (imageLenOk_iff.mpr hlen), imageOk_ok hverifies hkind hruns]
  exact (if_pos (decide_eq_true hnewer)).trans ht

/-- A patch for the running firmware, the next in its order, waits for a hand boundary (13 R415). -/
theorem patchApply_waits (hlen : fld p 24 4 = 64 + memFld s.devMem (fld p 16 8 + 20) 4) (hverifies : imgVerifies (sourceAt p s) = true)
    (hkind : memFld (sourceAt p s) 4 1 = 3) (hruns : imgRuns s (sourceAt p s) = true) (hversion : memFld (sourceAt p s) 24 4 = s.boot.fwVersion.toNat)
    (hnumber : memFld (sourceAt p s) 28 1 = s.boot.patches) (hroom : s.boot.patches < 7) :
    patchApply m p s = .hold .patch (modBoot (fun b => { b with patchAt := some m }) s) := by
  rw [patchApply, if_neg (by omega), sourceOf_ok hz hal hfits (imageLenOk_iff.mpr hlen), imageOk_ok hverifies hkind hruns]
  exact if_pos (by simp [hversion, hnumber])

/-- A newer board table starts a write sequence on a copy of it (18 R538). -/
theorem boardWrite_begins (hlen : fld p 24 4 = boardLen) (hstate : boardState (sourceAt p s) = 1) (hstore : storeOk s true = true)
    (hnewer : ∀ c, s.boot.chosen = some c → copySeq (tabGetD s.boot.copies c []) < copySeq (sourceAt p s)) :
    ∃ t j, boardWrite m p s = .hold .flash t ∧ t.boot.flash = some j ∧ j.src = sourceAt p s := by
  obtain ⟨t, ht, hflash⟩ := jobStart_begins (s := s) (newJob m 1 (s.boot.chosen.elim 0 (1 - ·)) boardLen (sourceAt p s)) hstore
  refine ⟨t, _, ?_, hflash, rfl⟩
  rw [boardWrite, sourceOf_ok (lenOk := fun _ len => len == boardLen) hz hal hfits (beq_iff_eq.mpr hlen), ← ht]
  cases hc : s.boot.chosen with
  | none => exact if_pos (by simp [hstate])
  | some c => exact if_pos (by simp [hstate, hnewer c hc])

/-- A source is staged while the standby bank is neither committed nor staging (13 R416). -/
theorem ucStage_stages (hcommitted : s.uc.st ≠ .committed) (hstaging : s.uc.st ≠ .staging) (hlen : fld p 24 4 = 64 + memFld s.devMem (fld p 16 8 + 20) 4) :
    ucStage m p s = .hold .staging { s with uc := { s.uc with st := .staging, standby := { body := sourceAt p s }, stageMb := m, stageLen := fld p 24 4 } } := by
  rw [ucStage, if_neg (by simp [hcommitted, hstaging]), sourceOf_ok hz hal hfits (imageLenOk_iff.mpr hlen)]

end

/-! ## The MAC engine is held by another (13 R420) -/

/-- A waiting command that needs the MAC engine waits outside while host software or the BMC holds it, and firmware asks for the engine. -/
theorem macCmd_asks {code : Nat} {busy : State → Bool} {f : State → State} (hw : waiting m code p s = true) (hheld : s.ciph.owner = 1 ∨ s.ciph.owner = 2) :
    macCmd busy m code f s = { held m .outside s with ciph := { s.ciph with waiting := true } } := by
  have hengine : engineHeld s = true := decide_eq_true hheld
  unfold macCmd heldUp
  rw [if_neg (by simp [waiting_notOutside hw]), if_pos (by simp [hengine, waiting_exec hw])]
  exact if_pos hengine

/-! ## Switches of the microcode (13 R417; 05 Table 5.4) -/

/-- A switch from a state that allows it, to a bank that serves every port, waits for the boundary. -/
theorem ucSwitch_waits {sts : List Standby} (hst : s.uc.st ∈ sts) (hserves : ∀ e ∈ portEntries s, entryValid s.uc.standby e = true) :
    ucSwitch sts s = .hold .boundary { s with uc := { s.uc with st := .committed, rollback := decide (s.uc.st = .previous) } } := by
  unfold ucSwitch
  rw [if_neg (by simp [hst]), if_neg (by simpa using hserves)]

/-- The bank that a staging leaves (13 R416). -/
def stagedBank (s : State) : Bank :=
  { version := BitVec.ofNat 32 (memFld s.uc.standby.body 16 4), loaded := true, body := memSlice s.uc.standby.body 64 (s.uc.stageLen - 64) }

/-- A staging that passes leaves its bank VALID, one that fails leaves it EMPTY. -/
theorem ucStagingEnd_uc (hst : s.uc.st = .staging) : (ucStagingEnd s).uc =
    (stagingResult s s.uc.standby.body s.uc.stageLen).elim { s.uc with st := .valid, standby := stagedBank s } (fun _ => { s.uc with st := .empty, standby := {} }) := by
  unfold ucStagingEnd
  rw [if_neg (not_not.mpr hst)]
  dsimp only
  cases stagingResult s s.uc.standby.body s.uc.stageLen <;> rfl

end

/-! ## Steps of a store (16 R490, R491) -/

section
variable {erase : Bool} {s : State} {j : FlashJob}

/-- The next erase or program of a job that is due is judged by the hold-up check. -/
theorem flashStore_due (hidle : s.boot.storing = none) (hfw : fwThere s = true) (hj : s.boot.flash = some j) (herase : erase = true → j.erases ≠ 0)
    (hprogram : erase = false → j.pages ≠ 0 ∧ jobPage j / 16 < jobErased j) : flashStore erase s =
      if storeOk s erase then modBoot (fun b => { b with storing := some erase }) s
      else answer j.mb stNotReady 0 [] (ev 0x0534 0 (modBoot (fun b => { b with flash := none }) s)) := by
  unfold flashStore
  rw [if_neg (by simp [hidle, hfw]), hj]
  refine if_neg ?_
  rintro (⟨he, h0⟩ | ⟨hp, h0 | hlate⟩)
  · exact herase he h0
  · exact (hprogram hp).1 h0
  · exact absurd (hprogram hp).2 (Nat.not_lt.mpr hlate)

variable (hstoring : s.boot.storing = some erase) (hj : s.boot.flash = some j) (harea : j.area < 2)
include hstoring hj harea

/-- A store of an image or a board table that read back wrong ends its job. -/
theorem flashStoreEnd_failed (hmb : j.mb ≠ 32) :
    flashStoreEnd false s = answer j.mb stAuthFail 0 [] (jobSpoil erase j { s with boot := { s.boot with storing := none, flash := none } }) := by
  unfold flashStoreEnd
  rw [hstoring, hj]
  dsimp only
  rw [if_neg (by omega), if_pos rfl]
  exact if_neg hmb

/-- One that ended well takes its job a step on, and with the last step ends it. -/
theorem flashStoreEnd_stored (hmb : j.mb ≠ 32) : flashStoreEnd true s =
    if (jobStore erase j { s with boot := { s.boot with storing := none } }).1.erases = 0 ∧ (jobStore erase j { s with boot := { s.boot with storing := none } }).1.pages = 0 then
      jobEnd (jobStore erase j { s with boot := { s.boot with storing := none } }).1 (jobStore erase j { s with boot := { s.boot with storing := none } }).2
    else modBoot (fun b => { b with flash := some (jobStore erase j { s with boot := { s.boot with storing := none } }).1 })
      (jobStore erase j { s with boot := { s.boot with storing := none } }).2 := by
  have own : (jobStore erase j { s with boot := { s.boot with storing := none } }).1.mb = j.mb := by
    unfold jobStore
    split <;> rfl
  unfold flashStoreEnd
  rw [hstoring, hj]
  dsimp only
  rw [if_neg (by omega), if_neg (by decide)]
  exact if_neg (by rwa [← own] at hmb)

end

/-- Settles O15: each source passes its checks and starts its job; while another holds the engine IMAGE_WRITE waits outside. -/
theorem imageCommandsComplete : Obligations.ImageCommandsComplete := by
  refine ⟨?write, ?engine, ?status, ?patch, ?board, ?table⟩
  case write =>
    intro m p s hw hstore ha hfree hhost hbmc hz hal hfits hlen hverifies hkind hruns hnewer hrecovery
    have hnew : (if decide (s.boot.phase = .recovery) then 0 else memFld (slotOf s s.boot.slot).img 8 8) < memFld (sourceAt p s) 8 8 := by
      by_cases hrec : s.boot.phase = .recovery
      · rw [if_pos (decide_eq_true hrec)]
        exact hrecovery hrec
      · rw [if_neg (by simpa using hrec)]
        exact hnewer hrec
    obtain ⟨t, j, hown, hflash, hsrc⟩ := imageWrite_begins (m := m) hz hal hfits hlen hverifies hkind hruns hstore hnew
    have hrun := macCmd_run (busy := flashBusy) (f := runCmd 0x0B01 m (fun c t => onPath m c.code 32 [1] c t (fun _ p => imageWrite m p t))) hw
      (by simp [flashBusy, hfree]) hhost hbmc
    rw [runCmd_onPath_held hw ha fun _ _ => hown] at hrun
    exact ⟨_, j, congrArg Host.Outcome.next hrun, hflash, hsrc, rfl⟩
  case engine => exact fun m p s hw hheld => congrArg _ (macCmd_asks hw hheld)
  case status => exact fun m p s hw ha => congrArg _ (runCmd_onPath_answered hw ha fun _ _ => rfl)
  case patch =>
    intro m p s hw ha hmid hhost hbmc hz hal hfits hlen hverifies hkind hruns hversion hnumber hroom
    have hrun := macCmd_run (busy := midway) (f := runCmd 0x0B03 m (fun c t => onPath m c.code 32 [1] c t (fun _ p => patchApply m p t))) hw hmid hhost hbmc
    rw [runCmd_onPath_held hw ha fun _ _ => patchApply_waits hz hal hfits hlen hverifies hkind hruns hversion hnumber hroom] at hrun
    exact ⟨_, congrArg Host.Outcome.next hrun, rfl, rfl, rfl⟩
  case board =>
    intro m p s hw hstore ha hfree hz hal hfits hlen hstate hnewer
    obtain ⟨t, j, hown, hflash, hsrc⟩ := boardWrite_begins (m := m) hz hal hfits hlen hstate hstore hnewer
    have hidle : heldUp (flashBusy s) id m 0x0C02 (runCmd 0x0C02 m (fun c t => onPath m c.code 32 [1] c t (fun _ p => boardWrite m p t))) s =
        runCmd 0x0C02 m (fun c t => onPath m c.code 32 [1] c t (fun _ p => boardWrite m p t)) s := by
      unfold heldUp
      rw [if_neg (by simp [waiting_notOutside hw]), if_neg (by simp [flashBusy, hfree])]
    exact ⟨_, j, congrArg Host.Outcome.next (hidle.trans (runCmd_onPath_held hw ha fun _ _ => hown)), hflash, hsrc⟩
  case table => exact fun m p s hw ha => congrArg _ (runCmd_onPath_answered hw ha fun _ _ => rfl)

/-- Settles O16: a source is staged, its staging judged, and a switch waits where every port's entry is served. -/
theorem microcodeCommandsComplete : Obligations.MicrocodeCommandsComplete := by
  refine ⟨?stage, ?staged, ?commit, ?rollback⟩
  case stage =>
    intro m p s hw ha hcommitted hstaging hz hal hfits hlen
    exact congrArg _ (runCmd_onPath_held hw ha fun _ _ => ucStage_stages hz hal hfits hcommitted hstaging hlen)
  case staged =>
    intro s hfw hhost hbmc hst
    have hrow : exec .ucStagingEnd s = .next { ucStagingEnd s with ciph := engineFree (ucStagingEnd s).ciph } := by
      refine congrArg Host.Outcome.next ((if_pos hfw).trans ?_)
      unfold withEngine
      rw [if_neg (by simp [hst]), if_neg (by simp [hhost, hbmc])]
    refine ⟨_, hrow, ?_⟩
    dsimp only
    rw [ucStagingEnd_uc hst]
    cases hres : stagingResult s s.uc.standby.body s.uc.stageLen with
    | none => exact ⟨rfl, fun _ => ⟨rfl, rfl⟩, rfl⟩
    | some d => exact ⟨rfl, fun h => absurd h (by simp), rfl⟩
  case commit =>
    intro m p s hw ha hst hserves
    exact congrArg _ (runCmd_onPath_held hw ha fun _ _ => ucSwitch_waits (by simpa using hst) hserves)
  case rollback =>
    intro m p s hw ha hst hserves
    refine congrArg _ (runCmd_onPath_held hw ha fun _ _ => ?_)
    rw [ucSwitch_waits (by simp [hst]) hserves, decide_eq_true hst]

/-- Settles O30: a job's store is judged by the hold-up check, its end takes the job on, and a period closes lane by lane. -/
theorem flashRowsComplete : Obligations.FlashRowsComplete := by
  refine ⟨?starts, ?refused, ?stored, ?failed, ?period⟩
  case starts =>
    intro erase s j hidle hfw hj hstore herase hprogram
    exact congrArg _ ((flashStore_due hidle hfw hj herase hprogram).trans (if_pos hstore))
  case refused =>
    intro erase s j hidle hfw hj hstore herase hprogram
    exact congrArg _ ((flashStore_due hidle hfw hj herase hprogram).trans (if_neg (by simp [hstore])))
  case stored =>
    intro erase s j hstoring hj harea hmb r
    exact ⟨fun h => congrArg _ ((flashStoreEnd_stored hstoring hj harea hmb).trans (if_neg h)),
      fun h => congrArg _ ((flashStoreEnd_stored hstoring hj harea hmb).trans (if_pos h))⟩
  case failed => exact fun erase s j hstoring hj harea hmb => congrArg _ (flashStoreEnd_failed hstoring hj harea hmb)
  case period => exact fun counts s hfw => congrArg _ (if_neg (by simp [hfw]))

end Sys2Proof.Proofs
end

/-! PROOFS. Mailboxes (13 R396, R399, R400, R403, R405, Table 13.7): what a message, a doorbell, an abort and a completion make of a mailbox. -/

section
namespace Sys2Proof.Proofs

open Sys2Proof Sys2Proof.Machine Sys2Proof.Safety Sys2Proof.Laws

section
variable {m : Nat} {s : State}

/-! ## The command of a mailbox -/

/-- A change of a mailbox's command changes nothing else of the mailbox. -/
@[simp] theorem mbox_modCmd_same (f : Cmd → Cmd) : mbox (modCmd m f s) m = { mbox s m with cmd := (mbox s m).cmd.map f } := by
  unfold mbox modCmd tabGetD
  dsimp only
  cases h : tabGet s.mboxes m <;> simp [h]

@[simp] theorem mbox_answer_same (st d : Nat) (r : List Byte) : mbox (answer m st d r s) m =
    { mbox s m with cmd := (mbox s m).cmd.map (fun c => { c with wait := .answered, status := st, detail := BitVec.ofNat 32 d, resp := r, notBefore := now s + mbDelay s m }) } :=
  mbox_modCmd_same _

theorem mbox_answer_area (st d : Nat) (r : List Byte) : (mbox (answer m st d r s) m).area = (mbox s m).area := by
  rw [mbox_answer_same]

/-- Bytes written into a canonical memory read back. -/
theorem memReadN_memWriteL {mem : Mem} (a : Nat) (bs : List Byte) (h : memWf mem = true) : memReadN (memWriteL mem a bs) a bs.length = bs :=
  devRead_devWrite a bs { State.reset with devMem := mem } h

theorem length_respHeader (code len seq st d : Nat) : (respHeader code len seq st d).length = 16 := by
  simp [respHeader]

/-! ## Acceptance (13 R399) -/

/-- The command whose header and payload stand in a message. -/
def messageCmd (x : Mailbox) : Cmd :=
  let hdr := memReadN x.area 0 16
  let len := fld hdr 2 2
  { code := fld hdr 0 2, len := len, seq := BitVec.ofNat 32 (fld hdr 4 4), dirty := !allZero (hdr.drop 8), payload := if len ≤ 944 then memReadN x.area 16 len else [] }

/-- A mailbox that has accepted a command. -/
def pendingBox (c : Cmd) (x : Mailbox) : Mailbox :=
  { x with area := memWriteL [] 0 (respHeader c.code 0 c.seq.toNat stPending 0)
           seq := c.seq, written := false, abortResult := 0, st := .pending, age := 0, cmd := some c }

/-- The header of a PENDING mailbox reads as it was written. -/
theorem pendingBox_header (c : Cmd) (x : Mailbox) : memReadN (pendingBox c x).area 0 16 = respHeader c.code 0 c.seq.toNat stPending 0 := by
  have back := memReadN_memWriteL (mem := []) 0 (respHeader c.code 0 c.seq.toNat stPending 0) rfl
  rw [length_respHeader] at back
  rw [pendingBox, back]

/-- The state once mailbox m has accepted a command, before its checks. -/
def messageTaken (m : Nat) (c : Cmd) (s : State) : State := modMbox m (pendingBox c) { s with order := s.order.filter (fun i => i != m) ++ [m] }

theorem mbox_messageTaken (c : Cmd) : mbox (messageTaken m c s) m = pendingBox c (mbox s m) := mbox_modMbox_same _ _ _

/-- A message that is refused is answered at once, any other waits to be executed. -/
theorem acceptMb_eq : acceptMb m s = (preCheck s m (messageCmd (mbox s m))).elim (messageTaken m (messageCmd (mbox s m)) s)
    (fun st => answer m st 0 [] (messageTaken m (messageCmd (mbox s m)) s)) := by
  unfold acceptMb
  extract_lets x hdr len c s1
  have hc : messageCmd (mbox s m) = c := rfl
  rw [hc]
  cases preCheck s m c <;> rfl

/-- However a message is accepted, its mailbox is PENDING with its command, and its turn comes last. -/
theorem acceptMb_pending : (mbox (acceptMb m s) m).st = .pending ∧ (mbox (acceptMb m s) m).area = (pendingBox (messageCmd (mbox s m)) (mbox s m)).area ∧
    (∃ c, (mbox (acceptMb m s) m).cmd = some c ∧ c.code = (messageCmd (mbox s m)).code ∧ c.seq = (messageCmd (mbox s m)).seq) ∧
    (acceptMb m s).order = s.order.filter (fun i => i != m) ++ [m] ∧ (acceptMb m s).boot = s.boot := by
  rw [acceptMb_eq]
  generalize messageCmd (mbox s m) = c
  cases preCheck s m c with
  | none =>
    rw [Option.elim_none, mbox_messageTaken]
    exact ⟨rfl, rfl, ⟨_, rfl, rfl, rfl⟩, rfl, rfl⟩
  | some st =>
    rw [Option.elim_some, mbox_answer_area, mbox_answer_same, mbox_messageTaken]
    exact ⟨rfl, rfl, ⟨_, rfl, rfl, rfl⟩, rfl, rfl⟩

/-- While firmware runs, a written message is accepted by its doorbell. -/
theorem mbRing_accepts (hst : (mbox s m).st ≠ .pending) (hwritten : (mbox s m).written = true) (hfw : s.boot.fwRunning = true) : mbRing m s = acceptMb m s := by
  obtain ⟨_, _, ⟨c, hc, _⟩, _, hboot⟩ := acceptMb_pending (m := m) (s := s)
  unfold mbRing
  dsimp only
  rw [if_neg hst, if_neg (by simp [hwritten]), hc]
  exact if_neg (by simp [hboot, hfw])

/-! ## Rows of a mailbox's owner -/

/-- The owner of a mailbox reaches it. -/
theorem asOwner_own {who : Who} {off : Nat} {f : State → State} (hr : reaches s who = true) (hown : mbOwner m = who) : asOwner who m off s f = f s := by
  rw [asOwner, if_neg (by simp [hr]), if_pos hown]

theorem asOwner_other {who : Who} {off : Nat} {f : State → State} (hr : reaches s who = true) (hown : mbOwner m ≠ who) :
    asOwner who m off s f = regError (mbAddr m off) s := by
  rw [asOwner, if_neg (by simp [hr]), if_neg hown]

/-- A write of the right shape is judged by whose mailbox it is. -/
theorem exec_mbMessageWrite {who : Who} {off : Nat} {data : List Byte} (hm : m < 32) (hr : reaches s who = true)
    (hshape : who = .host → (data.length = 4 ∨ data.length = 8) ∧ off % data.length = 0) :
    exec (.mbMessageWrite who m off data) s = .next (asOwner who m off s (mbStore m off data)) := by
  refine congrArg Host.Outcome.next ((if_neg (by simp [hr]; omega)).trans (if_neg ?_))
  rintro ⟨hhost, hbad⟩
  obtain ⟨hlen, hal⟩ := hshape hhost
  omega

/-- A message that lies within the area, by the state of the mailbox. -/
theorem mbStore_within {off : Nat} {data : List Byte} (h40 : 0x40 ≤ off) (hend : off + data.length ≤ 0x400) (hdata : data ≠ []) :
    ((mbox s m).st = .idle → mbStore m off data s = modMbox m (fun y => { y with area := memWriteL y.area (off - 0x40) data, written := true }) s) ∧
    ((mbox s m).st = .done → mbStore m off data s = modMbox m (fun y => { y with area := memWriteL [] (off - 0x40) data, written := true, st := .idle, age := 0 }) s) ∧
    ((mbox s m).st = .pending → mbStore m off data s = modMbox m (fun y => { y with writeBusy := true }) s) := by
  have whole : data.take (0x400 - off) = data := List.take_of_length_le (by omega)
  have inside : ¬ (off < 0x40 ∨ data.isEmpty = true) := by simp [hdata]; omega
  unfold mbStore
  dsimp only
  rw [whole, if_neg inside]
  refine ⟨fun h => ?_, fun h => ?_, fun h => ?_⟩ <;> rw [h]

/-- An abort by the state of the mailbox and by where its command has come. -/
theorem mbStop_cases {c : Cmd} (hc : (mbox s m).cmd = some c) :
    ((mbox s m).st = .done → mbStop m s = modMbox m (fun y => { y with abortResult := 6 }) s) ∧
    ((mbox s m).st = .pending → (c.wait = .exec ∨ c.wait = .outside) → mbStop m s = completeNow m (answer m stAborted 0 [] (modMbox m (fun y => { y with abortResult := 5 }) s))) ∧
    ((mbox s m).st = .pending → c.wait = .boundary → mbStop m s = modMbox m (fun y => { y with abortResult := 6 }) s) := by
  unfold mbStop
  dsimp only
  rw [hc]
  refine ⟨fun h => ?_, fun h hw => ?_, fun h hw => ?_⟩
  · rw [h]
  · rw [h]
    dsimp only
    rcases hw with hw | hw <;> rw [hw] <;> rfl
  · rw [h]
    dsimp only
    rw [hw]
    rfl

/-! ## Completion (13 R400) -/

/-- The response of a command, as its mailbox's area holds it. -/
def responseBytes (c : Cmd) : List Byte := respHeader c.code c.resp.length c.seq.toNat c.status c.detail.toNat ++ c.resp

/-- The response is written and the mailbox is DONE. -/
theorem completeNow_local {c : Cmd} (hc : (mbox s m).cmd = some c) (hserving : tabGet s.stack.serving m = none) :
    mbox (completeNow m s) m = { mbox s m with area := memWriteL [] 0 (responseBytes c), st := .done, cmd := none } := by
  have tells (b : Prop) [Decidable b] (n : Nat) (u : State) : (if b then irqEvent n u else u).mboxes = u.mboxes ∧ (if b then irqEvent n u else u).stack = u.stack := by
    split
    · rw [irqEvent_frame]
      exact ⟨rfl, rfl⟩
    · exact ⟨rfl, rfl⟩
  unfold completeNow
  rw [hc]
  dsimp only
  unfold sendResponse
  rw [(tells _ _ _).2]
  change mbox (match tabGet s.stack.serving m with | none => _ | some (q, n, seq) => _) m = _
  rw [hserving]
  dsimp only
  rw [mbox, (tells _ _ _).1]
  exact mbox_modMbox_same _ _ _

end

/-- Settles O31: each row by the state of the mailbox. -/
theorem mailboxRowsComplete : Obligations.MailboxRowsComplete := by
  refine ⟨?write, ?other, ?doorbell, ?abort, ?complete⟩
  case write =>
    intro who m off data s hm hown hr h40 hend hdata hshape
    obtain ⟨hidle, hdone, hpending⟩ := mbStore_within (m := m) (s := s) h40 hend hdata
    rw [exec_mbMessageWrite hm hr hshape, asOwner_own hr hown]
    exact ⟨fun h => congrArg _ (hidle h), fun h => congrArg _ (hdone h), fun h => congrArg _ (hpending h)⟩
  case other =>
    intro who m off data s hm hown hr hshape
    rw [exec_mbMessageWrite hm hr hshape, asOwner_other hr hown]
  case doorbell =>
    intro who m s hm hown hr
    have hrow : exec (.mbDoorbell who m) s = .next (mbRing m s) := congrArg Host.Outcome.next ((if_neg (by omega)).trans (asOwner_own hr hown))
    rw [hrow]
    refine ⟨fun h => congrArg _ (if_pos h), fun h hwritten => congrArg _ ((if_neg h).trans (if_pos hwritten)), fun h hwritten hfw => ?_⟩
    obtain ⟨hst, harea, ⟨c, hc, hcode, hseq⟩, horder, _⟩ := acceptMb_pending (m := m) (s := s)
    refine ⟨acceptMb m s, c, congrArg _ (mbRing_accepts h hwritten hfw), hst, hc, horder, hcode, hseq, ?_⟩
    rw [harea, pendingBox_header, hcode, hseq]
  case abort =>
    intro who m s c hm hown hr hc
    have hrow : exec (.mbAbort who m) s = .next (mbStop m s) := congrArg Host.Outcome.next ((if_neg (by omega)).trans (asOwner_own hr hown))
    obtain ⟨hdone, hbefore, hlate⟩ := mbStop_cases hc
    rw [hrow]
    exact ⟨fun h => congrArg _ (hdone h), fun h hw => congrArg _ (hbefore h hw), fun h hw => congrArg _ (hlate h hw)⟩
  case complete =>
    intro m s c hc hst hwait hdue
    have hrow : exec (.commandComplete m) s = .next (completeNow m s) := by
      change execCommandComplete m s = _
      unfold execCommandComplete
      rw [hc]
      exact congrArg _ (if_pos ⟨hst, hwait, hdue⟩)
    refine ⟨hrow, fun hserving => ⟨_, hrow, ?_⟩⟩
    rw [completeNow_local hc hserving]
    dsimp only [responseBytes]
    exact ⟨rfl, rfl, rfl⟩

end Sys2Proof.Proofs
end

/-! PROOFS. The MAC engine (13 R418 to R421, Table 13.22; 18 R522): the lock, an operation, the key slots, and what a requester that does not hold the lock can do. -/

section
namespace Sys2Proof.Proofs

open Sys2Proof Sys2Proof.Machine Sys2Proof.Safety Sys2Proof.Laws

section
variable {who : Who} {s : State}

/-! ## The holder of the lock -/

theorem asHolder_own {a : Nat} {f : State → State} (hr : reaches s who = true) (hown : s.ciph.owner = ownerCode who) : asHolder who a f s = f s := by
  rw [asHolder, if_neg (by simp [hr]), if_pos hown]

theorem asHolder_other {a : Nat} {f : State → State} (hr : reaches s who = true) (hown : s.ciph.owner ≠ ownerCode who) : asHolder who a f s = regError a s := by
  rw [asHolder, if_neg (by simp [hr]), if_neg hown]

theorem lockWrite_fw {f : State → State} (hr : reaches s who = true) (hfw : s.boot.fwRunning = true) : lockWrite who f s = f s := by
  rw [lockWrite, if_neg (by simp [hr]), if_neg (by simp [hfw])]

/-- Before FW_RUNNING the lock is not written (18 R522). -/
theorem lockWrite_noFw {f : State → State} (hr : reaches s who = true) (hfw : s.boot.fwRunning = false) : lockWrite who f s = regError 0x60000 s := by
  rw [lockWrite, if_neg (by simp [hr]), if_pos hfw]

/-- A requester's code is that of no other, and none is that of a free engine. -/
theorem ownerCode_ne_zero (who : Who) : ownerCode who ≠ 0 := by cases who <;> decide

/-! ## GO (13 Table 13.22) -/

/-- With GO set beside them the fields of CIPH_CTL stay. -/
theorem go_fields (v : BitVec 32) : bits (v.toNat ||| 256) 7 4 = bits v.toNat 7 4 ∧ (v.toNat ||| 256).testBit 0 = v.getLsbD 0 ∧ (v.toNat ||| 256).testBit 8 = true := by
  have h256 (i : Nat) : (256 : Nat).testBit i = decide (8 = i) := Nat.testBit_two_pow (n := 8)
  refine ⟨Nat.eq_of_testBit_eq fun i => ?_, ?_, ?_⟩
  · simp only [bits, Nat.testBit_mod_two_pow, Nat.testBit_shiftRight, Nat.testBit_or, h256]
    by_cases hi : i < 4
    · rw [decide_eq_false (by omega : ¬ 8 = 4 + i), Bool.or_false]
    · rw [decide_eq_false (by omega : ¬ i < 7 + 1 - 4), Bool.false_and, Bool.false_and]
  · rw [Nat.testBit_or, h256, BitVec.testBit_toNat]
    simp
  · rw [Nat.testBit_or, h256]
    simp

/-- The tag of a message depends on the registers that name it, not on the slot. -/
theorem ciphTag_slot (n : Nat) (g : Bool) (k : BitVec 256) :
    ciphTag { s with ciph := { s.ciph with slot := n, gmac := g } } k = ciphTag { s with ciph := { s.ciph with gmac := g } } k := by
  unfold ciphTag
  rfl

/-- GO of an idle engine by its holder, with a key that it may use and a message within the window. -/
theorem ciphCtl_starts {v : BitVec 32} {k : BitVec 256} (hidle : s.ciph.busy = false) (hkey : (tabGetD s.ciph.slots (bits v.toNat 7 4) {}).key = some k)
    (hmay : who = .fw ∨ (tabGetD s.ciph.slots (bits v.toNat 7 4) {}).owner = ownerCode who) (hfits : s.ciph.src.toNat / 64 * 64 + s.ciph.len.toNat ≤ windowLen) :
    ciphCtl who (v.toNat ||| 256) s = { s with ciph := { s.ciph with
      slot := bits v.toNat 7 4, gmac := v.getLsbD 0, error := 0, done := false, busy := true, tag := ciphTag { s with ciph := { s.ciph with gmac := v.getLsbD 0 } } k } } := by
  obtain ⟨hslot, hgmac, hgo⟩ := go_fields v
  have may : ¬ (who ≠ .fw ∧ (tabGetD s.ciph.slots (bits v.toNat 7 4) {}).owner ≠ ownerCode who) := fun h => hmay.elim h.1 h.2
  unfold ciphCtl
  rw [hslot, hgmac, hgo, if_neg (by decide), if_neg (by simp [hidle])]
  unfold ciphStart modCiph
  dsimp only
  rw [hkey]
  dsimp only
  rw [if_neg may, if_neg (Nat.not_lt.mpr hfits), ciphTag_slot]

/-! ## Writes and reads of the engine's registers (13 R421) -/

/-- The registers that only the holder writes. -/
def heldRegs : List Nat := [0x60008, 0x60010, 0x60018, 0x60020, 0x60028, 0x60060, 0x60068, 0x60070, 0x60078, 0x60080]

/-- A write to one of them goes through the lock. -/
theorem writeReg_other {a : Nat} (hr : reaches s who = true) (hown : s.ciph.owner ≠ ownerCode who) (ha : a ∈ heldRegs) (n v : Nat) :
    writeReg who a 0 n v s = regError a s := by
  have refused (f : State → State) : asHolder who a f s = regError a s := asHolder_other hr hown
  simp only [heldRegs, List.mem_cons, List.not_mem_nil, or_false] at ha
  rcases ha with rfl | rfl | rfl | rfl | rfl | rfl | rfl | rfl | rfl | rfl
  case inr.inr.inr.inr.inr.inr.inr.inr.inr =>
    change ciphPut who 0x80 0 _ _ s = _
    unfold ciphPut
    rw [if_neg (by decide)]
    exact refused _
  all_goals exact refused _

theorem regSpan_held {a : Nat} (ha : a ∈ heldRegs) : ∃ sz, regSpan a = some (a, sz) := by
  simp only [heldRegs, List.mem_cons, List.not_mem_nil, or_false] at ha
  rcases ha with rfl | rfl | rfl | rfl | rfl | rfl | rfl | rfl | rfl | rfl <;> exact ⟨_, rfl⟩

theorem heldRegs_range {a : Nat} (ha : a ∈ heldRegs) : 0x60008 ≤ a ∧ a ≤ 0x60080 ∧ a % 4 = 0 := by
  have all : ∀ a ∈ heldRegs, 0x60008 ≤ a ∧ a ≤ 0x60080 ∧ a % 4 = 0 := by decide
  exact all a ha

/-- A write of all of such a register, or of its lower half, by another. -/
theorem writePart_other {a : Nat} (hr : reaches s who = true) (hown : s.ciph.owner ≠ ownerCode who) (ha : a ∈ heldRegs) (n v : Nat) :
    writePart who a n v s = regError a s := by
  obtain ⟨h1, h2, _⟩ := heldRegs_range ha
  obtain ⟨sz, hspan⟩ := regSpan_held ha
  rw [writePart_assigned (regReach_blocks (by omega) (by omega) who) hspan, Nat.sub_self, writeReg_other hr hown ha]

/-- The tag reads zero for a requester that does not hold the lock. -/
theorem readReg_tag {a : Nat} (hown : s.ciph.owner ≠ ownerCode who) (ha : a = 0x60040 ∨ a = 0x60048) (ph : Nat) : readReg who a 0 8 ph s = (0, s) := by
  have tag : (if s.ciph.owner = ownerCode who ∧ s.ciph.done = true then s.ciph.tag.toNat else 0) = 0 := if_neg fun h => hown h.1
  rcases ha with rfl | rfl
  · change (partOf ((if s.ciph.owner = ownerCode who ∧ s.ciph.done = true then s.ciph.tag.toNat else 0) % 2 ^ 64) 0 8, s) = _
    rw [tag]
    rfl
  · change (partOf ((if s.ciph.owner = ownerCode who ∧ s.ciph.done = true then s.ciph.tag.toNat else 0) / 2 ^ 64) 0 8, s) = _
    rw [tag]
    rfl

/-- The low 16 bits of a register after a write of all of it. -/
theorem mix_low (old : Nat) (v : BitVec 64) : mix old (v.toNat % 2 ^ 32) (2 ^ 32 - 1) % 65536 = v.toNat % 65536 := by
  refine Nat.eq_of_testBit_eq fun i => ?_
  rw [show 65536 = 2 ^ 16 from rfl, Nat.testBit_mod_two_pow, Nat.testBit_mod_two_pow]
  by_cases hi : i < 16
  · rw [mix_word_testBit (by omega), BitVec.testBit_toNat]
  · simp [hi]

/-- CIPH_LEASE takes a value other than zero from host software alone. -/
theorem writeReg_lease (v : BitVec 64) : writeReg who 0x60090 0 4 v.toNat s =
    if who ≠ .host ∨ v.toNat % 65536 = 0 then regError 0x60090 s else { s with ciph := { s.ciph with lease := v.toNat % 65536 } } := by
  rw [← mix_low (ciphReg who s 0x90) v]
  rfl

end

/-- Settles O40: the lock by who holds it and who waits, an operation by its slot and message, a slot by its owner. -/
theorem ciphRowsComplete : Obligations.CiphRowsComplete := by
  refine ⟨?lock, ?early, ?expiry, ?go, ?done, ?keys⟩
  case lock =>
    intro who s hr hfw
    have htake : exec (.ciphTake who) s = .next (ciphTake who s) := congrArg _ (lockWrite_fw hr hfw)
    have hrelease : exec (.ciphRelease who) s = .next (ciphRelease who s) := congrArg _ (lockWrite_fw hr hfw)
    rw [htake, hrelease]
    refine ⟨fun h => congrArg _ (if_pos h), fun h0 h3 hwho => congrArg _ ((if_neg h0).trans (if_pos ⟨hwho, h3⟩)),
      fun h0 hwho => congrArg _ ((if_neg h0).trans (if_neg fun h => hwho h.1)), fun h => congrArg _ (if_neg (not_not.mpr h)), fun h => congrArg _ (if_pos h)⟩
  case early => exact fun who s hr hfw => ⟨congrArg _ (lockWrite_noFw hr hfw), congrArg _ (lockWrite_noFw hr hfw)⟩
  case expiry =>
    intro s hwaiting hlease howner
    refine congrArg _ (if_neg ?_)
    rintro (h | h | ⟨h1, h2⟩)
    · simp [hwaiting] at h
    · omega
    · exact howner.elim h1 h2
  case go =>
    intro who v s k hr hown hidle hkey hmay hfits
    exact congrArg _ ((asHolder_own hr hown).trans (ciphCtl_starts hidle hkey hmay hfits))
  case done => exact fun s hbusy hrun => congrArg _ (if_pos ⟨hbusy, hrun⟩)
  case keys =>
    intro who n s hr hown hn x
    have hload : exec (.ciphKeyLoad who n) s = .next (ciphKeyLoad who n s) :=
      congrArg Host.Outcome.next ((asHolder_own hr hown).trans (by rw [Nat.mod_eq_of_lt hn]))
    have hclear : exec (.ciphKeyClear who n) s = .next (ciphKeyClear who n s) :=
      congrArg Host.Outcome.next ((asHolder_own hr hown).trans (by rw [Nat.mod_eq_of_lt hn]))
    rw [hload, hclear]
    exact ⟨fun h => congrArg _ (if_pos h), fun h0 h1 => congrArg _ (if_neg (by rintro (h | h); exacts [h0 h, h1 h])), fun h => congrArg _ (if_pos h)⟩

/-- Settles O41: a write by another goes to the lock and is refused there, and the tag is masked. -/
theorem onlyTheHolderDrivesTheEngine : Obligations.OnlyTheHolderDrivesTheEngine := by
  intro who s hr
  have hbar {a : Nat} (ha : a ≤ 0x60090) : a < barSize := by unfold barSize; omega
  refine ⟨fun hown => ⟨?word, ?wide, ?rows, ?tagLow, ?tagHigh⟩, ?error, ?leaseOther, ?leaseHost⟩
  case word =>
    intro v a ha
    obtain ⟨_, h2, hal⟩ := heldRegs_range ha
    rw [exec_registerWrite, busWrite_reached hr (hbar (by omega)), regWrite_word hal, writePart_other hr hown ha]
  case wide =>
    intro v a ha
    have hheld : a ∈ heldRegs ∧ isWide a = true ∧ a % 8 = 0 := by
      have all : ∀ a ∈ [0x60010, 0x60020, 0x60060, 0x60068, 0x60070, 0x60078], a ∈ heldRegs ∧ isWide a = true ∧ a % 8 = 0 := by decide
      exact all a ha
    obtain ⟨hmem, hwide, hal⟩ := hheld
    obtain ⟨_, h2, _⟩ := heldRegs_range hmem
    have hpart : regWrite who a 64 v.toNat s = writePart who a 8 v.toNat s := by simp [regWrite, hal, hwide]
    rw [exec_registerWrite, busWrite_reached hr (hbar (by omega)), hpart, writePart_other hr hown hmem]
  case rows => exact fun v n => ⟨congrArg _ (asHolder_other hr hown), congrArg _ (asHolder_other hr hown), congrArg _ (asHolder_other hr hown)⟩
  case tagLow =>
    rw [exec_rcRegisterRead, busRead_reached hr (hbar (by decide)), regRead_wide (by decide) (by decide),
      readPart_assigned (regReach_blocks (by decide) (by decide) who) (by decide : regSpan 0x60040 = some (0x60040, 8)), Nat.sub_self, readReg_tag hown (.inl rfl)]
  case tagHigh =>
    rw [exec_rcRegisterRead, busRead_reached hr (hbar (by decide)), regRead_wide (by decide) (by decide),
      readPart_assigned (regReach_blocks (by decide) (by decide) who) (by decide : regSpan 0x60048 = some (0x60048, 8)), Nat.sub_self, readReg_tag hown (.inr rfl)]
  case error =>
    intro a
    rw [regError_frame]
  case leaseOther =>
    intro v hwho
    rw [exec_registerWrite, busWrite_reached hr (hbar (by decide)), regWrite_word (by decide),
      writePart_assigned (regReach_blocks (by decide) (by decide) who) (by decide : regSpan 0x60090 = some (0x60090, 4)), Nat.sub_self, writeReg_lease, if_pos (.inl hwho)]
  case leaseHost =>
    intro v hwho hv
    rw [exec_registerWrite, busWrite_reached hr (hbar (by decide)), regWrite_word (by decide),
      writePart_assigned (regReach_blocks (by decide) (by decide) who) (by decide : regSpan 0x60090 = some (0x60090, 4)), Nat.sub_self, writeReg_lease,
      if_neg (by simp [hwho, hv])]

end Sys2Proof.Proofs
end

/-! PROOFS. Host rings (14 R430 to R442, Table 14.5): what posting, completing, scanning and draining leave of each ring. -/

section
namespace Sys2Proof.Proofs

open Sys2Proof Sys2Proof.Machine Sys2Proof.Safety Sys2Proof.Laws

/-! ## Changes of a ring -/

section
variable {r k : Nat} {s t u : State}

@[simp] theorem ring_modRing_same (f : Ring → Ring) : ring (modRing r f s) r = f (ring s r) := tabGetD_tabMod_same _ _ _ _

theorem ring_modRing_other (f : Ring → Ring) (h : k ≠ r) : ring (modRing r f s) k = ring s k := tabGetD_tabMod_other _ _ _ h

/-- The rings read alike where the lists of rings do. -/
theorem ring_congr (h : t.rings = s.rings) (k : Nat) : ring t k = ring s k := by rw [ring, ring, h]

@[simp] theorem ring_ringWriteBack (i : Nat) : ring (ringWriteBack r i s) k = ring s k := by
  rw [ringWriteBack_frame]
  rfl

@[simp] theorem ring_irqEvent (n : Nat) : ring (irqEvent n s) k = ring s k := by
  rw [irqEvent_frame]
  rfl

@[simp] theorem ring_ringIrq : ring (ringIrq r s) k = ring s k := by
  rw [ringIrq_frame]
  rfl

/-! ## Posting (14 R431, R432) -/

/-- A ring once an entry has been posted: the device's index is past it. -/
def postedRing (bs : List Byte) (x : Ring) : Ring := { x with p := ringStep x x.p (bs.length / 64), entries := x.entries + 1 }

/-- An entry that is posted changes its ring as it does the index. -/
theorem ring_ringPost (bs : List Byte) : ring (ringPost r bs s) k = ring (modRing r (postedRing bs) s) k := by
  have slots (x : Ring) (u : State) (n : Nat) (h : u.rings = s.rings) : (ringWriteSlots x x.p (withPhase x x.p bs) n u).rings = s.rings := by
    rw [ringWriteSlots_frame]
    exact h
  unfold ringPost
  dsimp only
  rw [ring_ringIrq, ring_ringWriteBack]
  unfold ring modRing
  dsimp only
  rw [slots]
  · rfl
  · split <;> rfl

@[simp] theorem ring_ringPost_same (bs : List Byte) : ring (ringPost r bs s) r = postedRing bs (ring s r) := by
  rw [ring_ringPost, ring_modRing_same]

@[simp] theorem ring_cqWrite (bs : List Byte) : ring (cqWrite r bs s) k = ring (ringPost r bs s) k := by
  unfold cqWrite
  dsimp only
  split
  · exact ring_irqEvent _
  · rfl

/-! ## Completions leave every ring's place in its scan (14 R439) -/

/-- What a completion leaves of a ring: all but the device's index, the counts, the hold, and who waits. -/
def ringMarks (x : Ring) : Ring := { x with p := 0, entries := 0, errors := 0, stalls := 0, hold := [], waiters := [], stalled := none }

/-- Between two states every ring keeps its marks. -/
def RingsKept (s t : State) : Prop := ∀ k, ringMarks (ring t k) = ringMarks (ring s k)

theorem RingsKept.refl (s : State) : RingsKept s s := fun _ => rfl

theorem RingsKept.trans (h : RingsKept s t) (h' : RingsKept t u) : RingsKept s u := fun k => (h' k).trans (h k)

theorem RingsKept.modRing {f : Ring → Ring} (h : ∀ x, ringMarks (f x) = ringMarks x) : RingsKept s (modRing r f s) := by
  intro k
  by_cases hk : k = r
  · rw [hk, ring_modRing_same, h]
  · rw [ring_modRing_other _ hk]

theorem ringsKept_ringPost (bs : List Byte) : RingsKept s (ringPost r bs s) := by
  intro k
  rw [ring_ringPost]
  exact RingsKept.modRing (f := postedRing bs) (fun _ => rfl) k

theorem ringsKept_cqPost (w : CqSource) (bs : List Byte) : RingsKept s (cqPost r w bs s) := by
  have marked : RingsKept s (Machine.modRing r (fun y => { y with waiters := y.waiters.filter (fun v => v != w), errors := if complBad bs then satInc y.errors else y.errors }) s) :=
    .modRing fun _ => rfl
  unfold cqPost
  dsimp only
  split
  · refine marked.trans fun k => ?_
    rw [ring_cqWrite]
    exact ringsKept_ringPost bs k
  · exact marked.trans (.modRing fun _ => rfl)

theorem ringsKept_sqComplete (bs : List Byte) : RingsKept s (sqComplete r bs s) := by
  unfold sqComplete
  dsimp only
  split
  · exact ringsKept_cqPost _ _
  · have waits : RingsKept s (Machine.modRing r (fun x => { x with stalled := some bs }) s) := .modRing fun _ => rfl
    refine waits.trans ?_
    unfold cqStall
    exact .modRing fun _ => rfl

/-! ## Entries of an SQ (14 R435, R436) -/

/-- A failed check 2 halts the ring; its index stays. -/
theorem ring_sqHalt (i : Nat) (h : List Byte) (st : Nat) :
    (ring (sqHalt r i h st s) r).st = .halted ∧ (ring (sqHalt r i h st s) r).haltCause = st % 256 ∧ (ring (sqHalt r i h st s) r).c = (ring s r).c := by
  have kept := ringsKept_sqComplete (r := r) (s := modRing r (fun x => { x with st := .halted, haltCause := st % 256 }) s) (sqCompletion r st 0 i h 0xFFFF 0) r
  rw [ring_modRing_same] at kept
  unfold sqHalt
  rw [ring_ringIrq]
  exact ⟨(congrArg Ring.st kept :), (congrArg Ring.haltCause kept :), (congrArg Ring.c kept :)⟩

/-- An entry that is complete is no longer in hand. -/
theorem wait_sqFinish (i slots : Nat) (h : List Byte) (st detail p trick : Nat) : (ring (sqFinish r i slots h st detail p trick s) r).wait = none := by
  have settled (u : State) : (ring (sqSettle r u) r).wait = (ring u r).wait := by
    unfold sqSettle
    rw [ring_modRing_same]
    split <;> rfl
  unfold sqFinish
  dsimp only
  rw [settled]
  split
  · rw [ring_modRing_same]
  · have kept := ringsKept_sqComplete (r := r) (s := modRing r (fun x => { x with c := ringStep x x.c slots, entries := x.entries + 1, wait := none }) s)
      (sqCompletion r st detail i h p trick) r
    rw [ring_modRing_same] at kept
    exact (congrArg Ring.wait kept :)

theorem readFails_none (a n : Nat) : readFails none a n = false := rfl

/-- An entry whose length no check allows halts the ring. -/
theorem sqEntry_badLen (hlen : fld (ringRead s (ring s r) (ring s r).c 1) 2 2 % 64 ≠ 0 ∨ fld (ringRead s (ring s r) (ring s r).c 1) 2 2 = 0 ∨
    entryMax (ring s r) < fld (ringRead s (ring s r) (ring s r).c 1) 2 2) :
    sqEntry none r s = sqHalt r (ring s r).c (ringRead s (ring s r) (ring s r).c 1) 0x11 s := by
  unfold sqEntry
  dsimp only
  rw [readFails_none, if_neg (by decide), if_pos hlen]

/-! ## The scan (14 R433) -/

/-- The scan ends where the ring does not run or has an entry in hand or a completion that waits, and where no entry is posted. -/
theorem sqScan_stops {n : Nat} (h : (ring s r).st ≠ .run ∨ ((ring s r).wait = none ∧ (ring s r).stalled = none ∧ posted s (ring s r) (ring s r).c = false)) :
    sqScan none r (n + 1) s = s := by
  unfold sqScan
  dsimp only
  by_cases hrun : (ring s r).st = .run
  · obtain ⟨hwait, hstalled, hposted⟩ := h.resolve_left (not_not.mpr hrun)
    rw [if_neg (by simp [hrun, hwait, hstalled]), if_pos ⟨readFails_none _ _, hposted⟩]
  · rw [if_pos (.inl hrun)]

/-- A posted entry is handled, and the scan goes on behind it. -/
theorem sqScan_entry {n : Nat} (hrun : (ring s r).st = .run) (hwait : (ring s r).wait = none) (hstalled : (ring s r).stalled = none)
    (hposted : posted s (ring s r) (ring s r).c = true) : sqScan none r (n + 1) s = sqScan none r n (sqEntry none r s) := by
  conv_lhs => unfold sqScan
  dsimp only
  rw [if_neg (by simp [hrun, hwait, hstalled]), if_neg (by simp [hposted])]

/-- A ring that a doorbell's scan has reached. -/
def ringAtScan (x : Ring) : Ring := { x with rung := false }

theorem sqRun_scans (htyp : (ring s r).typ = .sq) (hrun : (ring s r).st = .run) (hwait : (ring s r).wait = none) (hstalled : (ring s r).stalled = none)
    (hat : atRun s 111 = true) : sqRun none r s =
      if (ring (sqScan none r (4 * ringSize (ring s r)) (modRing r ringAtScan s)) r).c = (ring s r).c then sqScan none r (4 * ringSize (ring s r)) (modRing r ringAtScan s)
      else ringWriteBack r (ring (sqScan none r (4 * ringSize (ring s r)) (modRing r ringAtScan s)) r).c (sqScan none r (4 * ringSize (ring s r)) (modRing r ringAtScan s)) := by
  unfold sqRun
  dsimp only
  rw [if_neg (by simp [htyp, hrun]), if_neg (by simp [hwait, hstalled, hat])]
  rfl

theorem scanFuel (x : Ring) : ∃ n, 4 * ringSize x = n + 2 := ⟨4 * ringSize x - 2, by have : 0 < ringSize x := Nat.two_pow_pos _; omega⟩

/-! ## Draining (14 R439, R441, R442) -/

theorem cqDrain_empty {n : Nat} (h : (ring s r).hold = []) : cqDrain r n s = s := by
  cases n with
  | zero => rfl
  | succ n =>
    unfold cqDrain
    dsimp only
    rw [h]

theorem rxDrain_empty {n : Nat} (h : (ring s r).hold = []) : rxDrain r n s = s := by
  cases n with
  | zero => rfl
  | succ n =>
    unfold rxDrain
    dsimp only
    rw [h]

/-- With nobody waiting a CQ wakes nobody. -/
theorem cqWake_idle (h : (ring s r).waiters = []) : cqWake r s = s := by
  have none : (cqWaiting s r).head? = none := by rw [cqWaiting, h]; rfl
  unfold cqWake cqServe
  rw [none]
  rfl

@[simp] theorem ring_chainUnref (h : Nat) : ring (chainUnref h s) k = ring s k := by
  rw [show chainUnref h s = _ from chainUnref_frame h s]
  rfl

end

/-- Settles O43: the doorbell's scan by what stands at C, an index by its range, and a held entry by the room. -/
theorem ringRowsComplete : Obligations.RingRowsComplete := by
  refine ⟨?doorbell, ?cells, ?index, ?drainCq, ?drainRx⟩
  case doorbell =>
    intro r host s s1 x hr hreach htyp hrun hwait hstalled hat
    have hat1 : ring s1 r = ringAtScan x := ring_modRing_same _
    have hposted1 : posted s1 (ring s1 r) (ring s1 r).c = posted s1 x x.c := by rw [hat1]; rfl
    obtain ⟨n, hn⟩ := scanFuel x
    have hrow : exec (.sqDoorbell r host none) s = .next (if (ring (sqScan none r (n + 2) s1) r).c = x.c then sqScan none r (n + 2) s1
        else ringWriteBack r (ring (sqScan none r (n + 2) s1) r).c (sqScan none r (n + 2) s1)) := by
      rw [← hn]
      exact congrArg Host.Outcome.next ((if_neg (by rintro (h | h); exacts [absurd hr (Nat.not_lt.mpr h), Bool.false_ne_true (h.symm.trans hreach)])).trans
        (sqRun_scans (s := hostStores host s) htyp hrun hwait hstalled hat))
    have hrun1 : (ring s1 r).st = .run := by rw [hat1]; exact hrun
    have hwait1 : (ring s1 r).wait = none := by rw [hat1]; exact hwait
    have hstalled1 : (ring s1 r).stalled = none := by rw [hat1]; exact hstalled
    rw [hrow]
    refine ⟨fun hposted => ?none, fun hposted => ⟨fun hlen => ?halts, fun htrun htwait htstalled htc htposted => ?goes⟩⟩
    case none =>
      rw [sqScan_stops (.inr ⟨hwait1, hstalled1, hposted1.trans hposted⟩), if_pos (by rw [hat1]; rfl)]
    case halts =>
      have hbad : sqEntry none r s1 = sqHalt r (ring s1 r).c (ringRead s1 (ring s1 r) (ring s1 r).c 1) 0x11 s1 := sqEntry_badLen (by rw [hat1]; exact hlen)
      obtain ⟨hst, hcause, hc⟩ := ring_sqHalt (r := r) (s := s1) (ring s1 r).c (ringRead s1 (ring s1 r) (ring s1 r).c 1) 0x11
      have hkept : (ring (sqEntry none r s1) r).c = x.c := by rw [hbad, hc, hat1]; rfl
      rw [sqScan_entry hrun1 hwait1 hstalled1 (hposted1.trans hposted), sqScan_stops (.inl (by rw [hbad, hst]; decide)), if_pos hkept]
      exact ⟨_, rfl, by rw [hbad, hst], by rw [hbad, hcause], hkept⟩
    case goes =>
      rw [sqScan_entry hrun1 hwait1 hstalled1 (hposted1.trans hposted), sqScan_stops (.inr ⟨htwait, htstalled, htposted⟩), if_neg htc]
  case cells =>
    intro r s w u hwait hat hown t
    have hnone : (ring t r).wait = none := wait_sqFinish _ _ _ _ _ _ _
    have hsend : sqSend r w.index w.slots w.hdr w.frame true s = t := by
      unfold sqSend
      dsimp only
      rw [hown]
    refine ⟨hnone, ?_⟩
    change execSqStakeWaitEnd r s = _
    unfold execSqStakeWaitEnd
    rw [hwait]
    dsimp only
    rw [if_neg (by simp [hat]), hsend, if_neg (by simp [hnone])]
  case index =>
    intro r v s hr hreach htyp hv
    have hrow : exec (.ringHostIdxWrite r v) s = .next (ringHostIdx r v s) := by
      change execRingHostIdxWrite r v s = _
      unfold execRingHostIdxWrite
      rw [if_neg (by simp [hreach]; omega), Nat.mod_eq_of_lt hv]
    have hdev : ¬ ((ring s r).typ ≠ .cq ∧ (ring s r).typ ≠ .rx) := fun h => htyp.elim h.1 h.2
    rw [hrow]
    exact ⟨fun h => congrArg _ ((if_neg hdev).trans (if_pos h)), fun h => congrArg _ ((if_neg hdev).trans (if_neg (by simp [h])))⟩
  case drainCq =>
    intro r bs h s htyp hrun hhold hfits hwaiters
    have hring : ring (cqWrite r bs (modRing r (fun y => { y with hold := [] }) s)) r = postedRing bs { ring s r with hold := [] } := by
      rw [ring_cqWrite, ring_ringPost_same, ring_modRing_same]
    have hdrain : cqDrain r 32 s = cqWrite r bs (modRing r (fun y => { y with hold := [] }) s) := by
      unfold cqDrain
      dsimp only
      rw [hhold]
      dsimp only
      rw [if_pos hfits, cqDrain_empty (by rw [hring]; rfl)]
    refine congrArg Host.Outcome.next ((if_neg (by simp [htyp, hrun, hfits])).trans ?_)
    rw [hdrain, cqWake_idle (by rw [hring]; exact hwaiters)]
  case drainRx =>
    intro r bs h s htyp hrun hhold hfits
    refine congrArg Host.Outcome.next ((if_neg (by simp [htyp, hrun])).trans ?_)
    unfold rxDrain
    dsimp only
    rw [hhold]
    dsimp only
    rw [if_pos hfits, rxDrain_empty (by rw [ring_chainUnref, ring_ringPost_same, ring_modRing_same]; rfl)]

end Sys2Proof.Proofs
end

/-! PROOFS. DMA channels (15 R455, R461 to R466, Table 15.8): changes of a channel, the records that become due, and the rows that start, abort, wake and resume a channel. -/

section
namespace Sys2Proof.Proofs

open Sys2Proof Sys2Proof.Machine Sys2Proof.Safety Sys2Proof.Laws

/-! ## Changes of a channel -/

section
variable {k j : Nat} {s t : State}

@[simp] theorem chan_modChan_same (f : Chan → Chan) : chan (modChan k f s) k = f (chan s k) := tabGetD_tabMod_same _ _ _ _

theorem chan_modChan_other (f : Chan → Chan) (h : j ≠ k) : chan (modChan k f s) j = chan s j := tabGetD_tabMod_other _ _ _ h

/-- Two changes of one channel are their composition. -/
theorem modChan_modChan (f g : Chan → Chan) : modChan k g (modChan k f s) = modChan k (fun c => g (f c)) s := by
  have twice : tabMod (tabMod s.chans k {} f) k {} g = tabMod s.chans k {} (fun c => g (f c)) := by
    unfold tabMod
    rw [tabGetD_tabPut_same, tabPut_tabPut]
  exact congrArg (fun c => { s with chans := c }) twice

/-- A channel reads alike where the lists of channels do. -/
theorem chan_congr (h : t.chans = s.chans) (k : Nat) : chan t k = chan s k := by rw [chan, chan, h]

/-- Completions that are posted change no channel. -/
theorem ringPost_chans (r : Nat) (bs : List Byte) : (ringPost r bs s).chans = s.chans := by
  unfold ringPost
  dsimp only
  rw [ringIrq_frame, ringWriteBack_frame]
  dsimp only [modRing]
  rw [ringWriteSlots_frame]
  dsimp only
  split <;> rfl

theorem cqPost_chans (r : Nat) (w : CqSource) (bs : List Byte) : (cqPost r w bs s).chans = s.chans := by
  have written (u : State) : (cqWrite r bs u).chans = u.chans := by
    unfold cqWrite
    dsimp only
    split
    · rw [irqEvent_frame]
      exact ringPost_chans _ _
    · exact ringPost_chans _ _
  unfold cqPost
  dsimp only
  split
  · exact written _
  · rfl

/-- A record that is committed leaves its status in the channel (15 R461). -/
theorem chan_dmaCommit_same (bs : List Byte) : chan (dmaCommit k bs s) k = { chan s k with lastStatus := fld bs 2 2 % 256 } := by
  unfold dmaCommit
  rw [chan_congr (cqPost_chans _ _ _), chan_modChan_same]

/-! ## Records that are due (15 R461, Table 15.8) -/

/-- Whether the writes of a channel are drained depends on the channel's own delay alone. -/
theorem drained_modChan {f : Chan → Chan} (h : ∀ c, (f c).writesAt = c.writesAt) : drained (modChan k f s) k = drained s k := by
  unfold drained
  rw [chan_modChan_same, h]
  rfl

/-- Whether a CQ has room depends on the rings and on which channels are stalled. -/
theorem cqRoom_congr {r : Nat} {w : CqSource} (hrings : t.rings = s.rings) (hchans : ∀ j, (chan t j).st = (chan s j).st) : cqRoom t r w = cqRoom s r w := by
  have still : stillWaits t = stillWaits s := by
    funext x
    cases x with
    | sq q => rw [stillWaits, stillWaits, ring_congr hrings]
    | dma j => exact congrArg (fun st => decide (st = DmaState.stalled)) (hchans j)
  rw [cqRoom, cqRoom, cqSpace, cqSpace, cqWaiting, cqWaiting, ring_congr hrings, still]

theorem cqRoom_modChan {r : Nat} {w : CqSource} {f g : Chan → Chan} (h : ∀ c, (f c).st = (g c).st) : cqRoom (modChan k f s) r w = cqRoom (modChan k g s) r w := by
  refine cqRoom_congr rfl fun j => ?_
  by_cases hj : j = k
  · rw [hj, chan_modChan_same, chan_modChan_same, h]
  · rw [chan_modChan_other _ hj, chan_modChan_other _ hj]

theorem dmaFlush_empty {n : Nat} (h : (chan s k).due = []) : dmaFlush k n s = s := by
  unfold dmaFlush
  dsimp only
  rw [h]

/-- A channel whose last record is committed. -/
def recordGone (c : Chan) : Chan := { c with due := [], dueEnds := false, st := if c.dueEnds then .stopped else .running }

/-- One record that is due is committed when the writes are drained and the CQ has room. -/
theorem dmaFlush_one {b : List Byte} {n : Nat} (hdue : (chan s k).due = [b]) (hdrained : drained s k = true) (hroom : cqRoom s (chan s k).cq (.dma k) = true) :
    dmaFlush k (n + 1) s = dmaCommit k b (modChan k recordGone s) := by
  have gone : dmaCommit k b (modChan k (fun x => { x with
      due := [], dueEnds := if ([] : List (List Byte)).isEmpty then false else x.dueEnds
      st := if ([] : List (List Byte)).isEmpty ∧ x.dueEnds = true then .stopped else .running }) s) = dmaCommit k b (modChan k recordGone s) := by
    congr 2
    funext x
    cases h : x.dueEnds <;> simp [recordGone, h]
  unfold dmaFlush
  dsimp only
  rw [hdue]
  dsimp only
  rw [if_neg (by simp [hdrained]), if_neg (by simp [hroom]), gone]
  exact dmaFlush_empty (by rw [chan_dmaCommit_same, chan_modChan_same]; rfl)

/-! ## Writes by host software (15 R466) -/

theorem asChanHost_own {off : Nat} {f : State → State} (hk : k < 28) (hr : reaches s .host = true) : asChanHost k off f s = f s := by
  rw [asChanHost, if_neg (by simp [hr]; omega), if_neg (by omega)]

/-- Firmware's channels refuse host software. -/
theorem asChanHost_firmware {off : Nat} {f : State → State} (h28 : 28 ≤ k) (h32 : k < 32) (hr : reaches s .host = true) :
    asChanHost k off f s = regError (chanReg k off) s := by
  rw [asChanHost, if_neg (by simp [hr]; omega), if_pos h28]

/-- The state of a channel that is aborted, before its record (15 Table 15.8). -/
def abortedChan (c : Chan) : Chan := { c with st := .running, wait := none, due := [], abortResult := 4 }

/-- The same, once the record is due. -/
def abortDue (b : List Byte) (c : Chan) : Chan := { abortedChan c with due := [b], dueEnds := true }

/-- The status of an ABORTED record (15 Table 15.7). -/
theorem status_aborted (k pc : Nat) : fld (dmaRecord k 4 0 pc 0 0 0 0 0) 2 2 = 4 := by
  have field : slice (dmaRecord k 4 0 pc 0 0 0 0 0) 2 2 = leBytes 2 4 := by
    unfold dmaRecord slice
    simp only [List.append_assoc]
    rfl
  rw [fld, field]
  rfl

/-- An abort whose record finds its place stops the channel. -/
theorem dmaAbort_stops (hst : (chan s k).st ≠ .stopped) (hdrained : drained s k = true)
    (hroom : cqRoom (modChan k (fun x => { x with st := .running }) s) (chan s k).cq (.dma k) = true) :
    ∃ t, dmaAbort k s = dmaCommit k (dmaRecord k 4 0 (chan s k).pc 0 0 0 0 0) t ∧
      chan t k = { chan s k with st := .stopped, wait := none, due := [], dueEnds := false, abortResult := 4 } := by
  have hdue : dmaAbort k s = dmaFlush k 1 (modChan k (abortDue (dmaRecord k 4 0 (chan s k).pc 0 0 0 0 0)) s) := by
    refine (if_neg hst).trans ?_
    unfold dmaDue
    rw [modChan_modChan]
    rfl
  refine ⟨modChan k recordGone (modChan k (abortDue (dmaRecord k 4 0 (chan s k).pc 0 0 0 0 0)) s), ?_, ?_⟩
  · rw [hdue]
    refine dmaFlush_one (by rw [chan_modChan_same]; rfl) ((drained_modChan (f := abortDue _) fun _ => rfl).trans hdrained) ?_
    rw [chan_modChan_same, ← hroom]
    exact cqRoom_modChan (f := abortDue _) fun _ => rfl
  · rw [chan_modChan_same, chan_modChan_same]
    rfl

/-! ## A wait that is over (15 R455) -/

/-- A channel that goes on behind a WAIT. -/
def pastWait (c : Chan) : Chan := { c with st := .running, wait := none, pc := (c.pc + 16) % 2 ^ 64 }

/-- The next instruction is 16 bytes on. -/
theorem dmaNext_eq : dmaNext k s = modChan k (fun c => { c with pc := (c.pc + 16) % 2 ^ 64 }) s := rfl

theorem dmaNext_running : dmaNext k (modChan k (fun x => { x with st := .running, wait := none }) s) = modChan k pastWait s := by
  rw [dmaNext_eq, modChan_modChan]
  rfl

end

/-- Settles O44: each row by the state of the channel. -/
theorem dmaControlComplete : Obligations.DmaControlComplete := by
  refine ⟨?start, ?firmware, ?abort, ?doorbell, ?stallEnd, ?waitEnd⟩
  case start =>
    intro k host s hk hr hfw hst
    have hrow : exec (.dmaStart k host) s = .next (dmaStart k (hostStores host s)) := congrArg _ (asChanHost_own (s := hostStores host s) hk hr)
    have hgo : ¬ s.boot.fwRunning = false := by simp [hfw]
    rw [hrow]
    constructor
    · intro htyp hrun
      have hnames : ¬ cqNames s (chan s k).cq = false := by simp [cqNames, htyp, hrun]
      exact congrArg _ ((if_neg hgo).trans ((if_neg (not_not.mpr hst)).trans (if_neg hnames)))
    · intro htyp
      have hnames : cqNames s (chan s k).cq = false := by simp [cqNames, htyp]
      exact congrArg _ ((if_neg hgo).trans ((if_neg (not_not.mpr hst)).trans (if_pos hnames)))
  case firmware =>
    intro k s h28 h32 hr
    exact ⟨congrArg Host.Outcome.next (asChanHost_firmware (s := hostStores [] s) h28 h32 hr), congrArg _ (asChanHost_firmware h28 h32 hr)⟩
  case abort =>
    intro k s hk hr
    have hrow : exec (.dmaAbort k) s = .next (dmaAbort k s) := congrArg _ (asChanHost_own hk hr)
    rw [hrow]
    refine ⟨fun hst => congrArg _ (if_pos hst), fun hst => congrArg _ (if_neg hst), fun hst hdrained hroom => ?_⟩
    obtain ⟨t, ht, hchan⟩ := dmaAbort_stops hst hdrained hroom
    refine ⟨_, congrArg _ ht, ?_⟩
    rw [chan_dmaCommit_same, hchan, status_aborted]
    exact ⟨rfl, rfl, rfl, rfl⟩
  case doorbell =>
    intro k host s hk hr
    have hrow : exec (.dmaDoorbell k host) s = .next (dmaDoorbell k (hostStores host s)) := congrArg _ (asChanHost_own (s := hostStores host s) hk hr)
    rw [hrow]
    refine ⟨fun hst => congrArg _ (if_pos hst), fun i hst hfetch => congrArg _ ((if_neg (not_not.mpr hst)).trans ?_)⟩
    rw [hfetch]
  case stallEnd =>
    intro k b s hdue hdrained hroom
    refine congrArg Host.Outcome.next ((if_neg (by simp [hdue])).trans ?_)
    rw [hdue]
    exact congrArg (cqWake (chan s k).cq) (dmaFlush_one hdue hdrained hroom)
  case waitEnd =>
    intro k s hst hat
    have hrow {w : DmaWait} {t : State} (hw : (chan s k).wait = some w) (hmet : dmaWaitMet k w s = some t) :
        exec (.dmaWaitEnd k) s = .next (dmaNext k (modChan k (fun x => { x with st := .running, wait := none }) t)) := by
      change execDmaWaitEnd k s = _
      unfold execDmaWaitEnd
      dsimp only
      rw [hw]
      dsimp only
      rw [if_neg (by simp [hst, hat]), hmet]
    refine ⟨fun n hw hn => ?tricks, fun f hw hf => ?flags⟩
    case tricks =>
      rw [hrow hw (if_pos hn), dmaNext_running]
      rfl
    case flags =>
      refine ⟨_, hrow hw (if_pos hf), ?_, fun j hj => ?_, ?_⟩
      · rw [dmaNext_running, chan_modChan_same, chan_modChan_same]
        rfl
      · rw [dmaNext_running, chan_modChan_other _ hj, chan_modChan_other _ hj]
      · rfl

end Sys2Proof.Proofs
end

/-! PROOFS. DMA instructions (15 R451 to R456, R459, R464): what each does that passes its checks. -/

section
namespace Sys2Proof.Proofs

open Sys2Proof Sys2Proof.Machine Sys2Proof.Safety Sys2Proof.Laws

/-! ## The instruction at DMA_PC -/

section
variable {k : Nat} {i : DmaIns} {s : State}

section
variable (hready : dmaReady s k = true) (hfetch : dmaFetch s k none = .inr i) (hok : dmaBad i = false)
include hready hfetch hok

/-- A ready channel runs the instruction it fetches, in the row of its opcode. -/
theorem dmaRow_runs {opc : Nat} (hopc : i.opc = opc) (hknown : opc ∈ dmaOpcodes) : dmaRow k opc none s = dmaDo k i none s := by
  unfold dmaRow
  rw [if_neg (by simp [hready]), hfetch]
  dsimp only
  rw [hopc, if_neg (by simpa using hknown), if_neg (by simp), if_neg (by simp [hok])]

/-- A data instruction is judged by checks 4 to 8. -/
theorem dmaRow_data {opc : Nat} (hopc : i.opc = opc) (hdata : opc ∈ [1, 2, 3, 4]) :
    dmaRow k opc none s = (dmaDataCheck s i).elim (dmaDataRun k i none s) (fun st => dmaFail k st (some i) s) := by
  have hknown : opc ∈ dmaOpcodes := by
    have all : ∀ n ∈ [1, 2, 3, 4], n ∈ dmaOpcodes := by decide
    exact all opc hdata
  rw [dmaRow_runs hready hfetch hok hopc hknown]
  simp only [List.mem_cons, List.not_mem_nil, or_false] at hdata
  unfold dmaDo
  rcases hdata with rfl | rfl | rfl | rfl <;> rw [hopc] <;> cases dmaDataCheck s i <;> rfl

/-- Without an error on a line, a copy that passes its checks runs over all its lines. -/
theorem dmaRow_copies {opc : Nat} (hopc : i.opc = opc) (hdata : opc ∈ [1, 2, 3]) (hcheck : dmaDataCheck s i = none) : dmaRow k opc none s = dmaCopy k i s := by
  rw [dmaRow_data hready hfetch hok hopc (List.mem_append_left [4] hdata), hcheck]
  simp only [List.mem_cons, List.not_mem_nil, or_false] at hdata
  exact if_neg (by omega)

theorem dmaRow_compares (hopc : i.opc = 4) (hcheck : dmaDataCheck s i = none) : dmaRow k 4 none s = dmaCompare k i none s := by
  rw [dmaRow_data hready hfetch hok hopc (by decide), hcheck]
  exact if_pos hopc

end

/-! ## MOVE, FILL and MOVE_CRC (15 R451 to R453) -/

/-- A copy without a CRC writes its data. -/
theorem dmaCopy_plain (hopc : i.opc ≠ 2) : dmaCopy k i s = dmaNext k (wrote k (dmaCount k i.len (spaceWrite k i.sd i.dst (dmaData s k i) s))) := by
  unfold dmaCopy
  simp only [hopc, false_and, if_false]

/-- A channel with the CRC of the lines it has read. -/
def withCrc (v : BitVec 32) (c : Chan) : Chan := { c with crc := v, crcOut := v ^^^ BitVec.allOnes 32 }

/-- The CRC that MOVE_CRC makes of its lines. -/
def movedCrc (s : State) (k : Nat) (i : DmaIns) : BitVec 32 :=
  BitVec.ofNat 32 (crc32c (if i.flags.testBit 0 then (chan s k).crc.toNat else 0xFFFFFFFF) (spaceRead s k i.ss i.src i.len))

/-- The lines of a MOVE_CRC at their destination. -/
def movedLines (k : Nat) (i : DmaIns) (s : State) : State :=
  spaceWrite k i.sd i.dst (spaceRead s k i.ss i.src i.len) (modChan k (withCrc (movedCrc s k i)) s)

theorem dmaCopy_crc (hopc : i.opc = 2) : dmaCopy k i s = dmaNext k (wrote k (dmaCount k i.len
    (if i.flags.testBit 1 = true then spaceWrite k i.sd (i.dst + i.len) (crcLine (chan (movedLines k i s) k).crcOut) (movedLines k i s) else movedLines k i s))) := by
  have data : dmaData s k i = spaceRead s k i.ss i.src i.len := if_neg (by omega)
  unfold dmaCopy
  simp only [hopc, true_and, if_true, data]
  rfl

/-- Host memory and device memory hold no channel: the CRC stands while its lines are written there. -/
theorem crcOut_movedLines (hsd : i.sd ≤ 1) : (chan (movedLines k i s) k).crcOut = movedCrc s k i ^^^ BitVec.allOnes 32 := by
  have plain (a : Nat) (bs : List Byte) (u : State) : (spaceWrite k i.sd a bs u).chans = u.chans := by
    unfold spaceWrite
    rcases (by omega : i.sd = 0 ∨ i.sd = 1) with h | h <;> rw [h] <;> rfl
  rw [movedLines, chan_congr (plain _ _ _), chan_modChan_same]
  rfl

/-! ## COMPARE (15 R456) -/

theorem dmaCompare_equal (h : compareRecords s k i (i.len / 64) = []) : dmaCompare k i none s = dmaNext k (dmaCount k i.len s) := by
  unfold dmaCompare
  dsimp only
  rw [h]
  split <;> rfl

/-- The first line that differs ends the run. -/
theorem dmaCompare_stops {r : List Byte} {rs : List (List Byte)} (hflag : i.flags.testBit 0 = false) (h : compareRecords s k i (i.len / 64) = r :: rs) :
    dmaCompare k i none s = dmaDue k [r] true (dmaCount k (fld r 32 8) s) := by
  unfold dmaCompare
  dsimp only
  rw [if_neg (by simp [hflag]), h]

/-- With CONTINUE every line that differs has its record. -/
theorem dmaCompare_continues {r : List Byte} {rs : List (List Byte)} (hflag : i.flags.testBit 0 = true) (h : compareRecords s k i (i.len / 64) = r :: rs) :
    dmaCompare k i none s = dmaDue k (r :: rs) false (dmaNext k (dmaCount k i.len s)) := by
  unfold dmaCompare
  dsimp only
  rw [if_pos hflag, h]
  rfl

/-! ## LOOP, WAIT and SIGNAL (15 R455) -/

/-- What a WAIT waits for. -/
def waitOf (s : State) (i : DmaIns) : DmaWait :=
  match i.flags with
  | 0 => .tricks (now s + bits i.lo 63 32)
  | 1 => .hand
  | 2 => .flags (BitVec.ofNat 32 (bits i.lo 63 32))
  | _ => .writes

/-- A condition that holds already does not hold the channel. -/
theorem dmaWaitRun_eq : dmaWaitRun k i s =
    (dmaWaitMet k (waitOf s i) s).elim (modChan k (fun c => { c with st := .waiting, wait := some (waitOf s i) }) s) (dmaNext k) := by
  change (match dmaWaitMet k (waitOf s i) s with
    | some t => dmaNext k t
    | none => modChan k (fun c => { c with st := .waiting, wait := some (waitOf s i) }) s) = _
  cases dmaWaitMet k (waitOf s i) s <;> rfl

theorem dmaWaitRun_waits {w : DmaWait} (hw : waitOf s i = w) (hmet : dmaWaitMet k w s = none) :
    dmaWaitRun k i s = modChan k (fun c => { c with st := .waiting, wait := some w }) s := by
  rw [dmaWaitRun_eq, hw, hmet]
  rfl

theorem dmaWaitRun_goes {w : DmaWait} (hw : waitOf s i = w) (hmet : dmaWaitMet k w s = some s) : dmaWaitRun k i s = dmaNext k s := by
  rw [dmaWaitRun_eq, hw, hmet]
  rfl

/-- A channel whose counter n stands at v, at the branch that its loop takes. -/
def looped (n v target : Nat) (c : Chan) : Chan := { c with ctr := c.ctr.set n v, pc := (if v = 0 then c.pc + 16 else target) % 2 ^ 64 }

/-- The count of a loop after one more pass. -/
def loopCount (s : State) (k : Nat) (i : DmaIns) : Nat :=
  (if at0 (chan s k).ctr (bits i.lo 9 8) = 0 then bits i.lo 39 16 else at0 (chan s k).ctr (bits i.lo 9 8)) - 1

theorem dmaLoopRun_counts (hcount : bits i.lo 39 16 ≠ 0) : dmaLoopRun k i s = modChan k (looped (bits i.lo 9 8) (loopCount s k i) i.hi) s := by
  have counted : dmaLoopRun k i s = if loopCount s k i = 0 then dmaNext k (modChan k (fun x => { x with ctr := x.ctr.set (bits i.lo 9 8) (loopCount s k i) }) s)
      else dmaPc k i.hi (modChan k (fun x => { x with ctr := x.ctr.set (bits i.lo 9 8) (loopCount s k i) }) s) := if_neg hcount
  rw [counted]
  by_cases hv : loopCount s k i = 0
  · rw [if_pos hv, dmaNext_eq, modChan_modChan, hv]
    rfl
  · have branch : looped (bits i.lo 9 8) (loopCount s k i) i.hi = fun c => { c with ctr := c.ctr.set (bits i.lo 9 8) (loopCount s k i), pc := i.hi % 2 ^ 64 } :=
      funext fun c => by rw [looped, if_neg hv]
    rw [if_neg hv, dmaPc, modChan_modChan, branch]

/-- A channel with flags set by a signal. -/
def signalled (f : BitVec 32) (c : Chan) : Chan := { c with flags := c.flags ||| f }

theorem dmaSignalRun_posts (hpost : i.lo.testBit 9 = true) (hrecord : i.lo.testBit 8 = false) :
    dmaSignalRun k i s = dmaNext k (modChan (bits i.lo 20 16) (signalled (BitVec.ofNat 32 i.hi)) s) := by
  unfold dmaSignalRun
  dsimp only
  rw [if_pos hpost, if_neg (by simp [hrecord])]
  rfl

theorem dmaSignalRun_records (hpost : i.lo.testBit 9 = false) (hrecord : i.lo.testBit 8 = true) :
    dmaSignalRun k i s = dmaDue k [dmaRecord k 0 0 (chan s k).pc 0 0 0 (bits i.lo 63 32) 0] false (dmaNext k s) := by
  unfold dmaSignalRun
  dsimp only
  rw [if_pos hrecord, if_neg (by simp [hpost])]

end

/-- Settles O45: a data instruction runs over all its lines, or ends the run with the status of the check it fails. -/
theorem dmaDataComplete : Obligations.DmaDataComplete := by
  refine ⟨fun k i s hready hfetch hok hcheck => ⟨?move, ?fill, ?crc, ?equal, ?stops, ?continues⟩, ?failed⟩
  case move =>
    intro hopc
    have data : dmaData s k i = spaceRead s k i.ss i.src i.len := if_neg (by omega)
    refine congrArg Host.Outcome.next ((dmaRow_copies hready hfetch hok hopc (by decide) hcheck).trans ?_)
    rw [dmaCopy_plain (by omega), data]
  case fill =>
    intro hopc
    have data : dmaData s k i = (List.range (i.len / 4)).flatMap (fun _ => leBytes 4 i.src) := if_pos hopc
    refine congrArg Host.Outcome.next ((dmaRow_copies hready hfetch hok hopc (by decide) hcheck).trans ?_)
    rw [dmaCopy_plain (by omega), data]
  case crc =>
    intro hopc bs v s1
    have hrow : exec (.dmaMoveCrc k none) s = .next (dmaCopy k i s) := congrArg Host.Outcome.next (dmaRow_copies hready hfetch hok hopc (by decide) hcheck)
    have hlines : movedLines k i s = s1 := rfl
    rw [hrow, dmaCopy_crc hopc]
    refine ⟨fun hstore => ?_, fun hstore hsd => ?_⟩
    · rw [if_neg (by simp [hstore]), hlines]
    · rw [if_pos hstore, crcOut_movedLines hsd, hlines]
      rfl
  case equal => exact fun hopc h => congrArg Host.Outcome.next ((dmaRow_compares hready hfetch hok hopc hcheck).trans (dmaCompare_equal h))
  case stops => exact fun r rs hopc hflag h => congrArg Host.Outcome.next ((dmaRow_compares hready hfetch hok hopc hcheck).trans (dmaCompare_stops hflag h))
  case continues => exact fun r rs hopc hflag h => congrArg Host.Outcome.next ((dmaRow_compares hready hfetch hok hopc hcheck).trans (dmaCompare_continues hflag h))
  case failed =>
    intro k st i s hready hfetch hok hcheck hopc
    rcases hopc with hopc | hopc
    · rw [if_pos hopc]
      refine congrArg Host.Outcome.next ((dmaRow_data hready hfetch hok hopc (by decide)).trans ?_)
      rw [hcheck]
      rfl
    · rw [if_neg (by omega)]
      refine congrArg Host.Outcome.next ((dmaRow_data hready hfetch hok hopc (by decide)).trans ?_)
      rw [hcheck]
      rfl

/-- Settles O46: each control instruction in the row of its opcode. -/
theorem dmaFlowComplete : Obligations.DmaFlowComplete := by
  intro k i s hready hfetch hok
  have runs {opc : Nat} (hopc : i.opc = opc) (hknown : opc ∈ dmaOpcodes) : dmaRow k opc none s = dmaDo k i none s := dmaRow_runs hready hfetch hok hopc hknown
  have does {opc : Nat} (hopc : i.opc = opc) : dmaDo k i none s = dmaDo k { i with opc := opc } none s := by rw [← hopc]
  have row {opc : Nat} {t : State} (hopc : i.opc = opc) (hknown : opc ∈ dmaOpcodes) (ht : dmaDo k { i with opc := opc } none s = t) : dmaRow k opc none s = t :=
    (runs hopc hknown).trans ((does hopc).trans ht)
  refine ⟨fun hopc hfinish => ?parks, fun hopc hfinish => ?ends, fun hopc hcount => ?always, fun hopc hcount => ?counts, fun hopc hkind harg => ?tricks,
    fun hopc hkind => ?hand, fun hopc hkind hdrained => ?writes, fun hopc hpost hrecord hother => ?posts, fun hopc hpost hrecord => ?records, fun hopc => ?jumps⟩
  case parks => exact congrArg Host.Outcome.next (row hopc (by decide) (if_neg (by simp [hfinish])))
  case ends => exact congrArg Host.Outcome.next (row hopc (by decide) (if_pos hfinish))
  case always => exact congrArg Host.Outcome.next (row hopc (by decide) (if_pos hcount))
  case counts =>
    refine ⟨_, congrArg Host.Outcome.next (row hopc (by decide) (dmaLoopRun_counts hcount)), ?_, fun j hj => chan_modChan_other _ hj, rfl⟩
    rw [chan_modChan_same]
    rfl
  case tricks =>
    exact congrArg Host.Outcome.next (row hopc (by decide) (dmaWaitRun_waits (by rw [waitOf, hkind]; rfl) (if_neg (by omega))))
  case hand => exact congrArg Host.Outcome.next (row hopc (by decide) (dmaWaitRun_waits (by rw [waitOf, hkind]; rfl) rfl))
  case writes => exact congrArg Host.Outcome.next (row hopc (by decide) (dmaWaitRun_goes (w := .writes) (by rw [waitOf, hkind]; rfl) (if_pos hdrained)))
  case posts =>
    refine ⟨_, congrArg Host.Outcome.next (row hopc (by decide) (dmaSignalRun_posts hpost hrecord)), ?_, ?_, fun j hj hj' => ?_, rfl⟩
    · rw [dmaNext_eq, chan_modChan_other _ hother, chan_modChan_same]
      rfl
    · rw [dmaNext_eq, chan_modChan_same, chan_modChan_other _ (Ne.symm hother)]
    · rw [dmaNext_eq, chan_modChan_other _ hj, chan_modChan_other _ hj']
  case records => exact congrArg Host.Outcome.next (row hopc (by decide) (dmaSignalRun_records hpost hrecord))
  case jumps =>
    have short : bits i.lo 63 8 % 2 ^ 64 = bits i.lo 63 8 := Nat.mod_eq_of_lt (lt_of_lt_of_le (Nat.mod_lt _ (by decide)) (by decide : 2 ^ (63 + 1 - 8) ≤ 2 ^ 64))
    refine congrArg Host.Outcome.next (row hopc (by decide) (?_ : dmaPc k (bits i.lo 63 8) s = _))
    rw [dmaPc, short]

end Sys2Proof.Proofs
end

/-! PROOFS. The I3C target and the test access port (19 R549, R550, R555, R556). -/

section
namespace Sys2Proof.Proofs

open Sys2Proof Sys2Proof.Machine Sys2Proof.Safety Sys2Proof.Laws

/-! ## Private transfers (19 R550) -/

/-- A read within a mailbox's message area gives its bytes and touches nothing. -/
theorem i3cRead_area {o : Nat} (hmb : o < 0x2000) (harea : 0x40 ≤ o % 0x400) (n ph : Nat) (s : State) :
    i3cRead o n ph s = (memReadN (mbox s (i3cMb o)).area (o % 0x400 - 0x40) n, s) := by
  unfold i3cRead
  rw [if_pos hmb, if_pos harea]

/-- Eight bytes at the page register set the page. -/
theorem i3cWrite_page {bs : List Byte} (hlen : bs.length = 8) (s : State) :
    i3cWrite 0x7FF8 bs s = modPins (fun p => { p with i3cPage := leVal bs % 2048 }) s := by
  unfold i3cWrite
  simp [hlen, regShape]

section
variable {s : State} (hp : powered s = true)
include hp

/-- A transfer that only reads. -/
theorem i3cTransfer_reads {o n ph : Nat} (ho : o < 0x10000) (hn : 0 < n) (hmrl : n ≤ s.pins.mrl) :
    execI3cPrivateTransfer { offset := some o, wr := [], rd := n, ph := ph } s =
      .next (modPins (fun p => { p with i3cOut := (i3cRead o n ph s).1 }) (i3cMove (o + n) (i3cRead o n ph s).2)) := by
  have hin : o % 65536 = o := Nat.mod_eq_of_lt ho
  have hmin : min n s.pins.mrl = n := Nat.min_eq_left hmrl
  have hne : n ≠ 0 := by omega
  unfold execI3cPrivateTransfer
  simp [hp, hin, hmin, hne]

/-- A transfer that only writes, within the length of MWL. -/
theorem i3cTransfer_writes {o ph : Nat} {bs : List Byte} (ho : o < 0x10000) (hne : bs ≠ []) (hmwl : bs.length ≤ s.pins.mwl - 2) :
    execI3cPrivateTransfer { offset := some o, wr := bs, rd := 0, ph := ph } s = .next (i3cMove (o + bs.length) (i3cWrite o bs s)) := by
  have hin : o % 65536 = o := Nat.mod_eq_of_lt ho
  have htake : bs.take (s.pins.mwl - 2) = bs := List.take_of_length_le hmwl
  unfold execI3cPrivateTransfer
  simp [hp, hin, htake, hne]

/-! ## Common command codes (19 R549) -/

theorem execI3cCcc_runs (code : Nat) (arg : List Byte) : execI3cCcc code arg s = .next (cccDo code arg s) :=
  congrArg Host.Outcome.next (if_pos hp)

end

section
variable {s : State} (arg : List Byte)

/-- ENTDAA assigns an address to a target that has none. -/
theorem cccDo_entdaa (hfree : s.pins.i3cAddr = none) :
    cccDo 0x07 arg s = cccAck (i3cPid ++ [i3cBcrVal, Config.i3cDcr]) (modPins (fun p => { p with i3cAddr := some (fld arg 0 1 % 128) }) s) :=
  if_neg (by simp [hfree])

/-- SETDASA does so by the static address. -/
theorem cccDo_setdasa (hfree : s.pins.i3cAddr = none) (hstatic : fld arg 0 1 = i3cStatic) :
    cccDo 0x87 arg s = cccAck [] (modPins (fun p => { p with i3cAddr := some (fld arg 1 1 % 128) }) s) :=
  if_neg (by simp [hfree, hstatic])

/-- GETMRL answers a target that has an address. -/
theorem cccDo_getmrl (haddr : s.pins.i3cAddr ≠ none) : cccDo 0x8C arg s = cccAck (beBytes 2 s.pins.mrl) s :=
  if_pos (Option.isSome_iff_ne_none.mpr haddr)

end

/-! ## The test access port (19 R555, R556) -/

theorem scanTo_on {s : State} (hon : s.boot.phase ≠ .off) (j : JtagInstr) (dr : BitVec 32) :
    scanTo j dr s = modPins (fun p => { p with jtag := j, dr := dr }) s := if_neg hon

/-- Settles O47: the read of a mailbox's area, the page register, the command codes that assign, give up and report, and the six test instructions. -/
theorem packageRowsComplete : Obligations.PackageRowsComplete := by
  refine ⟨fun o n ph s hp hmb harea hn hmrl => ?reads, fun bs ph s hp hlen hmwl => ?page,
    fun arg s hp => ⟨fun hfree => ?entdaa, fun hfree hstatic => ?setdasa, ?rstdaa, fun haddr => ?getmrl⟩, fun lands load s hon => ?scan⟩
  case reads =>
    refine (i3cTransfer_reads hp (by omega) hn hmrl).trans ?_
    rw [i3cRead_area hmb harea]
    rfl
  case page =>
    have hne : bs ≠ [] := List.ne_nil_of_length_pos (by omega)
    refine (i3cTransfer_writes hp (by decide) hne (by omega)).trans ?_
    rw [i3cWrite_page hlen, hlen]
    rfl
  case entdaa => exact (execI3cCcc_runs hp 0x07 arg).trans (congrArg Host.Outcome.next (cccDo_entdaa arg hfree))
  case setdasa => exact (execI3cCcc_runs hp 0x87 arg).trans (congrArg Host.Outcome.next (cccDo_setdasa arg hfree hstatic))
  case rstdaa => exact execI3cCcc_runs hp 0x06 arg
  case getmrl => exact (execI3cCcc_runs hp 0x8C arg).trans (congrArg Host.Outcome.next (cccDo_getmrl arg haddr))
  case scan =>
    have scans (j : JtagInstr) (dr : BitVec 32) : scanTo j dr s = { s with pins := { s.pins with jtag := j, dr := dr } } := scanTo_on hon j dr
    refine ⟨congrArg Host.Outcome.next (scans .bypass 0), congrArg Host.Outcome.next (scans .idcode (idcode s)), congrArg Host.Outcome.next ?sample,
      congrArg Host.Outcome.next (scans .extest s.pins.boundary), congrArg Host.Outcome.next (scans .clamp 0), congrArg Host.Outcome.next (scans .highz 0)⟩
    rw [if_neg hon, scans]
    rfl

end Sys2Proof.Proofs
end

/-! PROOFS. Operations that write no byte memory: the canonical form of the memories (08; 14; 15 Table 15.1) is that of the state before. -/

section
namespace Sys2Proof.Proofs

open Sys2Proof Sys2Proof.Machine Sys2Proof.Safety Sys2Proof.Laws

/-! ## The canonical form of a state's memories -/

/-- The byte memories of a state are in canonical form. -/
def Canonical (s : State) : Prop := memWf s.devMem = true ∧ memWf s.hostMem = true ∧ memWf s.buf.mem = true

theorem memoriesWf_iff {s : State} : memoriesWf s = true ↔ Canonical s := by simp [memoriesWf, Canonical, and_assoc]

/-- A state that is written out: simp sees from it which of the memories an operation takes over. -/
@[simp] theorem canonical_mk {ident trick refs lanes ports groups tables clusters wins uc buf time telem stack mboxes order deferred ciph link rings irq chans power
    flt boot pins bus evc devMem hostMem freeCount pending} :
    Canonical (State.mk ident trick refs lanes ports groups tables clusters wins uc buf time telem stack mboxes order deferred ciph link rings irq chans power
      flt boot pins bus evc devMem hostMem freeCount pending) ↔ memWf devMem = true ∧ memWf hostMem = true ∧ memWf buf.mem = true := ⟨id, id⟩

@[simp] theorem canonical_fold {s : State} : (memWf s.devMem = true ∧ memWf s.hostMem = true ∧ memWf s.buf.mem = true) ↔ Canonical s := ⟨id, id⟩

section
variable {c : Prop} [Decidable c]

@[simp] theorem canonical_ite (s t : State) : Canonical (if c then s else t) ↔ if c then Canonical s else Canonical t := by split <;> exact Iff.rfl

end

section
variable {s : State}

@[simp] theorem canonical_foldl {α : Type} {f : State → α → State} (h : ∀ s a, Canonical (f s a) ↔ Canonical s) (l : List α) :
    Canonical (l.foldl f s) ↔ Canonical s := by
  induction l generalizing s with
  | nil => exact Iff.rfl
  | cons a r ih => exact ih.trans (h s a)

@[simp] theorem canonical_forAll {f : Nat → State → State} (h : ∀ i s, Canonical (f i s) ↔ Canonical s) (l : List Nat) :
    Canonical (forAll l f s) ↔ Canonical s := canonical_foldl (fun s i => h i s) l

theorem canonical_foldl_snd {α σ : Type} {f : σ × State → α → σ × State} (h : ∀ r a, Canonical (f r a).2 ↔ Canonical r.2) (l : List α) (r : σ × State) :
    Canonical (l.foldl f r).2 ↔ Canonical r.2 := by
  induction l generalizing r with
  | nil => exact Iff.rfl
  | cons a l ih => exact (ih _).trans (h r a)

end

section
variable (s : State)

/-! ## Parts of the state that are no byte memory -/

@[simp] theorem canonical_modSect (n : Nat) (f : Section → Section) : Canonical (modSect n f s) ↔ Canonical s := ⟨id, id⟩
@[simp] theorem canonical_modReq (r : Nat) (f : Requester → Requester) : Canonical (modReq r f s) ↔ Canonical s := ⟨id, id⟩
@[simp] theorem canonical_modChain (h : Nat) (f : Chain → Chain) : Canonical (modChain h f s) ↔ Canonical s := ⟨id, id⟩
@[simp] theorem canonical_modCiph (f : Ciph → Ciph) : Canonical (modCiph f s) ↔ Canonical s := ⟨id, id⟩
@[simp] theorem canonical_modChan (k : Nat) (f : Chan → Chan) : Canonical (modChan k f s) ↔ Canonical s := ⟨id, id⟩
@[simp] theorem canonical_evAdd (code unit param n : Nat) : Canonical (evAdd code unit param n s) ↔ Canonical s := ⟨id, id⟩
@[simp] theorem canonical_evZero (code unit param : Nat) : Canonical (evZero code unit param s) ↔ Canonical s := ⟨id, id⟩
@[simp] theorem canonical_modFlt (src unit : Nat) (f : FltInst → FltInst) : Canonical (modFlt src unit f s) ↔ Canonical s := ⟨id, id⟩
@[simp] theorem canonical_modBoot (f : Boot → Boot) : Canonical (modBoot f s) ↔ Canonical s := ⟨id, id⟩
@[simp] theorem canonical_modCmd (m : Nat) (f : Cmd → Cmd) : Canonical (modCmd m f s) ↔ Canonical s := ⟨id, id⟩
@[simp] theorem canonical_stackTx (p : Nat) (bs : List Byte) : Canonical (stackTx p bs s) ↔ Canonical s := ⟨id, id⟩
@[simp] theorem canonical_modLane (l : Nat) (f : Lane → Lane) : Canonical (modLane l f s) ↔ Canonical s := ⟨id, id⟩
@[simp] theorem canonical_modPort (p : Nat) (f : Port → Port) : Canonical (modPort p f s) ↔ Canonical s := ⟨id, id⟩
@[simp] theorem canonical_modGrp (g : Nat) (f : Group → Group) : Canonical (modGrp g f s) ↔ Canonical s := ⟨id, id⟩
@[simp] theorem canonical_modCluster (c : Nat) (f : Cluster → Cluster) : Canonical (modCluster c f s) ↔ Canonical s := ⟨id, id⟩
@[simp] theorem canonical_modMbox (m : Nat) (f : Mailbox → Mailbox) : Canonical (modMbox m f s) ↔ Canonical s := ⟨id, id⟩
@[simp] theorem canonical_modPins (f : Pins → Pins) : Canonical (modPins f s) ↔ Canonical s := ⟨id, id⟩
@[simp] theorem canonical_modPower (f : Power → Power) : Canonical (modPower f s) ↔ Canonical s := ⟨id, id⟩
@[simp] theorem canonical_modMeta (m : Nat) (f : Meta → Meta) : Canonical (modMeta m f s) ↔ Canonical s := ⟨id, id⟩
@[simp] theorem canonical_modRing (r : Nat) (f : Ring → Ring) : Canonical (modRing r f s) ↔ Canonical s := ⟨id, id⟩
@[simp] theorem canonical_modStack (f : Stack → Stack) : Canonical (modStack f s) ↔ Canonical s := ⟨id, id⟩
@[simp] theorem canonical_modTelem (f : Telem → Telem) : Canonical (modTelem f s) ↔ Canonical s := ⟨id, id⟩
@[simp] theorem canonical_modDom (x : Nat) (f : Domain → Domain) : Canonical (modDom x f s) ↔ Canonical s := ⟨id, id⟩
@[simp] theorem canonical_modTime (f : TimeUnit → TimeUnit) : Canonical (modTime f s) ↔ Canonical s := ⟨id, id⟩
@[simp] theorem canonical_modPin (n : Nat) (f : Pin → Pin) : Canonical (modPin n f s) ↔ Canonical s := ⟨id, id⟩
@[simp] theorem canonical_modDomP (d : Nat) (f : PDom → PDom) : Canonical (modDomP d f s) ↔ Canonical s := ⟨id, id⟩
@[simp] theorem canonical_modPtp (x : Nat) (f : PtpClock → PtpClock) : Canonical (modPtp x f s) ↔ Canonical s := ⟨id, id⟩
@[simp] theorem canonical_modPdelay (p : Nat) (f : PeerDelay → PeerDelay) : Canonical (modPdelay p f s) ↔ Canonical s := ⟨id, id⟩

/-! One rule for each operation, in the order of the model's files, so that each follows from the rules of the operations it calls. -/

/-! ## Units and memories -/

@[simp] theorem canonical_modQueue (p q f) : Canonical (modQueue p q f s) ↔ Canonical s := by simp [modQueue]
@[simp] theorem canonical_drawFree (n) : Canonical (drawFree n s).2 ↔ Canonical s := by simp [drawFree]

/-! ## Counters, interrupts and fault events -/

@[simp] theorem canonical_ev (code unit) : Canonical (ev code unit s) ↔ Canonical s := by simp [ev]
@[simp] theorem canonical_watchEvent (code unit param value) : Canonical (watchEvent code unit param value s) ↔ Canonical s := by simp [watchEvent]
@[simp] theorem canonical_fireVec (v) : Canonical (fireVec v s) ↔ Canonical s := by simp [fireVec]
@[simp] theorem canonical_vecEvent (v) : Canonical (vecEvent v s) ↔ Canonical s := by simp [vecEvent]
@[simp] theorem canonical_irqEvent (src) : Canonical (irqEvent src s) ↔ Canonical s := by unfold irqEvent; split <;> simp
@[simp] theorem canonical_ringIrq (r) : Canonical (ringIrq r s) ↔ Canonical s := by simp [ringIrq]
@[simp] theorem canonical_vecTimeout (v) : Canonical (vecTimeout v s) ↔ Canonical s := by simp [vecTimeout]
@[simp] theorem canonical_severeActs (src) : Canonical (severeActs src s) ↔ Canonical s := by simp [severeActs]
@[simp] theorem canonical_makeSevere (src unit) : Canonical (makeSevere src unit s) ↔ Canonical s := by simp [makeSevere]
@[simp] theorem canonical_raiseFault (src unit detail inj) : Canonical (raiseFault src unit detail inj s) ↔ Canonical s := by simp [raiseFault]
@[simp] theorem canonical_fault (src unit detail) : Canonical (fault src unit detail s) ↔ Canonical s := by simp [fault]
@[simp] theorem canonical_regError (a) : Canonical (regError a s) ↔ Canonical s := by simp [regError]
@[simp] theorem canonical_closeWindows : Canonical (closeWindows s) ↔ Canonical s := by simp [closeWindows]

/-! ## The shared buffer (08) -/

theorem canonical_takeCell {s r x} (h : takeCell r s = some x) : Canonical x.2 ↔ Canonical s := by
  unfold takeCell at h
  split at h
  · cases h
  split at h
  · cases h
  · cases h
    simp

theorem canonical_takeCells {s n r x} (h : takeCells n r s = some x) : Canonical x.2 ↔ Canonical s := by
  induction n generalizing s x with
  | zero =>
    cases h
    simp
  | succ n ih =>
    unfold takeCells at h
    split at h
    · cases h
    next hc =>
      obtain ⟨y, hy, rfl⟩ := Option.map_eq_some_iff.mp h
      exact (ih hy).trans (canonical_takeCell hc)

@[simp] theorem canonical_giveCells (cs) : Canonical (giveCells cs s) ↔ Canonical s := canonical_foldl (fun _ _ => by simp) _
@[simp] theorem canonical_stakeAdd (r n) : Canonical (stakeAdd r n s) ↔ Canonical s := by simp [stakeAdd]
@[simp] theorem canonical_stakeSub (r n) : Canonical (stakeSub r n s) ↔ Canonical s := by simp [stakeSub]

@[simp] theorem canonical_orphan (h) : Canonical (orphan h s) ↔ Canonical s := by simp [orphan]
@[simp] theorem canonical_unstake (h) : Canonical (unstake h s) ↔ Canonical s := by unfold unstake; split <;> simp
@[simp] theorem canonical_dropChain (h) : Canonical (dropChain h s) ↔ Canonical s := by unfold dropChain; split <;> simp
@[simp] theorem canonical_chainUnref (h) : Canonical (chainUnref h s) ↔ Canonical s := by unfold chainUnref; split <;> simp
@[simp] theorem canonical_chainRef (h) : Canonical (chainRef h s) ↔ Canonical s := by simp [chainRef]
@[simp] theorem canonical_freeRequest (r addr) : Canonical (freeRequest r addr s) ↔ Canonical s := by unfold freeRequest; dsimp only; (repeat' split) <;> simp
@[simp] theorem canonical_pushMacCtl (p m) : Canonical (pushMacCtl p m s) ↔ Canonical s := by simp [pushMacCtl]
@[simp] theorem canonical_announce (p) : Canonical (announce p s) ↔ Canonical s := by unfold announce; split <;> simp
@[simp] theorem canonical_pauseUpdate (p i kitty) : Canonical (pauseUpdate p i kitty s) ↔ Canonical s := by unfold pauseUpdate; split <;> simp
@[simp] theorem canonical_modUK (p i acc f) : Canonical (modUK p i acc f s) ↔ Canonical s := by simp [modUK]
@[simp] theorem canonical_modUsed (acc f) : Canonical (modUsed acc f s) ↔ Canonical s := by unfold modUsed; split <;> simp
@[simp] theorem canonical_charge (p q inp i acc n) : Canonical (charge p q inp i acc n s) ↔ Canonical s := by unfold charge; split <;> simp
@[simp] theorem canonical_refund (p q inp i acc n) : Canonical (refund p q inp i acc n s) ↔ Canonical s := by unfold refund; split <;> simp

@[simp] theorem canonical_takeIn (p q d lossless ect) : Canonical (takeIn p q d lossless ect s).2 ↔ Canonical s := by
  unfold takeIn
  dsimp only
  repeat' split
  all_goals simp

/-! ## Answers and checks of a command (13 R401, R402) -/

@[simp] theorem canonical_ansOk (resp) : Canonical (ansAfter (ansOk resp s)) ↔ Canonical s := by simp [ansOk]
@[simp] theorem canonical_ansBad (off) : Canonical (ansAfter (ansBad off s)) ↔ Canonical s := by simp [ansBad]
@[simp] theorem canonical_ansSt (st) : Canonical (ansAfter (ansSt st s)) ↔ Canonical s := by simp [ansSt]

/-! ## Mailboxes and control traffic (13 R399; 12 R383) -/

@[simp] theorem canonical_answer (m st detail resp) : Canonical (answer m st detail resp s) ↔ Canonical s := by simp [answer]
@[simp] theorem canonical_acceptMb (m) : Canonical (acceptMb m s) ↔ Canonical s := by unfold acceptMb; dsimp only; (repeat' split) <;> simp
@[simp] theorem canonical_storeMsg (m off bs) : Canonical (storeMsg m off bs s) ↔ Canonical s := by simp [storeMsg]
@[simp] theorem canonical_sendControl (dst dl kind seq payload) : Canonical (sendControl dst dl kind seq payload s) ↔ Canonical s := by unfold sendControl; split <;> simp
@[simp] theorem canonical_serveNext : Canonical (serveNext s) ↔ Canonical s := by unfold serveNext; (repeat' split) <;> simp
@[simp] theorem canonical_enqueueRequest (q n seq bs) : Canonical (enqueueRequest q n seq bs s) ↔ Canonical s := by simp [enqueueRequest]
@[simp] theorem canonical_request (m q n bytes rest answers agg) : Canonical (request m q n bytes rest answers agg s) ↔ Canonical s := by simp [request]
@[simp] theorem canonical_sendRequest (m code q n payload rest answers agg) : Canonical (sendRequest m code q n payload rest answers agg s) ↔ Canonical s := by simp [sendRequest]
@[simp] theorem canonical_remoteCmd (m code payload p) : Canonical (ansAfter (remoteCmd m code payload p s)) ↔ Canonical s := by unfold remoteCmd; dsimp only; (repeat' split) <;> simp
@[simp] theorem canonical_handleResponse (seq bs) : Canonical (handleResponse seq bs s) ↔ Canonical s := by unfold handleResponse; dsimp only; (repeat' split) <;> simp
@[simp] theorem canonical_sendResponse (m bs) : Canonical (sendResponse m bs s) ↔ Canonical s := by unfold sendResponse; split <;> simp
@[simp] theorem canonical_completeNow (m) : Canonical (completeNow m s) ↔ Canonical s := by unfold completeNow; split <;> simp

@[simp] theorem canonical_settle (m a) : Canonical (settle m a) ↔ Canonical (ansAfter a) := by cases a <;> simp [settle]
@[simp] theorem canonical_runCmd {body : Cmd → State → Ans} (h : ∀ c s, (Canonical (ansAfter (body c s)) ↔ Canonical s)) (code m) :
    Canonical (runCmd code m body s) ↔ Canonical s := by
  unfold runCmd
  split <;> simp [h]

@[simp] theorem canonical_onPathAny {go : Path → List Byte → Ans} (h : ∀ q p, (Canonical (ansAfter (go q p)) ↔ Canonical s)) (m code len kinds c) :
    Canonical (ansAfter (onPathAny m code len kinds c s go)) ↔ Canonical s := by
  unfold onPathAny
  dsimp only
  repeat' split
  all_goals simp [h]

@[simp] theorem canonical_onPath {go : Path → List Byte → Ans} (h : ∀ q p, (Canonical (ansAfter (go q p)) ↔ Canonical s)) (m code len kinds c) :
    Canonical (ansAfter (onPath m code len kinds c s go)) ↔ Canonical s := by
  simp [onPath, h]

/-! ## The time unit (10) -/

@[simp] theorem canonical_runTime (n) : Canonical (runTime n s) ↔ Canonical s := by simp [runTime]
@[simp] theorem canonical_tsqPush (fw e) : Canonical (tsqPush fw e s) ↔ Canonical s := by simp [tsqPush]
@[simp] theorem canonical_markStep : Canonical (markStep s) ↔ Canonical s := by simp [markStep]
@[simp] theorem canonical_stepDom (x e) : Canonical (stepDom x e s) ↔ Canonical s := by simp [stepDom]
@[simp] theorem canonical_switchDom (x) : Canonical (switchDom x s) ↔ Canonical s := by simp [switchDom]
@[simp] theorem canonical_enterHoldover : Canonical (enterHoldover s) ↔ Canonical s := by simp [enterHoldover]
@[simp] theorem canonical_offerSample (x src e) : Canonical (offerSample x src e s) ↔ Canonical s := by simp [offerSample]
@[simp] theorem canonical_servoSample (x e) : Canonical (servoSample x e s) ↔ Canonical s := by simp [servoSample]
@[simp] theorem canonical_servoDomain (x) : Canonical (servoDomain x s) ↔ Canonical s := by simp [servoDomain]
@[simp] theorem canonical_splitCheck : Canonical (splitCheck s) ↔ Canonical s := by simp [splitCheck]
@[simp] theorem canonical_recordOfs : Canonical (recordOfs s) ↔ Canonical s := by simp [recordOfs]
@[simp] theorem canonical_applyTimeSet (flags frac ns sec) : Canonical (applyTimeSet flags frac ns sec s) ↔ Canonical s := by simp [applyTimeSet]
@[simp] theorem canonical_pinsBoundary (stepped) : Canonical (pinsBoundary stepped s) ↔ Canonical s := by simp [pinsBoundary]
@[simp] theorem canonical_pinCapture (n rising ph) : Canonical (pinCapture n rising ph s) ↔ Canonical s := by simp [pinCapture]
@[simp] theorem canonical_edgeSamples (src pinNo ph) : Canonical (edgeSamples src pinNo ph s) ↔ Canonical s := by simp [edgeSamples]

/-! ## Telemetry (11) -/

@[simp] theorem canonical_modSlice (g f) : Canonical (modSlice g f s) ↔ Canonical s := by simp [modSlice]

@[simp] theorem canonical_flowUpdate (g f) : Canonical (flowUpdate g f s) ↔ Canonical s := by
  unfold flowUpdate
  extract_lets x base ways hit age v
  clear_value hit v
  cases hit with
  | some w => simp
  | none =>
    dsimp only
    repeat' split
    all_goals simp

@[simp] theorem canonical_idleVisit (g i) : Canonical (idleVisit g i s) ↔ Canonical s := by unfold idleVisit; dsimp only; (repeat' split) <;> simp
@[simp] theorem canonical_idleScan (g) : Canonical (idleScan g s) ↔ Canonical s := by simp [idleScan]
@[simp] theorem canonical_overflowQueue (g) : Canonical (overflowQueue g s) ↔ Canonical s := by simp [overflowQueue]
@[simp] theorem canonical_sampleOffer (bs) : Canonical (sampleOffer bs s) ↔ Canonical s := by simp [sampleOffer]
@[simp] theorem canonical_cellDone (cell) : Canonical (cellDone cell s) ↔ Canonical s := by unfold cellDone; split <;> simp
@[simp] theorem canonical_captureOffer (bs cell) : Canonical (captureOffer bs cell s) ↔ Canonical s := by simp [captureOffer]
@[simp] theorem canonical_sampleWrite (m r) : Canonical (sampleWrite m r s) ↔ Canonical s := by simp [sampleWrite]
@[simp] theorem canonical_evZeroPort (p) : Canonical (evZeroPort p s) ↔ Canonical s := by simp [evZeroPort]
@[simp] theorem canonical_evZeroStack : Canonical (evZeroStack s) ↔ Canonical s := by simp [evZeroStack]
@[simp] theorem canonical_watchCycles (n passed) : Canonical (watchCycles n passed s) ↔ Canonical s := by simp [watchCycles]
@[simp] theorem canonical_dumpOpen : Canonical (dumpOpen s) ↔ Canonical s := by unfold dumpOpen; dsimp only; (repeat' split) <;> simp

/-! ## Release of descriptors (08 R222, R232) -/

@[simp] theorem canonical_notSentPush (p d) : Canonical (notSentPush p d s) ↔ Canonical s := by unfold notSentPush; split <;> simp
@[simp] theorem canonical_sampleRelease (m r) : Canonical (sampleRelease m r s) ↔ Canonical s := by unfold sampleRelease; split <;> simp
@[simp] theorem canonical_releaseDesc (p q d r) : Canonical (releaseDesc p q d r s) ↔ Canonical s := by simp [releaseDesc]
@[simp] theorem canonical_dropDesc (p q d r) : Canonical (dropDesc p q d r s) ↔ Canonical s := by simp [dropDesc]
@[simp] theorem canonical_flushDesc (p q d) : Canonical (flushDesc p q d s) ↔ Canonical s := by simp [flushDesc]
@[simp] theorem canonical_idleDeficits (p) : Canonical (idleDeficits p s) ↔ Canonical s := by simp [idleDeficits]
@[simp] theorem canonical_flushQueue (p q sel) : Canonical (flushQueue p q sel s) ↔ Canonical s := by unfold flushQueue; split <;> simp
@[simp] theorem canonical_flushPort (p sel) : Canonical (flushPort p sel s) ↔ Canonical s := by simp [flushPort]
@[simp] theorem canonical_holdFlush (p) : Canonical (holdFlush p s) ↔ Canonical s := by simp [holdFlush]

/-! ## Lanes and links (03, 04) -/

@[simp] theorem canonical_applyFir (l) : Canonical (applyFir l s) ↔ Canonical s := by unfold applyFir; split <;> simp
@[simp] theorem canonical_dropStored (l) : Canonical (dropStored l s) ↔ Canonical s := by simp [dropStored]
@[simp] theorem canonical_unalign (l) : Canonical (unalign l s) ↔ Canonical s := by unfold unalign; split <;> simp
@[simp] theorem canonical_laneEnter (l t) : Canonical (laneEnter l t s) ↔ Canonical s := by simp [laneEnter]
@[simp] theorem canonical_laneExit (l t) : Canonical (laneExit l t s) ↔ Canonical s := by simp [laneExit]
@[simp] theorem canonical_laneRunning (l) : Canonical (laneRunning l s) ↔ Canonical s := by simp [laneRunning]
@[simp] theorem canonical_echoEnd (l) : Canonical (echoEnd l s) ↔ Canonical s := by simp [echoEnd]
@[simp] theorem canonical_echoStop (l) : Canonical (echoStop l s) ↔ Canonical s := by unfold echoStop; split <;> simp
@[simp] theorem canonical_setLink (p st) : Canonical (setLink p st s) ↔ Canonical s := by unfold setLink; split <;> simp
@[simp] theorem canonical_enterNegotiating (p) : Canonical (enterNegotiating p s) ↔ Canonical s := by simp [enterNegotiating]
@[simp] theorem canonical_alignBegin (p) : Canonical (alignBegin p s) ↔ Canonical s := by unfold alignBegin; split <;> simp
@[simp] theorem canonical_alignArm (l) : Canonical (alignArm l s) ↔ Canonical s := by unfold alignArm; split <;> simp

@[simp] theorem canonical_enterAligning (p b) : Canonical (enterAligning p b s) ↔ Canonical s := by
  unfold enterAligning
  split
  · simp
  · simp

@[simp] theorem canonical_linkAgain (p) : Canonical (linkAgain p s) ↔ Canonical s := by unfold linkAgain; split <;> simp
@[simp] theorem canonical_stackDown (p) : Canonical (stackDown p s) ↔ Canonical s := by simp [stackDown]
@[simp] theorem canonical_stackUp (p) : Canonical (stackUp p s) ↔ Canonical s := by unfold stackUp; split <;> simp
@[simp] theorem canonical_synceLow (p w) : Canonical (synceLow p w s) ↔ Canonical s := by simp [synceLow]
@[simp] theorem canonical_synceDivs : Canonical (synceDivs s) ↔ Canonical s := by simp [synceDivs]
@[simp] theorem canonical_leaveUp (p) : Canonical (leaveUp p s) ↔ Canonical s := by unfold leaveUp; split <;> simp
@[simp] theorem canonical_linkLost (p cause penalise) : Canonical (linkLost p cause penalise s) ↔ Canonical s := by unfold linkLost; split <;> simp
@[simp] theorem canonical_containPort (p) : Canonical (containPort p s) ↔ Canonical s := by unfold containPort; split <;> simp
@[simp] theorem canonical_portFaultI (src p detail inj) : Canonical (portFaultI src p detail inj s) ↔ Canonical s := by simp [portFaultI]
@[simp] theorem canonical_portFault (src p detail) : Canonical (portFault src p detail s) ↔ Canonical s := by simp [portFault]
@[simp] theorem canonical_containRelease (p was) : Canonical (containRelease p was s) ↔ Canonical s := by unfold containRelease; split <;> simp
@[simp] theorem canonical_enterUp (p skew) : Canonical (enterUp p skew s) ↔ Canonical s := by unfold enterUp; split <;> simp

@[simp] theorem canonical_lanesReq (p r) : Canonical (lanesReq p r s) ↔ Canonical s := by
  unfold lanesReq
  split
  · simp
  · exact canonical_forAll (fun _ _ => by simp) _

@[simp] theorem canonical_laneLinkDown (l cause penalise) : Canonical (laneLinkDown l cause penalise s) ↔ Canonical s := by unfold laneLinkDown; split <;> simp

/-! ## Ageing log and images of the power registers (16) -/

@[simp] theorem canonical_powerIrq (on) : Canonical (powerIrq on s) ↔ Canonical s := by simp [powerIrq]
@[simp] theorem canonical_ageRecord (kind old new unit value) : Canonical (ageRecord kind old new unit value s) ↔ Canonical s := by simp [ageRecord]

/-! ## Flash and the MAC engine in firmware's hands (13) -/

@[simp] theorem canonical_modSlot (k f) : Canonical (modSlot k f s) ↔ Canonical s := by simp [modSlot]

@[simp] theorem canonical_withEngine {f : State → State} (h : ∀ s, (Canonical (f s) ↔ Canonical s)) (wants) :
    Canonical (withEngine wants f s) ↔ Canonical s := by simp [withEngine, h]

@[simp] theorem canonical_heldUp {ask f : State → State} (ha : ∀ s, (Canonical (ask s) ↔ Canonical s)) (hf : ∀ s, (Canonical (f s) ↔ Canonical s)) (busy m code) :
    Canonical (heldUp busy ask m code f s) ↔ Canonical s := by simp [heldUp, ha _, hf _]

@[simp] theorem canonical_engineAsk : Canonical (engineAsk s) ↔ Canonical s := by simp [engineAsk]

@[simp] theorem canonical_macCmd {f : State → State} (h : ∀ s, (Canonical (f s) ↔ Canonical s)) (busy m code) :
    Canonical (macCmd busy m code f s) ↔ Canonical s := by simp [macCmd, h]

@[simp] theorem canonical_jobPut (j m) : Canonical (jobPut j m s) ↔ Canonical s := by simp [jobPut]
@[simp] theorem canonical_jobStore (erase j) : Canonical (jobStore erase j s).2 ↔ Canonical s := by simp [jobStore]
@[simp] theorem canonical_jobSpoil (erase j) : Canonical (jobSpoil erase j s) ↔ Canonical s := by simp [jobSpoil]
@[simp] theorem canonical_jobEnd (j) : Canonical (jobEnd j s) ↔ Canonical s := by simp [jobEnd]
@[simp] theorem canonical_jobStart (j) : Canonical (ansAfter (jobStart j s)) ↔ Canonical s := by simp [jobStart]
@[simp] theorem canonical_recordStore (erase) : Canonical (recordStore erase s) ↔ Canonical s := by simp [recordStore]
@[simp] theorem canonical_recordStored (area) : Canonical (recordStored area s) ↔ Canonical s := by unfold recordStored; (repeat' split) <;> simp
@[simp] theorem canonical_takeSpare (area) : Canonical (takeSpare area s) ↔ Canonical s := by simp [takeSpare]
@[simp] theorem canonical_dropWaiting (area) : Canonical (dropWaiting area s) ↔ Canonical s := by simp [dropWaiting]
@[simp] theorem canonical_recordEnd (erase ok area) : Canonical (recordEnd erase ok area s) ↔ Canonical s := by simp [recordEnd]
@[simp] theorem canonical_flashStore (erase) : Canonical (flashStore erase s) ↔ Canonical s := by unfold flashStore; (repeat' split) <;> simp
@[simp] theorem canonical_flashStoreEnd (ok) : Canonical (flashStoreEnd ok s) ↔ Canonical s := by unfold flashStoreEnd; split <;> simp

/-! ## Charging of selections and the end of an admitted frame (09, 08) -/

@[simp] theorem canonical_chargeSel (p q l) : Canonical (chargeSel p q l s) ↔ Canonical s := by unfold chargeSel; split <;> simp
@[simp] theorem canonical_settleCharge (p q d n) : Canonical (settleCharge p q d n s) ↔ Canonical s := by simp [settleCharge]
@[simp] theorem canonical_settleQueue (head len n bad p q) : Canonical (settleQueue head len n bad p q s) ↔ Canonical s := by unfold settleQueue; split <;> simp
@[simp] theorem canonical_settleSent (head len n bad rest p) : Canonical (settleSent head len n bad rest p s) ↔ Canonical s := by unfold settleSent; split <;> simp
@[simp] theorem canonical_dropBad (p q) : Canonical (dropBad p q s) ↔ Canonical s := by unfold dropBad; split <;> simp

@[simp] theorem canonical_fitChain (h n) : Canonical (fitChain h n s).2 ↔ Canonical s := by
  unfold fitChain
  split
  · simp
  dsimp only
  split
  · simp
  split
  next hc => simpa using canonical_takeCells hc
  · simp

/-! ## Table clusters (06) -/

@[simp] theorem canonical_notify (n typ table slot bucket entry) : Canonical (notify n typ table slot bucket entry s) ↔ Canonical s := by simp [notify]
@[simp] theorem canonical_notifyRetired (n) : Canonical (notifyRetired n s) ↔ Canonical s := by unfold notifyRetired; split <;> simp
@[simp] theorem canonical_lookup (n t key full) : Canonical (lookup n t key full s).2 ↔ Canonical s := by unfold lookup; (repeat' split) <;> simp

@[simp] theorem canonical_bucketWrite (n b v) : Canonical (bucketWrite n b v s) ↔ Canonical s := by
  unfold bucketWrite
  split
  · exact canonical_foldl (fun _ _ => by simp) _
  · simp

@[simp] theorem canonical_pushOp (n o) : Canonical (pushOp n o s) ↔ Canonical s := by simp [pushOp]
@[simp] theorem canonical_sendBucket (n b v ch) : Canonical (sendBucket n b v ch s) ↔ Canonical s := by simp [sendBucket]

/-! ## Entries of host rings (14) -/

@[simp] theorem canonical_cqStall (r w) : Canonical (cqStall r w s) ↔ Canonical s := by simp [cqStall]

/-! ## Rows of the tables (06) -/

@[simp] theorem canonical_engineTakes {t : State} (h : Canonical t ↔ Canonical s) (n) : Canonical (engineTakes n t s) ↔ Canonical s := by
  simp [engineTakes, h]

@[simp] theorem canonical_slotsTick : Canonical (slotsTick s) ↔ Canonical s := by simp [slotsTick]
@[simp] theorem canonical_releaseHold (t) : Canonical (releaseHold t s) ↔ Canonical s := canonical_forAll (fun _ _ => by simp) _
@[simp] theorem canonical_tableOpFinish (m undo) : Canonical (tableOpFinish m undo s) ↔ Canonical s := by unfold tableOpFinish; split <;> simp
@[simp] theorem canonical_tableOpAnswer (m n undo o) : Canonical (tableOpAnswer m n undo o s) ↔ Canonical s := by unfold tableOpAnswer; (repeat' split) <;> simp
@[simp] theorem canonical_copyRecord (r) : Canonical (copyRecord r s) ↔ Canonical s := by simp [copyRecord]
@[simp] theorem canonical_replicateTable (t) : Canonical (replicateTable t s) ↔ Canonical s := by simp [replicateTable]
@[simp] theorem canonical_holdLearn (t) : Canonical (holdLearn t s) ↔ Canonical s := canonical_forAll (fun _ _ => by simp) _
@[simp] theorem canonical_wantReinsert (n t img) : Canonical (wantReinsert n t img s) ↔ Canonical s := by simp [wantReinsert]
@[simp] theorem canonical_reinsertNext : Canonical (reinsertNext s) ↔ Canonical s := by unfold reinsertNext; split <;> simp
@[simp] theorem canonical_resolveConflict (n src t slot b img d) : Canonical (resolveConflict n src t slot b img d s) ↔ Canonical s := by simp [resolveConflict]
@[simp] theorem canonical_runKeyed (n why t op force slot b img) : Canonical (runKeyed n why t op force slot b img s) ↔ Canonical s := by unfold runKeyed; (repeat' split) <;> simp
@[simp] theorem canonical_engineCmd (n) : Canonical (engineCmd n s) ↔ Canonical s := by unfold engineCmd; (repeat' split) <;> simp
@[simp] theorem canonical_runLearn (n r) : Canonical (runLearn n r s) ↔ Canonical s := by unfold runLearn; dsimp only; (repeat' split) <;> simp
@[simp] theorem canonical_execLearnExecute (n) : Canonical (after s (execLearnExecute n s)) ↔ Canonical s := by unfold execLearnExecute; dsimp only; (repeat' split) <;> simp

theorem canonical_agerUnit {s n b i d t} (h : agerUnit n b i d s = some t) : Canonical t ↔ Canonical s := by
  unfold agerUnit at h
  dsimp only at h
  split at h
  · cases h
    simp
  · split_ifs at h <;> cases h <;> simp

@[simp] theorem canonical_agerUnits (n b d l) : Canonical (agerUnits n b d l s) ↔ Canonical s := by
  induction l generalizing s with
  | nil => exact Iff.rfl
  | cons i r ih =>
    unfold agerUnits
    split
    next h => exact (ih _).trans (canonical_agerUnit h)
    · rfl

@[simp] theorem canonical_execAgerVisit (n) : Canonical (after s (execAgerVisit n s)) ↔ Canonical s := by unfold execAgerVisit; dsimp only; (repeat' split) <;> simp
@[simp] theorem canonical_execAgeDeleteExecute (n) : Canonical (after s (execAgeDeleteExecute n s)) ↔ Canonical s := by unfold execAgeDeleteExecute; dsimp only; (repeat' split) <;> simp
@[simp] theorem canonical_replicateNext (n) : Canonical (replicateNext n s) ↔ Canonical s := by unfold replicateNext; split <;> simp
@[simp] theorem canonical_schedule (m c p) : Canonical (schedule m c p s) ↔ Canonical s := by simp [schedule]
@[simp] theorem canonical_tableCreate (m c p) : Canonical (ansAfter (tableCreate m c p s)) ↔ Canonical s := by simp [tableCreate]

@[simp] theorem canonical_tableCreateApply (p) : Canonical (tableCreateApply p s) ↔ Canonical s :=
  canonical_forAll (fun _ _ => canonical_forAll (fun _ _ => by simp) _) _

@[simp] theorem canonical_tableLadderSet (m c p) : Canonical (ansAfter (tableLadderSet m c p s)) ↔ Canonical s := by unfold tableLadderSet; dsimp only; (repeat' split) <;> simp
@[simp] theorem canonical_tableLadderApply (p) : Canonical (tableLadderApply p s) ↔ Canonical s := by simp [tableLadderApply]
@[simp] theorem canonical_tableOp (m q p) : Canonical (ansAfter (tableOp m q p s)) ↔ Canonical s := by unfold tableOp; dsimp only; (repeat' split) <;> simp

@[simp] theorem canonical_tableStatus (q p) : Canonical (ansAfter (tableStatus q p s)) ↔ Canonical s := by
  rw [tableStatus, ansAfter_checks]
  repeat' split
  all_goals simp

/-! ## Buffer commands (08) -/

@[simp] theorem canonical_queueSetApply (p) : Canonical (queueSetApply p s) ↔ Canonical s := by simp [queueSetApply]
@[simp] theorem canonical_portBufSetApply (p) : Canonical (portBufSetApply p s) ↔ Canonical s := by simp [portBufSetApply]

@[simp] theorem canonical_bufGlobalSetApply (p) : Canonical (bufGlobalSetApply p s) ↔ Canonical s := by
  unfold bufGlobalSetApply
  exact canonical_forAll (fun _ _ => by simp) _

@[simp] theorem canonical_bufSectionSetApply (p) : Canonical (bufSectionSetApply p s) ↔ Canonical s := by simp [bufSectionSetApply]
@[simp] theorem canonical_mcastSetApply (m p) : Canonical (mcastSetApply m p s) ↔ Canonical s := by simp [mcastSetApply]
@[simp] theorem canonical_queueSet (m c q p) : Canonical (ansAfter (queueSet m c q p s)) ↔ Canonical s := by simp [queueSet]
@[simp] theorem canonical_portBufSet (m c p) : Canonical (ansAfter (portBufSet m c p s)) ↔ Canonical s := by simp [portBufSet]
@[simp] theorem canonical_bufGlobalSet (m c p) : Canonical (ansAfter (bufGlobalSet m c p s)) ↔ Canonical s := by simp [bufGlobalSet]
@[simp] theorem canonical_bufSectionSet (m c p) : Canonical (ansAfter (bufSectionSet m c p s)) ↔ Canonical s := by simp [bufSectionSet]
@[simp] theorem canonical_mcastSet (m c p) : Canonical (ansAfter (mcastSet m c p s)) ↔ Canonical s := by simp [mcastSet]
@[simp] theorem canonical_bufStatus (q) : Canonical (ansAfter (bufStatus q s)) ↔ Canonical s := by simp [bufStatus]
@[simp] theorem canonical_queueStatus (q) : Canonical (ansAfter (queueStatus q s)) ↔ Canonical s := by unfold queueStatus; split <;> simp
@[simp] theorem canonical_portBufStatus (q) : Canonical (ansAfter (portBufStatus q s)) ↔ Canonical s := by unfold portBufStatus; split <;> simp

/-! ## Unit commands (13) -/

@[simp] theorem canonical_unitRungSet (q p) : Canonical (ansAfter (unitRungSet q p s)) ↔ Canonical s := by simp [unitRungSet]

/-! ## Fault commands and row repair (17) -/

@[simp] theorem canonical_fltSourceSet (m c p) : Canonical (ansAfter (fltSourceSet m c p s)) ↔ Canonical s := by simp [fltSourceSet]
@[simp] theorem canonical_fltSourceApply (p) : Canonical (fltSourceApply p s) ↔ Canonical s := by simp [fltSourceApply]
@[simp] theorem canonical_fltClearWhere (pick sticky severe) : Canonical (fltClearWhere pick sticky severe s) ↔ Canonical s := by simp [fltClearWhere]
@[simp] theorem canonical_fltClear (m c p) : Canonical (ansAfter (fltClear m c p s)) ↔ Canonical s := by simp [fltClear]
@[simp] theorem canonical_fltClearApply (p) : Canonical (fltClearApply p s) ↔ Canonical s := by simp [fltClearApply]
@[simp] theorem canonical_testChallenge : Canonical (ansAfter (testChallenge s)) ↔ Canonical s := by simp [testChallenge]
@[simp] theorem canonical_testUnlock (m p) : Canonical (ansAfter (testUnlock m p s)) ↔ Canonical s := by simp [testUnlock]
@[simp] theorem canonical_testLock (m c p) : Canonical (ansAfter (testLock m c p s)) ↔ Canonical s := by simp [testLock]
@[simp] theorem canonical_testLockApply : Canonical (testLockApply s) ↔ Canonical s := by simp [testLockApply]
@[simp] theorem canonical_faultInject (m c q p) : Canonical (ansAfter (faultInject m c q p s)) ↔ Canonical s := by simp [faultInject]
@[simp] theorem canonical_injectOne (p) : Canonical (injectOne p s) ↔ Canonical s := by simp [injectOne]
@[simp] theorem canonical_injectAll (l) : Canonical (injectAll l s) ↔ Canonical s := by simp [injectAll]
@[simp] theorem canonical_rowEvent (f) : Canonical (rowEvent f s) ↔ Canonical s := by unfold rowEvent; split <;> simp
@[simp] theorem canonical_sparesEvent (f) : Canonical (sparesEvent f s) ↔ Canonical s := by simp [sparesEvent]
@[simp] theorem canonical_stompSent (h p) : Canonical (stompSent h p s) ↔ Canonical s := by unfold stompSent; split <;> simp

@[simp] theorem canonical_spoilChain (h) : Canonical (spoilChain h s) ↔ Canonical s := by
  unfold spoilChain
  refine ((canonical_forAll ?_ _).trans (canonical_forAll ?_ _)).trans ((canonical_forAll ?_ _).trans (canonical_forAll ?_ _))
  all_goals intros
  · simp
  · split <;> rfl
  · simp
  · refine canonical_forAll (fun _ _ => ?_) _
    repeat' split
    all_goals simp

@[simp] theorem canonical_spoilCell (c word0) : Canonical (spoilCell c word0 s) ↔ Canonical s := by unfold spoilCell; split <;> simp
@[simp] theorem canonical_rowBad (f) : Canonical (rowBad f s) ↔ Canonical s := by unfold rowBad; split <;> simp
@[simp] theorem canonical_rowCorrected (f n) : Canonical (rowCorrected f n s) ↔ Canonical s := by unfold rowCorrected; (repeat' split) <;> simp
@[simp] theorem canonical_rowsCorrected (l) : Canonical (rowsCorrected l s) ↔ Canonical s := by simp [rowsCorrected]
@[simp] theorem canonical_watchRubber : Canonical (watchRubber s) ↔ Canonical s := by simp [watchRubber]
@[simp] theorem canonical_rowDone (f) : Canonical (rowDone f s) ↔ Canonical s := by simp [rowDone]
@[simp] theorem canonical_retireCell (c) : Canonical (retireCell c s) ↔ Canonical s := by unfold retireCell; split <;> simp
@[simp] theorem canonical_rowRetire (f) : Canonical (rowRetire f s) ↔ Canonical s := by unfold rowRetire; split <;> simp
@[simp] theorem canonical_execFltStatusGet (m) : Canonical (after s (execFltStatusGet m s)) ↔ Canonical s := by
  rw [execFltStatusGet, after_next]
  refine canonical_runCmd s (fun c t => ?_) ..
  refine canonical_onPath t (fun q p => ?_) ..
  rw [ansAfter_checks]
  repeat' split
  all_goals simp

@[simp] theorem canonical_execFltTestUnlock (m) : Canonical (after s (execFltTestUnlock m s)) ↔ Canonical s := by
  rw [execFltTestUnlock, after_next]
  exact canonical_macCmd s (fun _ => by simp) ..

/-! ## The parser (05) -/

@[simp] theorem canonical_parseCounts (g p) : Canonical (parseCounts g p s) ↔ Canonical s := by simp [parseCounts]

/-! ## Match-action stages (07) -/

@[simp] theorem canonical_meterUpdate (n i f colour) : Canonical (meterUpdate n i f colour s).2 ↔ Canonical s := by simp [meterUpdate]
@[simp] theorem canonical_meterSweep : Canonical (meterSweep s) ↔ Canonical s := canonical_forAll (fun _ _ => by simp) _
@[simp] theorem canonical_excPolice (n k f) : Canonical (excPolice n k f s).2 ↔ Canonical s := by simp [excPolice]
@[simp] theorem canonical_raiseExc (k redirect p) : Canonical (raiseExc k redirect p s).2 ↔ Canonical s := by simp [raiseExc]
@[simp] theorem canonical_misfit (k r p) : Canonical (misfit k r p s).2 ↔ Canonical s := by simp [misfit]
@[simp] theorem canonical_issueKey (k r p) : Canonical (issueKey k r p s).2 ↔ Canonical s := by simp [issueKey]
@[simp] theorem canonical_keyPart (k p) : Canonical (keyPart k p s).2 ↔ Canonical s := by unfold keyPart; dsimp only; (repeat' split) <;> simp
@[simp] theorem canonical_record (e p) : Canonical (record e p s).2 ↔ Canonical s := by simp [record]
@[simp] theorem canonical_editSkip (p) : Canonical (editSkip p s).2 ↔ Canonical s := by simp [editSkip]
@[simp] theorem canonical_wideOp (o p) : Canonical (wideOp o p s).2 ↔ Canonical s := by simp [wideOp]
@[simp] theorem canonical_learnOp (o r p) : Canonical (learnOp o r p s).2 ↔ Canonical s := by simp [learnOp]
@[simp] theorem canonical_runOp (o r prm pos p) : Canonical (runOp o r prm pos p s).2 ↔ Canonical s := by unfold runOp; (repeat' split) <;> simp

@[simp] theorem canonical_runAction (k addr prm pos narrow r p) : Canonical (runAction k addr prm pos narrow r p s).2 ↔ Canonical s := by
  unfold runAction
  refine (canonical_foldl_snd (fun _ _ => ?_) _ _).trans ?_
  · split <;> simp
  · simp

@[simp] theorem canonical_actionPart (k pos p) : Canonical (actionPart k pos p s).2 ↔ Canonical s := by unfold actionPart; (repeat' split) <;> simp
@[simp] theorem canonical_position (stages pos p) : Canonical (position stages pos p s).2 ↔ Canonical s := by simp [position]

@[simp] theorem canonical_runPipe (positions stages p) : Canonical (runPipe positions stages p s).2 ↔ Canonical s := by
  unfold runPipe
  have h := canonical_foldl_snd (fun r i => canonical_position r.2 stages (i + 1) r.1) (List.range positions) (p, s)
  dsimp only
  split <;> simpa using h

/-! ## Meter and exception commands (07) -/

@[simp] theorem canonical_meterSet (m c p) : Canonical (ansAfter (meterSet m c p s)) ↔ Canonical s := by simp [meterSet]
@[simp] theorem canonical_meterSetApply (p) : Canonical (meterSetApply p s) ↔ Canonical s := canonical_forAll (fun _ _ => by simp) _
@[simp] theorem canonical_meterGet (q p) : Canonical (ansAfter (meterGet q p s)) ↔ Canonical s := by simp [meterGet]
@[simp] theorem canonical_excSet (m c p) : Canonical (ansAfter (excSet m c p s)) ↔ Canonical s := by simp [excSet]
@[simp] theorem canonical_excSetApply (p) : Canonical (excSetApply p s) ↔ Canonical s := canonical_forAll (fun _ _ => by simp) _
@[simp] theorem canonical_excMetersInit (n) : Canonical (excMetersInit n s) ↔ Canonical s := canonical_forAll (fun _ _ => by simp) _

/-! ## Start-up and warm restart (18) -/

@[simp] theorem canonical_execTimePllLock : Canonical (after s (execTimePllLock s)) ↔ Canonical s := by
  unfold execTimePllLock
  rw [after_next]
  split <;> rfl

@[simp] theorem canonical_startFw (k tie bad) : Canonical (startFw k tie bad s) ↔ Canonical s := by simp [startFw]
@[simp] theorem canonical_loadBoard : Canonical (loadBoard s) ↔ Canonical s := by unfold loadBoard; (repeat' split) <;> simp
@[simp] theorem canonical_enterRecovery : Canonical (enterRecovery s) ↔ Canonical s := by simp [enterRecovery]
@[simp] theorem canonical_execBootRomStart : Canonical (after s (execBootRomStart s)) ↔ Canonical s := by unfold execBootRomStart; (repeat' split) <;> simp
@[simp] theorem canonical_bootColumn : Canonical (bootColumn s) ↔ Canonical s := by unfold bootColumn; split <;> simp

@[simp] theorem canonical_bootMicrocode : Canonical (bootMicrocode s) ↔ Canonical s := by simp [bootMicrocode]
@[simp] theorem canonical_dropHolds : Canonical (dropHolds s) ↔ Canonical s := by simp [dropHolds]
@[simp] theorem canonical_resetSuilanil : Canonical (resetSuilanil s) ↔ Canonical s := by simp [resetSuilanil]
@[simp] theorem canonical_warmRestart : Canonical (warmRestart s) ↔ Canonical s := by simp [warmRestart]
@[simp] theorem canonical_execFwWatchdogExpiry : Canonical (after s (execFwWatchdogExpiry s)) ↔ Canonical s := by unfold execFwWatchdogExpiry; split <;> simp
@[simp] theorem canonical_hostData (bs poison) : Canonical (hostData bs poison s) ↔ Canonical s := by simp [hostData]

/-! ## Whole ports (04) -/

@[simp] theorem canonical_dropInflight (p) : Canonical (dropInflight p s) ↔ Canonical s := by
  unfold dropInflight
  split
  · simp
  · refine (canonical_foldl (fun _ _ => ?_) _).trans .rfl
    dsimp only
    split <;> simp

@[simp] theorem canonical_dropDeferred (p) : Canonical (dropDeferred p s) ↔ Canonical s := by simp [dropDeferred]
@[simp] theorem canonical_laneModeSet (l m) : Canonical (laneModeSet l m s) ↔ Canonical s := by simp [laneModeSet]
@[simp] theorem canonical_laneFree (l) : Canonical (laneFree l s) ↔ Canonical s := by simp [laneFree]
@[simp] theorem canonical_stormDrop (p q d) : Canonical (stormDrop p q d s) ↔ Canonical s := by simp [stormDrop]

@[simp] theorem canonical_stormDiscard (p) : Canonical (stormDiscard p s) ↔ Canonical s := by
  unfold stormDiscard
  refine canonical_forAll (fun _ _ => ?_) _
  split <;> simp

@[simp] theorem canonical_setStorm (p i on) : Canonical (setStorm p i on s) ↔ Canonical s := by simp [setStorm]
@[simp] theorem canonical_linksDown (ls cause) : Canonical (linksDown ls cause s) ↔ Canonical s := by simp [linksDown]
@[simp] theorem canonical_quadDown (q) : Canonical (quadDown q s) ↔ Canonical s := by simp [quadDown]
@[simp] theorem canonical_quadMove (q) : Canonical (quadMove q s) ↔ Canonical s := by simp [quadMove]
@[simp] theorem canonical_refLoss (r) : Canonical (refLoss r s) ↔ Canonical s := by simp [refLoss]
@[simp] theorem canonical_synceApply (p) : Canonical (synceApply p s) ↔ Canonical s := by simp [synceApply]
@[simp] theorem canonical_wireOut (p w) : Canonical (wireOut p w s) ↔ Canonical s := by simp [wireOut]
@[simp] theorem canonical_pcsTick (p) : Canonical (pcsTick p s) ↔ Canonical s := by unfold pcsTick; split <;> simp
@[simp] theorem canonical_macSend (p bs) : Canonical (macSend p bs s) ↔ Canonical s := by simp [macSend]

/-! ## Images, microcode and stores (13) -/

@[simp] theorem canonical_imageWrite (m p) : Canonical (ansAfter (imageWrite m p s)) ↔ Canonical s := by simp [imageWrite, sourceOf, imageOk]
@[simp] theorem canonical_patchApply (m p) : Canonical (ansAfter (patchApply m p s)) ↔ Canonical s := by simp [patchApply, sourceOf, imageOk]
@[simp] theorem canonical_patchBoundary : Canonical (patchBoundary s) ↔ Canonical s := by unfold patchBoundary; split <;> simp
@[simp] theorem canonical_ucStage (m p) : Canonical (ansAfter (ucStage m p s)) ↔ Canonical s := by simp [ucStage, sourceOf]
@[simp] theorem canonical_ucStagingEnd : Canonical (ucStagingEnd s) ↔ Canonical s := by unfold ucStagingEnd; dsimp only; (repeat' split) <;> simp
@[simp] theorem canonical_ucSwitch (sts) : Canonical (ansAfter (ucSwitch sts s)) ↔ Canonical s := by simp [ucSwitch]
@[simp] theorem canonical_ucBoundary : Canonical (ucBoundary s) ↔ Canonical s := by simp [ucBoundary]
@[simp] theorem canonical_boardWrite (m p) : Canonical (ansAfter (boardWrite m p s)) ↔ Canonical s := by simp [boardWrite, sourceOf]
@[simp] theorem canonical_laneAgeing (l ef) : Canonical (laneAgeing l ef s) ↔ Canonical s := by simp [laneAgeing]
@[simp] theorem canonical_laneTrend (l) : Canonical (laneTrend l s) ↔ Canonical s := by simp [laneTrend]
@[simp] theorem canonical_columnCheck (counts) : Canonical (columnCheck counts s) ↔ Canonical s := by simp [columnCheck]

/-! ## Rows of the lanes (03) -/

@[simp] theorem canonical_laneAsk (l ef) : Canonical (laneAsk l ef s) ↔ Canonical s := by unfold laneAsk; split <;> simp
@[simp] theorem canonical_execEchoMeasureEnd (l e) : Canonical (after s (execEchoMeasureEnd l e s)) ↔ Canonical s := by unfold execEchoMeasureEnd; split <;> simp
@[simp] theorem canonical_execTrainingCoeffRequest (l r) : Canonical (after s (execTrainingCoeffRequest l r s)) ↔ Canonical s := by unfold execTrainingCoeffRequest; split <;> simp
@[simp] theorem canonical_execCommaReceive (l i) : Canonical (after s (execCommaReceive l i s)) ↔ Canonical s := by unfold execCommaReceive; split <;> simp
@[simp] theorem canonical_laneClassSet (q m c p) : Canonical (ansAfter (laneClassSet q m c p s)) ↔ Canonical s := by simp [laneClassSet]
@[simp] theorem canonical_laneClassApply (p) : Canonical (laneClassApply p s) ↔ Canonical s := by simp [laneClassApply]
@[simp] theorem canonical_laneEcho (q m p) : Canonical (ansAfter (laneEcho q m p s)) ↔ Canonical s := by simp [laneEcho]

@[simp] theorem canonical_laneAdaptCtl (q p) : Canonical (ansAfter (laneAdaptCtl q p s)) ↔ Canonical s := by
  rw [laneAdaptCtl, ansAfter_checks]
  repeat' split
  all_goals simp

/-! ## Rows of the ports (04) -/

@[simp] theorem canonical_resolved (p m) : Canonical (resolved p m s) ↔ Canonical s := by unfold resolved; split <;> simp
@[simp] theorem canonical_execNegotiationResolved (p a) : Canonical (after s (execNegotiationResolved p a s)) ↔ Canonical s := by unfold execNegotiationResolved; dsimp only; (repeat' split) <;> simp

@[simp] theorem canonical_execTrainingComplete (p) : Canonical (after s (execTrainingComplete p s)) ↔ Canonical s := by
  unfold execTrainingComplete
  rw [after_next]
  split
  · split
    · rw [canonical_enterAligning]
      exact canonical_forAll (fun _ _ => by simp) _
    · simp
  · simp

@[simp] theorem canonical_execTrainingTimeout (p) : Canonical (after s (execTrainingTimeout p s)) ↔ Canonical s := by unfold execTrainingTimeout; split <;> simp
@[simp] theorem canonical_execPortAligned (p skew) : Canonical (after s (execPortAligned p skew s)) ↔ Canonical s := by unfold execPortAligned; split <;> simp
@[simp] theorem canonical_execAlignTimeout (p localF remoteF skew) : Canonical (after s (execAlignTimeout p localF remoteF skew s)) ↔ Canonical s := by unfold execAlignTimeout; split <;> simp
@[simp] theorem canonical_execLinkDown (p e) : Canonical (after s (execLinkDown p e s)) ↔ Canonical s := by unfold execLinkDown; split <;> simp
@[simp] theorem canonical_execPortPark (p) : Canonical (after s (execPortPark p s)) ↔ Canonical s := by unfold execPortPark; split <;> simp
@[simp] theorem canonical_unpark (p) : Canonical (unpark p s) ↔ Canonical s := by simp [unpark]
@[simp] theorem canonical_execPortProbe (p) : Canonical (after s (execPortProbe p s)) ↔ Canonical s := by unfold execPortProbe; split <;> simp
@[simp] theorem canonical_execParkedSignal (p) : Canonical (after s (execParkedSignal p s)) ↔ Canonical s := by unfold execParkedSignal; split <;> simp
@[simp] theorem canonical_execFecUncorrectable (l) : Canonical (after s (execFecUncorrectable l s)) ↔ Canonical s := by unfold execFecUncorrectable; split <;> simp
@[simp] theorem canonical_execStormEnter (p i) : Canonical (after s (execStormEnter p i s)) ↔ Canonical s := by unfold execStormEnter; split <;> simp
@[simp] theorem canonical_execStormExit (p i) : Canonical (after s (execStormExit p i s)) ↔ Canonical s := by unfold execStormExit; split <;> simp
@[simp] theorem canonical_execLldpTx (p) : Canonical (after s (execLldpTx p s)) ↔ Canonical s := by unfold execLldpTx; split <;> simp
@[simp] theorem canonical_execLldpduReceive (p pdu) : Canonical (after s (execLldpduReceive p pdu s)) ↔ Canonical s := by unfold execLldpduReceive; (repeat' split) <;> simp
@[simp] theorem canonical_execLldpTtlExpiry (p) : Canonical (after s (execLldpTtlExpiry p s)) ↔ Canonical s := by unfold execLldpTtlExpiry; (repeat' split) <;> simp
@[simp] theorem canonical_execEsmcTx (p event) : Canonical (after s (execEsmcTx p event s)) ↔ Canonical s := by unfold execEsmcTx; split <;> simp
@[simp] theorem canonical_execSynceOutResume (o) : Canonical (after s (execSynceOutResume o s)) ↔ Canonical s := by unfold execSynceOutResume; split <;> simp
@[simp] theorem canonical_portGuardSet (m c p) : Canonical (ansAfter (portGuardSet m c p s)) ↔ Canonical s := by simp [portGuardSet]
@[simp] theorem canonical_portGuardApply (p) : Canonical (portGuardApply p s) ↔ Canonical s := by simp [portGuardApply]
@[simp] theorem canonical_synceSet (m c) : Canonical (ansAfter (synceSet m c s)) ↔ Canonical s := by unfold synceSet; dsimp only; (repeat' split) <;> simp
@[simp] theorem canonical_parserPortSet (m c p) : Canonical (ansAfter (parserPortSet m c p s)) ↔ Canonical s := by simp [parserPortSet]
@[simp] theorem canonical_parserGroupSet (m c p) : Canonical (ansAfter (parserGroupSet m c p s)) ↔ Canonical s := by simp [parserGroupSet]

/-! ## The egress side of a frame -/

@[simp] theorem canonical_putMeta (h m) : Canonical (putMeta h m s) ↔ Canonical s := ⟨id, id⟩
@[simp] theorem canonical_egressPipe (p x d m banks) : Canonical (egressPipe p x d m banks s).2.2 ↔ Canonical s := by simp [egressPipe]
@[simp] theorem canonical_notSent (p q outcome d st) : Canonical (notSent p q outcome d st s) ↔ Canonical s := by simp [notSent]

/-! ## The ingress side of a frame -/

@[simp] theorem canonical_preciseSelect (g) : Canonical (preciseSelect g s).2 ↔ Canonical s := by simp [preciseSelect]

@[simp] theorem canonical_stackDrop (code v) : Canonical (stackDrop code v s).2 ↔ Canonical s := by simp [stackDrop]
@[simp] theorem canonical_stackResolve (p hdr v key) : Canonical (stackResolve p hdr v key s).2 ↔ Canonical s := by unfold stackResolve; dsimp only; (repeat' split) <;> simp
@[simp] theorem canonical_admitTo (out q d lossless ect) : Canonical (admitTo out q d lossless ect s).2 ↔ Canonical s := by unfold admitTo; dsimp only; (repeat' split) <;> simp
@[simp] theorem canonical_admitCopy (out q d lossless ect a) : Canonical (admitCopy out q d lossless ect a s).2 ↔ Canonical s := by unfold admitCopy; dsimp only; (repeat' split) <;> simp
@[simp] theorem canonical_closeChain (head owner) : Canonical (closeChain head owner s) ↔ Canonical s := by unfold closeChain; split <;> simp
@[simp] theorem canonical_flowStation (g m a exc) : Canonical (flowStation g m a exc s) ↔ Canonical s := by simp [flowStation]
@[simp] theorem canonical_sampleOut (m outcome) : Canonical (sampleOut m outcome s) ↔ Canonical s := by simp [sampleOut]
@[simp] theorem canonical_replicateEntry (g n list i j v ptp ect a) : Canonical (replicateEntry g n list i j v ptp ect a s).2 ↔ Canonical s := by simp [replicateEntry]

@[simp] theorem canonical_replicate (g) : Canonical (replicate g s) ↔ Canonical s := by
  unfold replicate
  dsimp only
  repeat' split
  all_goals simp [canonical_foldl_snd]

/-! ## Rows of frames in the buffer -/

@[simp] theorem canonical_rxCount (p len fcsOk big) : Canonical (rxCount p len fcsOk big s) ↔ Canonical s := by simp [rxCount]

/-! ## The stack engine (12) -/

@[simp] theorem canonical_modStk (p f) : Canonical (modStk p f s) ↔ Canonical s := by simp [modStk]
@[simp] theorem canonical_electBoundary : Canonical (electBoundary s) ↔ Canonical s := by simp [electBoundary]
@[simp] theorem canonical_distBoundary : Canonical (distBoundary s) ↔ Canonical s := by simp [distBoundary]
@[simp] theorem canonical_takeSeq : Canonical (takeSeq s).2 ↔ Canonical s := by simp [takeSeq]
@[simp] theorem canonical_joinBoundary (rubber) : Canonical (joinBoundary rubber s) ↔ Canonical s := by simp [joinBoundary]
@[simp] theorem canonical_logEpisode (e) : Canonical (logEpisode e s) ↔ Canonical s := by simp [logEpisode]
@[simp] theorem canonical_sendEpisode (start fin pace) : Canonical (sendEpisode start fin pace s) ↔ Canonical s := by simp [sendEpisode]
@[simp] theorem canonical_setPace (r) : Canonical (setPace r s) ↔ Canonical s := by unfold setPace; split <;> simp
@[simp] theorem canonical_issueSync : Canonical (issueSync s) ↔ Canonical s := by simp [issueSync]
@[simp] theorem canonical_issueBoundary : Canonical (issueBoundary s) ↔ Canonical s := by unfold issueBoundary; split <;> simp
@[simp] theorem canonical_orderIssue (r n) : Canonical (orderIssue r n s) ↔ Canonical s := by simp [orderIssue]
@[simp] theorem canonical_heartbeatBoundary : Canonical (heartbeatBoundary s) ↔ Canonical s := by simp [heartbeatBoundary]
@[simp] theorem canonical_followSuit (p pace x) : Canonical (followSuit p pace x s) ↔ Canonical s := by simp [followSuit]
@[simp] theorem canonical_heartbeatIn (p x h b t4) : Canonical (heartbeatIn p x h b t4 s) ↔ Canonical s := by simp [heartbeatIn]
@[simp] theorem canonical_heartbeatFrame (p bs ts) : Canonical (heartbeatFrame p bs ts s) ↔ Canonical s := by unfold heartbeatFrame; split <;> simp
@[simp] theorem canonical_heardBoundary : Canonical (heardBoundary s) ↔ Canonical s := by simp [heardBoundary]
@[simp] theorem canonical_linkMiss (p) : Canonical (linkMiss p s) ↔ Canonical s := by unfold linkMiss; split <;> simp
@[simp] theorem canonical_joinIn (src sl pl) : Canonical (joinIn src sl pl s) ↔ Canonical s := by simp [joinIn]
@[simp] theorem canonical_controlIn (src sl body) : Canonical (controlIn src sl body s) ↔ Canonical s := by unfold controlIn; dsimp only; (repeat' split) <;> simp
@[simp] theorem canonical_controlOn (p q n bs) : Canonical (controlOn p q n bs s) ↔ Canonical s := by unfold controlOn; split <;> simp
@[simp] theorem canonical_controlResend (seq) : Canonical (controlResend seq s) ↔ Canonical s := by unfold controlResend; (repeat' split) <;> simp
@[simp] theorem canonical_controlRound : Canonical (controlRound s) ↔ Canonical s := by simp [controlRound]
@[simp] theorem canonical_stackHand : Canonical (stackHand s) ↔ Canonical s := by unfold stackHand; dsimp only; (repeat' split) <;> simp

/-! ## The power manager at a boundary (16) -/

@[simp] theorem canonical_emergencyStart (t) : Canonical (emergencyStart t s) ↔ Canonical s := by simp [emergencyStart]
@[simp] theorem canonical_holdOver : Canonical (holdOver s) ↔ Canonical s := by unfold holdOver; dsimp only; split <;> simp
@[simp] theorem canonical_emergencyStop : Canonical (emergencyStop s) ↔ Canonical s := by simp [emergencyStop]
@[simp] theorem canonical_powerSample (i) : Canonical (powerSample i s) ↔ Canonical s := by simp [powerSample]
@[simp] theorem canonical_thermalAct (temps) : Canonical (thermalAct temps s) ↔ Canonical s := by simp [thermalAct]
@[simp] theorem canonical_absentCount : Canonical (absentCount s) ↔ Canonical s := by simp [absentCount]
@[simp] theorem canonical_leaveSprint : Canonical (leaveSprint s) ↔ Canonical s := by simp [leaveSprint]
@[simp] theorem canonical_clockBoundary : Canonical (clockBoundary s) ↔ Canonical s := by unfold clockBoundary; (repeat' split) <;> simp

@[simp] theorem canonical_clockChange : Canonical (clockChange s) ↔ Canonical s := by
  unfold clockChange
  repeat' split
  all_goals simp

@[simp] theorem canonical_shedOctet (o) : Canonical (shedOctet o s) ↔ Canonical s := by simp [shedOctet]
@[simp] theorem canonical_stepDown : Canonical (stepDown s) ↔ Canonical s := by unfold stepDown; (repeat' split) <;> simp
@[simp] theorem canonical_capTrick : Canonical (capTrick s) ↔ Canonical s := by simp [capTrick]
@[simp] theorem canonical_stepUp : Canonical (stepUp s) ↔ Canonical s := by unfold stepUp; split <;> simp
@[simp] theorem canonical_capAnswer (v m) : Canonical (capAnswer v m s) ↔ Canonical s := by unfold capAnswer; (repeat' split) <;> simp
@[simp] theorem canonical_capRubber : Canonical (capRubber s) ↔ Canonical s := by simp [capRubber]
@[simp] theorem canonical_clusterFresh (n) : Canonical (clusterFresh n s) ↔ Canonical s := by simp [clusterFresh]

@[simp] theorem canonical_domFresh (d cur) : Canonical (domFresh d cur s) ↔ Canonical s := by
  have slices := canonical_forAll (s := s) (f := fun g acc => modGrp g (fun x => { x with slice := {} }) acc) (fun _ _ => by simp) (List.range 32)
  simp [domFresh, slices]

@[simp] theorem canonical_domStep (d) : Canonical (domStep d s) ↔ Canonical s := by simp [domStep]
@[simp] theorem canonical_laneStep (l) : Canonical (laneStep l s) ↔ Canonical s := by simp [laneStep]
@[simp] theorem canonical_octetStart (o) : Canonical (octetStart o s) ↔ Canonical s := by simp [octetStart]
@[simp] theorem canonical_rampStart : Canonical (rampStart s) ↔ Canonical s := by simp [rampStart]
@[simp] theorem canonical_ladder : Canonical (ladder s) ↔ Canonical s := by simp [ladder]

/-! ## Power rows and commands (16) -/

@[simp] theorem canonical_execInputLimitShed : Canonical (after s (execInputLimitShed s)) ↔ Canonical s := by unfold execInputLimitShed; (repeat' split) <;> simp
@[simp] theorem canonical_rampDone (o) : Canonical (rampDone o s) ↔ Canonical s := by simp [rampDone]
@[simp] theorem canonical_domReady (d) : Canonical (domReady d s) ↔ Canonical s := by simp [domReady]
@[simp] theorem canonical_execRungExitComplete (u) : Canonical (after s (execRungExitComplete u s)) ↔ Canonical s := by unfold execRungExitComplete; split <;> simp
@[simp] theorem canonical_execRungEntryComplete (u) : Canonical (after s (execRungEntryComplete u s)) ↔ Canonical s := by unfold execRungEntryComplete; split <;> simp
@[simp] theorem canonical_pwrCapSet (m c p) : Canonical (ansAfter (pwrCapSet m c p s)) ↔ Canonical s := by simp [pwrCapSet]
@[simp] theorem canonical_pwrCapApply (p) : Canonical (pwrCapApply p s) ↔ Canonical s := by simp [pwrCapApply]
@[simp] theorem canonical_pwrShedSet (m c p) : Canonical (ansAfter (pwrShedSet m c p s)) ↔ Canonical s := by simp [pwrShedSet]
@[simp] theorem canonical_pwrShedApply (p) : Canonical (pwrShedApply p s) ↔ Canonical s := by simp [pwrShedApply]
@[simp] theorem canonical_pwrDomainSet (p) : Canonical (ansAfter (pwrDomainSet p s)) ↔ Canonical s := by simp [pwrDomainSet]

/-! ## Frames that the device itself sends -/

/-! ## Firmware's PTP instances (10) -/

@[simp] theorem canonical_takeStamp (p tag) : Canonical (takeStamp p tag s).2 ↔ Canonical s := by unfold takeStamp; dsimp only; (repeat' split) <;> simp
@[simp] theorem canonical_ptpAnnounce (m) : Canonical (ptpAnnounce m s) ↔ Canonical s := by unfold ptpAnnounce; split <;> simp
@[simp] theorem canonical_ptpSync (m arrival origin corr) : Canonical (ptpSync m arrival origin corr s) ↔ Canonical s := by unfold ptpSync; split <;> simp
@[simp] theorem canonical_ptpDelayResp (m) : Canonical (ptpDelayResp m s) ↔ Canonical s := by unfold ptpDelayResp; dsimp only; (repeat' split) <;> simp
@[simp] theorem canonical_peerMeasured (p d) : Canonical (peerMeasured p d s) ↔ Canonical s := by simp [peerMeasured]
@[simp] theorem canonical_ptpPdelayResp (m ts) : Canonical (ptpPdelayResp m ts s) ↔ Canonical s := by unfold ptpPdelayResp; dsimp only; (repeat' split) <;> simp
@[simp] theorem canonical_ptpPdelayFollow (m) : Canonical (ptpPdelayFollow m s) ↔ Canonical s := by unfold ptpPdelayFollow; split <;> simp
@[simp] theorem canonical_ptpAct (m ts) : Canonical (ptpAct m ts s) ↔ Canonical s := by unfold ptpAct; (repeat' split) <;> simp
@[simp] theorem canonical_ptpAccept (m ts) : Canonical (ptpAccept m ts s) ↔ Canonical s := by simp [ptpAccept]
@[simp] theorem canonical_ptpJudge (m ts) : Canonical (ptpJudge m ts s) ↔ Canonical s := by unfold ptpJudge; split <;> simp
@[simp] theorem canonical_ptpReceive (m ts) : Canonical (ptpReceive m ts s) ↔ Canonical s := by unfold ptpReceive; split <;> simp
@[simp] theorem canonical_ptpRetry : Canonical (ptpRetry s) ↔ Canonical s := by simp [ptpRetry]
@[simp] theorem canonical_execPtpMessageReceive (m) : Canonical (after s (execPtpMessageReceive m s)) ↔ Canonical s := by unfold execPtpMessageReceive; split <;> simp
@[simp] theorem canonical_ptpSigned (d msg) : Canonical (ptpSigned d msg s).2 ↔ Canonical s := by unfold ptpSigned; dsimp only; (repeat' split) <;> simp
@[simp] theorem canonical_ptpFill (x p t y msg) : Canonical (ptpFill x p t y msg s).2 ↔ Canonical s := by unfold ptpFill; dsimp only; (repeat' split) <;> simp

/-! ## Scheduling commands (09) -/

@[simp] theorem canonical_schedPortSet (m c p) : Canonical (ansAfter (schedPortSet m c p s)) ↔ Canonical s := by
  rw [schedPortSet, ansAfter_checks]
  repeat' split
  all_goals simp

@[simp] theorem canonical_schedPortSetApply (p) : Canonical (schedPortSetApply p s) ↔ Canonical s := by simp [schedPortSetApply]
@[simp] theorem canonical_schedQueueSet (m c p) : Canonical (ansAfter (schedQueueSet m c p s)) ↔ Canonical s := by simp [schedQueueSet]
@[simp] theorem canonical_schedQueueSetApply (p) : Canonical (schedQueueSetApply p s) ↔ Canonical s := by simp [schedQueueSetApply]
@[simp] theorem canonical_shaperSet (m c q p) : Canonical (ansAfter (shaperSet m c q p s)) ↔ Canonical s := by simp [shaperSet]
@[simp] theorem canonical_shaperSetApply (p) : Canonical (shaperSetApply p s) ↔ Canonical s := by simp [shaperSetApply]
@[simp] theorem canonical_shaperGet (q p) : Canonical (ansAfter (shaperGet q p s)) ↔ Canonical s := by unfold shaperGet; split <;> simp
@[simp] theorem canonical_schedStatus (q) : Canonical (ansAfter (schedStatus q s)) ↔ Canonical s := by unfold schedStatus; split <;> simp

/-! ## Rows of stacks (12) -/

@[simp] theorem canonical_stackRx {f : Nat → List Byte → Nat → State → State} (h : ∀ p bs ts s, (Canonical (f p bs ts s) ↔ Canonical s)) (p bs at_) :
    Canonical (stackRx p bs at_ f s) ↔ Canonical s := by
  unfold stackRx
  split <;> simp [h]

@[simp] theorem canonical_stackConfig (m c p) : Canonical (ansAfter (stackConfig m c p s)) ↔ Canonical s := by simp [stackConfig]
@[simp] theorem canonical_stackConfigApply (p) : Canonical (stackConfigApply p s) ↔ Canonical s := by simp [stackConfigApply]
@[simp] theorem canonical_stackLinkSet (m c q p) : Canonical (ansAfter (stackLinkSet m c q p s)) ↔ Canonical s := by unfold stackLinkSet; split <;> simp
@[simp] theorem canonical_stackLinkSetApply (p) : Canonical (stackLinkSetApply p s) ↔ Canonical s := by unfold stackLinkSetApply; dsimp only; (repeat' split) <;> simp
@[simp] theorem canonical_stackRouteSet (m c p) : Canonical (ansAfter (stackRouteSet m c p s)) ↔ Canonical s := by simp [stackRouteSet]
@[simp] theorem canonical_stackRouteSetApply (p) : Canonical (stackRouteSetApply p s) ↔ Canonical s := by simp [stackRouteSetApply]
@[simp] theorem canonical_stackMemberSet (m c p) : Canonical (ansAfter (stackMemberSet m c p s)) ↔ Canonical s := by simp [stackMemberSet]
@[simp] theorem canonical_stackMemberSetApply (p) : Canonical (stackMemberSetApply p s) ↔ Canonical s := by simp [stackMemberSetApply]
@[simp] theorem canonical_stackStatus : Canonical (ansAfter (stackStatus s)) ↔ Canonical s := by simp [stackStatus]
@[simp] theorem canonical_stackLinkStatus (q) : Canonical (ansAfter (stackLinkStatus q s)) ↔ Canonical s := by unfold stackLinkStatus; split <;> simp
@[simp] theorem canonical_stackEpisodes (p) : Canonical (ansAfter (stackEpisodes p s)) ↔ Canonical s := by simp [stackEpisodes]

/-! ## Telemetry commands (11) -/

@[simp] theorem canonical_flowGlobalSet (m c p) : Canonical (ansAfter (flowGlobalSet m c p s)) ↔ Canonical s := by simp [flowGlobalSet]
@[simp] theorem canonical_flowGlobalSetApply (p) : Canonical (flowGlobalSetApply p s) ↔ Canonical s := by simp [flowGlobalSetApply]
@[simp] theorem canonical_flowProfileSet (m c p) : Canonical (ansAfter (flowProfileSet m c p s)) ↔ Canonical s := by simp [flowProfileSet]
@[simp] theorem canonical_flowProfileSetApply (p) : Canonical (flowProfileSetApply p s) ↔ Canonical s := by simp [flowProfileSetApply]
@[simp] theorem canonical_dumpSet (p) : Canonical (ansAfter (dumpSet p s)) ↔ Canonical s := by simp [dumpSet]
@[simp] theorem canonical_watchSet (m c p) : Canonical (ansAfter (watchSet m c p s)) ↔ Canonical s := by unfold watchSet; split <;> simp
@[simp] theorem canonical_watchSetApply (p) : Canonical (watchSetApply p s) ↔ Canonical s := by simp [watchSetApply]
@[simp] theorem canonical_sampleSet (m c p) : Canonical (ansAfter (sampleSet m c p s)) ↔ Canonical s := by simp [sampleSet]
@[simp] theorem canonical_sampleSetApply (p) : Canonical (sampleSetApply p s) ↔ Canonical s := by simp [sampleSetApply]
@[simp] theorem canonical_ioamSet (m c q p) : Canonical (ansAfter (ioamSet m c q p s)) ↔ Canonical s := by simp [ioamSet]
@[simp] theorem canonical_ioamSetApply (p) : Canonical (ioamSetApply p s) ↔ Canonical s := by simp [ioamSetApply]

/-! ## Time commands (10) -/

@[simp] theorem canonical_timeSet (m c p) : Canonical (ansAfter (timeSet m c p s)) ↔ Canonical s := by simp [timeSet]
@[simp] theorem canonical_timeSetApply (m p) : Canonical (timeSetApply m p s) ↔ Canonical s := by simp [timeSetApply]

@[simp] theorem canonical_timePortSet (m c q p) : Canonical (ansAfter (timePortSet m c q p s)) ↔ Canonical s := by
  rw [timePortSet, ansAfter_checks]
  repeat' split
  all_goals simp

@[simp] theorem canonical_timePortSetApply (p) : Canonical (timePortSetApply p s) ↔ Canonical s := by simp [timePortSetApply]
@[simp] theorem canonical_timeDomainSet (m c p) : Canonical (ansAfter (timeDomainSet m c p s)) ↔ Canonical s := by simp [timeDomainSet]
@[simp] theorem canonical_timeDomainSetApply (p) : Canonical (timeDomainSetApply p s) ↔ Canonical s := by simp [timeDomainSetApply]
@[simp] theorem canonical_timeGlobalSet (m c p) : Canonical (ansAfter (timeGlobalSet m c p s)) ↔ Canonical s := by simp [timeGlobalSet]
@[simp] theorem canonical_timeGlobalSetApply (p) : Canonical (timeGlobalSetApply p s) ↔ Canonical s := by simp [timeGlobalSetApply]
@[simp] theorem canonical_timeSelect (m c p) : Canonical (ansAfter (timeSelect m c p s)) ↔ Canonical s := by simp [timeSelect]
@[simp] theorem canonical_timeSelectApply (p) : Canonical (timeSelectApply p s) ↔ Canonical s := by simp [timeSelectApply]
@[simp] theorem canonical_timeStatus (q) : Canonical (ansAfter (timeStatus q s)) ↔ Canonical s := by unfold timeStatus; (repeat' split) <;> simp
@[simp] theorem canonical_timeMasterListSet (m c p) : Canonical (ansAfter (timeMasterListSet m c p s)) ↔ Canonical s := by simp [timeMasterListSet]
@[simp] theorem canonical_timeMasterListSetApply (p) : Canonical (timeMasterListSetApply p s) ↔ Canonical s := by simp [timeMasterListSetApply]
@[simp] theorem canonical_timeAuthSet (m c p) : Canonical (ansAfter (timeAuthSet m c p s)) ↔ Canonical s := by simp [timeAuthSet]
@[simp] theorem canonical_timeAuthSetApply (p) : Canonical (timeAuthSetApply p s) ↔ Canonical s := by simp [timeAuthSetApply]

/-! ## The jobs of a boundary (02) -/

@[simp] theorem canonical_runTrick (rate n) : Canonical (runTrick rate n s) ↔ Canonical s := by simp [runTrick]
@[simp] theorem canonical_trickIrq (on) : Canonical (trickIrq on s) ↔ Canonical s := by simp [trickIrq]
@[simp] theorem canonical_markTrick (gen) : Canonical (markTrick gen s) ↔ Canonical s := by simp [markTrick]

@[simp] theorem canonical_stepGen : Canonical (stepGen s) ↔ Canonical s := by
  unfold stepGen
  split
  · simp
  split
  · rw [canonical_trickIrq]
    simp
  · simp

@[simp] theorem canonical_lateJobs (l) : Canonical (lateJobs l s) ↔ Canonical s :=
  (canonical_forAll (fun _ _ => by simp) _).trans Iff.rfl

@[simp] theorem canonical_perturbApply : Canonical (perturbApply s) ↔ Canonical s := by simp [perturbApply]
@[simp] theorem canonical_boundaryAnswer (m) : Canonical (boundaryAnswer m s) ↔ Canonical s := by unfold boundaryAnswer; (repeat' split) <;> simp
@[simp] theorem canonical_timeBoundary : Canonical (timeBoundary s) ↔ Canonical s := by simp [timeBoundary]

@[simp] theorem canonical_fecCount (l) : Canonical (fecCount l s) ↔ Canonical s := by
  unfold fecCount
  refine canonical_foldl (fun _ _ => ?_) _
  split <;> rfl

@[simp] theorem canonical_fecHand : Canonical (fecHand s) ↔ Canonical s := by simp [fecHand]
@[simp] theorem canonical_pauseTick (p x) : Canonical (pauseTick p x s) ↔ Canonical s := by simp [pauseTick]
@[simp] theorem canonical_holdTick (p) : Canonical (holdTick p s) ↔ Canonical s := by unfold holdTick; split <;> simp
@[simp] theorem canonical_portRubber (p x) : Canonical (portRubber p x s) ↔ Canonical s := by simp [portRubber]
@[simp] theorem canonical_portTick (rubber p) : Canonical (portTick rubber p s) ↔ Canonical s := by unfold portTick; split <;> simp
@[simp] theorem canonical_shaperRefill : Canonical (shaperRefill s) ↔ Canonical s := by simp [shaperRefill]
@[simp] theorem canonical_fixedTick : Canonical (fixedTick s) ↔ Canonical s := by simp [fixedTick]
@[simp] theorem canonical_powerTick (rubber) : Canonical (powerTick rubber s) ↔ Canonical s := by simp [powerTick]
@[simp] theorem canonical_dumpTick : Canonical (dumpTick s) ↔ Canonical s := by simp [dumpTick]
@[simp] theorem canonical_consRead : Canonical (consRead s) ↔ Canonical s := by simp [consRead]
@[simp] theorem canonical_stackTick (hand rubber) : Canonical (stackTick hand rubber s) ↔ Canonical s := by simp [stackTick]
@[simp] theorem canonical_dmaHand : Canonical (dmaHand s) ↔ Canonical s := by simp [dmaHand]
@[simp] theorem canonical_mailboxAge : Canonical (mailboxAge s) ↔ Canonical s := by simp [mailboxAge]
@[simp] theorem canonical_ciphTick : Canonical (ciphTick s) ↔ Canonical s := by simp [ciphTick]
@[simp] theorem canonical_handTick : Canonical (handTick s) ↔ Canonical s := by simp [handTick]
@[simp] theorem canonical_rubberTick : Canonical (rubberTick s) ↔ Canonical s := by simp [rubberTick]

@[simp] theorem canonical_linkCounts (i) : Canonical (linkCounts i s) ↔ Canonical s := by
  unfold linkCounts
  refine (canonical_foldl (fun _ _ => ?_) _).trans (canonical_foldl (fun _ _ => ?_) _)
  · split <;> simp
  · simp

/-! ## The MAC engine (13) -/

@[simp] theorem canonical_asHolder {f : State → State} (h : ∀ s, (Canonical (f s) ↔ Canonical s)) (who a) :
    Canonical (asHolder who a f s) ↔ Canonical s := by simp [asHolder, h]

@[simp] theorem canonical_ciphTake (who) : Canonical (ciphTake who s) ↔ Canonical s := by simp [ciphTake]
@[simp] theorem canonical_ciphRelease (who) : Canonical (ciphRelease who s) ↔ Canonical s := by simp [ciphRelease]

@[simp] theorem canonical_lockWrite {f : State → State} (h : ∀ s, (Canonical (f s) ↔ Canonical s)) (who) :
    Canonical (lockWrite who f s) ↔ Canonical s := by simp [lockWrite, h]

@[simp] theorem canonical_ciphStart (who) : Canonical (ciphStart who s) ↔ Canonical s := by unfold ciphStart; dsimp only; (repeat' split) <;> simp
@[simp] theorem canonical_ciphCtl (who v) : Canonical (ciphCtl who v s) ↔ Canonical s := by simp [ciphCtl]
@[simp] theorem canonical_ciphKeyLoad (who slot) : Canonical (ciphKeyLoad who slot s) ↔ Canonical s := by simp [ciphKeyLoad]
@[simp] theorem canonical_ciphKeyClear (who slot) : Canonical (ciphKeyClear who slot s) ↔ Canonical s := by simp [ciphKeyClear]

/-! ## Host rings (14) -/

@[simp] theorem canonical_sqSettle (r) : Canonical (sqSettle r s) ↔ Canonical s := by simp [sqSettle]
@[simp] theorem canonical_rxDropHold (r) : Canonical (rxDropHold r s) ↔ Canonical s := by simp [rxDropHold]
@[simp] theorem canonical_ringOff (r) : Canonical (ringOff r s) ↔ Canonical s := by unfold ringOff; dsimp only; (repeat' split) <;> simp
@[simp] theorem canonical_ringOn (r) : Canonical (ringOn r s) ↔ Canonical s := by simp [ringOn]
@[simp] theorem canonical_ringCfgWrite (r v) : Canonical (ringCfgWrite r v s) ↔ Canonical s := by simp [ringCfgWrite]
@[simp] theorem canonical_ringHostIdx (r v) : Canonical (ringHostIdx r v s) ↔ Canonical s := by simp [ringHostIdx]

@[simp] theorem canonical_unmaskVec (v) : Canonical (unmaskVec v s) ↔ Canonical s := by simp [unmaskVec]

/-! ## DMA channels (15) -/

@[simp] theorem canonical_tabLineWrite (k a bs) : Canonical (tabLineWrite k a bs s) ↔ Canonical s := by
  unfold tabLineWrite
  dsimp only
  split
  · simp
  split
  · exact canonical_forAll (fun _ _ => by simp) _
  · exact canonical_forAll (fun _ _ => by simp) _

@[simp] theorem canonical_wrote (k) : Canonical (wrote k s) ↔ Canonical s := by simp [wrote]

@[simp] theorem canonical_dmaPc (k pc) : Canonical (dmaPc k pc s) ↔ Canonical s := by simp [dmaPc]
@[simp] theorem canonical_dmaNext (k) : Canonical (dmaNext k s) ↔ Canonical s := by simp [dmaNext]
@[simp] theorem canonical_dmaCount (k n) : Canonical (dmaCount k n s) ↔ Canonical s := by simp [dmaCount]
@[simp] theorem canonical_dmaLoopRun (k i) : Canonical (dmaLoopRun k i s) ↔ Canonical s := by simp [dmaLoopRun]

theorem canonical_dmaWaitMet {s k w t} (h : dmaWaitMet k w s = some t) : Canonical t ↔ Canonical s := by
  unfold dmaWaitMet at h
  split at h
  case h_2 => cases h
  all_goals
    split at h <;> cases h
    simp

@[simp] theorem canonical_dmaWaitRun (k i) : Canonical (dmaWaitRun k i s) ↔ Canonical s := by
  unfold dmaWaitRun
  dsimp only
  split
  next h => simpa using canonical_dmaWaitMet h
  · simp

@[simp] theorem canonical_asChanHost {f : State → State} (h : ∀ s, (Canonical (f s) ↔ Canonical s)) (k off) :
    Canonical (asChanHost k off f s) ↔ Canonical s := by simp [asChanHost, h]

@[simp] theorem canonical_dmaStart (k) : Canonical (dmaStart k s) ↔ Canonical s := by simp [dmaStart]
@[simp] theorem canonical_dmaDoorbell (k) : Canonical (dmaDoorbell k s) ↔ Canonical s := by unfold dmaDoorbell; (repeat' split) <;> simp

@[simp] theorem canonical_execDmaWaitEnd (k) : Canonical (after s (execDmaWaitEnd k s)) ↔ Canonical s := by
  unfold execDmaWaitEnd
  rw [after_next]
  dsimp only
  split
  · split
    · simp
    split
    next h => simpa using canonical_dmaWaitMet h
    · simp
  · simp

/-! ## Rows of pause (09) -/

@[simp] theorem canonical_macRx (p) : Canonical (macRx p s) ↔ Canonical s := by simp [macRx]
@[simp] theorem canonical_loadPause (p i time) : Canonical (loadPause p i time s) ↔ Canonical s := by simp [loadPause]
@[simp] theorem canonical_pfcIn (p x vec times) : Canonical (pfcIn p x vec times s) ↔ Canonical s := by simp [pfcIn]
@[simp] theorem canonical_pauseIn (p x time) : Canonical (pauseIn p x time s) ↔ Canonical s := by simp [pauseIn]
@[simp] theorem canonical_execPfcReceive (p vec times) : Canonical (after s (execPfcReceive p vec times s)) ↔ Canonical s := by unfold execPfcReceive; split <;> simp
@[simp] theorem canonical_execPauseReceive (p time) : Canonical (after s (execPauseReceive p time s)) ↔ Canonical s := by unfold execPauseReceive; split <;> simp
@[simp] theorem canonical_execPauseTimerExpiry (p i) : Canonical (after s (execPauseTimerExpiry p i s)) ↔ Canonical s := by unfold execPauseTimerExpiry; split <;> simp
@[simp] theorem canonical_execPfcRefresh (p i) : Canonical (after s (execPfcRefresh p i s)) ↔ Canonical s := by unfold execPfcRefresh; split <;> simp
@[simp] theorem canonical_execQueueHoldExpiry (p) : Canonical (after s (execQueueHoldExpiry p s)) ↔ Canonical s := by unfold execQueueHoldExpiry; (repeat' split) <;> simp

/-! ## Frames received (01) -/

@[simp] theorem canonical_stage (p x f) : Canonical (stage p x f s) ↔ Canonical s := by simp [stage]
@[simp] theorem canonical_macControlIn (p x bs) : Canonical (macControlIn p x bs s) ↔ Canonical s := by unfold macControlIn; split <;> simp
@[simp] theorem canonical_wholeFrame (p x hdr data fcsOk ts) : Canonical (wholeFrame p x hdr data fcsOk ts s) ↔ Canonical s := by simp [wholeFrame]
@[simp] theorem canonical_hold (p data ts) : Canonical (hold p data ts s) ↔ Canonical s := by simp [hold]
@[simp] theorem canonical_partFrame (p x hdr data len ts) : Canonical (partFrame p x hdr data len ts s) ↔ Canonical s := by simp [partFrame]

/-! ## Rows of mailboxes (13) -/

@[simp] theorem canonical_mbStore (m off data) : Canonical (mbStore m off data s) ↔ Canonical s := by unfold mbStore; dsimp only; (repeat' split) <;> simp
@[simp] theorem canonical_mbRing (m) : Canonical (mbRing m s) ↔ Canonical s := by unfold mbRing; dsimp only; (repeat' split) <;> simp
@[simp] theorem canonical_mbStop (m) : Canonical (mbStop m s) ↔ Canonical s := by unfold mbStop; dsimp only; (repeat' split) <;> simp

@[simp] theorem canonical_asOwner {f : State → State} (h : ∀ s, (Canonical (f s) ↔ Canonical s)) (who m off) :
    Canonical (asOwner who m off s f) ↔ Canonical s := by simp [asOwner, h]

@[simp] theorem canonical_execCommandComplete (m) : Canonical (after s (execCommandComplete m s)) ↔ Canonical s := by unfold execCommandComplete; split <;> simp

/-! ## Registers (00, 14) -/

@[simp] theorem canonical_readTimeNow (who hi off n ph) : Canonical (readTimeNow who hi off n ph s).2 ↔ Canonical s := by simp [readTimeNow]
@[simp] theorem canonical_readTsqLo (who off n) : Canonical (readTsqLo who off n s).2 ↔ Canonical s := by simp [readTsqLo]
@[simp] theorem canonical_readTsqHi (who off n) : Canonical (readTsqHi who off n s).2 ↔ Canonical s := by simp [readTsqHi]
@[simp] theorem canonical_readCap (who k off n) : Canonical (readCap who k off n s).2 ↔ Canonical s := by simp [readCap]
@[simp] theorem canonical_readCapX (who k) : Canonical (readCapX who k s).2 ↔ Canonical s := by simp [readCapX]

@[simp] theorem canonical_clearRead (a off n) : Canonical (clearRead a off n s) ↔ Canonical s := by
  unfold clearRead
  dsimp only
  repeat' split
  all_goals simp

theorem canonical_snd_ite {s : State} {α : Type} {c : Prop} [Decidable c] {a b : α × State} (ha : Canonical a.2 ↔ Canonical s) (hb : Canonical b.2 ↔ Canonical s) :
    Canonical (if c then a else b).2 ↔ Canonical s := by
  split
  · exact ha
  · exact hb

@[simp] theorem canonical_readReg (who a off n ph) : Canonical (readReg who a off n ph s).2 ↔ Canonical s :=
  canonical_snd_ite (canonical_readTimeNow ..) <| canonical_snd_ite (canonical_readTimeNow ..) <| canonical_snd_ite (canonical_readTsqLo ..) <|
    canonical_snd_ite (canonical_readTsqHi ..) <| canonical_snd_ite (canonical_readCap ..) <| canonical_snd_ite (canonical_readCapX ..) <|
    canonical_snd_ite .rfl <| canonical_snd_ite .rfl <| canonical_snd_ite .rfl <| canonical_clearRead ..

@[simp] theorem canonical_readPart (who a n ph) : Canonical (readPart who a n ph s).2 ↔ Canonical s := by unfold readPart; (repeat' split) <;> simp
@[simp] theorem canonical_regRead (who addr width ph) : Canonical (regRead who addr width ph s).2 ↔ Canonical s := by simp [regRead]
@[simp] theorem canonical_busRead (who addr width ph) : Canonical (busRead who addr width ph s) ↔ Canonical s := by simp [busRead]
@[simp] theorem canonical_identPut (a off v m) : Canonical (identPut a off v m s) ↔ Canonical s := by unfold identPut; (repeat' split) <;> simp
@[simp] theorem canonical_mbPut (who k o off n v m) : Canonical (mbPut who k o off n v m s) ↔ Canonical s := by unfold mbPut; (repeat' split) <;> simp
@[simp] theorem canonical_pinCtl (k v m) : Canonical (pinCtl k v m s) ↔ Canonical s := by simp [pinCtl]
@[simp] theorem canonical_pinPut (k o v m) : Canonical (pinPut k o v m s) ↔ Canonical s := by unfold pinPut; split <;> simp
@[simp] theorem canonical_timeSample (d off n v) : Canonical (timeSample d off n v s) ↔ Canonical s := by simp [timeSample]
@[simp] theorem canonical_timePut (o off n v m) : Canonical (timePut o off n v m s) ↔ Canonical s := by unfold timePut; (repeat' split) <;> simp
@[simp] theorem canonical_fixedFreq (on) : Canonical (fixedFreq on s) ↔ Canonical s := by simp [fixedFreq]

@[simp] theorem canonical_trickPut (o v m) : Canonical (trickPut o v m s) ↔ Canonical s := by
  unfold trickPut
  split <;> rfl

@[simp] theorem canonical_fltPut (o v m) : Canonical (fltPut o v m s) ↔ Canonical s := by simp [fltPut]
@[simp] theorem canonical_pwrPut (o v m) : Canonical (pwrPut o v m s) ↔ Canonical s := by unfold pwrPut; split <;> simp
@[simp] theorem canonical_ciphLock (who x) : Canonical (ciphLock who x s) ↔ Canonical s := by simp [ciphLock]
@[simp] theorem canonical_ciphPut (who o off v m) : Canonical (ciphPut who o off v m s) ↔ Canonical s := by unfold ciphPut; (repeat' split) <;> simp

@[simp] theorem canonical_asChan {f : State → State} (h : ∀ s, (Canonical (f s) ↔ Canonical s)) (who k off) :
    Canonical (asChan who k off f s) ↔ Canonical s := by simp [asChan, h]

@[simp] theorem canonical_winCtl (w v m) : Canonical (winCtl w v m s) ↔ Canonical s := by simp [winCtl]
@[simp] theorem canonical_winSend (w b v) : Canonical (winSend w b v s) ↔ Canonical s := by simp [winSend]
@[simp] theorem canonical_winPut (a n v) : Canonical (winPut a n v s) ↔ Canonical s := by simp [winPut]
@[simp] theorem canonical_perturbPut (o off v m) : Canonical (perturbPut o off v m s) ↔ Canonical s := by unfold perturbPut; (repeat' split) <;> simp

/-! ## The I3C target (19) -/

@[simp] theorem canonical_i3cBarRead (a n ph) : Canonical (i3cBarRead a n ph s).2 ↔ Canonical s := by simp [i3cBarRead]
@[simp] theorem canonical_i3cRead (o n ph) : Canonical (i3cRead o n ph s).2 ↔ Canonical s := by simp [i3cRead]
@[simp] theorem canonical_i3cMove (o) : Canonical (i3cMove o s) ↔ Canonical s := by simp [i3cMove]
@[simp] theorem canonical_cccAck (bs) : Canonical (cccAck bs s) ↔ Canonical s := by simp [cccAck]
@[simp] theorem canonical_cccNack : Canonical (cccNack s) ↔ Canonical s := by simp [cccNack]

@[simp] theorem canonical_cccDirect {f : State → State} (h : ∀ s, (Canonical (f s) ↔ Canonical s)) :
    Canonical (cccDirect f s) ↔ Canonical s := by simp [cccDirect, h]

@[simp] theorem canonical_cccDo (code arg) : Canonical (cccDo code arg s) ↔ Canonical s := by unfold cccDo; split <;> simp
@[simp] theorem canonical_scanTo (j dr) : Canonical (scanTo j dr s) ↔ Canonical s := by simp [scanTo]

/-! ## The scheduler of a port (09) -/

@[simp] theorem canonical_stackOut (p ts bs) : Canonical (stackOut p ts bs s).2 ↔ Canonical s := by simp [stackOut]

theorem canonical_rankOne {s p ph ln x t} (h : rankOne p ph ln x s = some t) : Canonical t ↔ Canonical s := by
  unfold rankOne at h
  split at h
  · cases h
    simp
  split at h
  · cases h
  · cases h
    simp

@[simp] theorem canonical_watchSent (p f) : Canonical (watchSent p f s) ↔ Canonical s := by unfold watchSent; split <;> simp
@[simp] theorem canonical_sentEnd (p f) : Canonical (sentEnd p f s) ↔ Canonical s := by simp [sentEnd]
@[simp] theorem canonical_execTransmitEnd (p) : Canonical (after s (execTransmitEnd p s)) ↔ Canonical s := by unfold execTransmitEnd; (repeat' split) <;> simp

/-! ## Events of the time unit (10) -/

@[simp] theorem canonical_lossSelect (x) : Canonical (lossSelect x s) ↔ Canonical s := by simp [lossSelect]
@[simp] theorem canonical_srcLost (x) : Canonical (srcLost x s) ↔ Canonical s := by simp [srcLost]
@[simp] theorem canonical_pinEdge (n rising ph narrow) : Canonical (pinEdge n rising ph narrow s) ↔ Canonical s := by simp [pinEdge]

end

end Sys2Proof.Proofs
end

/-! PROOFS. Operations that write the byte memories: each keeps their canonical form, because it writes by the memories' own operations. -/

section
namespace Sys2Proof.Proofs

open Sys2Proof Sys2Proof.Machine Sys2Proof.Safety Sys2Proof.Laws

section
variable {s : State} (hs : Canonical s)
include hs

theorem canonical_foldl_of {α : Type} {f : State → α → State} (hf : ∀ s a, Canonical s → Canonical (f s a)) (l : List α) : Canonical (l.foldl f s) := by
  induction l generalizing s with
  | nil => exact hs
  | cons a r ih => exact ih (hf s a hs)

theorem canonical_forAll_of {f : Nat → State → State} (hf : ∀ i s, Canonical s → Canonical (f i s)) (l : List Nat) : Canonical (forAll l f s) :=
  canonical_foldl_of hs (fun s i h => hf i s h) l

/-! ## Writes of the memories -/

@[simp] theorem canonical_devWrite (a bs) : Canonical (devWrite a bs s) := by
  obtain ⟨hdev, hhost, hbuf⟩ := hs
  exact ⟨memWf_devWrite a bs s hdev, hhost, hbuf⟩

@[simp] theorem canonical_hostWrite (a bs) : Canonical (hostWrite a bs s) := by
  obtain ⟨hdev, hhost, hbuf⟩ := hs
  exact ⟨hdev, memWf_hostWrite a bs s hhost, hbuf⟩

@[simp] theorem canonical_hostStores (l) : Canonical (hostStores l s) := by
  obtain ⟨hdev, hhost, hbuf⟩ := hs
  exact ⟨hdev, memWf_hostStores l s hhost, hbuf⟩

@[simp] theorem canonical_chainWrite (cs off bs) : Canonical (chainWrite cs off bs s) := by
  obtain ⟨hdev, hhost, hbuf⟩ := hs
  exact ⟨hdev, hhost, memWf_chainWrite cs off bs s hbuf⟩

/-! ## Units and memories -/

/-! ## The shared buffer (08) -/

theorem canonical_newChain {r n len bs x} (h : newChain r n len bs s = some x) : Canonical x.2 := by
  unfold newChain at h
  split at h
  next hc =>
    cases h
    exact (canonical_stakeAdd ..).mpr (canonical_chainWrite ((canonical_takeCells hc).mpr hs) ..)
  · cases h

/-! ## Telemetry (11) -/

@[simp] theorem canonical_evictOne (g) : Canonical (evictOne g s) := by unfold evictOne; split <;> simp [hs]
@[simp] theorem canonical_flowEviction : Canonical (flowEviction s) := by
  have visited : Canonical (forAll (List.range 32) (fun g acc => forAll (List.range 16) (fun _ a => evictOne g a) acc) s) :=
    canonical_forAll_of hs (fun g _ h => canonical_forAll_of h (fun _ _ h => canonical_evictOne h g) _) _
  simp [hs, visited, flowEviction]

@[simp] theorem canonical_fifoDrainOne : Canonical (fifoDrainOne s) := by unfold fifoDrainOne; split <;> simp [hs]
@[simp] theorem canonical_fifoDrain : Canonical (fifoDrain s) := by
  have drained : Canonical (forAll (List.range (min 64 s.telem.fifo.length)) (fun _ acc => fifoDrainOne acc) s) :=
    canonical_forAll_of hs (fun _ _ h => canonical_fifoDrainOne h) _
  simp [drained, fifoDrain]

@[simp] theorem canonical_dumpWrite : Canonical (dumpWrite s) := by unfold dumpWrite; split <;> simp [hs]

/-! ## Charging of selections and the end of an admitted frame (09, 08) -/

@[simp] theorem canonical_settleFrame (a rest0 bad0) : Canonical (settleFrame a rest0 bad0 s) := by unfold settleFrame; dsimp only; (repeat' split) <;> simp [hs]

/-! ## Entries of host rings (14) -/

@[simp] theorem canonical_ringWriteSlots (x i bs n) : Canonical (ringWriteSlots x i bs n s) := canonical_forAll_of hs (fun _ _ h => canonical_hostWrite h ..) _

@[simp] theorem canonical_ringWriteBack (r i) : Canonical (ringWriteBack r i s) := by simp [hs, ringWriteBack]
@[simp] theorem canonical_ringPost (r bs) : Canonical (ringPost r bs s) := by
  unfold ringPost
  extract_lets x k p2 full s1 s2 s3
  have first : Canonical s1 := by simp [s1, hs]
  have entry : Canonical s2 := by simp [s2, first]
  simp [s3, entry]

@[simp] theorem canonical_cqWrite (r bs) : Canonical (cqWrite r bs s) := by simp [hs, cqWrite]
@[simp] theorem canonical_cqPost (r w bs) : Canonical (cqPost r w bs s) := by simp [hs, cqPost]
@[simp] theorem canonical_rxPost (r bs chain) : Canonical (rxPost r bs chain s) := by unfold rxPost; dsimp only; (repeat' split) <;> simp [hs]

/-! ## Rows of the tables (06) -/

@[simp] theorem canonical_execNotificationForward (n) : Canonical (after s (execNotificationForward n s)) := by unfold execNotificationForward; dsimp only; (repeat' split) <;> simp [hs]

/-! ## Fault commands and row repair (17) -/

@[simp] theorem canonical_rowCopy (f) : Canonical (rowCopy f s) := by
  have cleared (a n : Nat) : Canonical { s with buf := { s.buf with mem := memClear s.buf.mem a n } } := by
    obtain ⟨hdev, hhost, hbuf⟩ := hs
    exact ⟨hdev, hhost, memWf_memClear s.buf.mem a n hbuf⟩
  unfold rowCopy
  split
  · simp [hs]
  · dsimp only
    split_ifs
    · exact hs
    · exact (canonical_modSect ..).mpr (cleared ..)
    · exact cleared ..
  · exact hs

@[simp] theorem canonical_repairRow (f) : Canonical (repairRow f s) := by simp [hs, repairRow]

/-! ## Start-up and warm restart (18) -/

@[simp] theorem canonical_selfTest (failing) : Canonical (selfTest failing s) := by
  unfold selfTest
  extract_lets s1 s2 s3
  have repaired : Canonical s1 := canonical_foldl_of hs (fun _ _ h => canonical_repairRow h _) _
  have tested : Canonical s3 := by simp [s3, s2, repaired]
  obtain ⟨-, hhost, hbuf⟩ := tested
  exact ⟨rfl, hhost, hbuf⟩

@[simp] theorem canonical_firmwareStart (failing) : Canonical (firmwareStart failing s) := by simp [hs, firmwareStart]
@[simp] theorem canonical_devmemDo (x wr rd inside bad) : Canonical (devmemDo x wr rd inside bad s) := by simp [hs, devmemDo]

/-! ## Whole ports (04) -/

@[simp] theorem canonical_removePort (p) : Canonical (removePort p s) := by unfold removePort; (repeat' split) <;> simp [hs]
@[simp] theorem canonical_unconfigPort (p) : Canonical (unconfigPort p s) := by unfold unconfigPort; split <;> simp [hs]
@[simp] theorem canonical_configPort (p w mode neg flags maxFrame) : Canonical (configPort p w mode neg flags maxFrame s) := by simp [hs, configPort]

/-! ## Rows of the ports (04) -/

@[simp] theorem canonical_portConfig (q p) : Canonical (ansAfter (portConfig q p s)) := by simp [hs, portConfig]

/-! ## The egress side of a frame -/

@[simp] theorem canonical_rxCopy (r bs head) : Canonical (rxCopy r bs head s) := by unfold rxCopy; split <;> simp [hs]
@[simp] theorem canonical_excCopy (n f head inPort whole m k outPort disp) : Canonical (excCopy n f head inPort whole m k outPort disp s) := by unfold excCopy; dsimp only; (repeat' split) <;> simp [hs]
@[simp] theorem canonical_launch (p q d ph ln banks) : Canonical (launch p q d ph ln banks s) := by
  unfold launch
  dsimp only
  repeat' split
  all_goals simp [hs]

/-! ## The ingress side of a frame -/

@[simp] theorem canonical_mirrorCopy (p n f inTs data) : Canonical (mirrorCopy p n f inTs data s) := by
  unfold mirrorCopy
  dsimp only
  split
  · simp [hs]
  split
  · simp [hs]
  next hc =>
    have held := canonical_newChain hs hc
    split <;> simp [held]

@[simp] theorem canonical_mirrorSelect (p n f inTs data) : Canonical (mirrorSelect p n f inTs data s) := by unfold mirrorSelect; split <;> simp [hs]
@[simp] theorem canonical_disposition (g w) : Canonical (disposition g w s) := by simp [hs, disposition]

@[simp] theorem canonical_station6 (g l) : Canonical (station6 g l s) := by
  induction l generalizing s with
  | nil => exact hs
  | cons w r ih => simp [hs, station6, ih]

@[simp] theorem canonical_reach6 (g w) : Canonical (reach6 g w s) := by simp [hs, reach6]
@[simp] theorem canonical_replicateNext6 (g) : Canonical (replicateNext6 g s) := by simp [hs, replicateNext6]
@[simp] theorem canonical_ingress (p head n0 x f tracked banks) : Canonical (ingress p head n0 x f tracked banks s) := by simp [hs, ingress]

/-! ## Rows of frames in the buffer -/

@[simp] theorem canonical_slotIssue (p banks) : Canonical (slotIssue p banks s) := by
  unfold slotIssue
  dsimp only
  split
  · exact hs
  split
  · exact hs
  split
  · exact hs
  split
  · exact hs
  next hc =>
    have chained := canonical_newChain ((canonical_modGrp ..).mpr hs) hc
    simp [chained]

@[simp] theorem canonical_releaseCopies (p a len bad) : Canonical (releaseCopies p a len bad s) := by
  unfold releaseCopies
  refine canonical_foldl_of hs (fun _ _ h => ?_) _
  split <;> simp [h]

@[simp] theorem canonical_frameLastByte (p rest fcsOk) : Canonical (frameLastByte p rest fcsOk s) := by unfold frameLastByte; (repeat' split) <;> simp [hs]

/-! ## The stack engine (12) -/

@[simp] theorem canonical_controlHere (p bs ts) : Canonical (controlHere p bs ts s) := by unfold controlHere; dsimp only; (repeat' split) <;> simp [hs]
@[simp] theorem canonical_controlFrame (p bs ts) : Canonical (controlFrame p bs ts s) := by unfold controlFrame; split <;> simp [hs]

/-! ## Frames that the device itself sends -/

theorem canonical_ownFrame {who r bs x} (h : ownFrame who r bs s = some x) : Canonical x.2 := by
  unfold ownFrame at h
  dsimp only at h
  split at h
  · cases h
  split at h
  · cases h
  next hc =>
    have chained := canonical_newChain hs hc
    split at h
    · cases h
      simpa using chained
    · split at h <;> cases h <;> simpa using chained

/-! ## Firmware's PTP instances (10) -/

@[simp] theorem canonical_ptpSend (x p t y msg) : Canonical (ptpSend x p t y msg s) := by
  unfold ptpSend
  dsimp only
  split
  next h => exact canonical_ownFrame (by simp [hs]) h
  · simp [hs]

@[simp] theorem canonical_execPtpMessageTx (x p t msg) : Canonical (after s (execPtpMessageTx x p t msg s)) := by unfold execPtpMessageTx; split <;> simp [hs]

/-! ## Telemetry commands (11) -/

@[simp] theorem canonical_areaStart (was on base) : Canonical (areaStart was on base s) := by simp [hs, areaStart]
@[simp] theorem canonical_telemMemSetApply (p) : Canonical (telemMemSetApply p s) := by
  unfold telemMemSetApply
  exact canonical_areaStart (canonical_areaStart (canonical_areaStart ((canonical_modTelem ..).mpr hs) ..) ..) ..

/-! ## The jobs of a boundary (02) -/

omit hs in
theorem canonical_setting : ∀ e ∈ settings, ∀ m p s, Canonical s → Canonical (e.2 m p s) := by
  simp +contextual [settings]

@[simp] theorem canonical_settle1 (d) : Canonical (settle1 d s) := by
  unfold settle1
  split
  next h => exact canonical_setting _ (List.mem_of_find?_eq_some h) _ _ _ hs
  · exact hs

@[simp] theorem canonical_settingsApply : Canonical (settingsApply s) := by
  have settled : Canonical (s.deferred.foldl (fun acc d => settle1 d acc) { s with deferred := [] }) :=
    canonical_foldl_of (by simp [hs]) (fun _ d h => canonical_settle1 h d) _
  simp [settingsApply, settled]

@[simp] theorem canonical_telemTick (hand) : Canonical (telemTick hand s) := by
  unfold telemTick
  split
  · exact hs
  · exact canonical_dumpWrite (canonical_fifoDrain (canonical_flowEviction (by simp [hs])))

@[simp] theorem canonical_cycleZero (i) : Canonical (cycleZero i s) := by simp [hs, cycleZero]

/-! ## Host rings (14) -/

@[simp] theorem canonical_sqComplete (r bs) : Canonical (sqComplete r bs s) := by simp [hs, sqComplete]
@[simp] theorem canonical_sqFinish (r i slots h st detail p trick) : Canonical (sqFinish r i slots h st detail p trick s) := by simp [hs, sqFinish]
@[simp] theorem canonical_sqHalt (r i h st) : Canonical (sqHalt r i h st s) := by simp [hs, sqHalt]

@[simp] theorem canonical_sqSend (r i slots h frame again) : Canonical (sqSend r i slots h frame again s) := by
  unfold sqSend
  dsimp only
  split
  next hf => exact canonical_sqFinish (canonical_ownFrame hs hf) ..
  next hf => exact canonical_sqFinish (canonical_ownFrame hs hf) ..
  · simp [hs]

@[simp] theorem canonical_sqEntry (err r) : Canonical (sqEntry err r s) := by unfold sqEntry; dsimp only; (repeat' split) <;> simp [hs]

@[simp] theorem canonical_sqScan (err r fuel) : Canonical (sqScan err r fuel s) := by
  induction fuel generalizing s with
  | zero => exact hs
  | succ n ih => simp [hs, sqScan, ih]

@[simp] theorem canonical_sqRun (err r) : Canonical (sqRun err r s) := by simp [hs, sqRun]
@[simp] theorem canonical_sqResume (r) : Canonical (sqResume r s) := by simp [hs, sqResume]
@[simp] theorem canonical_execSqStakeWaitEnd (r) : Canonical (after s (execSqStakeWaitEnd r s)) := by unfold execSqStakeWaitEnd; split <;> simp [hs]
@[simp] theorem canonical_cqDrain (r fuel) : Canonical (cqDrain r fuel s) := by
  induction fuel generalizing s with
  | zero => exact hs
  | succ n ih =>
    unfold cqDrain
    dsimp only
    split <;> simp [hs, ih]

@[simp] theorem canonical_cqServe (r fuel) : Canonical (cqServe r fuel s).2 := by
  induction fuel generalizing s with
  | zero => exact hs
  | succ n ih =>
    unfold cqServe
    dsimp only
    repeat' split
    all_goals simp [hs, ih]

@[simp] theorem canonical_cqWake (r) : Canonical (cqWake r s) := canonical_foldl_of (canonical_cqServe hs ..) (fun _ q h => canonical_sqResume h q) _

@[simp] theorem canonical_rxDrain (r fuel) : Canonical (rxDrain r fuel s) := by
  induction fuel generalizing s with
  | zero => exact hs
  | succ n ih =>
    unfold rxDrain
    dsimp only
    repeat' split
    all_goals simp [hs, ih]

/-! ## DMA channels (15) -/

@[simp] theorem canonical_spaceWrite (k sp a bs) : Canonical (spaceWrite k sp a bs s) := by unfold spaceWrite; split <;> simp [hs]
@[simp] theorem canonical_dmaStall (k) : Canonical (dmaStall k s) := by simp [dmaStall, hs]
@[simp] theorem canonical_dmaCommit (k bs) : Canonical (dmaCommit k bs s) := by simp [dmaCommit, hs]

@[simp] theorem canonical_dmaFlush (k fuel) : Canonical (dmaFlush k fuel s) := by
  induction fuel generalizing s with
  | zero =>
    unfold dmaFlush
    dsimp only
    split
    · exact hs
    split
    · exact hs
    split <;> simp [hs]
  | succ n ih =>
    unfold dmaFlush
    dsimp only
    split
    · exact hs
    split
    · exact hs
    split <;> simp [hs, ih]

@[simp] theorem canonical_dmaDue (k l ends) : Canonical (dmaDue k l ends s) := by simp [hs, dmaDue]
@[simp] theorem canonical_dmaFail (k st i) : Canonical (dmaFail k st i s) := by simp [hs, dmaFail]
@[simp] theorem canonical_dmaStop (k i line isSrc before) : Canonical (dmaStop k i line isSrc before s) := by simp [hs, dmaStop]
@[simp] theorem canonical_dmaCopy (k i) : Canonical (dmaCopy k i s) := by simp [hs, dmaCopy]
@[simp] theorem canonical_dmaCopyPart (k i line isSrc) : Canonical (dmaCopyPart k i line isSrc s) := by simp [hs, dmaCopyPart]
@[simp] theorem canonical_dmaCompare (k i e) : Canonical (dmaCompare k i e s) := by unfold dmaCompare; dsimp only; (repeat' split) <;> simp [hs]
@[simp] theorem canonical_dmaDataRun (k i err) : Canonical (dmaDataRun k i err s) := by unfold dmaDataRun; dsimp only; (repeat' split) <;> simp [hs]
@[simp] theorem canonical_dmaEndRun (k i) : Canonical (dmaEndRun k i s) := by simp [hs, dmaEndRun]
@[simp] theorem canonical_dmaSignalRun (k i) : Canonical (dmaSignalRun k i s) := by simp [hs, dmaSignalRun]
@[simp] theorem canonical_dmaDo (k i err) : Canonical (dmaDo k i err s) := by unfold dmaDo; (repeat' split) <;> simp [hs]
@[simp] theorem canonical_dmaRow (k opc err) : Canonical (dmaRow k opc err s) := by unfold dmaRow; (repeat' split) <;> simp [hs]

@[simp] theorem canonical_dmaAbort (k) : Canonical (dmaAbort k s) := by simp [hs, dmaAbort]

/-! ## Frames received (01) -/

@[simp] theorem canonical_stackWhole (p x data fcsOk ts) : Canonical (stackWhole p x data fcsOk ts s) := by unfold stackWhole; dsimp only; (repeat' split) <;> simp [hs]
@[simp] theorem canonical_frameIn (p x data len last fcsOk ts) : Canonical (frameIn p x data len last fcsOk ts s) := by simp [hs, frameIn]
@[simp] theorem canonical_execFrameReceive (p len data last fcsOk at_) : Canonical (after s (execFrameReceive p len data last fcsOk at_ s)) := by unfold execFrameReceive; split <;> simp [hs]
@[simp] theorem canonical_execFrameLastByte (p rest fcsOk) : Canonical (after s (execFrameLastByte p rest fcsOk s)) := by unfold execFrameLastByte; (repeat' split) <;> simp [hs]

/-! ## Registers (00, 14) -/

theorem canonical_asChan_of {f : State → State} (hf : ∀ s, Canonical s → Canonical (f s)) (who k off) : Canonical (asChan who k off f s) := by
  unfold asChan
  split
  · exact hf s hs
  · simp [asChanHost, hf s hs, hs]

@[simp] theorem canonical_chanPut (who k o off v m) : Canonical (chanPut who k o off v m s) := by
  unfold chanPut
  split
  case h_3 => exact canonical_asChan_of hs (fun _ h => by simp [h]) ..
  all_goals simp [hs]

@[simp] theorem canonical_ringPut (r o off v m) : Canonical (ringPut r o off v m s) := by unfold ringPut; split <;> simp [hs]
@[simp] theorem canonical_writeReg (who a off n v) : Canonical (writeReg who a off n v s) := by simp [hs, writeReg]
@[simp] theorem canonical_writePart (who a n v) : Canonical (writePart who a n v s) := by unfold writePart; (repeat' split) <;> simp [hs]
@[simp] theorem canonical_regWrite (who addr width v) : Canonical (regWrite who addr width v s) := by simp [hs, regWrite]
@[simp] theorem canonical_busWrite (who addr width v) : Canonical (busWrite who addr width v s) := by simp [hs, busWrite]

/-! ## The I3C target (19) -/

@[simp] theorem canonical_i3cWrite (o bs) : Canonical (i3cWrite o bs s) := by simp [hs, i3cWrite]

/-! ## The scheduler of a port (09) -/

@[simp] theorem canonical_selectHead (p q ph ln banks) : Canonical (selectHead p q ph ln banks s) := by unfold selectHead; (repeat' split) <;> simp [hs]

@[simp] theorem canonical_execSchedulerSelect (p at_ banks) : Canonical (after s (execSchedulerSelect p at_ banks s)) := by
  unfold execSchedulerSelect
  rw [after_next]
  split
  · split
    · exact hs
    split
    next h => exact (canonical_rankOne h).mpr hs
    · split <;> simp [hs]
  · exact hs

end

end Sys2Proof.Proofs
end

/-! PROOFS. Every step keeps the byte memories in their canonical form (08; 14; 15 Table 15.1). -/

section
namespace Sys2Proof.Proofs

open Sys2Proof Sys2Proof.Machine Sys2Proof.Safety Sys2Proof.Laws

section
variable {s : State} (hs : Canonical s)
include hs

/-! ## The trick boundary (02) -/

/-- A device that turns itself off loses what it holds but for host memory. -/
@[simp] theorem canonical_powerOff (trip : Bool) : Canonical (powerOff trip s) := by
  obtain ⟨-, hhost, -⟩ := hs
  exact ⟨rfl, hhost, rfl⟩

@[simp] theorem canonical_sampleTick (i : TrickIn) : Canonical (sampleTick i s) := by simp [sampleTick, hs]

@[simp] theorem canonical_closeTrick (i : TrickIn) : Canonical (closeTrick i s) := by simp [closeTrick, countTrick, emit, hs]

@[simp] theorem canonical_trickJobs (hand rubber : Bool) (i : TrickIn) : Canonical (trickJobs hand rubber i s) := by
  unfold trickJobs
  extract_lets s1 s2 s3 s4 s5 s6
  have ticked : Canonical s5 := by simp [s5, s4, s3, s2, s1, hs]
  have served : Canonical s6 := by simp [s6, ticked]
  exact canonical_sampleTick ((canonical_forAll (by simp) _).mpr served) i

@[simp] theorem canonical_boundary (i : TrickIn) : Canonical (boundary i s) := by
  unfold boundary
  extract_lets s1 hand rubber s2
  have closed : Canonical s2 := by simp [s2, s1, hs]
  exact canonical_trickJobs (canonical_cycleZero closed i) hand rubber i

/-! ## Commands and accesses that reach a writing operation -/

theorem canonical_runCmd_of {body : Cmd → State → Ans} (hbody : ∀ c s, Canonical s → Canonical (ansAfter (body c s))) (code m) :
    Canonical (runCmd code m body s) := by
  unfold runCmd
  split
  · exact hs
  next c _ => simp [hbody c s hs, hs]

theorem canonical_onPathAny_of {go : Path → List Byte → Ans} (hgo : ∀ q p, Canonical (ansAfter (go q p))) (m code len kinds c) :
    Canonical (ansAfter (onPathAny m code len kinds c s go)) := by
  unfold onPathAny
  dsimp only
  repeat' split
  all_goals simp [hs, hgo]

theorem canonical_stackRx_of {f : Nat → List Byte → Nat → State → State} (hf : ∀ p bs ts s, Canonical s → Canonical (f p bs ts s)) (p bs at_) :
    Canonical (stackRx p bs at_ f s) := by
  unfold stackRx
  split
  · exact hs
  · exact hf _ _ _ _ (by simp [hs])

/-! ## Every row -/

/-- The cases are the rows of the table of operations. -/
theorem canonical_exec (c : Instr) : Canonical (after s (exec c s)) := by
  unfold exec
  cases c with
  | trickBoundary i => simp [execTrickBoundary, hs]
  | sprintClockChange => simp [execSprintClockChange, hs]
  | frameReceive => exact canonical_execFrameReceive hs ..
  | pfcReceive => exact (canonical_execPfcReceive ..).mpr hs
  | pauseReceive => exact (canonical_execPauseReceive ..).mpr hs
  | pauseTimerExpiry => exact (canonical_execPauseTimerExpiry ..).mpr hs
  | slotIssue => simp [execSlotIssue, hs]
  | pfcRefresh => exact (canonical_execPfcRefresh ..).mpr hs
  | replication => simp [execReplication, hs]
  | frameLastByte => exact canonical_execFrameLastByte hs ..
  | schedulerSelect => exact canonical_execSchedulerSelect hs ..
  | transmitEnd => exact (canonical_execTransmitEnd ..).mpr hs
  | chainFree => simp [execChainFree, hs]
  | queueHoldExpiry => exact (canonical_execQueueHoldExpiry ..).mpr hs
  | freeListRebuildEnd => simp [execFreeListRebuildEnd, hs]
  | learnExecute => exact (canonical_execLearnExecute ..).mpr hs
  | tableEngineOp => simp [execTableEngineOp, hs]
  | agerVisit => exact (canonical_execAgerVisit ..).mpr hs
  | ageDeleteExecute => exact (canonical_execAgeDeleteExecute ..).mpr hs
  | notificationForward => exact canonical_execNotificationForward hs ..
  | rowRepair => simp [execRowRepair, hs]
  | eyeWindowEnd => simp [execEyeWindowEnd, hs]
  | laneCdrLock => simp [execLaneCdrLock, hs]
  | laneSignalLoss => simp [execLaneSignalLoss, hs]
  | echoMeasureEnd => exact (canonical_execEchoMeasureEnd ..).mpr hs
  | negotiationResolved => exact (canonical_execNegotiationResolved ..).mpr hs
  | trainingComplete => exact (canonical_execTrainingComplete ..).mpr hs
  | trainingTimeout => exact (canonical_execTrainingTimeout ..).mpr hs
  | portAligned => exact (canonical_execPortAligned ..).mpr hs
  | alignTimeout => exact (canonical_execAlignTimeout ..).mpr hs
  | linkDown => exact (canonical_execLinkDown ..).mpr hs
  | portPark => exact (canonical_execPortPark ..).mpr hs
  | portProbe => exact (canonical_execPortProbe ..).mpr hs
  | parkedSignal => exact (canonical_execParkedSignal ..).mpr hs
  | fecUncorrectable => exact (canonical_execFecUncorrectable ..).mpr hs
  | stormEnter => exact (canonical_execStormEnter ..).mpr hs
  | stormExit => exact (canonical_execStormExit ..).mpr hs
  | lldpTx => exact (canonical_execLldpTx ..).mpr hs
  | lldpduReceive => exact (canonical_execLldpduReceive ..).mpr hs
  | lldpTtlExpiry => exact (canonical_execLldpTtlExpiry ..).mpr hs
  | esmcTx => exact (canonical_execEsmcTx ..).mpr hs
  | synceOutResume => exact (canonical_execSynceOutResume ..).mpr hs
  | refclkLoss => simp [execRefclkLoss, hs]
  | refclkReturn => simp [execRefclkReturn, hs]
  | timeDomainSrcLost => simp [execTimeDomainSrcLost, hs]
  | ppsEdge => simp [execPpsEdge, hs]
  | tpioCapture => simp [execTpioCapture, hs]
  | tpioOneShotFire => simp [execTpioOneShotFire, hs]
  | tpioPeriodicEdge => simp [execTpioPeriodicEdge, hs]
  | ptpMessageReceive => exact (canonical_execPtpMessageReceive ..).mpr hs
  | heartbeatReceive => simp [execHeartbeatReceive, hs]
  | stackLinkMiss => simp [execStackLinkMiss, hs]
  | stackMemberExpiry => simp [execStackMemberExpiry, hs]
  | controlFrameReceive port frame =>
    have taken := canonical_stackRx_of (f := controlFrame) hs (fun _ _ _ _ h => canonical_controlFrame h ..) port frame.bytes frame.at_
    simp [execControlFrameReceive, hs, taken]
  | controlResend => simp [execControlResend, hs]
  | issueRateChange => simp [execIssueRateChange, hs]
  | limiterEngage => simp [execLimiterEngage, hs]
  | limiterRelease => simp [execLimiterRelease, hs]
  | inputLimitShed => exact (canonical_execInputLimitShed ..).mpr hs
  | emergencyShed => simp [execEmergencyShed, hs]
  | emergencyShedEnd => simp [execEmergencyShedEnd, hs]
  | thermalTrip => simp [execThermalTrip, hs]
  | vinLoss => simp [execVinLoss, hs]
  | rungExitComplete => exact (canonical_execRungExitComplete ..).mpr hs
  | octetRampBatch => simp [execOctetRampBatch, hs]
  | flashStore => simp [execFlashStore, hs]
  | trendPeriodClose => simp [execTrendPeriodClose, hs]
  | irqModTimeout => simp [execIrqModTimeout, hs]
  | msixUnmask => simp [execMsixUnmask, hs]
  | conversionStart => simp [execConversionStart, hs]
  | bootRomStart => exact (canonical_execBootRomStart ..).mpr hs
  | fwStartTimeout => simp [execFwStartTimeout, hs]
  | readyRise => simp [execReadyRise, hs]
  | hostLinkTrain => simp [execHostLinkTrain, hs]
  | perstAssert => simp [execPerstAssert, hs]
  | perstDeassert => simp [execPerstDeassert, hs]
  | fwWatchdogExpiry => exact (canonical_execFwWatchdogExpiry ..).mpr hs
  | hostPowerState => simp [execHostPowerState, hs]
  | hostDevmemAccess => simp [execHostDevmemAccess, hs]
  | mbMessageWrite => simp [execMbMessageWrite, hs]
  | mbDoorbell => simp [execMbDoorbell, hs]
  | mbAbort => simp [execMbAbort, hs]
  | commandComplete => exact (canonical_execCommandComplete ..).mpr hs
  | laneClassSet => simp [execLaneClassSet, hs]
  | laneStatusGet => simp [execLaneStatusGet, hs]
  | laneEchoMeasure => simp [execLaneEchoMeasure, hs]
  | laneAdaptCtl => simp [execLaneAdaptCtl, hs]
  | portConfig mb => exact canonical_runCmd_of hs (fun _ _ h => canonical_onPathAny_of h (fun _ _ => canonical_portConfig h ..) ..) ..
  | portStatusGet => simp [execPortStatusGet, hs]
  | portPartnerGet => simp [execPortPartnerGet, hs]
  | portGuardSet => simp [execPortGuardSet, hs]
  | synceSet => simp [execSynceSet, hs]
  | parserPortSet => simp [execParserPortSet, hs]
  | parserGroupSet => simp [execParserGroupSet, hs]
  | tableCreate => simp [execTableCreate, hs]
  | tableLadderSet => simp [execTableLadderSet, hs]
  | tableOp => simp [execTableOp, hs]
  | tableStatusGet => simp [execTableStatusGet, hs]
  | meterSet => simp [execMeterSet, hs]
  | meterGet => simp [execMeterGet, hs]
  | excSet => simp [execExcSet, hs]
  | queueSet => simp [execQueueSet, hs]
  | portBufSet => simp [execPortBufSet, hs]
  | bufGlobalSet => simp [execBufGlobalSet, hs]
  | bufSectionSet => simp [execBufSectionSet, hs]
  | mcastSet => simp [execMcastSet, hs]
  | bufStatusGet => simp [execBufStatusGet, hs]
  | queueStatusGet => simp [execQueueStatusGet, hs]
  | portBufStatusGet => simp [execPortBufStatusGet, hs]
  | schedPortSet => simp [execSchedPortSet, hs]
  | schedQueueSet => simp [execSchedQueueSet, hs]
  | shaperSet => simp [execShaperSet, hs]
  | shaperGet => simp [execShaperGet, hs]
  | schedStatusGet => simp [execSchedStatusGet, hs]
  | timeSet => simp [execTimeSet, hs]
  | timePortSet => simp [execTimePortSet, hs]
  | timeDomainSet => simp [execTimeDomainSet, hs]
  | timeGlobalSet => simp [execTimeGlobalSet, hs]
  | timeSelect => simp [execTimeSelect, hs]
  | timeStatusGet => simp [execTimeStatusGet, hs]
  | timeMasterListSet => simp [execTimeMasterListSet, hs]
  | timeAuthSet => simp [execTimeAuthSet, hs]
  | telemMemSet => simp [execTelemMemSet, telemMemSet, hs]
  | flowGlobalSet => simp [execFlowGlobalSet, hs]
  | flowProfileSet => simp [execFlowProfileSet, hs]
  | dumpSet => simp [execDumpSet, hs]
  | watchSet => simp [execWatchSet, hs]
  | sampleSet => simp [execSampleSet, hs]
  | ioamSet => simp [execIoamSet, hs]
  | stackConfig => simp [execStackConfig, hs]
  | stackLinkSet => simp [execStackLinkSet, hs]
  | stackRouteSet => simp [execStackRouteSet, hs]
  | stackMemberSet => simp [execStackMemberSet, hs]
  | stackStatusGet => simp [execStackStatusGet, hs]
  | stackLinkStatusGet => simp [execStackLinkStatusGet, hs]
  | stackEpisodesGet => simp [execStackEpisodesGet, hs]
  | deviceInfoGet => simp [execDeviceInfoGet, hs]
  | unitStatusGet => simp [execUnitStatusGet, hs]
  | unitCountersGet => simp [execUnitCountersGet, hs]
  | unitRungSet => simp [execUnitRungSet, hs]
  | unitFaultGet => simp [execUnitFaultGet, hs]
  | imageWrite => exact (canonical_macCmd s (fun _ => by simp) ..).mpr hs
  | imageStatusGet => simp [execImageStatusGet, hs]
  | fwPatchApply => exact (canonical_macCmd s (fun _ => by simp) ..).mpr hs
  | ucStage => simp [execUcStage, hs]
  | ucStagingEnd => simp [execUcStagingEnd, hs]
  | ucCommit => simp [execUcCommit, hs]
  | ucRollback => simp [execUcRollback, hs]
  | pwrCapSet => simp [execPwrCapSet, hs]
  | pwrShedSet => simp [execPwrShedSet, hs]
  | pwrDomainSet => simp [execPwrDomainSet, hs]
  | pwrStatusGet => simp [execPwrStatusGet, hs]
  | pwrAgeLogGet => simp [execPwrAgeLogGet, hs]
  | fltSourceSet => simp [execFltSourceSet, hs]
  | fltStatusGet => exact (canonical_execFltStatusGet ..).mpr hs
  | fltClear => simp [execFltClear, hs]
  | fltTestChallengeGet => simp [execFltTestChallengeGet, hs]
  | fltTestUnlock => exact (canonical_execFltTestUnlock ..).mpr hs
  | fltTestLock => simp [execFltTestLock, hs]
  | testFaultInject => simp [execTestFaultInject, hs]
  | boardTableWrite => exact (canonical_heldUp s (fun _ => .rfl) (fun _ => by simp) ..).mpr hs
  | boardTableGet => simp [execBoardTableGet, hs]
  | registerWrite => simp [execRegisterWrite, hs]
  | rcRegisterRead => simp [execRcRegisterRead, hs]
  | trickCounterLatchRead => simp [execTrickCounterLatchRead, hs]
  | fixedFreqSet => simp [execFixedFreqSet, hs]
  | timeNowRead => simp [execTimeNowRead, hs]
  | tsqEntryLatch => simp [execTsqEntryLatch, hs]
  | tsqEntryPop => simp [execTsqEntryPop, hs]
  | timeSampleWrite => simp [execTimeSampleWrite, hs]
  | tpioModeWrite => simp [execTpioModeWrite, hs]
  | tpioCapLatch => simp [execTpioCapLatch, hs]
  | tpioCapPop => simp [execTpioCapPop, hs]
  | pwrEnergyRead => simp [execPwrEnergyRead, hs]
  | tableWindowWrite => simp [execTableWindowWrite, hs]
  | tblWinCtlWrite => simp [execTblWinCtlWrite, hs]
  | fltStickyClear => simp [execFltStickyClear, hs]
  | fltSevereClear => simp [execFltSevereClear, hs]
  | ciphTake => simp [execCiphTake, hs]
  | ciphRelease => simp [execCiphRelease, hs]
  | ciphLeaseExpiry => simp [execCiphLeaseExpiry, hs]
  | ciphGo => simp [execCiphGo, hs]
  | ciphDone => simp [execCiphDone, hs]
  | ciphKeyLoad => simp [execCiphKeyLoad, hs]
  | ciphKeyClear => simp [execCiphKeyClear, hs]
  | ringEnable => simp [execRingEnable, hs]
  | ringDisable => simp [execRingDisable, hs]
  | sqDoorbell => simp [execSqDoorbell, hs]
  | sqStakeWaitEnd => exact canonical_execSqStakeWaitEnd hs ..
  | ringHostIdxWrite => simp [execRingHostIdxWrite, hs]
  | cqHoldDrain => simp [execCqHoldDrain, hs]
  | rxHoldDrain => simp [execRxHoldDrain, hs]
  | dmaStart => simp [execDmaStart, hs]
  | dmaAbort => simp [execDmaAbort, asChanHost, hs]
  | dmaDoorbell => simp [execDmaDoorbell, hs]
  | dmaEnd => simp [execDmaEnd, hs]
  | dmaMove => simp [execDmaMove, hs]
  | dmaMoveCrc => simp [execDmaMoveCrc, hs]
  | dmaFill => simp [execDmaFill, hs]
  | dmaCompare => simp [execDmaCompare, hs]
  | dmaLoop => simp [execDmaLoop, hs]
  | dmaWait => simp [execDmaWait, hs]
  | dmaWaitEnd => exact (canonical_execDmaWaitEnd ..).mpr hs
  | dmaSignal => simp [execDmaSignal, hs]
  | dmaJump => simp [execDmaJump, hs]
  | dmaStallEnd => simp [execDmaStallEnd, hs]
  | i3cPrivateTransfer => simp [execI3cPrivateTransfer, hs]
  | i3cCcc => simp [execI3cCcc, hs]
  | jtagBypass => simp [execJtagBypass, hs]
  | jtagIdcode => simp [execJtagIdcode, hs]
  | jtagSamplePreload => simp [execJtagSamplePreload, hs]
  | jtagExtest => simp [execJtagExtest, hs]
  | jtagClamp => simp [execJtagClamp, hs]
  | jtagHighz => simp [execJtagHighz, hs]
  | commaReceive => exact (canonical_execCommaReceive ..).mpr hs
  | trainingCoeffRequest => exact (canonical_execTrainingCoeffRequest ..).mpr hs
  | ptpMessageTx => exact canonical_execPtpMessageTx hs ..
  | switchoverSlewEnd => simp [execSwitchoverSlewEnd, hs]
  | rungEntryComplete => exact (canonical_execRungEntryComplete ..).mpr hs
  | flashStoreEnd => simp [execFlashStoreEnd, hs]
  | fwRunningSet => simp [execFwRunningSet, hs]
  | timePllLock => exact (canonical_execTimePllLock ..).mpr hs
  | startTemperatureReached => simp [execStartTemperatureReached, hs]
  | registerReadError => simp [execRegisterReadError, hs]

/-- A step runs the command at the front of the queue, or idles. -/
theorem canonical_step {t : State} (ht : step s = .next t) : Canonical t := by
  unfold step at ht
  split at ht
  · cases ht
    exact hs
  next c r _ =>
    have front : Canonical { s with pending := r } := by simp [hs]
    have kept := canonical_exec front c
    rwa [ht] at kept

end

/-- Settles O52: a step is a row of the table of operations, and every row keeps the canonical form. -/
theorem memoriesStayCanonical : Obligations.MemoriesStayCanonical := by
  intro s t hs ht
  rw [memoriesWf_iff] at hs ⊢
  exact canonical_step hs ht

end Sys2Proof.Proofs
end
